-- ==== Sys2Proof/Word.lean ====
section
/-! DEFINITION. The word types: a 64-bit register word and a byte (00_scope.md R12). -/

-- One declaration at a time: the package is compiled as one text, and a thread for each would not fit.
set_option Elab.async false

namespace Sys2Proof

/-- A register word (R12). -/
abbrev Word := BitVec 64

/-- A byte of a frame, of an image or of host memory. -/
abbrev Byte := BitVec 8

end Sys2Proof
end

