-- ==== Sys2Proof/Config.lean ====
section
/-! DEFINITION. What one implementation or one part fixes, and the free values: opaque constants without a body,
so that no proof can lean on a value (notes/assumptions/3.md, notes/assumptions/5.md). -/

namespace Sys2Proof

/-- The fused serial number of the part, less 1. -/
opaque Config.serialFuse : Nat

/-- PKG_SERIAL: 64 bits, nonzero on every shipped part (R6). -/
def Config.serial : Nat := 1 + Config.serialFuse % (2 ^ 64 - 1)

/-- Key bytes of slots 0 to 2 as fused (R561), and whether slot 2 has been provisioned, and its length. -/
opaque Config.slotKey : Nat → Nat → Byte

opaque Config.slot2Fused : Bool

opaque Config.slot2Is256 : Bool

/-- Fused Fmax of each pipe in MHz above 1,600 (R508). -/
opaque Config.fmaxOver : Nat → Nat

/-- The fused PATCH_MIN_LEVEL (R148). -/
opaque Config.patchMinLevel : Nat

/-- Word `w` of the baseline microcode in sequencer `q`'s store (R141, R145): the spec gives none of it. -/
opaque Config.seqBaseline : Nat → Nat → Nat

/-- Cells that a queue's holding buffer takes beyond one maximum frame (R341). -/
opaque Config.holdOver : Nat

/-- The core rail voltage in mV above 650 that the fuse table of pipe `p` asks for at ratio code `r` (R507). -/
opaque Config.railTable : Nat → Nat → Nat

/-- A fresh unconstrained word for each reading of the model's counter: the device's random source and every
other value that the spec leaves open. -/
opaque Config.freeWord : Nat → Word

/-- Terms of the learned power model (R512), in mW, by learning epoch, pipe and ratio code. -/
opaque Config.leakage : Nat → Nat → Nat → Nat

opaque Config.dynamic : Nat → Nat → Nat → Nat

end Sys2Proof
end

