-- ==== Sys2Proof/Syntax.lean ====
section
/-! DEFINITION. The commands of the block: one constructor per row of the command table, and the small types
their operands use. -/

namespace Sys2Proof

/-- The ECC errors that cells show as they are read: the cell's place in its packet, and whether the error is double-bit
(08_shared_buffer.md R297). -/
abbrev CellErrors := List (Nat × Bool)

/-- A unit that a block reset acts on (15_faults.md R540). -/
inductive UnitId where
  | pipe (p : Nat)
  | channel (p : Nat)
  | laneMacro (m : Nat)
  | link (f : Nat)
  | sequencer (q : Nat)
  | host
  deriving DecidableEq, Repr

/-- What a PCIe configuration request sets or reads (12_host_interface_rings.md R444-R451, R475). -/
inductive CfgItem where
  | read (offset : Fin 1024)
  | memorySpace (on : Bool)
  | busMaster (on : Bool)
  | msixEnable (on : Bool)
  | functionMask (on : Bool)
  | relaxedOrdering (on : Bool)
  | tenBitTag (on : Bool)
  | maxPayload (code : Fin 8)
  | maxRead (code : Fin 8)
  | vfEnable (on : Bool) (num : Fin 64)
  | vfMemorySpace (on : Bool)
  | clearAer (corr uncorr : Nat)
  deriving DecidableEq, Repr

/-- What ends a reset phase finds (17_startup.md R580-R582): straps and fuses in FUSE, self-test in SELFTEST. -/
inductive PhaseInfo where
  | supply
  | fuse (ok : Bool) (smba : Fin 8) (test : Bool)
  | clock
  | selftest (pipes : Nat) (areas : Fin 16) (repairs : Nat) (ms : Nat)
  | warm
  deriving DecidableEq, Repr

/-- An error found in the cipher engine (16_cipher_engine.md R573). -/
inductive CipherFaultKind where
  | slotSingle (slot : Fin 8)
  | slotDouble (slot : Fin 8)
  | roundParity
  deriving DecidableEq, Repr


/-- The commands, one constructor per row of the table. Operands are what the environment supplies with the
event: write data, bytes read from host memory, frame bytes, measured figures, the place of the event. -/
inductive Instr where
  /-- REGISTER_WRITE (R17). A host write to a register or field that has no row of its own takes effect under its access type, including W1C clears and discarded narrow or unaligned writes. -/
  | registerWrite (f : Fin 64) (bar2 : Bool) (off width : Nat) (data : Word)
  /-- READ_CLEAR (R14). A host read of an RC field returns its value and clears it, subject to the 32-bit half rules. -/
  | readClear (f : Fin 64) (bar2 : Bool) (off width : Nat)
  /-- ROOT_PLL_LOCK_LOSS (R53). The root PLL loses lock; root_lock_lost is set and a FATAL fault is raised on source 1,696. -/
  | rootPllLockLoss
  /-- REF_CLOCK_LOSS (R51). The 156.25 MHz reference leaves its tolerance; ref_present falls and ref_lost is set. -/
  | refClockLoss
  /-- LANE_PLL_LOCK_LOSS (R53). A lane-macro PLL loses lock; a CONTAINED fault is raised and every port of the macro goes down with cause 6. -/
  | lanePllLockLoss (macroNo : Fin 128)
  /-- FRAME_RECEIVE (R46). A frame arrives at an I/O section and is checked, timestamped and placed in the receive FIFO, or dropped as overrun, short, no-image, bad Ristlink header or hop-limit discard. -/
  | frameReceive (port : Fin 1024) (bytes : List Byte) (whole err : Bool)
  /-- LAST_BYTE_HELD (R412). The I/O section comes to hold a frame's last byte; the length is written, unknown-length byte counts are added and an errored packet is marked. -/
  | lastByteHeld (port : Fin 1024) (rest : List Byte) (err : Bool)
  /-- PARSER_ENTRY (R151). A packet's first cell enters a pipe's parser, from the receive FIFO at intake depth, from an INJECT ring or from a recirculation queue. -/
  | parserEntry (pipe : Fin 32) (source : Fin 4 × CellErrors)
  /-- STAGE_EXECUTE (R109). A packet passes one stage, executing one microword or the built-in no-op with its lookup, condition, ops and next address. -/
  | stageExecute (isCopy : Bool) (id : Nat) (ecc : Fin 3) (err : List (Nat × Nat)) (slotErr : List Nat)
  /-- CS_REPAIR (R136). A control store word with an ECC error is rewritten from its correction or from another pipe, or the pipe stops. -/
  | csRepair (pipe : Fin 32) (stage : Fin 32) (word : Fin 1024) (double : Bool) (bad : List Nat)
  /-- CS_SCRUB (R137). A control store word is read by the scrubber in an unused read-port cycle. -/
  | csScrub (pipe : Fin 32) (stage : Fin 32) (word : Fin 1024) (ecc : Fin 3)
  /-- SEQ_STORE_REPAIR (R143). A sequencer store word with a double-bit error in one copy is repaired from the other copy. -/
  | seqStoreRepair (seq : Fin 3) (word : Fin 2048) (kind : Fin 3)
  /-- ADMISSION (R314). At the end of stage 19 the packet is screened, placed, replicated, policed and admitted or dropped, and its copies are enqueued. -/
  | admission (id : Nat)
  /-- CELL_WRITE (R294). A cell of an admitted packet is written to a chosen group and its state word set; the last cell trims the charge. -/
  | cellWrite (id : Nat) (writes reads : List Nat)
  /-- WRITE_STALL_END (R302). A cell-write stall reaches 10 µs and the pipe ends the packet it is writing as errored. -/
  | writeStallEnd (pipe : Fin 32)
  /-- CELL_READ (R295). A departing or flushed copy presents a cell reference; refcount is decremented or the reference refused, and a freed cell returns to a cache. -/
  | cellRead (copy : Nat) (ref : Option (Nat × Nat × Nat)) (ecc : Fin 3)
  /-- TAG_SWEEP_COMPLETE (R186). The sweep of a retired tag ends, freeing deleted entries and marking added ones as base, and the tag becomes FREE. -/
  | tagSweepComplete (tag : Fin 16)
  /-- RAKE_REFILL (R300). The Rake refills or trims a pipe cache list from or to its sub-ring, with rotating grant. -/
  | rakeRefill (group : Fin 32) (requests trims : List (Fin 32))
  /-- RAKE_REBALANCE (R302). The Rake moves half the fullest list of another pipe into a stalled pipe's list. -/
  | rakeRebalance (pipe : Fin 32)
  /-- PEAK_SAMPLE (R373). The peak_cells meter of each tenant and class is sampled. -/
  | peakSample
  /-- SCHED_DECIDE (R342). A port scheduler with an eligible root picks a queue, debits deficits and credits and takes the head copy. -/
  | schedDecide (port : Fin 1024)
  /-- TX_START (R353). The first bit of a chosen frame leaves a port once gate, guard, PFC, credit and LPI allow; headers, trailers, PTP fields and transmit meters are applied. -/
  | txStart (port : Fin 1024) (queue : Fin 16)
  /-- PFC_FRAME_SEND (R322). A pending XOFF, refresh or XON PFC frame is sent at the next gap on the port. -/
  | pfcFrameSend (port : Fin 1024)
  /-- PFC_REFRESH (R320). The refresh_us timer of a port in XOFF expires and the XOFF frame is repeated. -/
  | pfcRefresh (port : Fin 1024)
  /-- PFC_RECEIVE (R360). A received PFC frame loads or clears the pause timers of its enabled priorities. -/
  | pfcReceive (port : Fin 1024) (bytes : List Byte)
  /-- PAUSE_RECEIVE (R360). A received 802.3 PAUSE frame is discarded and counted. -/
  | pauseReceive (port : Fin 1024) (bytes : List Byte)
  /-- PAUSE_TIMER_EXPIRE (R360). A priority's pause timer runs out and its queues are released. -/
  | pauseTimerExpire (port : Fin 1024) (priority : Fin 8)
  /-- STARVATION_CHECK (R358). Head ages are compared with starvation thresholds and overdue queues are promoted. -/
  | starvationCheck
  /-- GATE_ENTRY_CHANGE (R352). A running tide-gate list reaches the boundary of its next entry and the gates change. -/
  | gateEntryChange (port : Fin 1024)
  /-- GATE_TAKEOVER_GO (R355). SCHED_GATE_CTL.go starts the takeover check of a gate list. -/
  | gateTakeoverGo
  /-- GATE_TAKEOVER (R355). A pending takeover reaches its base time and the new list starts, or every gate opens. -/
  | gateTakeover (port : Fin 1024)
  /-- SCHED_IND_WRITE (R367). A write command through SCHED_IND_CMD to a profile, node, queue, policer or gate entry. -/
  | schedIndWrite
  /-- SCHED_IND_READ (R367). A read command through SCHED_IND_CMD returns an item into the data registers. -/
  | schedIndRead
  /-- INDIRECT_CMD_COMPLETE (R629). An indirect command completes, its effect in place, and busy, refused and reason are set. -/
  | indirectCmdComplete (unit : Fin 5)
  /-- STRUCT_ENABLE (R84). STRUCT_CTL.enable starts image fetch with the step 1 checks and the request for CIPHER_LOCK. -/
  | structEnable (ok : Bool) (header : List Byte)
  /-- IMAGE_LOCK_TIMEOUT (R84). The image loader waits 100 ms without CIPHER_LOCK and the enable is refused with 0x0112. -/
  | imageLockTimeout
  /-- IMAGE_TAG_VERIFIED (R85). Image body decryption ends and the GCM tag is verified or the enable is refused and staging erased. -/
  | imageTagVerified (ok : Bool) (body tag : List Byte)
  /-- IMAGE_ACTIVATE (R87). The consistency checks and loading end and the image becomes ACTIVE at version 1, or the enable is refused. -/
  | imageActivate
  /-- STRUCT_DISABLE (R89). STRUCT_CTL.disable on an active image starts DRAINING and stops parser intake. -/
  | structDisable
  /-- STRUCT_DRAIN_END (R89). The drain ends at drain_limit_us; remaining packets are discarded, tables cleared, a final harvest made and state becomes EMPTY. -/
  | structDrainEnd
  /-- STRUCT_COMMIT_GO (R100). STRUCT_COMMIT.go requests a commit of a named group by the physical function. -/
  | structCommitGo (group : Fin 64)
  /-- COMMIT_ADVANCE (R101). A commit's covered commands and restamps are done and the current version advances. -/
  | commitAdvance (group : Fin 64)
  /-- COMMIT_SLOT_TIMEOUT (R102). A commit waits commit_wait_ms with eight versions live and is refused with 0x0115. -/
  | commitSlotTimeout (group : Fin 64)
  /-- PATCH_ENABLE (R149). PATCH_CTL.enable starts a vendor patch load with its header checks and lock request. -/
  | patchEnable (ok : Bool) (header : List Byte)
  /-- PATCH_LOCK_TIMEOUT (R149). The patch loader waits 100 ms without CIPHER_LOCK and the load is refused with 0x0185. -/
  | patchLockTimeout
  /-- PATCH_TAG_VERIFIED (R149). Patch decryption ends and the tag and records are checked. -/
  | patchTagVerified (ok : Bool) (body tag : List Byte)
  /-- PATCH_LOAD_DONE (R149). Targeted sequencers have halted, words are written, sequencers restart and state becomes LOADED. -/
  | patchLoadDone
  /-- PAT_FLIP (R167). PRS_PAT_CTL.flip inverts the active payload pattern bank in all pipes. -/
  | patFlip
  /-- PAT_WRITE (R168). A PRS_PAT_CMD write command writes a pattern or set descriptor of the inactive idle bank, or is refused. -/
  | patWrite
  /-- PAT_READ (R168). A PRS_PAT_CMD read command reads a pattern or descriptor into the data registers. -/
  | patRead
  /-- TBL_NOP (R218). The command engine accepts a NOP command, which completes DONE. -/
  | tblNop (src : Fin 1025) (ok : Bool) (buf : List Byte)
  /-- TBL_ADD (R219). The command engine accepts an ADD command and places the entry, immediate or staged. -/
  | tblAdd (src : Fin 1025) (ok : Bool) (buf : List Byte)
  /-- TBL_MODIFY (R219). The command engine accepts a MODIFY command and rewrites or stages new contents. -/
  | tblModify (src : Fin 1025) (ok : Bool) (buf : List Byte)
  /-- TBL_UPSERT (R218). The command engine accepts an UPSERT command, acting as MODIFY or ADD. -/
  | tblUpsert (src : Fin 1025) (ok : Bool) (buf : List Byte)
  /-- TBL_DELETE (R219). The command engine accepts a DELETE command and invalidates or stages the deletion. -/
  | tblDelete (src : Fin 1025) (ok : Bool) (buf : List Byte)
  /-- TBL_READ (R223). The command engine accepts a READ command returning the present entry. -/
  | tblRead (src : Fin 1025) (ok : Bool) (buf : List Byte)
  /-- TBL_READ_NEXT (R223). The command engine accepts a READ_NEXT command returning the next entry of an iteration. -/
  | tblReadNext (src : Fin 1025) (ok : Bool) (buf : List Byte)
  /-- TBL_FLUSH (R228). The command engine accepts a FLUSH command deleting learned entries that meet a selector. -/
  | tblFlush (src : Fin 1025) (ok : Bool) (buf : List Byte)
  /-- TBL_COMMIT (R100). The command engine accepts a COMMIT command from a CMD ring for the issuing function's group. -/
  | tblCommit (src : Fin 1025) (ok : Bool) (buf : List Byte)
  /-- TBL_CMD_COMPLETE (R216). A table command finishes its placement or moves and its completion is written in order. -/
  | tblCmdComplete (job : Nat) (ok : Bool)
  /-- ENTRY_MOVE_END (R207). 512 CCLK after a two-phase copy the old copy of a moved item is invalidated. -/
  | entryMoveEnd (table : Fin 256) (unit : Fin 33) (src : Nat)
  /-- REBALANCE_MOVE (R211). A background move that evens exact-match way occupancy starts at bg_move_rate. -/
  | rebalanceMove (table : Fin 256) (unit : Fin 33) (src : Nat)
  /-- TCAM_SCRUB (R209). A TCAM row is read by the scrubber and checked for parity. -/
  | tcamScrub (pipe : Fin 32) (table : Fin 256) (row : Nat) (bad : Bool)
  /-- PARITY_REPAIR (R210). A table word or row with a parity error is repaired from another pipe, or invalidated or failed. -/
  | parityRepair (pipe : Fin 32) (table : Fin 256) (whr : Fin 4) (stage : Fin 32) (pos : Nat) (others : List Nat)
  /-- LEARN_ACCEPT (R238). The engine takes a queued learn request and adds the entry under the port limit, or counts a failure. -/
  | learnAccept (pipe : Fin 32)
  /-- STATION_MOVE (R238). The engine takes a move request and rewrites the learned entry's port. -/
  | stationMove (pipe : Fin 32)
  /-- LEARN_UNBLOCK (R240). TBL_LRN_CFGt.unblock clears blocked_pipes of a table. -/
  | learnUnblock (table : Fin 256)
  /-- AGE_VISIT (R243). The aging sweep visits an entry, clearing hits, raising its age or deleting it. -/
  | ageVisit (table : Fin 256) (pipe : Fin 32) (pos : Nat) (late : Bool)
  /-- PL_ENABLE (R282). PL_CTL.enable runs the placement check and starts placement and beacons. -/
  | plEnable
  /-- PL_DISABLE (R282). PL_CTL.disable stops placement and beacons and clears flowlet tables. -/
  | plDisable
  /-- PL_IND_WRITE (R252). A PL_IND_CMD write command writes a group record or member entry. -/
  | plIndWrite
  /-- PL_IND_READ (R285). A PL_IND_CMD read command reads a group, member, map or flowlet entry. -/
  | plIndRead
  /-- LEVEL_SNAPSHOT (R259). The queue-level snapshot used by placement is refreshed every 64 CCLK. -/
  | levelSnapshot
  /-- FLOWLET_SWEEP (R257). The background sweep visits a flowlet entry and invalidates it when idle or its group is invalid. -/
  | flowletSweep (pipe : Fin 32) (index : Nat)
  /-- BEACON_SEND (R265). The beacon interval expires on a fabric link and one beacon block is sent. -/
  | beaconSend (link : Fin 128)
  /-- BEACON_RECEIVE (R266). A beacon received on a fabric link updates the neighbour fields and one block of the map. -/
  | beaconReceive (port : Fin 1024) (bytes : List Byte)
  /-- NEIGHBOR_TIMEOUT (R267). A link's neighbour goes timeout intervals without a beacon and its column loses reachability. -/
  | neighborTimeout (link : Fin 128)
  /-- CREDIT_RECEIVE (R279). A CREDIT item received on a Ristlink port sets or adds the available credit per class. -/
  | creditReceive (port : Fin 1024) (bytes : List Byte)
  /-- CREDIT_RETURN_SEND (R279). A CREDIT item carrying owed returns is sent, no more than 64 CCLK apart while any are owed. -/
  | creditReturnSend (port : Fin 1024)
  /-- BUF_APPLY (R328). BUF_CTL.apply starts the check of the staged buffer limits. -/
  | bufApply
  /-- BUF_IND_WRITE (R333). A BUF_IND_CMD write command writes a quota, headroom, queue configuration or replication item. -/
  | bufIndWrite
  /-- BUF_IND_READ (R333). A BUF_IND_CMD read command reads a buffer item into the data registers. -/
  | bufIndRead
  /-- PORT_STOP (R324). Setting BUF_PORT_CFGp.stop removes the port's copies from admission and starts the drain. -/
  | portStop (port : Fin 1024)
  /-- PORT_STOP_CLEAR (R324). Clearing BUF_PORT_CFGp.stop lets admission resume for the port. -/
  | portStopClear (port : Fin 1024)
  /-- STOP_DRAIN_END (R324). drain_us passes for a stopped port and its remaining copies are flushed. -/
  | stopDrainEnd (port : Fin 1024)
  /-- HARVEST_EDGE (R382). Device time reaches the next harvest boundary; counters are snapshot and meter banks flip or fold. -/
  | harvestEdge
  /-- MTR_NOW (R381). MTR_CTL.now requests an on-demand harvest within 1 µs. -/
  | mtrNow
  /-- MTR_ENABLE (R398). MTR_CTL.enable runs the metering check and computes the next boundary. -/
  | mtrEnable
  /-- MTR_DISABLE (R398). MTR_CTL.disable stops scheduled and on-demand harvests. -/
  | mtrDisable
  /-- METER_BATCH_SEND (R387). A meter batch is authenticated under the metering slot and written into a METER entry. -/
  | meterBatchSend (fails : Bool)
  /-- HARVEST_DONE (R384). Delivery ends, frozen counts are zeroed, busy clears and HARVEST_DONE is written. -/
  | harvestDone
  /-- POST_ENABLE (R399). POST_CTL.enable runs the postcard check and starts postcards and tracers. -/
  | postEnable
  /-- POST_DISABLE (R399). POST_CTL.disable stops postcards and tracers. -/
  | postDisable
  /-- POSTCARD_FRAME_SEND (R395). The exporter sends a postcard frame when full or after flush_us, injecting it at the parser. -/
  | postcardFrameSend
  /-- FLOW_READ (R403). FLOW_IND_CMD.read reads a per-flow statistics entry. -/
  | flowRead
  /-- PORT_ENABLE (R437). PORT_CTL.enable runs the port check, sets the lane band and starts the link sequence. -/
  | portEnable (lane : Fin 1024)
  /-- PORT_DISABLE (R438). PORT_CTL.disable stops the port's admission and enters DISABLING. -/
  | portDisable (lane : Fin 1024)
  /-- DISABLE_DRAIN_END (R438). The disabling port's queues empty or drain_us passes; it goes down with cause 1 and idles. -/
  | disableDrainEnd (port : Fin 1024)
  /-- PORT_RETRAIN (R419). PORT_CTL.retrain takes an UP port down with cause 7 or restarts a port in RETRY. -/
  | portRetrain (lane : Fin 1024)
  /-- AN_COMPLETE (R409). Clause 73 auto-negotiation resolves speed, FEC and EEE, or fails. -/
  | anComplete (port : Fin 1024) (partner : Option (Fin 256 × Bool × Bool))
  /-- CTLE_SWEEP_DONE (R416). A lane's peaking sweep ends and training continues with tap requests or returns OK or FAIL. -/
  | ctleSweepDone (lane : Fin 1024) (windows : List (List (Int × Nat)))
  /-- TRAIN_FRAME_RECEIVE (R418). An Ethernet training frame carries coefficient requests, acknowledgements or status. -/
  | trainFrameReceive (lane : Fin 1024) (answer : Option Bool) (req : Option (Fin 3 × Fin 4)) (ready : Bool)
  /-- TAP_ACK_TIMEOUT (R416). A tap request waits 2 ms without acknowledgement and the tap search ends. -/
  | tapAckTimeout (lane : Fin 1024)
  /-- TRAIN_TIMEOUT (R416). train_ms passes before every lane is OK and the port enters RETRY. -/
  | trainTimeout (port : Fin 1024)
  /-- ALIGN_COMPLETE (R427). PCS lock and deskew or Ristlink sync and deskew complete and the port enters UP. -/
  | alignComplete (port : Fin 1024) (fields : List (Fin 8))
  /-- ALIGN_TIMEOUT (R414). ALIGN does not complete within 10 ms and the port enters RETRY. -/
  | alignTimeout (port : Fin 1024)
  /-- RETRY_TIMER (R414). retry_ms passes in RETRY and the port starts a new attempt when auto_restart is 1. -/
  | retryTimer (port : Fin 1024)
  /-- LOSS_OF_SIGNAL (R419). A lane of an UP port loses signal; the port goes down with cause 2 and its queues flush. -/
  | lossOfSignal (lane : Fin 1024)
  /-- PCS_LOCK_LOSS (R419). An Ethernet port loses PCS lock or alignment and goes down with cause 3. -/
  | pcsLockLoss (port : Fin 1024)
  /-- REMOTE_FAULT (R419). An Ethernet port receives remote fault and goes down with cause 4. -/
  | remoteFault (port : Fin 1024)
  /-- RL_CODEWORD_RECEIVE (R428). A Ristlink codeword is decoded; its header state, sync and correctability are acted on and its stream elements delivered. -/
  | rlCodewordReceive (lane : Fin 1024) (line : List (Fin 4))
  /-- CONT_ADAPT (R417). Every 1 ms an UP lane measures neighbouring peaking codes and may move. -/
  | contAdapt (lane : Fin 1024) (below above : List (Int × Nat))
  /-- LPI_ENTER (R410). All queues of the port stay empty for lpi_idle_us and the transmitter enters LPI. -/
  | lpiEnter (port : Fin 1024)
  /-- KEEPALIVE_TIMEOUT (R430). 10 µs pass after sending rate-down with none received and the Ristlink port goes down with cause 8. -/
  | keepaliveTimeout (port : Fin 1024)
  /-- PRBS_INJECT_ONCE (R435). LANE_PRBS.inj_once flips one bit of the generator output. -/
  | prbsInjectOnce (lane : Fin 1024)
  /-- FEC_INJECT_GO (R435). PORT_INJ.go starts FEC symbol corruption on an UP port. -/
  | fecInjectGo (lane : Fin 1024)
  /-- FEC_INJECT_STOP (R435). PORT_INJ.stop ends FEC symbol corruption. -/
  | fecInjectStop (lane : Fin 1024)
  /-- ENABLE_CHECK_DONE (R20). A running consistency check completes and reason, detail and attempts change as busy falls. -/
  | enableCheckDone (key : Nat) (fault : Option (Fin 2048 × Word))
  /-- RING_DOORBELL (R458). A write to RING_DB starts a scan of the ring from S. -/
  | ringDoorbell (r : Fin 1024)
  /-- RING_ENTRY_FETCH (R458). A read of a ring entry completes and is kept as a prefetched copy, discarded, or halts the ring on failure. -/
  | ringEntryFetch (r : Fin 1024) (ok : Bool) (words : List Word)
  /-- RING_INVAL (R463). RING_INVAL.go discards the ring's prefetched copies and stops taking. -/
  | ringInval (r : Fin 1024)
  /-- RING_ABORT (R471). RING_ABORT.go stops taking by doorbell and completes reachable entries ABORTED. -/
  | ringAbort (r : Fin 1024)
  /-- RING_ABORT_DONE (R471). The last abort completion is written and busy falls. -/
  | ringAbortDone (r : Fin 1024)
  /-- RING_ENABLE (R479). RING_CTL.enable runs the ring check and resets its positions. -/
  | ringEnable (r : Fin 1024)
  /-- RING_DISABLE (R474). RING_CTL.disable aborts the ring and then disables it, stopping mapped host queues. -/
  | ringDisable (r : Fin 1024)
  /-- INJECT_TAKE (R465). An INJECT entry is taken and its frame is read from host memory. -/
  | injectTake (r : Fin 1024) (ok : Bool) (bytes : List Byte)
  /-- PUNT_WRITE (R468). A copy due on a host queue is written into an available PUNT entry, or dropped with summary. -/
  | puntWrite (r : Fin 1024 × CellErrors)
  /-- IRQ_TIMER (R452). irq_us passes since the oldest unsignalled completion and the ring's vector is sent. -/
  | irqTimer (r : Fin 1024)
  /-- HELD_WRITE_SEND (R450). A held host memory write is sent once Bus Master Enable and the link allow. -/
  | heldWriteSend (f : Fin 64)
  /-- PCIE_ERROR (R453). A PCIe error is logged in AER and an uncorrectable one raises a CONTAINED fault. -/
  | pcieError (uncorrectable : Bool) (bit : Fin 32) (header : List (BitVec 32))
  /-- VF_RESET (R475). A VF Function Level Reset, HIF_VFn.reset or clearing of VF Enable resets the VF's rings, group and slots. -/
  | vfReset (n : Fin 64) (flr : Bool)
  /-- PF_RESET (R476). A PF Function Level Reset, Hot Reset or DL_Down resets every VF and PF ring. -/
  | pfReset (cause : Fin 3)
  /-- TIME_SET (R488). TIME_CTL.set sets device time to TIME_SET0 and TIME_SET1. -/
  | timeSet
  /-- TIME_STEP (R488). TIME_CTL.step adds TIME_STEP to device time. -/
  | timeStep
  /-- SERVO_ENABLE (R493). TIME_CTL.servo_en runs the servo check and enables the servo. -/
  | servoEnable
  /-- SERVO_DISABLE (R493). TIME_CTL.servo_dis disables the servo. -/
  | servoDisable
  /-- FAB_TIME_ENABLE (R497). TIME_CTL.fab_en runs the check and enables fabric time. -/
  | fabTimeEnable
  /-- FAB_TIME_DISABLE (R497). TIME_CTL.fab_dis disables fabric time. -/
  | fabTimeDisable
  /-- TIME_NOW_READ (R487). A read of TIME_NOW0 latches seconds, nanoseconds and fraction together. -/
  | timeNowRead
  /-- HOST_OFFSET_SAMPLE (R494). A write to TIME_OFFSET queues a host sample or is discarded. -/
  | hostOffsetSample (data : Word)
  /-- SERVO_SAMPLE (R493). A waiting offset sample is applied: step or frequency update and lock tracking. -/
  | servoSample
  /-- TIME_ITEM_SEND (R496). interval_us passes and a TIME item is sent on a Ristlink port. -/
  | timeItemSend (port : Fin 1024)
  /-- TIME_ITEM_RECEIVE (R498). A received TIME item updates the time link, chooses the source and may form a fabric sample. -/
  | timeItemReceive (port : Fin 1024) (bytes : List Byte)
  /-- TIME_LINK_TIMEOUT (R497). A time link goes timeout intervals without an item and the source is chosen again. -/
  | timeLinkTimeout (port : Fin 1024)
  /-- PO_ARM (R499). TIME_PO_CTLk.arm runs the check and arms a pulse output. -/
  | poArm (k : Fin 4) (data : Word)
  /-- PO_DISARM (R499). TIME_PO_CTLk.disarm stops a pulse output after any pulse in progress. -/
  | poDisarm (k : Fin 4)
  /-- PULSE_EDGE (R499). A pulse output reaches its start, end or next periodic edge. -/
  | pulseEdge (k : Fin 4)
  /-- CAPTURE_EDGE (R501). A selected edge on TPIk captures device time or sets overflow. -/
  | captureEdge (k : Fin 4) (falling : Bool)
  /-- LOAD_WINDOW (R511). Each 10 µs window closes and every pipe's load phase is assigned. -/
  | loadWindow (used total : List Nat)
  /-- CAP_FAST_CHECK (R513). A 10 µs power mean above the cap by 5 % makes pipes insert idle slots. -/
  | capFastCheck (mean10 : Nat)
  /-- CAP_EVALUATE (R512). Every 100 µs the cap controller updates its model and sets ratio targets. -/
  | capEvaluate (mean100 core : Nat)
  /-- RATIO_MOVE (R516). One pipe's divider ratio moves one step, after the rail reaches its target when rising. -/
  | ratioMove
  /-- PWR_APPLY (R528). PWR_CTL.apply runs the check and makes staged power values active. -/
  | pwrApply
  /-- BRINE_ENTER (R523). PWR_CTL.brine_enter runs the check and starts Brine entry. -/
  | brineEnter
  /-- BRINE_DRAIN_END (R523). brine_drain_us passes; remaining packets are flushed and units gate into BRINE. -/
  | brineDrainEnd
  /-- BRINE_EXIT (R525). PWR_CTL.brine_exit ends Brine, or is held during entry. -/
  | brineExit
  /-- BRINE_WAKE_TIME (R525). Device time reaches PWR_WAKE_TIME with wake_en and Brine exit starts. -/
  | brineWakeTime
  /-- BRINE_EXIT_DONE (R525). Rail, clocks, retention and ramp are restored and the state becomes RUN. -/
  | brineExitDone
  /-- THERMAL_THROTTLE (R517). The hottest sensor reaches throttle_c and the thermal reason is set. -/
  | thermalThrottle (temp : Fin 256)
  /-- THERMAL_RELEASE (R517). The hottest sensor falls to release_c and the thermal reason clears. -/
  | thermalRelease (temp : Fin 256)
  /-- THERMAL_TRIP (R518). A sensor reaches trip_c; every pipe goes to max_ratio and a FATAL fault is raised. -/
  | thermalTrip (sensor temp : Fin 256)
  /-- DROOP_FIRE (R519). A core-rail droop detector fires and all pipes insert idle slots. -/
  | droopFire
  /-- DROOP_RELEASE (R517). 1 µs passes after the last droop firing and the droop reason clears. -/
  | droopRelease
  /-- THROTTLE_EVENT (R522). A change of throttle level or reasons writes a THROTTLE event, at most one per 100 µs. -/
  | throttleEvent
  /-- CHANNEL_ERROR (R548). A channel pointer mismatch, uncorrectable word or credit overflow starts a channel reset. -/
  | channelError (c : Fin 32) (toIo : Bool) (queue kind : Fin 3) (wa wb ra rb : Fin 128) (data check : Fin 3)
  /-- CHANNEL_RESET_DONE (R551). A channel reset clears pointers, restores credits and resumes sending, unless escalated. -/
  | channelResetDone (c : Fin 32)
  /-- CHANNEL_RESTART (R552). CH_STATs.restart ends the stop of an escalated channel. -/
  | channelRestart (c : Fin 32)
  /-- FAULT_INJECT (R554). FLT_INJ.go raises an injected fault of a source and class. -/
  | faultInject (data : Word)
  /-- BLOCK_RESET_REQUEST (R541). FLT_RESET.go starts a block reset of a source's unit. -/
  | blockResetRequest (data : Word)
  /-- BLOCK_RESET_DONE (R540). A unit's block reset completes and the unit resumes. -/
  | blockResetDone (u : UnitId)
  /-- CHIP_RESET_START (R538). reset_delay_us after a chip reset reaction the warm reset starts. -/
  | chipResetStart
  /-- HIST_READ_UPDATE (R543). A host write of FLT_HIST_PTR.read sets the unread count of the history queue. -/
  | histReadUpdate (data : Word)
  /-- CIPHER_LOCK_REQ (R567). CIPHER_LOCK.req enters host software as a waiting user of the engine. -/
  | cipherLockReq
  /-- CIPHER_LOCK_RELEASE (R567). CIPHER_LOCK.release ends the host's hold and clears the engine registers. -/
  | cipherLockRelease
  /-- CIPHER_LOCK_GRANT (R567). The free lock is granted to the waiting user first in priority order. -/
  | cipherLockGrant
  /-- CIPHER_LOCK_REVOKE (R568). hold_ms passes with another user waiting and the host's lock is revoked. -/
  | cipherLockRevoke
  /-- CIPHER_START (R569). CIPHER_CMD.start begins a host session in SETUP. -/
  | cipherStart
  /-- CIPHER_PUSH_AAD (R569). CIPHER_CMD.push_aad pushes one associated-data block. -/
  | cipherPushAad
  /-- CIPHER_PUSH_TEXT (R569). CIPHER_CMD.push_text pushes one text block. -/
  | cipherPushText
  /-- CIPHER_FINISH (R569). CIPHER_CMD.finish starts the length block and tag. -/
  | cipherFinish
  /-- CIPHER_ABANDON (R569). CIPHER_CMD.abandon ends a host session. -/
  | cipherAbandon
  /-- CIPHER_SETUP_DONE (R559). Key schedule and hash subkey are ready and the session becomes READY. -/
  | cipherSetupDone
  /-- CIPHER_BLOCK_DONE (R559). The engine finishes one block and sets in_ready and out_valid. -/
  | cipherBlockDone
  /-- CIPHER_FINISH_DONE (R569). The tag is produced or checked and the session reaches DONE. -/
  | cipherFinishDone
  /-- KEY_LOAD (R562). CIPHER_KEY_CTL.load loads a key slot, plain or wrapped, optionally locking it. -/
  | keyLoad (data : Word)
  /-- KEY_CLEAR (R562). CIPHER_KEY_CTL.clear erases an unlocked host key slot. -/
  | keyClear (data : Word)
  /-- KEY_PROVISION (R564). CIPHER_KEY_CTL.provision starts programming slot 2 fuses. -/
  | keyProvision (data : Word)
  /-- KEY_PROVISION_DONE (R564). Slot 2 fuses are programmed and checked, making the slot valid or failed. -/
  | keyProvisionDone
  /-- POWER_ON (R580). VDD_AUX enters its range and a cold reset begins. -/
  | powerOn
  /-- RAIL_FAULT (R580). A rail leaves its range for more than 1 µs and a cold reset begins again. -/
  | railFault
  /-- RESET_PHASE_DONE (R580). A reset phase (SUPPLY, FUSE, CLOCK, SELFTEST) completes and the next begins or READY is reached. -/
  | resetPhaseDone (info : PhaseInfo)
  /-- PERST_ASSERT (R585). PERST_N is asserted and a warm reset begins. -/
  | perstAssert
  /-- PERST_RELEASE (R584). PERST_N is released and PCIe link training may begin. -/
  | perstRelease
  /-- PKG_WARM_RESET (R585). PKG_RST_CTL.warm with code 0xA5 starts a warm reset. -/
  | pkgWarmReset (data : Word)
  /-- PCIE_LINK_TRAIN (R584). After READY and PERST_N release the device begins PCIe link training. -/
  | pcieLinkTrain (speed : Fin 6) (lanes : Fin 64)
  /-- SMB_READ_PKG_ID (R603). SMBus command 0x00 returns PKG_ID. -/
  | smbReadPkgId
  /-- SMB_READ_PKG_CAPS (R603). SMBus command 0x01 returns PKG_CAPS. -/
  | smbReadPkgCaps
  /-- SMB_READ_PKG_SERIAL (R603). SMBus command 0x02 returns PKG_SERIAL. -/
  | smbReadPkgSerial
  /-- SMB_READ_BOOT_STATUS (R603). SMBus command 0x03 returns PKG_BOOT_STATUS. -/
  | smbReadBootStatus
  /-- SMB_READ_FLT_STATUS (R603). SMBus command 0x04 returns FLT_STATUS. -/
  | smbReadFltStatus
  /-- SMB_READ_PWR_STATUS (R603). SMBus command 0x05 returns PWR_STATUS. -/
  | smbReadPwrStatus
  /-- SMB_READ_PWR_EXT_LIMIT (R603). SMBus command 0x06 returns PWR_EXT_LIMIT. -/
  | smbReadPwrExtLimit
  /-- SMB_READ_FLT_HIST_PTR (R603). SMBus command 0x07 returns FLT_HIST_PTR. -/
  | smbReadFltHistPtr
  /-- SMB_READ_CLK_STATUS (R603). SMBus command 0x08 returns CLK_STATUS. -/
  | smbReadClkStatus
  /-- SMB_READ_AVS_STATUS (R603). SMBus command 0x09 returns PKG_AVS_STATUS. -/
  | smbReadAvsStatus
  /-- SMB_READ_PIN_STATUS (R603). SMBus command 0x0A returns PKG_PIN_STATUS. -/
  | smbReadPinStatus
  /-- SMB_READ_SMB_STAT (R603). SMBus command 0x0B returns PKG_SMB_STAT. -/
  | smbReadSmbStat
  /-- SMB_READ_SELFTEST (R603). SMBus command 0x0C returns PKG_SELFTEST. -/
  | smbReadSelftest
  /-- SMB_READ_STRAPS (R603). SMBus command 0x0D returns PKG_STRAPS. -/
  | smbReadStraps
  /-- SMB_BMC_CAP (R604). SMBus Write Word 0x20 sets bmc_cap_w or is not acknowledged. -/
  | smbBmcCap (watts : Fin 65536) (pecOk : Bool)
  /-- SMB_BRINE_WAKE (R604). SMBus Write Byte 0x21 with 0xB1 acts as brine_exit. -/
  | smbBrineWake (data : Byte) (pecOk : Bool)
  /-- SMB_RESERVED_CMD (R603). A reserved or not-yet-available SMBus command byte is not acknowledged. -/
  | smbReservedCmd (code : Fin 256)
  /-- SMB_TIMEOUT (R602). SMB_CLK is held low past the clock-low timeout and the transaction is abandoned. -/
  | smbTimeout
  /-- AVS_CONFIRM (R601). An AVSBus voltage read returns and confirms or fails the last voltage write. -/
  | avsConfirm (mv : Nat)
  /-- AVS_RETRY_TIMER (R601). The 100 µs or 1 ms AVSBus retry interval expires and the write is attempted again. -/
  | avsRetryTimer
  /-- TAP_RESET (R607). TRST_N is asserted and the test access port resets. -/
  | tapReset
  /-- BYPASS (R606). The TAP instruction BYPASS is loaded. -/
  | bypass
  /-- IDCODE (R606). The TAP instruction IDCODE returns 0x0920_44DB. -/
  | idcode
  /-- SAMPLE_PRELOAD (R606). The TAP instruction SAMPLE/PRELOAD samples or preloads boundary cells. -/
  | samplePreload (cells : List Byte)
  /-- EXTEST (R607). The TAP instruction EXTEST drives pins from boundary cells and stops forwarding. -/
  | extest
  /-- EXTEST_PULSE (R607). The TAP instruction EXTEST_PULSE performs AC boundary scan and stops forwarding. -/
  | extestPulse
  /-- EXTEST_TRAIN (R607). The TAP instruction EXTEST_TRAIN performs AC boundary scan trains and stops forwarding. -/
  | extestTrain
  /-- CLAMP (R607). The TAP instruction CLAMP holds pins from boundary cells and stops forwarding. -/
  | clamp
  /-- HIGHZ (R607). The TAP instruction HIGHZ floats outputs and stops forwarding. -/
  | highz
  /-- REF_CLOCK_RETURN (R51). The 156.25 MHz reference comes back within tolerance and ref_present rises again. -/
  | refClockReturn
  /-- LANE_PLL_RELOCK (R439). A lane-macro PLL that lost lock locks again, its CLK_LANE_LOCK bit returns and its ports may retry. -/
  | lanePllRelock (macroNo : Fin 128)
  /-- PARTNER_LPI (R410). The link partner enters or leaves LPI and the receiver follows, changing PORT_STATUS.lpi_rx. -/
  | partnerLpi (port : Fin 1024) (enter : Bool)
  /-- PRBS_CHECKER_LOCK (R434). A lane's pattern checker gains lock after 64 error-free bits, or loses it and relocks by itself. -/
  | prbsCheckerLock (lane : Fin 1024) (locked : Bool) (errors mbits : Nat)
  /-- CONFIG_REQUEST (R444). A PCIe configuration request changes Memory Space, Bus Master, MSI-X or VF Enable state of a function. -/
  | configRequest (f : Fin 64) (item : CfgItem)
  /-- CIPHER_ENGINE_FAULT (R573). A key-slot ECC error or a round-state parity mismatch is detected in the cipher engine. -/
  | cipherEngineFault (kind : CipherFaultKind)
  /-- HARVEST_RETRY_TIMER (R573). After 3 failed attempts at a PF batch the harvester retries every 1 ms. -/
  | harvestRetryTimer
  /-- ACTIVITY_RAMP_WINDOW (R515). Each 1 µs the power unit compares core-power change with up_slope and down_slope and sets idle slots or dummy activity. -/
  | activityRampWindow (demand : Nat)
  deriving DecidableEq, Repr

end Sys2Proof
end

