-- ==== Sys2Proof/Decode.lean ====
section
/-! DEFINITION. No row of the command table has an encoding: the block takes its commands from outside as events and
register writes, so no word spells a command. -/

namespace Sys2Proof

/-- The command that the table's bits spell: no row gives bits. -/
def decodeTableWord (_nbits _w : Nat) : Option Instr := none

end Sys2Proof
end

