-- ==== Sys2Proof/Machine/RegMap.lean ====
section
/-! DEFINITION. Every register of the spec's register tables: the fields by name (offset, low bit, width) and
the decomposition of a BAR0 offset into die, unit, block and index (19_register_map.md R612-R619), with each
field's access type and reset value (R12, R17). Reserved bits belong to no field. -/

namespace Sys2Proof.Machine

/-- Access types of R17. The spec's tables use no RWS field. -/
inductive Acc where
  | rw | ro | wo | w1c | w1s | rc
  deriving DecidableEq, Repr

/-- One field's place in its register, its access type and its Reset column (R12). -/
structure FDesc where
  lo : Nat
  w : Nat
  acc : Acc
  reset : Nat
  deriving DecidableEq, Repr

/-- A named field of one register: the register's key in the register file, low bit, width. -/
structure Fld where
  off : Nat
  lo : Nat
  w : Nat
  deriving DecidableEq, Repr

/-- Registers of one block: `count` members from index `idx`, `stride` indices apart. -/
structure RegRow where
  idx : Nat
  count : Nat
  stride : Nat
  fields : List FDesc
  deriving DecidableEq, Repr

/-- Where BAR2 registers are keyed in the register file: above every 28-bit BAR0 offset (R447). Function `f`
owns the keys from `bar2Base f` on. -/
def bar2Base (f : Nat) : Nat := 0x10000000 + f * 0x20000

/-- The key of a ring slot's first register: the PF's slot r for ring r, a VF's slot by its number (R447). -/
def ringSlotKey (f slot : Nat) : Nat := bar2Base f + slot * 64

/-- Key of a lane or port register: lane `l`, register number `j` (11_serial_lanes.md R440, R617). -/
def laneKey (l j : Nat) : Nat :=
  (1 + l / 128) * 0x1000000 + (l / 32) * 0x40000 + (l / 8 % 4) * 0x1000 + (32 * (l % 8) + j) * 8

/-- Key of LM_STATUS of lane macro `m` (R617). -/
def laneMacroKey (m : Nat) : Nat :=
  (1 + m / 16) * 0x1000000 + (m / 4) * 0x40000 + (m % 4) * 0x1000 + 256 * 8

/-! PKG_ID (00_scope.md R4) -/
def PKG_ID.regOff : Nat := 0xf800000
def PKG_ID.vendor_code : Fld := ⟨PKG_ID.regOff, 48, 16⟩
def PKG_ID.part_number : Fld := ⟨PKG_ID.regOff, 32, 16⟩
def PKG_ID.stepping : Fld := ⟨PKG_ID.regOff, 24, 8⟩
def PKG_ID.compat_level : Fld := ⟨PKG_ID.regOff, 16, 8⟩
def PKG_ID.desc : List FDesc := [⟨16, 8, .ro, 1⟩, ⟨24, 8, .ro, 0xa0⟩, ⟨32, 16, .ro, 0x9204⟩, ⟨48, 16, .ro, 0x4e44⟩]

/-! PKG_CAPS (00_scope.md R5) -/
def PKG_CAPS.regOff : Nat := 0xf800008
def PKG_CAPS.lanes : Fld := ⟨PKG_CAPS.regOff, 0, 16⟩
def PKG_CAPS.pipes : Fld := ⟨PKG_CAPS.regOff, 16, 8⟩
def PKG_CAPS.tenants : Fld := ⟨PKG_CAPS.regOff, 24, 16⟩
def PKG_CAPS.chip_id_bits : Fld := ⟨PKG_CAPS.regOff, 40, 4⟩
def PKG_CAPS.max_vfs : Fld := ⟨PKG_CAPS.regOff, 44, 8⟩
def PKG_CAPS.desc : List FDesc := [⟨0, 16, .ro, 0x400⟩, ⟨16, 8, .ro, 0x20⟩, ⟨24, 16, .ro, 0x1000⟩, ⟨40, 4, .ro, 0xa⟩, ⟨44, 8, .ro, 0x3f⟩]

/-! CLK_STATUS (01_architecture.md R51) -/
def CLK_STATUS.regOff : Nat := 0xf801000
def CLK_STATUS.root_lock : Fld := ⟨CLK_STATUS.regOff, 0, 1⟩
def CLK_STATUS.cclk_run : Fld := ⟨CLK_STATUS.regOff, 1, 1⟩
def CLK_STATUS.xclk_run : Fld := ⟨CLK_STATUS.regOff, 2, 1⟩
def CLK_STATUS.tclk_run : Fld := ⟨CLK_STATUS.regOff, 3, 1⟩
def CLK_STATUS.mclk_run : Fld := ⟨CLK_STATUS.regOff, 4, 1⟩
def CLK_STATUS.pcie_lock : Fld := ⟨CLK_STATUS.regOff, 5, 1⟩
def CLK_STATUS.ref_present : Fld := ⟨CLK_STATUS.regOff, 6, 1⟩
def CLK_STATUS.root_lock_lost : Fld := ⟨CLK_STATUS.regOff, 7, 1⟩
def CLK_STATUS.ref_lost : Fld := ⟨CLK_STATUS.regOff, 8, 1⟩
def CLK_STATUS.lane_macros_locked : Fld := ⟨CLK_STATUS.regOff, 16, 8⟩
def CLK_STATUS.desc : List FDesc := [⟨0, 1, .ro, 1⟩, ⟨1, 1, .ro, 1⟩, ⟨2, 1, .ro, 1⟩, ⟨3, 1, .ro, 1⟩, ⟨4, 1, .ro, 1⟩, ⟨5, 1, .ro, 1⟩, ⟨6, 1, .ro, 1⟩, ⟨7, 1, .w1c, 0⟩, ⟨8, 1, .w1c, 0⟩, ⟨16, 8, .ro, 0⟩]

/-! CLK_LANE_LOCK (01_architecture.md R52) -/
def CLK_LANE_LOCK.regOff (j : Nat) : Nat := 0xf801008 + 0x8 * j
def CLK_LANE_LOCK.locked (j : Nat) : Fld := ⟨CLK_LANE_LOCK.regOff j, 0, 64⟩
def CLK_LANE_LOCK.desc : List FDesc := [⟨0, 64, .ro, 0⟩]

/-! STRUCT_CTL (02_structure_image.md R79) -/
def STRUCT_CTL.regOff : Nat := 0x800000
def STRUCT_CTL.enable : Fld := ⟨STRUCT_CTL.regOff, 0, 1⟩
def STRUCT_CTL.disable : Fld := ⟨STRUCT_CTL.regOff, 1, 1⟩
def STRUCT_CTL.desc : List FDesc := [⟨0, 1, .w1s, 0⟩, ⟨1, 1, .w1s, 0⟩]

/-! STRUCT_IMG_ADDR (02_structure_image.md R80) -/
def STRUCT_IMG_ADDR.regOff : Nat := 0x800008
def STRUCT_IMG_ADDR.addr : Fld := ⟨STRUCT_IMG_ADDR.regOff, 12, 52⟩
def STRUCT_IMG_ADDR.desc : List FDesc := [⟨12, 52, .rw, 0⟩]

/-! STRUCT_IMG_LEN (02_structure_image.md R80) -/
def STRUCT_IMG_LEN.regOff : Nat := 0x800010
def STRUCT_IMG_LEN.len : Fld := ⟨STRUCT_IMG_LEN.regOff, 0, 25⟩
def STRUCT_IMG_LEN.desc : List FDesc := [⟨0, 25, .rw, 0⟩]

/-! STRUCT_STATUS (02_structure_image.md R81) -/
def STRUCT_STATUS.regOff : Nat := 0x800020
def STRUCT_STATUS.state : Fld := ⟨STRUCT_STATUS.regOff, 0, 3⟩
def STRUCT_STATUS.desc : List FDesc := [⟨0, 3, .ro, 0⟩]

/-! STRUCT_IMAGE_ID (02_structure_image.md R81) -/
def STRUCT_IMAGE_ID.regOff : Nat := 0x800028
def STRUCT_IMAGE_ID.image_id : Fld := ⟨STRUCT_IMAGE_ID.regOff, 0, 64⟩
def STRUCT_IMAGE_ID.desc : List FDesc := [⟨0, 64, .ro, 0⟩]

/-! STRUCT_VER_CFG (02_structure_image.md R82) -/
def STRUCT_VER_CFG.regOff : Nat := 0x800040
def STRUCT_VER_CFG.commit_wait_ms : Fld := ⟨STRUCT_VER_CFG.regOff, 0, 16⟩
def STRUCT_VER_CFG.drain_limit_us : Fld := ⟨STRUCT_VER_CFG.regOff, 16, 16⟩
def STRUCT_VER_CFG.desc : List FDesc := [⟨0, 16, .rw, 0x64⟩, ⟨16, 16, .rw, 0x7d0⟩]

/-! STRUCT_DISCARD_CNT (02_structure_image.md R82) -/
def STRUCT_DISCARD_CNT.regOff : Nat := 0x800050
def STRUCT_DISCARD_CNT.drain_discards : Fld := ⟨STRUCT_DISCARD_CNT.regOff, 0, 32⟩
def STRUCT_DISCARD_CNT.desc : List FDesc := [⟨0, 32, .rc, 0⟩]

/-! STRUCT_VERSION (02_structure_image.md R97) -/
def STRUCT_VERSION.regOff : Nat := 0x800030
def STRUCT_VERSION.current : Fld := ⟨STRUCT_VERSION.regOff, 0, 32⟩
def STRUCT_VERSION.current_tag : Fld := ⟨STRUCT_VERSION.regOff, 32, 4⟩
def STRUCT_VERSION.oldest_tag : Fld := ⟨STRUCT_VERSION.regOff, 36, 4⟩
def STRUCT_VERSION.live_count : Fld := ⟨STRUCT_VERSION.regOff, 40, 4⟩
def STRUCT_VERSION.desc : List FDesc := [⟨0, 32, .ro, 0⟩, ⟨32, 4, .ro, 0⟩, ⟨36, 4, .ro, 0⟩, ⟨40, 4, .ro, 0⟩]

/-! STRUCT_VER_OLDEST (02_structure_image.md R97) -/
def STRUCT_VER_OLDEST.regOff : Nat := 0x800038
def STRUCT_VER_OLDEST.packets : Fld := ⟨STRUCT_VER_OLDEST.regOff, 0, 24⟩
def STRUCT_VER_OLDEST.version : Fld := ⟨STRUCT_VER_OLDEST.regOff, 32, 32⟩
def STRUCT_VER_OLDEST.desc : List FDesc := [⟨0, 24, .ro, 0⟩, ⟨32, 32, .ro, 0⟩]

/-! STRUCT_COMMIT (02_structure_image.md R103) -/
def STRUCT_COMMIT.regOff : Nat := 0x800048
def STRUCT_COMMIT.group : Fld := ⟨STRUCT_COMMIT.regOff, 0, 6⟩
def STRUCT_COMMIT.go : Fld := ⟨STRUCT_COMMIT.regOff, 8, 1⟩
def STRUCT_COMMIT.busy : Fld := ⟨STRUCT_COMMIT.regOff, 9, 1⟩
def STRUCT_COMMIT.pending : Fld := ⟨STRUCT_COMMIT.regOff, 10, 1⟩
def STRUCT_COMMIT.aborted : Fld := ⟨STRUCT_COMMIT.regOff, 11, 1⟩
def STRUCT_COMMIT.result : Fld := ⟨STRUCT_COMMIT.regOff, 16, 16⟩
def STRUCT_COMMIT.last_version : Fld := ⟨STRUCT_COMMIT.regOff, 32, 32⟩
def STRUCT_COMMIT.desc : List FDesc := [⟨0, 6, .rw, 0⟩, ⟨8, 1, .w1s, 0⟩, ⟨9, 1, .ro, 0⟩, ⟨10, 1, .ro, 0⟩, ⟨11, 1, .ro, 0⟩, ⟨16, 16, .ro, 0⟩, ⟨32, 32, .ro, 0⟩]

/-! STRUCT_GROUP_STATUS (02_structure_image.md R103) -/
def STRUCT_GROUP_STATUS.regOff (g : Nat) : Nat := 0x800200 + 0x8 * g
def STRUCT_GROUP_STATUS.staged (g : Nat) : Fld := ⟨STRUCT_GROUP_STATUS.regOff g, 0, 17⟩
def STRUCT_GROUP_STATUS.busy (g : Nat) : Fld := ⟨STRUCT_GROUP_STATUS.regOff g, 24, 1⟩
def STRUCT_GROUP_STATUS.last_version (g : Nat) : Fld := ⟨STRUCT_GROUP_STATUS.regOff g, 32, 32⟩
def STRUCT_GROUP_STATUS.desc : List FDesc := [⟨0, 17, .ro, 0⟩, ⟨24, 1, .ro, 0⟩, ⟨32, 32, .ro, 0⟩]

/-! ACT_CFG (03_action_microcode.md R139) -/
def ACT_CFG.regOff (p s : Nat) : Nat := 0x0 + 0x40000 * p + 0x1000 * s
def ACT_CFG.compat (p s : Nat) : Fld := ⟨ACT_CFG.regOff p s, 0, 1⟩
def ACT_CFG.trap_vector (p s : Nat) : Fld := ⟨ACT_CFG.regOff p s, 16, 10⟩
def ACT_CFG.trap_valid (p s : Nat) : Fld := ⟨ACT_CFG.regOff p s, 26, 1⟩
def ACT_CFG.patch_words (p s : Nat) : Fld := ⟨ACT_CFG.regOff p s, 32, 7⟩
def ACT_CFG.image_words (p s : Nat) : Fld := ⟨ACT_CFG.regOff p s, 48, 11⟩
def ACT_CFG.desc : List FDesc := [⟨0, 1, .ro, 0⟩, ⟨16, 10, .ro, 0⟩, ⟨26, 1, .ro, 0⟩, ⟨32, 7, .ro, 0⟩, ⟨48, 11, .ro, 0⟩]

/-! ACT_CS_CRC (03_action_microcode.md R139) -/
def ACT_CS_CRC.regOff (p s : Nat) : Nat := 0x8 + 0x40000 * p + 0x1000 * s
def ACT_CS_CRC.image_crc (p s : Nat) : Fld := ⟨ACT_CS_CRC.regOff p s, 0, 32⟩
def ACT_CS_CRC.patch_crc (p s : Nat) : Fld := ⟨ACT_CS_CRC.regOff p s, 32, 32⟩
def ACT_CS_CRC.desc : List FDesc := [⟨0, 32, .ro, 0⟩, ⟨32, 32, .ro, 0⟩]

/-! ACT_TRAP_CNT (03_action_microcode.md R139) -/
def ACT_TRAP_CNT.regOff (p s : Nat) : Nat := 0x10 + 0x40000 * p + 0x1000 * s
def ACT_TRAP_CNT.taken (p s : Nat) : Fld := ⟨ACT_TRAP_CNT.regOff p s, 0, 32⟩
def ACT_TRAP_CNT.discarded (p s : Nat) : Fld := ⟨ACT_TRAP_CNT.regOff p s, 32, 32⟩
def ACT_TRAP_CNT.desc : List FDesc := [⟨0, 32, .rc, 0⟩, ⟨32, 32, .rc, 0⟩]

/-! ACT_TRAP_LAST (03_action_microcode.md R139) -/
def ACT_TRAP_LAST.regOff (p s : Nat) : Nat := 0x18 + 0x40000 * p + 0x1000 * s
def ACT_TRAP_LAST.cause (p s : Nat) : Fld := ⟨ACT_TRAP_LAST.regOff p s, 0, 8⟩
def ACT_TRAP_LAST.word (p s : Nat) : Fld := ⟨ACT_TRAP_LAST.regOff p s, 8, 10⟩
def ACT_TRAP_LAST.detail (p s : Nat) : Fld := ⟨ACT_TRAP_LAST.regOff p s, 32, 32⟩
def ACT_TRAP_LAST.desc : List FDesc := [⟨0, 8, .ro, 0⟩, ⟨8, 10, .ro, 0⟩, ⟨32, 32, .ro, 0⟩]

/-! ACT_RECIRC_CNT (03_action_microcode.md R139) -/
def ACT_RECIRC_CNT.regOff (p s : Nat) : Nat := 0x20 + 0x40000 * p + 0x1000 * s
def ACT_RECIRC_CNT.explicit (p s : Nat) : Fld := ⟨ACT_RECIRC_CNT.regOff p s, 0, 32⟩
def ACT_RECIRC_CNT.automatic (p s : Nat) : Fld := ⟨ACT_RECIRC_CNT.regOff p s, 32, 32⟩
def ACT_RECIRC_CNT.desc : List FDesc := [⟨0, 32, .rc, 0⟩, ⟨32, 32, .rc, 0⟩]

/-! ACT_CS_ECC (03_action_microcode.md R139) -/
def ACT_CS_ECC.regOff (p s : Nat) : Nat := 0x28 + 0x40000 * p + 0x1000 * s
def ACT_CS_ECC.corrected (p s : Nat) : Fld := ⟨ACT_CS_ECC.regOff p s, 0, 16⟩
def ACT_CS_ECC.repaired (p s : Nat) : Fld := ⟨ACT_CS_ECC.regOff p s, 16, 16⟩
def ACT_CS_ECC.last_word (p s : Nat) : Fld := ⟨ACT_CS_ECC.regOff p s, 32, 10⟩
def ACT_CS_ECC.last_double (p s : Nat) : Fld := ⟨ACT_CS_ECC.regOff p s, 42, 1⟩
def ACT_CS_ECC.desc : List FDesc := [⟨0, 16, .rc, 0⟩, ⟨16, 16, .rc, 0⟩, ⟨32, 10, .ro, 0⟩, ⟨42, 1, .ro, 0⟩]

/-! SEQ_STATUS (03_action_microcode.md R144) -/
def SEQ_STATUS.regOff (q : Nat) : Nat := 0x804000 + 0x1000 * q
def SEQ_STATUS.state (q : Nat) : Fld := ⟨SEQ_STATUS.regOff q, 0, 2⟩
def SEQ_STATUS.pc (q : Nat) : Fld := ⟨SEQ_STATUS.regOff q, 2, 11⟩
def SEQ_STATUS.patch_words (q : Nat) : Fld := ⟨SEQ_STATUS.regOff q, 16, 12⟩
def SEQ_STATUS.patch_crc (q : Nat) : Fld := ⟨SEQ_STATUS.regOff q, 32, 32⟩
def SEQ_STATUS.desc : List FDesc := [⟨0, 2, .ro, 1⟩, ⟨2, 11, .ro, 0⟩, ⟨16, 12, .ro, 0⟩, ⟨32, 32, .ro, 0⟩]

/-! SEQ_ECC (03_action_microcode.md R144) -/
def SEQ_ECC.regOff (q : Nat) : Nat := 0x804008 + 0x1000 * q
def SEQ_ECC.corrected (q : Nat) : Fld := ⟨SEQ_ECC.regOff q, 0, 16⟩
def SEQ_ECC.repaired (q : Nat) : Fld := ⟨SEQ_ECC.regOff q, 16, 16⟩
def SEQ_ECC.last_word (q : Nat) : Fld := ⟨SEQ_ECC.regOff q, 32, 11⟩
def SEQ_ECC.last_double (q : Nat) : Fld := ⟨SEQ_ECC.regOff q, 43, 1⟩
def SEQ_ECC.desc : List FDesc := [⟨0, 16, .rc, 0⟩, ⟨16, 16, .rc, 0⟩, ⟨32, 11, .ro, 0⟩, ⟨43, 1, .ro, 0⟩]

/-! PATCH_CTL (03_action_microcode.md R148) -/
def PATCH_CTL.regOff : Nat := 0x803000
def PATCH_CTL.enable : Fld := ⟨PATCH_CTL.regOff, 0, 1⟩
def PATCH_CTL.desc : List FDesc := [⟨0, 1, .w1s, 0⟩]

/-! PATCH_ADDR (03_action_microcode.md R148) -/
def PATCH_ADDR.regOff : Nat := 0x803008
def PATCH_ADDR.addr : Fld := ⟨PATCH_ADDR.regOff, 12, 52⟩
def PATCH_ADDR.desc : List FDesc := [⟨12, 52, .rw, 0⟩]

/-! PATCH_LEN (03_action_microcode.md R148) -/
def PATCH_LEN.regOff : Nat := 0x803010
def PATCH_LEN.len : Fld := ⟨PATCH_LEN.regOff, 0, 21⟩
def PATCH_LEN.desc : List FDesc := [⟨0, 21, .rw, 0⟩]

/-! PATCH_ENABLE_STATUS (03_action_microcode.md R148) -/
def PATCH_ENABLE_STATUS.regOff : Nat := 0x803018
def PATCH_ENABLE_STATUS.reason : Fld := ⟨PATCH_ENABLE_STATUS.regOff, 0, 16⟩
def PATCH_ENABLE_STATUS.busy : Fld := ⟨PATCH_ENABLE_STATUS.regOff, 16, 1⟩
def PATCH_ENABLE_STATUS.valid : Fld := ⟨PATCH_ENABLE_STATUS.regOff, 17, 1⟩
def PATCH_ENABLE_STATUS.detail : Fld := ⟨PATCH_ENABLE_STATUS.regOff, 32, 16⟩
def PATCH_ENABLE_STATUS.attempts : Fld := ⟨PATCH_ENABLE_STATUS.regOff, 48, 16⟩
def PATCH_ENABLE_STATUS.desc : List FDesc := [⟨0, 16, .ro, 0⟩, ⟨16, 1, .ro, 0⟩, ⟨17, 1, .ro, 0⟩, ⟨32, 16, .ro, 0⟩, ⟨48, 16, .ro, 0⟩]

/-! PATCH_STATUS (03_action_microcode.md R148) -/
def PATCH_STATUS.regOff : Nat := 0x803020
def PATCH_STATUS.state : Fld := ⟨PATCH_STATUS.regOff, 0, 2⟩
def PATCH_STATUS.level : Fld := ⟨PATCH_STATUS.regOff, 32, 32⟩
def PATCH_STATUS.desc : List FDesc := [⟨0, 2, .ro, 0⟩, ⟨32, 32, .ro, 0⟩]

/-! PATCH_MIN_LEVEL (03_action_microcode.md R148) -/
def PATCH_MIN_LEVEL.regOff : Nat := 0x803028
def PATCH_MIN_LEVEL.min_level : Fld := ⟨PATCH_MIN_LEVEL.regOff, 0, 32⟩
def PATCH_MIN_LEVEL.desc : List FDesc := [⟨0, 32, .ro, 0⟩]

/-! PRS_G_CFG (04_parser_classification.md R176) -/
def PRS_G_CFG.regOff : Nat := 0x807000
def PRS_G_CFG.intake_1k : Fld := ⟨PRS_G_CFG.regOff, 0, 1⟩
def PRS_G_CFG.bclass_map : Fld := ⟨PRS_G_CFG.regOff, 8, 16⟩
def PRS_G_CFG.desc : List FDesc := [⟨0, 1, .rw, 0⟩, ⟨8, 16, .rw, 0⟩]

/-! PRS_IPV4_NODES (04_parser_classification.md R176) -/
def PRS_IPV4_NODES.regOff : Nat := 0x807008
def PRS_IPV4_NODES.node : Fld := ⟨PRS_IPV4_NODES.regOff, 0, 32⟩
def PRS_IPV4_NODES.valid : Fld := ⟨PRS_IPV4_NODES.regOff, 32, 4⟩
def PRS_IPV4_NODES.desc : List FDesc := [⟨0, 32, .rw, 0⟩, ⟨32, 4, .rw, 0⟩]

/-! PRS_ERR_ACTION (04_parser_classification.md R176) -/
def PRS_ERR_ACTION.regOff : Nat := 0x807010
def PRS_ERR_ACTION.action : Fld := ⟨PRS_ERR_ACTION.regOff, 2, 12⟩
def PRS_ERR_ACTION.host_queue : Fld := ⟨PRS_ERR_ACTION.regOff, 16, 8⟩
def PRS_ERR_ACTION.desc : List FDesc := [⟨2, 12, .rw, 0x504⟩, ⟨16, 8, .rw, 0⟩]

/-! PRS_PAT_CTL (04_parser_classification.md R176) -/
def PRS_PAT_CTL.regOff : Nat := 0x807018
def PRS_PAT_CTL.active_bank : Fld := ⟨PRS_PAT_CTL.regOff, 0, 1⟩
def PRS_PAT_CTL.flip : Fld := ⟨PRS_PAT_CTL.regOff, 1, 1⟩
def PRS_PAT_CTL.bank0_busy : Fld := ⟨PRS_PAT_CTL.regOff, 2, 1⟩
def PRS_PAT_CTL.bank1_busy : Fld := ⟨PRS_PAT_CTL.regOff, 3, 1⟩
def PRS_PAT_CTL.pay_en : Fld := ⟨PRS_PAT_CTL.regOff, 8, 1⟩
def PRS_PAT_CTL.pay_word : Fld := ⟨PRS_PAT_CTL.regOff, 9, 7⟩
def PRS_PAT_CTL.desc : List FDesc := [⟨0, 1, .ro, 0⟩, ⟨1, 1, .w1s, 0⟩, ⟨2, 1, .ro, 0⟩, ⟨3, 1, .ro, 0⟩, ⟨8, 1, .rw, 0⟩, ⟨9, 7, .rw, 0⟩]

/-! PRS_PAT_ADDR (04_parser_classification.md R176) -/
def PRS_PAT_ADDR.regOff : Nat := 0x807020
def PRS_PAT_ADDR.entry : Fld := ⟨PRS_PAT_ADDR.regOff, 0, 6⟩
def PRS_PAT_ADDR.set : Fld := ⟨PRS_PAT_ADDR.regOff, 6, 3⟩
def PRS_PAT_ADDR.bank : Fld := ⟨PRS_PAT_ADDR.regOff, 9, 1⟩
def PRS_PAT_ADDR.desc : List FDesc := [⟨0, 6, .rw, 0⟩, ⟨6, 3, .rw, 0⟩, ⟨9, 1, .rw, 0⟩]

/-! PRS_PAT_CMD (04_parser_classification.md R176) -/
def PRS_PAT_CMD.regOff : Nat := 0x807028
def PRS_PAT_CMD.write : Fld := ⟨PRS_PAT_CMD.regOff, 0, 1⟩
def PRS_PAT_CMD.read : Fld := ⟨PRS_PAT_CMD.regOff, 1, 1⟩
def PRS_PAT_CMD.busy : Fld := ⟨PRS_PAT_CMD.regOff, 2, 1⟩
def PRS_PAT_CMD.refused : Fld := ⟨PRS_PAT_CMD.regOff, 3, 1⟩
def PRS_PAT_CMD.desc : List FDesc := [⟨0, 1, .w1s, 0⟩, ⟨1, 1, .w1s, 0⟩, ⟨2, 1, .ro, 0⟩, ⟨3, 1, .ro, 0⟩]

/-! PRS_PAT_DATA (04_parser_classification.md R176) -/
def PRS_PAT_DATA.regOff (j : Nat) : Nat := 0x807030 + 0x8 * j
def PRS_PAT_DATA.data (j : Nat) : Fld := ⟨PRS_PAT_DATA.regOff j, 0, 64⟩
def PRS_PAT_DATA.desc : List FDesc := [⟨0, 64, .rw, 0⟩]

/-! PRS_CNT_PKT (04_parser_classification.md R177) -/
def PRS_CNT_PKT.regOff (p : Nat) : Nat := 0x20000 + 0x40000 * p
def PRS_CNT_PKT.packets (p : Nat) : Fld := ⟨PRS_CNT_PKT.regOff p, 0, 48⟩
def PRS_CNT_PKT.desc : List FDesc := [⟨0, 48, .rc, 0⟩]

/-! PRS_CNT_ERR (04_parser_classification.md R177) -/
def PRS_CNT_ERR.regOff (p n : Nat) : Nat := 0x20000 + 0x40000 * p + 0x8 * n
def PRS_CNT_ERR.seen (p n : Nat) : Fld := ⟨PRS_CNT_ERR.regOff p n, 0, 32⟩
def PRS_CNT_ERR.acted (p n : Nat) : Fld := ⟨PRS_CNT_ERR.regOff p n, 32, 32⟩
def PRS_CNT_ERR.desc : List FDesc := [⟨0, 32, .rc, 0⟩, ⟨32, 32, .rc, 0⟩]

/-! PRS_LAST_ERR (04_parser_classification.md R177) -/
def PRS_LAST_ERR.regOff (p : Nat) : Nat := 0x20038 + 0x40000 * p
def PRS_LAST_ERR.code (p : Nat) : Fld := ⟨PRS_LAST_ERR.regOff p, 0, 3⟩
def PRS_LAST_ERR.node (p : Nat) : Fld := ⟨PRS_LAST_ERR.regOff p, 8, 8⟩
def PRS_LAST_ERR.offset (p : Nat) : Fld := ⟨PRS_LAST_ERR.regOff p, 16, 10⟩
def PRS_LAST_ERR.port (p : Nat) : Fld := ⟨PRS_LAST_ERR.regOff p, 32, 10⟩
def PRS_LAST_ERR.desc : List FDesc := [⟨0, 3, .ro, 0⟩, ⟨8, 8, .ro, 0⟩, ⟨16, 10, .ro, 0⟩, ⟨32, 10, .ro, 0⟩]

/-! PRS_CNT_PAY (04_parser_classification.md R177) -/
def PRS_CNT_PAY.regOff (p k : Nat) : Nat := 0x20040 + 0x40000 * p + 0x8 * k
def PRS_CNT_PAY.hits (p k : Nat) : Fld := ⟨PRS_CNT_PAY.regOff p k, 0, 48⟩
def PRS_CNT_PAY.desc : List FDesc := [⟨0, 48, .rc, 0⟩]

/-! TBL_PL_CFG (05_lookup_tables.md R211) -/
def TBL_PL_CFG.regOff : Nat := 0x808000
def TBL_PL_CFG.rebalance_en : Fld := ⟨TBL_PL_CFG.regOff, 0, 1⟩
def TBL_PL_CFG.bg_move_rate : Fld := ⟨TBL_PL_CFG.regOff, 8, 8⟩
def TBL_PL_CFG.desc : List FDesc := [⟨0, 1, .rw, 1⟩, ⟨8, 8, .rw, 0x10⟩]

/-! TBL_PL_STATUS (05_lookup_tables.md R211) -/
def TBL_PL_STATUS.regOff : Nat := 0x808008
def TBL_PL_STATUS.tag_retired : Fld := ⟨TBL_PL_STATUS.regOff, 0, 16⟩
def TBL_PL_STATUS.moves_in_flight : Fld := ⟨TBL_PL_STATUS.regOff, 16, 8⟩
def TBL_PL_STATUS.desc : List FDesc := [⟨0, 16, .ro, 0⟩, ⟨16, 8, .ro, 0⟩]

/-! TBL_PL_MOVES (05_lookup_tables.md R211) -/
def TBL_PL_MOVES.regOff : Nat := 0x808010
def TBL_PL_MOVES.moves : Fld := ⟨TBL_PL_MOVES.regOff, 0, 48⟩
def TBL_PL_MOVES.desc : List FDesc := [⟨0, 48, .rc, 0⟩]

/-! TBL_PL_PARITY_LAST (05_lookup_tables.md R211) -/
def TBL_PL_PARITY_LAST.regOff : Nat := 0x808018
def TBL_PL_PARITY_LAST.pipe : Fld := ⟨TBL_PL_PARITY_LAST.regOff, 0, 5⟩
def TBL_PL_PARITY_LAST.table : Fld := ⟨TBL_PL_PARITY_LAST.regOff, 5, 8⟩
def TBL_PL_PARITY_LAST.where_ : Fld := ⟨TBL_PL_PARITY_LAST.regOff, 13, 2⟩
def TBL_PL_PARITY_LAST.repaired : Fld := ⟨TBL_PL_PARITY_LAST.regOff, 15, 1⟩
def TBL_PL_PARITY_LAST.lost : Fld := ⟨TBL_PL_PARITY_LAST.regOff, 16, 1⟩
def TBL_PL_PARITY_LAST.stage : Fld := ⟨TBL_PL_PARITY_LAST.regOff, 32, 5⟩
def TBL_PL_PARITY_LAST.position : Fld := ⟨TBL_PL_PARITY_LAST.regOff, 37, 14⟩
def TBL_PL_PARITY_LAST.desc : List FDesc := [⟨0, 5, .ro, 0⟩, ⟨5, 8, .ro, 0⟩, ⟨13, 2, .ro, 0⟩, ⟨15, 1, .ro, 0⟩, ⟨16, 1, .ro, 0⟩, ⟨32, 5, .ro, 0⟩, ⟨37, 14, .ro, 0⟩]

/-! TBL_INFO (05_lookup_tables.md R211) -/
def TBL_INFO.regOff (t : Nat) : Nat := 0x809000 + 0x8 * t
def TBL_INFO.kind (t : Nat) : Fld := ⟨TBL_INFO.regOff t, 0, 2⟩
def TBL_INFO.scope (t : Nat) : Fld := ⟨TBL_INFO.regOff t, 2, 2⟩
def TBL_INFO.width (t : Nat) : Fld := ⟨TBL_INFO.regOff t, 4, 2⟩
def TBL_INFO.first_stage (t : Nat) : Fld := ⟨TBL_INFO.regOff t, 8, 5⟩
def TBL_INFO.last_stage (t : Nat) : Fld := ⟨TBL_INFO.regOff t, 13, 5⟩
def TBL_INFO.levels (t : Nat) : Fld := ⟨TBL_INFO.regOff t, 18, 4⟩
def TBL_INFO.learning (t : Nat) : Fld := ⟨TBL_INFO.regOff t, 24, 1⟩
def TBL_INFO.aging (t : Nat) : Fld := ⟨TBL_INFO.regOff t, 25, 1⟩
def TBL_INFO.capacity (t : Nat) : Fld := ⟨TBL_INFO.regOff t, 32, 20⟩
def TBL_INFO.desc : List FDesc := [⟨0, 2, .ro, 0⟩, ⟨2, 2, .ro, 0⟩, ⟨4, 2, .ro, 0⟩, ⟨8, 5, .ro, 0⟩, ⟨13, 5, .ro, 0⟩, ⟨18, 4, .ro, 0⟩, ⟨24, 1, .ro, 0⟩, ⟨25, 1, .ro, 0⟩, ⟨32, 20, .ro, 0⟩]

/-! TBL_OCC (05_lookup_tables.md R212) -/
def TBL_OCC.regOff (p t : Nat) : Nat := 0x22000 + 0x40000 * p + 0x10 * t
def TBL_OCC.used (p t : Nat) : Fld := ⟨TBL_OCC.regOff p t, 0, 20⟩
def TBL_OCC.visible (p t : Nat) : Fld := ⟨TBL_OCC.regOff p t, 20, 20⟩
def TBL_OCC.staged (p t : Nat) : Fld := ⟨TBL_OCC.regOff p t, 40, 20⟩
def TBL_OCC.desc : List FDesc := [⟨0, 20, .ro, 0⟩, ⟨20, 20, .ro, 0⟩, ⟨40, 20, .ro, 0⟩]

/-! TBL_ERR (05_lookup_tables.md R212) -/
def TBL_ERR.regOff (p t : Nat) : Nat := 0x22008 + 0x40000 * p + 0x10 * t
def TBL_ERR.parity_miss (p t : Nat) : Fld := ⟨TBL_ERR.regOff p t, 0, 16⟩
def TBL_ERR.repaired (p t : Nat) : Fld := ⟨TBL_ERR.regOff p t, 16, 16⟩
def TBL_ERR.lost (p t : Nat) : Fld := ⟨TBL_ERR.regOff p t, 32, 16⟩
def TBL_ERR.failed (p t : Nat) : Fld := ⟨TBL_ERR.regOff p t, 48, 1⟩
def TBL_ERR.chain_max (p t : Nat) : Fld := ⟨TBL_ERR.regOff p t, 56, 4⟩
def TBL_ERR.desc : List FDesc := [⟨0, 16, .rc, 0⟩, ⟨16, 16, .rc, 0⟩, ⟨32, 16, .rc, 0⟩, ⟨48, 1, .ro, 0⟩, ⟨56, 4, .ro, 0⟩]

/-! TBL_CMD (06_table_access_learning.md R229) -/
def TBL_CMD.regOff : Nat := 0x80a000
def TBL_CMD.opcode : Fld := ⟨TBL_CMD.regOff, 0, 6⟩
def TBL_CMD.immediate : Fld := ⟨TBL_CMD.regOff, 6, 1⟩
def TBL_CMD.table_id : Fld := ⟨TBL_CMD.regOff, 8, 8⟩
def TBL_CMD.domain : Fld := ⟨TBL_CMD.regOff, 16, 16⟩
def TBL_CMD.go : Fld := ⟨TBL_CMD.regOff, 32, 1⟩
def TBL_CMD.busy : Fld := ⟨TBL_CMD.regOff, 33, 1⟩
def TBL_CMD.status : Fld := ⟨TBL_CMD.regOff, 48, 8⟩
def TBL_CMD.desc : List FDesc := [⟨0, 6, .rw, 0⟩, ⟨6, 1, .rw, 0⟩, ⟨8, 8, .rw, 0⟩, ⟨16, 16, .rw, 0⟩, ⟨32, 1, .w1s, 0⟩, ⟨33, 1, .ro, 0⟩, ⟨48, 8, .ro, 0⟩]

/-! TBL_CMD_ARG (06_table_access_learning.md R229) -/
def TBL_CMD_ARG.regOff : Nat := 0x80a008
def TBL_CMD_ARG.arg : Fld := ⟨TBL_CMD_ARG.regOff, 0, 64⟩
def TBL_CMD_ARG.desc : List FDesc := [⟨0, 64, .rw, 0⟩]

/-! TBL_CMD_RESULT (06_table_access_learning.md R229) -/
def TBL_CMD_RESULT.regOff : Nat := 0x80a010
def TBL_CMD_RESULT.result : Fld := ⟨TBL_CMD_RESULT.regOff, 0, 64⟩
def TBL_CMD_RESULT.desc : List FDesc := [⟨0, 64, .ro, 0⟩]

/-! TBL_CMD_STAT (06_table_access_learning.md R229) -/
def TBL_CMD_STAT.regOff : Nat := 0x80a018
def TBL_CMD_STAT.accepted : Fld := ⟨TBL_CMD_STAT.regOff, 0, 32⟩
def TBL_CMD_STAT.refused : Fld := ⟨TBL_CMD_STAT.regOff, 32, 16⟩
def TBL_CMD_STAT.full : Fld := ⟨TBL_CMD_STAT.regOff, 48, 16⟩
def TBL_CMD_STAT.desc : List FDesc := [⟨0, 32, .rc, 0⟩, ⟨32, 16, .rc, 0⟩, ⟨48, 16, .rc, 0⟩]

/-! TBL_CMD_CURSOR (06_table_access_learning.md R229) -/
def TBL_CMD_CURSOR.regOff : Nat := 0x80a020
def TBL_CMD_CURSOR.cursor : Fld := ⟨TBL_CMD_CURSOR.regOff, 0, 32⟩
def TBL_CMD_CURSOR.desc : List FDesc := [⟨0, 32, .rw, 0⟩]

/-! TBL_CMD_KEY (06_table_access_learning.md R229) -/
def TBL_CMD_KEY.regOff (j : Nat) : Nat := 0x80a040 + 0x8 * j
def TBL_CMD_KEY.key (j : Nat) : Fld := ⟨TBL_CMD_KEY.regOff j, 0, 64⟩
def TBL_CMD_KEY.desc : List FDesc := [⟨0, 64, .rw, 0⟩]

/-! TBL_CMD_MASK (06_table_access_learning.md R229) -/
def TBL_CMD_MASK.regOff (j : Nat) : Nat := 0x80a080 + 0x8 * j
def TBL_CMD_MASK.mask (j : Nat) : Fld := ⟨TBL_CMD_MASK.regOff j, 0, 64⟩
def TBL_CMD_MASK.desc : List FDesc := [⟨0, 64, .rw, 0⟩]

/-! TBL_CMD_DATA (06_table_access_learning.md R229) -/
def TBL_CMD_DATA.regOff (j : Nat) : Nat := 0x80a0c0 + 0x8 * j
def TBL_CMD_DATA.data (j : Nat) : Fld := ⟨TBL_CMD_DATA.regOff j, 0, 64⟩
def TBL_CMD_DATA.desc : List FDesc := [⟨0, 64, .rw, 0⟩]

/-! TBL_CMD_RDHDR (06_table_access_learning.md R229) -/
def TBL_CMD_RDHDR.regOff (j : Nat) : Nat := 0x80a100 + 0x8 * j
def TBL_CMD_RDHDR.header (j : Nat) : Fld := ⟨TBL_CMD_RDHDR.regOff j, 0, 64⟩
def TBL_CMD_RDHDR.desc : List FDesc := [⟨0, 64, .ro, 0⟩]

/-! TBL_LRN_CFG (06_table_access_learning.md R247) -/
def TBL_LRN_CFG.regOff (t : Nat) : Nat := 0x80b000 + 0x8 * t
def TBL_LRN_CFG.learn_en (t : Nat) : Fld := ⟨TBL_LRN_CFG.regOff t, 0, 1⟩
def TBL_LRN_CFG.move_en (t : Nat) : Fld := ⟨TBL_LRN_CFG.regOff t, 1, 1⟩
def TBL_LRN_CFG.notify (t : Nat) : Fld := ⟨TBL_LRN_CFG.regOff t, 2, 1⟩
def TBL_LRN_CFG.age_en (t : Nat) : Fld := ⟨TBL_LRN_CFG.regOff t, 3, 1⟩
def TBL_LRN_CFG.age_all (t : Nat) : Fld := ⟨TBL_LRN_CFG.regOff t, 4, 1⟩
def TBL_LRN_CFG.any_hit (t : Nat) : Fld := ⟨TBL_LRN_CFG.regOff t, 5, 1⟩
def TBL_LRN_CFG.unblock (t : Nat) : Fld := ⟨TBL_LRN_CFG.regOff t, 6, 1⟩
def TBL_LRN_CFG.src_key_word (t : Nat) : Fld := ⟨TBL_LRN_CFG.regOff t, 8, 7⟩
def TBL_LRN_CFG.action (t : Nat) : Fld := ⟨TBL_LRN_CFG.regOff t, 16, 16⟩
def TBL_LRN_CFG.blocked_pipes (t : Nat) : Fld := ⟨TBL_LRN_CFG.regOff t, 32, 32⟩
def TBL_LRN_CFG.desc : List FDesc := [⟨0, 1, .rw, 0⟩, ⟨1, 1, .rw, 1⟩, ⟨2, 1, .rw, 0⟩, ⟨3, 1, .rw, 0⟩, ⟨4, 1, .rw, 0⟩, ⟨5, 1, .rw, 0⟩, ⟨6, 1, .w1s, 0⟩, ⟨8, 7, .rw, 0⟩, ⟨16, 16, .rw, 0⟩, ⟨32, 32, .ro, 0⟩]

/-! TBL_AGE_CFG (06_table_access_learning.md R247) -/
def TBL_AGE_CFG.regOff (t : Nat) : Nat := 0x80b800 + 0x8 * t
def TBL_AGE_CFG.interval_ms (t : Nat) : Fld := ⟨TBL_AGE_CFG.regOff t, 0, 20⟩
def TBL_AGE_CFG.age_limit (t : Nat) : Fld := ⟨TBL_AGE_CFG.regOff t, 20, 3⟩
def TBL_AGE_CFG.event_ring (t : Nat) : Fld := ⟨TBL_AGE_CFG.regOff t, 32, 10⟩
def TBL_AGE_CFG.desc : List FDesc := [⟨0, 20, .rw, 0⟩, ⟨20, 3, .rw, 3⟩, ⟨32, 10, .rw, 0⟩]

/-! LRN_PORT (06_table_access_learning.md R247) -/
def LRN_PORT.regOff (n : Nat) : Nat := 0x80c000 + 0x8 * n
def LRN_PORT.limit (n : Nat) : Fld := ⟨LRN_PORT.regOff n, 0, 16⟩
def LRN_PORT.excess (n : Nat) : Fld := ⟨LRN_PORT.regOff n, 16, 1⟩
def LRN_PORT.over (n : Nat) : Fld := ⟨LRN_PORT.regOff n, 17, 1⟩
def LRN_PORT.learned (n : Nat) : Fld := ⟨LRN_PORT.regOff n, 32, 16⟩
def LRN_PORT.excess_cnt (n : Nat) : Fld := ⟨LRN_PORT.regOff n, 48, 16⟩
def LRN_PORT.desc : List FDesc := [⟨0, 16, .rw, 0xffff⟩, ⟨16, 1, .rw, 0⟩, ⟨17, 1, .ro, 0⟩, ⟨32, 16, .ro, 0⟩, ⟨48, 16, .rc, 0⟩]

/-! TBL_VF_PERM (06_table_access_learning.md R247) -/
def TBL_VF_PERM.regOff (n j : Nat) : Nat := 0x80dfe0 + 0x20 * n + 0x8 * j
def TBL_VF_PERM.permit (n j : Nat) : Fld := ⟨TBL_VF_PERM.regOff n j, 0, 64⟩
def TBL_VF_PERM.desc : List FDesc := [⟨0, 64, .rw, 0⟩]

/-! TBL_LRN_STAT (06_table_access_learning.md R247) -/
def TBL_LRN_STAT.regOff : Nat := 0x80e800
def TBL_LRN_STAT.queue_drops : Fld := ⟨TBL_LRN_STAT.regOff, 0, 16⟩
def TBL_LRN_STAT.fail : Fld := ⟨TBL_LRN_STAT.regOff, 16, 16⟩
def TBL_LRN_STAT.floods : Fld := ⟨TBL_LRN_STAT.regOff, 32, 16⟩
def TBL_LRN_STAT.moves : Fld := ⟨TBL_LRN_STAT.regOff, 48, 16⟩
def TBL_LRN_STAT.desc : List FDesc := [⟨0, 16, .rc, 0⟩, ⟨16, 16, .rc, 0⟩, ⟨32, 16, .rc, 0⟩, ⟨48, 16, .rc, 0⟩]

/-! PL_CTL (07_placement_fabric.md R285) -/
def PL_CTL.regOff : Nat := 0x810000
def PL_CTL.enable : Fld := ⟨PL_CTL.regOff, 0, 1⟩
def PL_CTL.disable : Fld := ⟨PL_CTL.regOff, 1, 1⟩
def PL_CTL.desc : List FDesc := [⟨0, 1, .w1s, 0⟩, ⟨1, 1, .w1s, 0⟩]

/-! PL_ENABLE_STATUS (07_placement_fabric.md R285) -/
def PL_ENABLE_STATUS.regOff : Nat := 0x810008
def PL_ENABLE_STATUS.reason : Fld := ⟨PL_ENABLE_STATUS.regOff, 0, 16⟩
def PL_ENABLE_STATUS.busy : Fld := ⟨PL_ENABLE_STATUS.regOff, 16, 1⟩
def PL_ENABLE_STATUS.valid : Fld := ⟨PL_ENABLE_STATUS.regOff, 17, 1⟩
def PL_ENABLE_STATUS.detail : Fld := ⟨PL_ENABLE_STATUS.regOff, 32, 16⟩
def PL_ENABLE_STATUS.attempts : Fld := ⟨PL_ENABLE_STATUS.regOff, 48, 16⟩
def PL_ENABLE_STATUS.desc : List FDesc := [⟨0, 16, .ro, 0⟩, ⟨16, 1, .ro, 0⟩, ⟨17, 1, .ro, 0⟩, ⟨32, 16, .ro, 0⟩, ⟨48, 16, .ro, 0⟩]

/-! PL_FAB_CFG (07_placement_fabric.md R285) -/
def PL_FAB_CFG.regOff : Nat := 0x810010
def PL_FAB_CFG.chip_id : Fld := ⟨PL_FAB_CFG.regOff, 0, 10⟩
def PL_FAB_CFG.domain_id : Fld := ⟨PL_FAB_CFG.regOff, 10, 16⟩
def PL_FAB_CFG.hop_limit : Fld := ⟨PL_FAB_CFG.regOff, 26, 4⟩
def PL_FAB_CFG.desc : List FDesc := [⟨0, 10, .rw, 0⟩, ⟨10, 16, .rw, 0⟩, ⟨26, 4, .rw, 8⟩]

/-! PL_BEACON_CFG (07_placement_fabric.md R285) -/
def PL_BEACON_CFG.regOff : Nat := 0x810018
def PL_BEACON_CFG.interval_ns : Fld := ⟨PL_BEACON_CFG.regOff, 0, 16⟩
def PL_BEACON_CFG.timeout : Fld := ⟨PL_BEACON_CFG.regOff, 16, 8⟩
def PL_BEACON_CFG.desc : List FDesc := [⟨0, 16, .rw, 0x3e8⟩, ⟨16, 8, .rw, 0x40⟩]

/-! PL_STEER_CFG (07_placement_fabric.md R285) -/
def PL_STEER_CFG.regOff : Nat := 0x810020
def PL_STEER_CFG.level_shift : Fld := ⟨PL_STEER_CFG.regOff, 0, 4⟩
def PL_STEER_CFG.pen_t1 : Fld := ⟨PL_STEER_CFG.regOff, 4, 4⟩
def PL_STEER_CFG.pen_t2 : Fld := ⟨PL_STEER_CFG.regOff, 8, 4⟩
def PL_STEER_CFG.pen_t3 : Fld := ⟨PL_STEER_CFG.regOff, 12, 4⟩
def PL_STEER_CFG.pipe_penalty : Fld := ⟨PL_STEER_CFG.regOff, 16, 4⟩
def PL_STEER_CFG.desc : List FDesc := [⟨0, 4, .rw, 6⟩, ⟨4, 4, .rw, 2⟩, ⟨8, 4, .rw, 4⟩, ⟨12, 4, .rw, 8⟩, ⟨16, 4, .rw, 2⟩]

/-! PL_HASH_CFG (07_placement_fabric.md R285) -/
def PL_HASH_CFG.regOff : Nat := 0x810028
def PL_HASH_CFG.first_word : Fld := ⟨PL_HASH_CFG.regOff, 0, 7⟩
def PL_HASH_CFG.count_m1 : Fld := ⟨PL_HASH_CFG.regOff, 7, 3⟩
def PL_HASH_CFG.seed : Fld := ⟨PL_HASH_CFG.regOff, 32, 32⟩
def PL_HASH_CFG.desc : List FDesc := [⟨0, 7, .rw, 0x28⟩, ⟨7, 3, .rw, 3⟩, ⟨32, 32, .rw, 0⟩]

/-! PL_IOAM_CFG (07_placement_fabric.md R285) -/
def PL_IOAM_CFG.regOff : Nat := 0x810030
def PL_IOAM_CFG.namespace_id : Fld := ⟨PL_IOAM_CFG.regOff, 0, 16⟩
def PL_IOAM_CFG.max_frame : Fld := ⟨PL_IOAM_CFG.regOff, 16, 14⟩
def PL_IOAM_CFG.enable : Fld := ⟨PL_IOAM_CFG.regOff, 30, 1⟩
def PL_IOAM_CFG.desc : List FDesc := [⟨0, 16, .rw, 0⟩, ⟨16, 14, .rw, 0x2400⟩, ⟨30, 1, .rw, 0⟩]

/-! PL_IND_ADDR (07_placement_fabric.md R285) -/
def PL_IND_ADDR.regOff : Nat := 0x810038
def PL_IND_ADDR.index : Fld := ⟨PL_IND_ADDR.regOff, 0, 18⟩
def PL_IND_ADDR.pipe : Fld := ⟨PL_IND_ADDR.regOff, 18, 5⟩
def PL_IND_ADDR.target : Fld := ⟨PL_IND_ADDR.regOff, 23, 3⟩
def PL_IND_ADDR.desc : List FDesc := [⟨0, 18, .rw, 0⟩, ⟨18, 5, .rw, 0⟩, ⟨23, 3, .rw, 0⟩]

/-! PL_IND_DATA (07_placement_fabric.md R285) -/
def PL_IND_DATA.regOff : Nat := 0x810040
def PL_IND_DATA.data : Fld := ⟨PL_IND_DATA.regOff, 0, 64⟩
def PL_IND_DATA.desc : List FDesc := [⟨0, 64, .rw, 0⟩]

/-! PL_IND_CMD (07_placement_fabric.md R285) -/
def PL_IND_CMD.regOff : Nat := 0x810048
def PL_IND_CMD.write : Fld := ⟨PL_IND_CMD.regOff, 0, 1⟩
def PL_IND_CMD.read : Fld := ⟨PL_IND_CMD.regOff, 1, 1⟩
def PL_IND_CMD.busy : Fld := ⟨PL_IND_CMD.regOff, 2, 1⟩
def PL_IND_CMD.refused : Fld := ⟨PL_IND_CMD.regOff, 3, 1⟩
def PL_IND_CMD.reason : Fld := ⟨PL_IND_CMD.regOff, 16, 16⟩
def PL_IND_CMD.desc : List FDesc := [⟨0, 1, .w1s, 0⟩, ⟨1, 1, .w1s, 0⟩, ⟨2, 1, .ro, 0⟩, ⟨3, 1, .ro, 0⟩, ⟨16, 16, .ro, 0⟩]

/-! PL_STAT (07_placement_fabric.md R285) -/
def PL_STAT.regOff : Nat := 0x810050
def PL_STAT.no_member : Fld := ⟨PL_STAT.regOff, 0, 16⟩
def PL_STAT.hop_drops : Fld := ⟨PL_STAT.regOff, 16, 16⟩
def PL_STAT.not_enabled : Fld := ⟨PL_STAT.regOff, 32, 16⟩
def PL_STAT.ioam_skipped : Fld := ⟨PL_STAT.regOff, 48, 16⟩
def PL_STAT.desc : List FDesc := [⟨0, 16, .rc, 0⟩, ⟨16, 16, .rc, 0⟩, ⟨32, 16, .rc, 0⟩, ⟨48, 16, .rc, 0⟩]

/-! PL_FAB_STATUS (07_placement_fabric.md R285) -/
def PL_FAB_STATUS.regOff : Nat := 0x810058
def PL_FAB_STATUS.enabled : Fld := ⟨PL_FAB_STATUS.regOff, 0, 1⟩
def PL_FAB_STATUS.own_throttle : Fld := ⟨PL_FAB_STATUS.regOff, 1, 2⟩
def PL_FAB_STATUS.own_reasons : Fld := ⟨PL_FAB_STATUS.regOff, 3, 4⟩
def PL_FAB_STATUS.links_live : Fld := ⟨PL_FAB_STATUS.regOff, 8, 8⟩
def PL_FAB_STATUS.sweeps : Fld := ⟨PL_FAB_STATUS.regOff, 32, 32⟩
def PL_FAB_STATUS.desc : List FDesc := [⟨0, 1, .ro, 0⟩, ⟨1, 2, .ro, 0⟩, ⟨3, 4, .ro, 0⟩, ⟨8, 8, .ro, 0⟩, ⟨32, 32, .ro, 0⟩]

/-! PL_IOAM_TEN (07_placement_fabric.md R285) -/
def PL_IOAM_TEN.regOff (j : Nat) : Nat := 0x810200 + 0x8 * j
def PL_IOAM_TEN.tenant (j : Nat) : Fld := ⟨PL_IOAM_TEN.regOff j, 0, 64⟩
def PL_IOAM_TEN.desc : List FDesc := [⟨0, 64, .rw, 0⟩]

/-! PL_LINK (07_placement_fabric.md R286) -/
def PL_LINK.regOff (n : Nat) : Nat := 0x811000 + 0x8 * n
def PL_LINK.port (n : Nat) : Fld := ⟨PL_LINK.regOff n, 0, 10⟩
def PL_LINK.valid (n : Nat) : Fld := ⟨PL_LINK.regOff n, 10, 1⟩
def PL_LINK.role (n : Nat) : Fld := ⟨PL_LINK.regOff n, 11, 1⟩
def PL_LINK.neighbor_chip (n : Nat) : Fld := ⟨PL_LINK.regOff n, 16, 10⟩
def PL_LINK.neighbor_throttle (n : Nat) : Fld := ⟨PL_LINK.regOff n, 26, 2⟩
def PL_LINK.neighbor_reasons (n : Nat) : Fld := ⟨PL_LINK.regOff n, 28, 4⟩
def PL_LINK.neighbor_live (n : Nat) : Fld := ⟨PL_LINK.regOff n, 32, 1⟩
def PL_LINK.dup_chip (n : Nat) : Fld := ⟨PL_LINK.regOff n, 33, 1⟩
def PL_LINK.bad_items (n : Nat) : Fld := ⟨PL_LINK.regOff n, 48, 16⟩
def PL_LINK.desc : List FDesc := [⟨0, 10, .rw, 0⟩, ⟨10, 1, .rw, 0⟩, ⟨11, 1, .rw, 0⟩, ⟨16, 10, .ro, 0⟩, ⟨26, 2, .ro, 0⟩, ⟨28, 4, .ro, 0⟩, ⟨32, 1, .ro, 0⟩, ⟨33, 1, .ro, 0⟩, ⟨48, 16, .rc, 0⟩]

/-! PL_LINK_CRED (07_placement_fabric.md R286) -/
def PL_LINK_CRED.regOff (n : Nat) : Nat := 0x812000 + 0x8 * n
def PL_LINK_CRED.cls0 (n : Nat) : Fld := ⟨PL_LINK_CRED.regOff n, 0, 16⟩
def PL_LINK_CRED.cls1 (n : Nat) : Fld := ⟨PL_LINK_CRED.regOff n, 16, 16⟩
def PL_LINK_CRED.cls2 (n : Nat) : Fld := ⟨PL_LINK_CRED.regOff n, 32, 16⟩
def PL_LINK_CRED.cls3 (n : Nat) : Fld := ⟨PL_LINK_CRED.regOff n, 48, 16⟩
def PL_LINK_CRED.desc : List FDesc := [⟨0, 16, .ro, 0⟩, ⟨16, 16, .ro, 0⟩, ⟨32, 16, .ro, 0⟩, ⟨48, 16, .ro, 0⟩]

/-! PL_PIPE_STAT0 (07_placement_fabric.md R287) -/
def PL_PIPE_STAT0.regOff (p : Nat) : Nat := 0x23000 + 0x40000 * p
def PL_PIPE_STAT0.new_flowlets (p : Nat) : Fld := ⟨PL_PIPE_STAT0.regOff p, 0, 32⟩
def PL_PIPE_STAT0.collisions (p : Nat) : Fld := ⟨PL_PIPE_STAT0.regOff p, 32, 32⟩
def PL_PIPE_STAT0.desc : List FDesc := [⟨0, 32, .rc, 0⟩, ⟨32, 32, .rc, 0⟩]

/-! PL_PIPE_STAT1 (07_placement_fabric.md R287) -/
def PL_PIPE_STAT1.regOff (p : Nat) : Nat := 0x23008 + 0x40000 * p
def PL_PIPE_STAT1.failovers (p : Nat) : Fld := ⟨PL_PIPE_STAT1.regOff p, 0, 32⟩
def PL_PIPE_STAT1.regroups (p : Nat) : Fld := ⟨PL_PIPE_STAT1.regOff p, 32, 32⟩
def PL_PIPE_STAT1.desc : List FDesc := [⟨0, 32, .rc, 0⟩, ⟨32, 32, .rc, 0⟩]

/-! PL_PIPE_STAT2 (07_placement_fabric.md R287) -/
def PL_PIPE_STAT2.regOff (p : Nat) : Nat := 0x23010 + 0x40000 * p
def PL_PIPE_STAT2.static_choices (p : Nat) : Fld := ⟨PL_PIPE_STAT2.regOff p, 0, 32⟩
def PL_PIPE_STAT2.no_member (p : Nat) : Fld := ⟨PL_PIPE_STAT2.regOff p, 32, 32⟩
def PL_PIPE_STAT2.desc : List FDesc := [⟨0, 32, .rc, 0⟩, ⟨32, 32, .rc, 0⟩]

/-! BUF_CTL (08_shared_buffer.md R331) -/
def BUF_CTL.regOff : Nat := 0x814000
def BUF_CTL.apply : Fld := ⟨BUF_CTL.regOff, 0, 1⟩
def BUF_CTL.desc : List FDesc := [⟨0, 1, .w1s, 0⟩]

/-! BUF_ENABLE_STATUS (08_shared_buffer.md R331) -/
def BUF_ENABLE_STATUS.regOff : Nat := 0x814008
def BUF_ENABLE_STATUS.reason : Fld := ⟨BUF_ENABLE_STATUS.regOff, 0, 16⟩
def BUF_ENABLE_STATUS.busy : Fld := ⟨BUF_ENABLE_STATUS.regOff, 16, 1⟩
def BUF_ENABLE_STATUS.valid : Fld := ⟨BUF_ENABLE_STATUS.regOff, 17, 1⟩
def BUF_ENABLE_STATUS.detail : Fld := ⟨BUF_ENABLE_STATUS.regOff, 32, 16⟩
def BUF_ENABLE_STATUS.attempts : Fld := ⟨BUF_ENABLE_STATUS.regOff, 48, 16⟩
def BUF_ENABLE_STATUS.desc : List FDesc := [⟨0, 16, .ro, 0⟩, ⟨16, 1, .ro, 0⟩, ⟨17, 1, .ro, 0⟩, ⟨32, 16, .ro, 0⟩, ⟨48, 16, .ro, 0⟩]

/-! BUF_G_CFG (08_shared_buffer.md R331) -/
def BUF_G_CFG.regOff : Nat := 0x814010
def BUF_G_CFG.resv_cells : Fld := ⟨BUF_G_CFG.regOff, 0, 7⟩
def BUF_G_CFG.class_pool : Fld := ⟨BUF_G_CFG.regOff, 8, 12⟩
def BUF_G_CFG.fifo_resume_kib : Fld := ⟨BUF_G_CFG.regOff, 24, 8⟩
def BUF_G_CFG.ecn_off_word : Fld := ⟨BUF_G_CFG.regOff, 32, 7⟩
def BUF_G_CFG.ecn_en : Fld := ⟨BUF_G_CFG.regOff, 39, 1⟩
def BUF_G_CFG.desc : List FDesc := [⟨0, 7, .rw, 0x25⟩, ⟨8, 12, .rw, 0x688⟩, ⟨24, 8, .rw, 0x40⟩, ⟨32, 7, .rw, 0⟩, ⟨39, 1, .rw, 0⟩]

/-! BUF_G_ACTIVE (08_shared_buffer.md R331) -/
def BUF_G_ACTIVE.regOff : Nat := 0x814018
def BUF_G_ACTIVE.resv_cells : Fld := ⟨BUF_G_ACTIVE.regOff, 0, 7⟩
def BUF_G_ACTIVE.class_pool : Fld := ⟨BUF_G_ACTIVE.regOff, 8, 12⟩
def BUF_G_ACTIVE.desc : List FDesc := [⟨0, 7, .ro, 0⟩, ⟨8, 12, .ro, 0⟩]

/-! BUF_STATUS (08_shared_buffer.md R331) -/
def BUF_STATUS.regOff : Nat := 0x814020
def BUF_STATUS.free_cells : Fld := ⟨BUF_STATUS.regOff, 0, 21⟩
def BUF_STATUS.pd_free : Fld := ⟨BUF_STATUS.regOff, 21, 21⟩
def BUF_STATUS.qe_free : Fld := ⟨BUF_STATUS.regOff, 42, 22⟩
def BUF_STATUS.desc : List FDesc := [⟨0, 21, .ro, 0x17a000⟩, ⟨21, 21, .ro, 0x100000⟩, ⟨42, 22, .ro, 0x200000⟩]

/-! BUF_FAULT_LAST (08_shared_buffer.md R331) -/
def BUF_FAULT_LAST.regOff : Nat := 0x814028
def BUF_FAULT_LAST.ptr : Fld := ⟨BUF_FAULT_LAST.regOff, 0, 21⟩
def BUF_FAULT_LAST.kind : Fld := ⟨BUF_FAULT_LAST.regOff, 21, 2⟩
def BUF_FAULT_LAST.pres_pipe : Fld := ⟨BUF_FAULT_LAST.regOff, 23, 5⟩
def BUF_FAULT_LAST.pres_epoch : Fld := ⟨BUF_FAULT_LAST.regOff, 28, 4⟩
def BUF_FAULT_LAST.owner_pipe : Fld := ⟨BUF_FAULT_LAST.regOff, 32, 5⟩
def BUF_FAULT_LAST.epoch : Fld := ⟨BUF_FAULT_LAST.regOff, 37, 4⟩
def BUF_FAULT_LAST.presenter : Fld := ⟨BUF_FAULT_LAST.regOff, 41, 5⟩
def BUF_FAULT_LAST.desc : List FDesc := [⟨0, 21, .ro, 0⟩, ⟨21, 2, .ro, 0⟩, ⟨23, 5, .ro, 0⟩, ⟨28, 4, .ro, 0⟩, ⟨32, 5, .ro, 0⟩, ⟨37, 4, .ro, 0⟩, ⟨41, 5, .ro, 0⟩]

/-! BUF_FAULT_CNT (08_shared_buffer.md R331) -/
def BUF_FAULT_CNT.regOff : Nat := 0x814030
def BUF_FAULT_CNT.count_zero : Fld := ⟨BUF_FAULT_CNT.regOff, 0, 32⟩
def BUF_FAULT_CNT.non_owner : Fld := ⟨BUF_FAULT_CNT.regOff, 32, 16⟩
def BUF_FAULT_CNT.invalid : Fld := ⟨BUF_FAULT_CNT.regOff, 48, 16⟩
def BUF_FAULT_CNT.desc : List FDesc := [⟨0, 32, .rc, 0⟩, ⟨32, 16, .rc, 0⟩, ⟨48, 16, .rc, 0⟩]

/-! BUF_RAKE_STAT (08_shared_buffer.md R331) -/
def BUF_RAKE_STAT.regOff : Nat := 0x814038
def BUF_RAKE_STAT.no_cell : Fld := ⟨BUF_RAKE_STAT.regOff, 0, 32⟩
def BUF_RAKE_STAT.rebalances : Fld := ⟨BUF_RAKE_STAT.regOff, 32, 16⟩
def BUF_RAKE_STAT.quarantined : Fld := ⟨BUF_RAKE_STAT.regOff, 48, 16⟩
def BUF_RAKE_STAT.desc : List FDesc := [⟨0, 32, .rc, 0⟩, ⟨32, 16, .rc, 0⟩, ⟨48, 16, .ro, 0⟩]

/-! BUF_POOL_CFG (08_shared_buffer.md R332) -/
def BUF_POOL_CFG.regOff (k : Nat) : Nat := 0x815000 + 0x8 * k
def BUF_POOL_CFG.size (k : Nat) : Fld := ⟨BUF_POOL_CFG.regOff k, 0, 21⟩
def BUF_POOL_CFG.code (k : Nat) : Fld := ⟨BUF_POOL_CFG.regOff k, 24, 4⟩
def BUF_POOL_CFG.desc : List FDesc := [⟨0, 21, .rw, 0⟩, ⟨24, 4, .rw, 0⟩]

/-! BUF_POOL_STAT (08_shared_buffer.md R332) -/
def BUF_POOL_STAT.regOff (k : Nat) : Nat := 0x815040 + 0x8 * k
def BUF_POOL_STAT.used (k : Nat) : Fld := ⟨BUF_POOL_STAT.regOff k, 0, 21⟩
def BUF_POOL_STAT.size_active (k : Nat) : Fld := ⟨BUF_POOL_STAT.regOff k, 21, 21⟩
def BUF_POOL_STAT.code_active (k : Nat) : Fld := ⟨BUF_POOL_STAT.regOff k, 42, 4⟩
def BUF_POOL_STAT.desc : List FDesc := [⟨0, 21, .ro, 0⟩, ⟨21, 21, .ro, 0⟩, ⟨42, 4, .ro, 0⟩]

/-! BUF_POOL_DROP (08_shared_buffer.md R332) -/
def BUF_POOL_DROP.regOff (k : Nat) : Nat := 0x815080 + 0x8 * k
def BUF_POOL_DROP.drops (k : Nat) : Fld := ⟨BUF_POOL_DROP.regOff k, 0, 32⟩
def BUF_POOL_DROP.hwm (k : Nat) : Fld := ⟨BUF_POOL_DROP.regOff k, 32, 21⟩
def BUF_POOL_DROP.desc : List FDesc := [⟨0, 32, .rc, 0⟩, ⟨32, 21, .rc, 0⟩]

/-! BUF_IND_ADDR (08_shared_buffer.md R333) -/
def BUF_IND_ADDR.regOff : Nat := 0x816000
def BUF_IND_ADDR.index : Fld := ⟨BUF_IND_ADDR.regOff, 0, 21⟩
def BUF_IND_ADDR.target : Fld := ⟨BUF_IND_ADDR.regOff, 21, 3⟩
def BUF_IND_ADDR.desc : List FDesc := [⟨0, 21, .rw, 0⟩, ⟨21, 3, .rw, 0⟩]

/-! BUF_IND_DATA (08_shared_buffer.md R333) -/
def BUF_IND_DATA.regOff (j : Nat) : Nat := 0x816008 + 0x8 * j
def BUF_IND_DATA.data (j : Nat) : Fld := ⟨BUF_IND_DATA.regOff j, 0, 64⟩
def BUF_IND_DATA.desc : List FDesc := [⟨0, 64, .rw, 0⟩]

/-! BUF_IND_CMD (08_shared_buffer.md R333) -/
def BUF_IND_CMD.regOff : Nat := 0x816018
def BUF_IND_CMD.write : Fld := ⟨BUF_IND_CMD.regOff, 0, 1⟩
def BUF_IND_CMD.read : Fld := ⟨BUF_IND_CMD.regOff, 1, 1⟩
def BUF_IND_CMD.busy : Fld := ⟨BUF_IND_CMD.regOff, 2, 1⟩
def BUF_IND_CMD.refused : Fld := ⟨BUF_IND_CMD.regOff, 3, 1⟩
def BUF_IND_CMD.reason : Fld := ⟨BUF_IND_CMD.regOff, 16, 16⟩
def BUF_IND_CMD.desc : List FDesc := [⟨0, 1, .w1s, 0⟩, ⟨1, 1, .w1s, 0⟩, ⟨2, 1, .ro, 0⟩, ⟨3, 1, .ro, 0⟩, ⟨16, 16, .ro, 0⟩]

/-! BUF_RING_FILL (08_shared_buffer.md R334) -/
def BUF_RING_FILL.regOff (g : Nat) : Nat := 0x817000 + 0x8 * g
def BUF_RING_FILL.fill (g : Nat) : Fld := ⟨BUF_RING_FILL.regOff g, 0, 16⟩
def BUF_RING_FILL.cached (g : Nat) : Fld := ⟨BUF_RING_FILL.regOff g, 16, 16⟩
def BUF_RING_FILL.cells (g : Nat) : Fld := ⟨BUF_RING_FILL.regOff g, 32, 16⟩
def BUF_RING_FILL.desc : List FDesc := [⟨0, 16, .ro, 0⟩, ⟨16, 16, .ro, 0⟩, ⟨32, 16, .ro, 0⟩]

/-! BUF_PORT_CFG (08_shared_buffer.md R335) -/
def BUF_PORT_CFG.regOff (n : Nat) : Nat := 0x818000 + 0x8 * n
def BUF_PORT_CFG.stop (n : Nat) : Fld := ⟨BUF_PORT_CFG.regOff n, 0, 1⟩
def BUF_PORT_CFG.stopped (n : Nat) : Fld := ⟨BUF_PORT_CFG.regOff n, 1, 1⟩
def BUF_PORT_CFG.prio (n : Nat) : Fld := ⟨BUF_PORT_CFG.regOff n, 16, 32⟩
def BUF_PORT_CFG.pause_quanta (n : Nat) : Fld := ⟨BUF_PORT_CFG.regOff n, 48, 16⟩
def BUF_PORT_CFG.desc : List FDesc := [⟨0, 1, .rw, 0⟩, ⟨1, 1, .ro, 0⟩, ⟨16, 32, .rw, 0⟩, ⟨48, 16, .rw, 0xffff⟩]

/-! BUF_PORT_CFG2 (08_shared_buffer.md R335) -/
def BUF_PORT_CFG2.regOff (n : Nat) : Nat := 0x81a000 + 0x8 * n
def BUF_PORT_CFG2.refresh_us (n : Nat) : Fld := ⟨BUF_PORT_CFG2.regOff n, 0, 8⟩
def BUF_PORT_CFG2.drain_us (n : Nat) : Fld := ⟨BUF_PORT_CFG2.regOff n, 8, 16⟩
def BUF_PORT_CFG2.xon_cells (n : Nat) : Fld := ⟨BUF_PORT_CFG2.regOff n, 24, 16⟩
def BUF_PORT_CFG2.xoff (n : Nat) : Fld := ⟨BUF_PORT_CFG2.regOff n, 40, 4⟩
def BUF_PORT_CFG2.flush_busy (n : Nat) : Fld := ⟨BUF_PORT_CFG2.regOff n, 44, 1⟩
def BUF_PORT_CFG2.desc : List FDesc := [⟨0, 8, .rw, 0x40⟩, ⟨8, 16, .rw, 0x3e8⟩, ⟨24, 16, .rw, 0⟩, ⟨40, 4, .ro, 0⟩, ⟨44, 1, .ro, 0⟩]

/-! BUF_PIPE_STAT0 (08_shared_buffer.md R336) -/
def BUF_PIPE_STAT0.regOff (p : Nat) : Nat := 0x24000 + 0x40000 * p
def BUF_PIPE_STAT0.admitted (p : Nat) : Fld := ⟨BUF_PIPE_STAT0.regOff p, 0, 48⟩
def BUF_PIPE_STAT0.desc : List FDesc := [⟨0, 48, .rc, 0⟩]

/-! BUF_PIPE_STAT1 (08_shared_buffer.md R336) -/
def BUF_PIPE_STAT1.regOff (p : Nat) : Nat := 0x24008 + 0x40000 * p
def BUF_PIPE_STAT1.pool_drops (p : Nat) : Fld := ⟨BUF_PIPE_STAT1.regOff p, 0, 32⟩
def BUF_PIPE_STAT1.hdrm_drops (p : Nat) : Fld := ⟨BUF_PIPE_STAT1.regOff p, 32, 32⟩
def BUF_PIPE_STAT1.desc : List FDesc := [⟨0, 32, .rc, 0⟩, ⟨32, 32, .rc, 0⟩]

/-! BUF_PIPE_STAT2 (08_shared_buffer.md R336) -/
def BUF_PIPE_STAT2.regOff (p : Nat) : Nat := 0x24010 + 0x40000 * p
def BUF_PIPE_STAT2.desc_drops (p : Nat) : Fld := ⟨BUF_PIPE_STAT2.regOff p, 0, 32⟩
def BUF_PIPE_STAT2.stop_drops (p : Nat) : Fld := ⟨BUF_PIPE_STAT2.regOff p, 32, 32⟩
def BUF_PIPE_STAT2.desc : List FDesc := [⟨0, 32, .rc, 0⟩, ⟨32, 32, .rc, 0⟩]

/-! BUF_PIPE_STAT3 (08_shared_buffer.md R336) -/
def BUF_PIPE_STAT3.regOff (p : Nat) : Nat := 0x24018 + 0x40000 * p
def BUF_PIPE_STAT3.flush_drops (p : Nat) : Fld := ⟨BUF_PIPE_STAT3.regOff p, 0, 32⟩
def BUF_PIPE_STAT3.no_cell (p : Nat) : Fld := ⟨BUF_PIPE_STAT3.regOff p, 32, 32⟩
def BUF_PIPE_STAT3.desc : List FDesc := [⟨0, 32, .rc, 0⟩, ⟨32, 32, .rc, 0⟩]

/-! BUF_PIPE_STAT4 (08_shared_buffer.md R336) -/
def BUF_PIPE_STAT4.regOff (p : Nat) : Nat := 0x24020 + 0x40000 * p
def BUF_PIPE_STAT4.cache_fill (p : Nat) : Fld := ⟨BUF_PIPE_STAT4.regOff p, 0, 12⟩
def BUF_PIPE_STAT4.resv_over (p : Nat) : Fld := ⟨BUF_PIPE_STAT4.regOff p, 16, 32⟩
def BUF_PIPE_STAT4.stall_ends (p : Nat) : Fld := ⟨BUF_PIPE_STAT4.regOff p, 48, 16⟩
def BUF_PIPE_STAT4.desc : List FDesc := [⟨0, 12, .ro, 0⟩, ⟨16, 32, .rc, 0⟩, ⟨48, 16, .rc, 0⟩]

/-! SCHED_GATE_CTL (09_scheduling_shaping.md R366) -/
def SCHED_GATE_CTL.regOff : Nat := 0x81c000
def SCHED_GATE_CTL.port : Fld := ⟨SCHED_GATE_CTL.regOff, 0, 10⟩
def SCHED_GATE_CTL.bank : Fld := ⟨SCHED_GATE_CTL.regOff, 10, 1⟩
def SCHED_GATE_CTL.len_m1 : Fld := ⟨SCHED_GATE_CTL.regOff, 11, 8⟩
def SCHED_GATE_CTL.open_all : Fld := ⟨SCHED_GATE_CTL.regOff, 19, 1⟩
def SCHED_GATE_CTL.go : Fld := ⟨SCHED_GATE_CTL.regOff, 20, 1⟩
def SCHED_GATE_CTL.desc : List FDesc := [⟨0, 10, .rw, 0⟩, ⟨10, 1, .rw, 0⟩, ⟨11, 8, .rw, 0⟩, ⟨19, 1, .rw, 0⟩, ⟨20, 1, .w1s, 0⟩]

/-! SCHED_ENABLE_STATUS (09_scheduling_shaping.md R366) -/
def SCHED_ENABLE_STATUS.regOff : Nat := 0x81c008
def SCHED_ENABLE_STATUS.reason : Fld := ⟨SCHED_ENABLE_STATUS.regOff, 0, 16⟩
def SCHED_ENABLE_STATUS.busy : Fld := ⟨SCHED_ENABLE_STATUS.regOff, 16, 1⟩
def SCHED_ENABLE_STATUS.valid : Fld := ⟨SCHED_ENABLE_STATUS.regOff, 17, 1⟩
def SCHED_ENABLE_STATUS.detail : Fld := ⟨SCHED_ENABLE_STATUS.regOff, 32, 16⟩
def SCHED_ENABLE_STATUS.attempts : Fld := ⟨SCHED_ENABLE_STATUS.regOff, 48, 16⟩
def SCHED_ENABLE_STATUS.desc : List FDesc := [⟨0, 16, .ro, 0⟩, ⟨16, 1, .ro, 0⟩, ⟨17, 1, .ro, 0⟩, ⟨32, 16, .ro, 0⟩, ⟨48, 16, .ro, 0⟩]

/-! SCHED_GATE_TIME (09_scheduling_shaping.md R366) -/
def SCHED_GATE_TIME.regOff : Nat := 0x81c010
def SCHED_GATE_TIME.base : Fld := ⟨SCHED_GATE_TIME.regOff, 0, 48⟩
def SCHED_GATE_TIME.desc : List FDesc := [⟨0, 48, .rw, 0⟩]

/-! SCHED_G_CFG (09_scheduling_shaping.md R366) -/
def SCHED_G_CFG.regOff : Nat := 0x81c018
def SCHED_G_CFG.lead_ns : Fld := ⟨SCHED_G_CFG.regOff, 0, 10⟩
def SCHED_G_CFG.pol_word : Fld := ⟨SCHED_G_CFG.regOff, 16, 7⟩
def SCHED_G_CFG.promo_en : Fld := ⟨SCHED_G_CFG.regOff, 24, 1⟩
def SCHED_G_CFG.desc : List FDesc := [⟨0, 10, .rw, 0x12c⟩, ⟨16, 7, .rw, 0x2f⟩, ⟨24, 1, .rw, 1⟩]

/-! SCHED_STAT (09_scheduling_shaping.md R366) -/
def SCHED_STAT.regOff : Nat := 0x81c020
def SCHED_STAT.takeovers : Fld := ⟨SCHED_STAT.regOff, 0, 32⟩
def SCHED_STAT.pause_discards : Fld := ⟨SCHED_STAT.regOff, 32, 32⟩
def SCHED_STAT.desc : List FDesc := [⟨0, 32, .rc, 0⟩, ⟨32, 32, .rc, 0⟩]

/-! SCHED_IND_ADDR (09_scheduling_shaping.md R367) -/
def SCHED_IND_ADDR.regOff : Nat := 0x81d000
def SCHED_IND_ADDR.index : Fld := ⟨SCHED_IND_ADDR.regOff, 0, 20⟩
def SCHED_IND_ADDR.target : Fld := ⟨SCHED_IND_ADDR.regOff, 20, 3⟩
def SCHED_IND_ADDR.pipe : Fld := ⟨SCHED_IND_ADDR.regOff, 23, 5⟩
def SCHED_IND_ADDR.desc : List FDesc := [⟨0, 20, .rw, 0⟩, ⟨20, 3, .rw, 0⟩, ⟨23, 5, .rw, 0⟩]

/-! SCHED_IND_DATA (09_scheduling_shaping.md R367) -/
def SCHED_IND_DATA.regOff (j : Nat) : Nat := 0x81d008 + 0x8 * j
def SCHED_IND_DATA.data (j : Nat) : Fld := ⟨SCHED_IND_DATA.regOff j, 0, 64⟩
def SCHED_IND_DATA.desc : List FDesc := [⟨0, 64, .rw, 0⟩]

/-! SCHED_IND_CMD (09_scheduling_shaping.md R367) -/
def SCHED_IND_CMD.regOff : Nat := 0x81d018
def SCHED_IND_CMD.write : Fld := ⟨SCHED_IND_CMD.regOff, 0, 1⟩
def SCHED_IND_CMD.read : Fld := ⟨SCHED_IND_CMD.regOff, 1, 1⟩
def SCHED_IND_CMD.busy : Fld := ⟨SCHED_IND_CMD.regOff, 2, 1⟩
def SCHED_IND_CMD.refused : Fld := ⟨SCHED_IND_CMD.regOff, 3, 1⟩
def SCHED_IND_CMD.reason : Fld := ⟨SCHED_IND_CMD.regOff, 16, 16⟩
def SCHED_IND_CMD.desc : List FDesc := [⟨0, 1, .w1s, 0⟩, ⟨1, 1, .w1s, 0⟩, ⟨2, 1, .ro, 0⟩, ⟨3, 1, .ro, 0⟩, ⟨16, 16, .ro, 0⟩]

/-! SCHED_PORT_CFG (09_scheduling_shaping.md R368) -/
def SCHED_PORT_CFG.regOff (n : Nat) : Nat := 0x81e000 + 0x8 * n
def SCHED_PORT_CFG.profile (n : Nat) : Fld := ⟨SCHED_PORT_CFG.regOff n, 0, 10⟩
def SCHED_PORT_CFG.ovh_bytes (n : Nat) : Fld := ⟨SCHED_PORT_CFG.regOff n, 16, 5⟩
def SCHED_PORT_CFG.guard_en (n : Nat) : Fld := ⟨SCHED_PORT_CFG.regOff n, 21, 1⟩
def SCHED_PORT_CFG.desc : List FDesc := [⟨0, 10, .rw, 0⟩, ⟨16, 5, .rw, 0x14⟩, ⟨21, 1, .rw, 1⟩]

/-! SCHED_PFC_MAP (09_scheduling_shaping.md R368) -/
def SCHED_PFC_MAP.regOff (n : Nat) : Nat := 0x820000 + 0x8 * n
def SCHED_PFC_MAP.map (n : Nat) : Fld := ⟨SCHED_PFC_MAP.regOff n, 0, 64⟩
def SCHED_PFC_MAP.desc : List FDesc := [⟨0, 64, .rw, 0⟩]

/-! SCHED_PORT_STAT (09_scheduling_shaping.md R368) -/
def SCHED_PORT_STAT.regOff (n : Nat) : Nat := 0x822000 + 0x8 * n
def SCHED_PORT_STAT.gates (n : Nat) : Fld := ⟨SCHED_PORT_STAT.regOff n, 0, 16⟩
def SCHED_PORT_STAT.running (n : Nat) : Fld := ⟨SCHED_PORT_STAT.regOff n, 16, 1⟩
def SCHED_PORT_STAT.bank (n : Nat) : Fld := ⟨SCHED_PORT_STAT.regOff n, 17, 1⟩
def SCHED_PORT_STAT.pending (n : Nat) : Fld := ⟨SCHED_PORT_STAT.regOff n, 18, 1⟩
def SCHED_PORT_STAT.entry (n : Nat) : Fld := ⟨SCHED_PORT_STAT.regOff n, 19, 8⟩
def SCHED_PORT_STAT.paused (n : Nat) : Fld := ⟨SCHED_PORT_STAT.regOff n, 32, 16⟩
def SCHED_PORT_STAT.promoted (n : Nat) : Fld := ⟨SCHED_PORT_STAT.regOff n, 48, 16⟩
def SCHED_PORT_STAT.desc : List FDesc := [⟨0, 16, .ro, 0xffff⟩, ⟨16, 1, .ro, 0⟩, ⟨17, 1, .ro, 0⟩, ⟨18, 1, .ro, 0⟩, ⟨19, 8, .ro, 0⟩, ⟨32, 16, .ro, 0⟩, ⟨48, 16, .ro, 0⟩]

/-! SCHED_PIPE_STAT0 (09_scheduling_shaping.md R369) -/
def SCHED_PIPE_STAT0.regOff (p : Nat) : Nat := 0x25000 + 0x40000 * p
def SCHED_PIPE_STAT0.promotions (p : Nat) : Fld := ⟨SCHED_PIPE_STAT0.regOff p, 0, 32⟩
def SCHED_PIPE_STAT0.pfc_rx (p : Nat) : Fld := ⟨SCHED_PIPE_STAT0.regOff p, 32, 32⟩
def SCHED_PIPE_STAT0.desc : List FDesc := [⟨0, 32, .rc, 0⟩, ⟨32, 32, .rc, 0⟩]

/-! SCHED_PIPE_STAT1 (09_scheduling_shaping.md R369) -/
def SCHED_PIPE_STAT1.regOff (p : Nat) : Nat := 0x25008 + 0x40000 * p
def SCHED_PIPE_STAT1.guard_holds (p : Nat) : Fld := ⟨SCHED_PIPE_STAT1.regOff p, 0, 32⟩
def SCHED_PIPE_STAT1.pol_exceed (p : Nat) : Fld := ⟨SCHED_PIPE_STAT1.regOff p, 32, 32⟩
def SCHED_PIPE_STAT1.desc : List FDesc := [⟨0, 32, .rc, 0⟩, ⟨32, 32, .rc, 0⟩]

/-! PERF_SEL (10_telemetry_metering.md R377) -/
def PERF_SEL.regOff (blk k : Nat) : Nat := blk + 0xf80 + 8 * k
def PERF_SEL.event (blk k : Nat) : Fld := ⟨PERF_SEL.regOff blk k, 0, 8⟩
def PERF_SEL.ov_event (blk k : Nat) : Fld := ⟨PERF_SEL.regOff blk k, 8, 1⟩
def PERF_SEL.harvest_clear (blk k : Nat) : Fld := ⟨PERF_SEL.regOff blk k, 9, 1⟩
def PERF_SEL.desc : List FDesc := [⟨0, 8, .rw, 0⟩, ⟨8, 1, .rw, 0⟩, ⟨9, 1, .rw, 0⟩]

/-! PERF_FILT (10_telemetry_metering.md R377) -/
def PERF_FILT.regOff (blk k : Nat) : Nat := blk + 0xfa0 + 8 * k
def PERF_FILT.tenant (blk k : Nat) : Fld := ⟨PERF_FILT.regOff blk k, 0, 12⟩
def PERF_FILT.tenant_en (blk k : Nat) : Fld := ⟨PERF_FILT.regOff blk k, 12, 1⟩
def PERF_FILT.port_en (blk k : Nat) : Fld := ⟨PERF_FILT.regOff blk k, 13, 1⟩
def PERF_FILT.func_en (blk k : Nat) : Fld := ⟨PERF_FILT.regOff blk k, 14, 1⟩
def PERF_FILT.pipe_en (blk k : Nat) : Fld := ⟨PERF_FILT.regOff blk k, 15, 1⟩
def PERF_FILT.port (blk k : Nat) : Fld := ⟨PERF_FILT.regOff blk k, 16, 10⟩
def PERF_FILT.class_mask (blk k : Nat) : Fld := ⟨PERF_FILT.regOff blk k, 26, 4⟩
def PERF_FILT.function (blk k : Nat) : Fld := ⟨PERF_FILT.regOff blk k, 30, 6⟩
def PERF_FILT.pipe (blk k : Nat) : Fld := ⟨PERF_FILT.regOff blk k, 36, 5⟩
def PERF_FILT.desc : List FDesc := [⟨0, 12, .rw, 0⟩, ⟨12, 1, .rw, 0⟩, ⟨13, 1, .rw, 0⟩, ⟨14, 1, .rw, 0⟩, ⟨15, 1, .rw, 0⟩, ⟨16, 10, .rw, 0⟩, ⟨26, 4, .rw, 0xf⟩, ⟨30, 6, .rw, 0⟩, ⟨36, 5, .rw, 0⟩]

/-! PERF_CNT (10_telemetry_metering.md R377) -/
def PERF_CNT.regOff (blk k : Nat) : Nat := blk + 0xfc0 + 8 * k
def PERF_CNT.value (blk k : Nat) : Fld := ⟨PERF_CNT.regOff blk k, 0, 48⟩
def PERF_CNT.overflow (blk k : Nat) : Fld := ⟨PERF_CNT.regOff blk k, 48, 1⟩
def PERF_CNT.desc : List FDesc := [⟨0, 48, .rw, 0⟩, ⟨48, 1, .w1c, 0⟩]

/-! PERF_SNAP (10_telemetry_metering.md R377) -/
def PERF_SNAP.regOff (blk k : Nat) : Nat := blk + 0xfe0 + 8 * k
def PERF_SNAP.value (blk k : Nat) : Fld := ⟨PERF_SNAP.regOff blk k, 0, 48⟩
def PERF_SNAP.overflow (blk k : Nat) : Fld := ⟨PERF_SNAP.regOff blk k, 48, 1⟩
def PERF_SNAP.desc : List FDesc := [⟨0, 48, .ro, 0⟩, ⟨48, 1, .ro, 0⟩]

/-! MTR_CTL (10_telemetry_metering.md R402) -/
def MTR_CTL.regOff : Nat := 0x828000
def MTR_CTL.enable : Fld := ⟨MTR_CTL.regOff, 0, 1⟩
def MTR_CTL.disable : Fld := ⟨MTR_CTL.regOff, 1, 1⟩
def MTR_CTL.now : Fld := ⟨MTR_CTL.regOff, 2, 1⟩
def MTR_CTL.desc : List FDesc := [⟨0, 1, .w1s, 0⟩, ⟨1, 1, .w1s, 0⟩, ⟨2, 1, .w1s, 0⟩]

/-! MTR_ENABLE_STATUS (10_telemetry_metering.md R402) -/
def MTR_ENABLE_STATUS.regOff : Nat := 0x828008
def MTR_ENABLE_STATUS.reason : Fld := ⟨MTR_ENABLE_STATUS.regOff, 0, 16⟩
def MTR_ENABLE_STATUS.busy : Fld := ⟨MTR_ENABLE_STATUS.regOff, 16, 1⟩
def MTR_ENABLE_STATUS.valid : Fld := ⟨MTR_ENABLE_STATUS.regOff, 17, 1⟩
def MTR_ENABLE_STATUS.detail : Fld := ⟨MTR_ENABLE_STATUS.regOff, 32, 16⟩
def MTR_ENABLE_STATUS.attempts : Fld := ⟨MTR_ENABLE_STATUS.regOff, 48, 16⟩
def MTR_ENABLE_STATUS.desc : List FDesc := [⟨0, 16, .ro, 0⟩, ⟨16, 1, .ro, 0⟩, ⟨17, 1, .ro, 0⟩, ⟨32, 16, .ro, 0⟩, ⟨48, 16, .ro, 0⟩]

/-! MTR_CFG (10_telemetry_metering.md R402) -/
def MTR_CFG.regOff : Nat := 0x828010
def MTR_CFG.interval_ms : Fld := ⟨MTR_CFG.regOff, 0, 22⟩
def MTR_CFG.emit_idle : Fld := ⟨MTR_CFG.regOff, 22, 1⟩
def MTR_CFG.key_slot : Fld := ⟨MTR_CFG.regOff, 24, 3⟩
def MTR_CFG.pf_ring : Fld := ⟨MTR_CFG.regOff, 28, 10⟩
def MTR_CFG.batch_max : Fld := ⟨MTR_CFG.regOff, 39, 11⟩
def MTR_CFG.desc : List FDesc := [⟨0, 22, .rw, 0xea60⟩, ⟨22, 1, .rw, 0⟩, ⟨24, 3, .rw, 0⟩, ⟨28, 10, .rw, 0⟩, ⟨39, 11, .rw, 0x400⟩]

/-! MTR_CFG2 (10_telemetry_metering.md R402) -/
def MTR_CFG2.regOff : Nat := 0x828018
def MTR_CFG2.phase_ms : Fld := ⟨MTR_CFG2.regOff, 0, 22⟩
def MTR_CFG2.event_ring : Fld := ⟨MTR_CFG2.regOff, 22, 10⟩
def MTR_CFG2.event_en : Fld := ⟨MTR_CFG2.regOff, 32, 1⟩
def MTR_CFG2.desc : List FDesc := [⟨0, 22, .rw, 0⟩, ⟨22, 10, .rw, 0⟩, ⟨32, 1, .rw, 0⟩]

/-! MTR_STATUS (10_telemetry_metering.md R402) -/
def MTR_STATUS.regOff : Nat := 0x828020
def MTR_STATUS.enabled : Fld := ⟨MTR_STATUS.regOff, 0, 1⟩
def MTR_STATUS.busy : Fld := ⟨MTR_STATUS.regOff, 1, 1⟩
def MTR_STATUS.stalled : Fld := ⟨MTR_STATUS.regOff, 2, 1⟩
def MTR_STATUS.seq : Fld := ⟨MTR_STATUS.regOff, 32, 32⟩
def MTR_STATUS.desc : List FDesc := [⟨0, 1, .ro, 0⟩, ⟨1, 1, .ro, 0⟩, ⟨2, 1, .ro, 0⟩, ⟨32, 32, .ro, 0⟩]

/-! MTR_LAST0 (10_telemetry_metering.md R402) -/
def MTR_LAST0.regOff : Nat := 0x828028
def MTR_LAST0.sec : Fld := ⟨MTR_LAST0.regOff, 0, 48⟩
def MTR_LAST0.frac : Fld := ⟨MTR_LAST0.regOff, 48, 16⟩
def MTR_LAST0.desc : List FDesc := [⟨0, 48, .ro, 0⟩, ⟨48, 16, .ro, 0⟩]

/-! MTR_LAST1 (10_telemetry_metering.md R402) -/
def MTR_LAST1.regOff : Nat := 0x828030
def MTR_LAST1.ns : Fld := ⟨MTR_LAST1.regOff, 0, 32⟩
def MTR_LAST1.desc : List FDesc := [⟨0, 32, .ro, 0⟩]

/-! MTR_STAT (10_telemetry_metering.md R402) -/
def MTR_STAT.regOff : Nat := 0x828038
def MTR_STAT.merged : Fld := ⟨MTR_STAT.regOff, 0, 16⟩
def MTR_STAT.refused : Fld := ⟨MTR_STAT.regOff, 16, 16⟩
def MTR_STAT.vf_lost : Fld := ⟨MTR_STAT.regOff, 32, 16⟩
def MTR_STAT.faults : Fld := ⟨MTR_STAT.regOff, 48, 16⟩
def MTR_STAT.desc : List FDesc := [⟨0, 16, .rc, 0⟩, ⟨16, 16, .rc, 0⟩, ⟨32, 16, .rc, 0⟩, ⟨48, 16, .rc, 0⟩]

/-! MTR_NONCE (10_telemetry_metering.md R402) -/
def MTR_NONCE.regOff : Nat := 0x828040
def MTR_NONCE.boot_nonce : Fld := ⟨MTR_NONCE.regOff, 0, 48⟩
def MTR_NONCE.desc : List FDesc := [⟨0, 48, .ro, 0⟩]

/-! MTR_VF (10_telemetry_metering.md R402) -/
def MTR_VF.regOff (n : Nat) : Nat := 0x828200 + 0x8 * n
def MTR_VF.ring (n : Nat) : Fld := ⟨MTR_VF.regOff n, 0, 10⟩
def MTR_VF.enable (n : Nat) : Fld := ⟨MTR_VF.regOff n, 10, 1⟩
def MTR_VF.lost (n : Nat) : Fld := ⟨MTR_VF.regOff n, 32, 16⟩
def MTR_VF.desc : List FDesc := [⟨0, 10, .rw, 0⟩, ⟨10, 1, .rw, 0⟩, ⟨32, 16, .rc, 0⟩]

/-! POST_CTL (10_telemetry_metering.md R403) -/
def POST_CTL.regOff : Nat := 0x829000
def POST_CTL.enable : Fld := ⟨POST_CTL.regOff, 0, 1⟩
def POST_CTL.disable : Fld := ⟨POST_CTL.regOff, 1, 1⟩
def POST_CTL.desc : List FDesc := [⟨0, 1, .w1s, 0⟩, ⟨1, 1, .w1s, 0⟩]

/-! POST_ENABLE_STATUS (10_telemetry_metering.md R403) -/
def POST_ENABLE_STATUS.regOff : Nat := 0x829008
def POST_ENABLE_STATUS.reason : Fld := ⟨POST_ENABLE_STATUS.regOff, 0, 16⟩
def POST_ENABLE_STATUS.busy : Fld := ⟨POST_ENABLE_STATUS.regOff, 16, 1⟩
def POST_ENABLE_STATUS.valid : Fld := ⟨POST_ENABLE_STATUS.regOff, 17, 1⟩
def POST_ENABLE_STATUS.detail : Fld := ⟨POST_ENABLE_STATUS.regOff, 32, 16⟩
def POST_ENABLE_STATUS.attempts : Fld := ⟨POST_ENABLE_STATUS.regOff, 48, 16⟩
def POST_ENABLE_STATUS.desc : List FDesc := [⟨0, 16, .ro, 0⟩, ⟨16, 1, .ro, 0⟩, ⟨17, 1, .ro, 0⟩, ⟨32, 16, .ro, 0⟩, ⟨48, 16, .ro, 0⟩]

/-! POST_CFG (10_telemetry_metering.md R403) -/
def POST_CFG.regOff : Nat := 0x829010
def POST_CFG.inj_pipe : Fld := ⟨POST_CFG.regOff, 0, 5⟩
def POST_CFG.bd : Fld := ⟨POST_CFG.regOff, 8, 14⟩
def POST_CFG.bclass : Fld := ⟨POST_CFG.regOff, 22, 2⟩
def POST_CFG.max_slots : Fld := ⟨POST_CFG.regOff, 24, 5⟩
def POST_CFG.flush_us : Fld := ⟨POST_CFG.regOff, 32, 16⟩
def POST_CFG.rate_per_us : Fld := ⟨POST_CFG.regOff, 48, 8⟩
def POST_CFG.burst : Fld := ⟨POST_CFG.regOff, 56, 8⟩
def POST_CFG.desc : List FDesc := [⟨0, 5, .rw, 0⟩, ⟨8, 14, .rw, 0⟩, ⟨22, 2, .rw, 0⟩, ⟨24, 5, .rw, 0x16⟩, ⟨32, 16, .rw, 0x64⟩, ⟨48, 8, .rw, 4⟩, ⟨56, 8, .rw, 0x40⟩]

/-! POST_TMPL_CFG (10_telemetry_metering.md R403) -/
def POST_TMPL_CFG.regOff : Nat := 0x829018
def POST_TMPL_CFG.hdr_len : Fld := ⟨POST_TMPL_CFG.regOff, 0, 8⟩
def POST_TMPL_CFG.lenA_off : Fld := ⟨POST_TMPL_CFG.regOff, 8, 8⟩
def POST_TMPL_CFG.lenA_sub : Fld := ⟨POST_TMPL_CFG.regOff, 16, 8⟩
def POST_TMPL_CFG.lenB_off : Fld := ⟨POST_TMPL_CFG.regOff, 24, 8⟩
def POST_TMPL_CFG.lenB_sub : Fld := ⟨POST_TMPL_CFG.regOff, 32, 8⟩
def POST_TMPL_CFG.csum_hdr : Fld := ⟨POST_TMPL_CFG.regOff, 40, 8⟩
def POST_TMPL_CFG.lenA_en : Fld := ⟨POST_TMPL_CFG.regOff, 48, 1⟩
def POST_TMPL_CFG.lenB_en : Fld := ⟨POST_TMPL_CFG.regOff, 49, 1⟩
def POST_TMPL_CFG.csum_en : Fld := ⟨POST_TMPL_CFG.regOff, 50, 1⟩
def POST_TMPL_CFG.desc : List FDesc := [⟨0, 8, .rw, 0xe⟩, ⟨8, 8, .rw, 0⟩, ⟨16, 8, .rw, 0⟩, ⟨24, 8, .rw, 0⟩, ⟨32, 8, .rw, 0⟩, ⟨40, 8, .rw, 0⟩, ⟨48, 1, .rw, 0⟩, ⟨49, 1, .rw, 0⟩, ⟨50, 1, .rw, 0⟩]

/-! TRC_CFG (10_telemetry_metering.md R403) -/
def TRC_CFG.regOff : Nat := 0x829020
def TRC_CFG.enable : Fld := ⟨TRC_CFG.regOff, 0, 1⟩
def TRC_CFG.follow : Fld := ⟨TRC_CFG.regOff, 1, 1⟩
def TRC_CFG.shift : Fld := ⟨TRC_CFG.regOff, 2, 5⟩
def TRC_CFG.desc : List FDesc := [⟨0, 1, .rw, 0⟩, ⟨1, 1, .rw, 0⟩, ⟨2, 5, .rw, 0x10⟩]

/-! POST_STAT (10_telemetry_metering.md R403) -/
def POST_STAT.regOff : Nat := 0x829028
def POST_STAT.frames : Fld := ⟨POST_STAT.regOff, 0, 32⟩
def POST_STAT.fifo_drops : Fld := ⟨POST_STAT.regOff, 32, 16⟩
def POST_STAT.desc : List FDesc := [⟨0, 32, .rc, 0⟩, ⟨32, 16, .rc, 0⟩]

/-! FLOW_IND_ADDR (10_telemetry_metering.md R403) -/
def FLOW_IND_ADDR.regOff : Nat := 0x829030
def FLOW_IND_ADDR.index : Fld := ⟨FLOW_IND_ADDR.regOff, 0, 17⟩
def FLOW_IND_ADDR.pipe : Fld := ⟨FLOW_IND_ADDR.regOff, 17, 5⟩
def FLOW_IND_ADDR.desc : List FDesc := [⟨0, 17, .rw, 0⟩, ⟨17, 5, .rw, 0⟩]

/-! FLOW_IND_DATA (10_telemetry_metering.md R403) -/
def FLOW_IND_DATA.regOff : Nat := 0x829038
def FLOW_IND_DATA.entry : Fld := ⟨FLOW_IND_DATA.regOff, 0, 64⟩
def FLOW_IND_DATA.desc : List FDesc := [⟨0, 64, .ro, 0⟩]

/-! FLOW_IND_CMD (10_telemetry_metering.md R403) -/
def FLOW_IND_CMD.regOff : Nat := 0x829040
def FLOW_IND_CMD.read : Fld := ⟨FLOW_IND_CMD.regOff, 0, 1⟩
def FLOW_IND_CMD.busy : Fld := ⟨FLOW_IND_CMD.regOff, 1, 1⟩
def FLOW_IND_CMD.desc : List FDesc := [⟨0, 1, .w1s, 0⟩, ⟨1, 1, .ro, 0⟩]

/-! POST_TMPL (10_telemetry_metering.md R403) -/
def POST_TMPL.regOff (j : Nat) : Nat := 0x829080 + 0x8 * j
def POST_TMPL.bytes (j : Nat) : Fld := ⟨POST_TMPL.regOff j, 0, 64⟩
def POST_TMPL.desc : List FDesc := [⟨0, 64, .rw, 0⟩]

/-! TEL_PIPE_STAT0 (10_telemetry_metering.md R404) -/
def TEL_PIPE_STAT0.regOff (p : Nat) : Nat := 0x26000 + 0x40000 * p
def TEL_PIPE_STAT0.postcards (p : Nat) : Fld := ⟨TEL_PIPE_STAT0.regOff p, 0, 32⟩
def TEL_PIPE_STAT0.rate_drops (p : Nat) : Fld := ⟨TEL_PIPE_STAT0.regOff p, 32, 32⟩
def TEL_PIPE_STAT0.desc : List FDesc := [⟨0, 32, .rc, 0⟩, ⟨32, 32, .rc, 0⟩]

/-! TEL_PIPE_STAT1 (10_telemetry_metering.md R404) -/
def TEL_PIPE_STAT1.regOff (p : Nat) : Nat := 0x26008 + 0x40000 * p
def TEL_PIPE_STAT1.tracers (p : Nat) : Fld := ⟨TEL_PIPE_STAT1.regOff p, 0, 32⟩
def TEL_PIPE_STAT1.desc : List FDesc := [⟨0, 32, .rc, 0⟩]

/-! LANE_CFG (11_serial_lanes.md R441) -/
def LANE_CFG.regOff (l : Nat) : Nat := laneKey l 0
def LANE_CFG.cm2 (l : Nat) : Fld := ⟨LANE_CFG.regOff l, 0, 6⟩
def LANE_CFG.cm1 (l : Nat) : Fld := ⟨LANE_CFG.regOff l, 6, 6⟩
def LANE_CFG.c1 (l : Nat) : Fld := ⟨LANE_CFG.regOff l, 12, 6⟩
def LANE_CFG.tx_invert (l : Nat) : Fld := ⟨LANE_CFG.regOff l, 18, 1⟩
def LANE_CFG.rx_invert (l : Nat) : Fld := ⟨LANE_CFG.regOff l, 19, 1⟩
def LANE_CFG.loop (l : Nat) : Fld := ⟨LANE_CFG.regOff l, 20, 2⟩
def LANE_CFG.desc : List FDesc := [⟨0, 6, .rw, 0⟩, ⟨6, 6, .rw, 0x3a⟩, ⟨12, 6, .rw, 0x3c⟩, ⟨18, 1, .rw, 0⟩, ⟨19, 1, .rw, 0⟩, ⟨20, 2, .rw, 0⟩]

/-! LANE_EQ (11_serial_lanes.md R441) -/
def LANE_EQ.regOff (l : Nat) : Nat := laneKey l 1
def LANE_EQ.ctle_init (l : Nat) : Fld := ⟨LANE_EQ.regOff l, 0, 5⟩
def LANE_EQ.adapt_en (l : Nat) : Fld := ⟨LANE_EQ.regOff l, 5, 1⟩
def LANE_EQ.cont_en (l : Nat) : Fld := ⟨LANE_EQ.regOff l, 6, 1⟩
def LANE_EQ.fom_thr (l : Nat) : Fld := ⟨LANE_EQ.regOff l, 8, 8⟩
def LANE_EQ.fom_min (l : Nat) : Fld := ⟨LANE_EQ.regOff l, 16, 8⟩
def LANE_EQ.desc : List FDesc := [⟨0, 5, .rw, 0x10⟩, ⟨5, 1, .rw, 1⟩, ⟨6, 1, .rw, 1⟩, ⟨8, 8, .rw, 0xa0⟩, ⟨16, 8, .rw, 0x60⟩]

/-! LANE_STATUS (11_serial_lanes.md R441) -/
def LANE_STATUS.regOff (l : Nat) : Nat := laneKey l 2
def LANE_STATUS.signal (l : Nat) : Fld := ⟨LANE_STATUS.regOff l, 0, 1⟩
def LANE_STATUS.cdr_lock (l : Nat) : Fld := ⟨LANE_STATUS.regOff l, 1, 1⟩
def LANE_STATUS.low_margin (l : Nat) : Fld := ⟨LANE_STATUS.regOff l, 2, 1⟩
def LANE_STATUS.fallback_used (l : Nat) : Fld := ⟨LANE_STATUS.regOff l, 3, 1⟩
def LANE_STATUS.ctle (l : Nat) : Fld := ⟨LANE_STATUS.regOff l, 8, 5⟩
def LANE_STATUS.fom (l : Nat) : Fld := ⟨LANE_STATUS.regOff l, 16, 8⟩
def LANE_STATUS.tx_cm2 (l : Nat) : Fld := ⟨LANE_STATUS.regOff l, 24, 6⟩
def LANE_STATUS.tx_cm1 (l : Nat) : Fld := ⟨LANE_STATUS.regOff l, 30, 6⟩
def LANE_STATUS.tx_c1 (l : Nat) : Fld := ⟨LANE_STATUS.regOff l, 36, 6⟩
def LANE_STATUS.desc : List FDesc := [⟨0, 1, .ro, 0⟩, ⟨1, 1, .ro, 0⟩, ⟨2, 1, .ro, 0⟩, ⟨3, 1, .ro, 0⟩, ⟨8, 5, .ro, 0⟩, ⟨16, 8, .ro, 0⟩, ⟨24, 6, .ro, 0⟩, ⟨30, 6, .ro, 0⟩, ⟨36, 6, .ro, 0⟩]

/-! LANE_PRBS (11_serial_lanes.md R441) -/
def LANE_PRBS.regOff (l : Nat) : Nat := laneKey l 3
def LANE_PRBS.gen_pat (l : Nat) : Fld := ⟨LANE_PRBS.regOff l, 0, 4⟩
def LANE_PRBS.gen_en (l : Nat) : Fld := ⟨LANE_PRBS.regOff l, 4, 1⟩
def LANE_PRBS.chk_pat (l : Nat) : Fld := ⟨LANE_PRBS.regOff l, 8, 4⟩
def LANE_PRBS.chk_en (l : Nat) : Fld := ⟨LANE_PRBS.regOff l, 12, 1⟩
def LANE_PRBS.chk_lock (l : Nat) : Fld := ⟨LANE_PRBS.regOff l, 13, 1⟩
def LANE_PRBS.inj_once (l : Nat) : Fld := ⟨LANE_PRBS.regOff l, 14, 1⟩
def LANE_PRBS.inj_rate_exp (l : Nat) : Fld := ⟨LANE_PRBS.regOff l, 15, 6⟩
def LANE_PRBS.desc : List FDesc := [⟨0, 4, .rw, 0⟩, ⟨4, 1, .rw, 0⟩, ⟨8, 4, .rw, 0⟩, ⟨12, 1, .rw, 0⟩, ⟨13, 1, .ro, 0⟩, ⟨14, 1, .w1s, 0⟩, ⟨15, 6, .rw, 0⟩]

/-! LANE_PRBS_CNT (11_serial_lanes.md R441) -/
def LANE_PRBS_CNT.regOff (l : Nat) : Nat := laneKey l 4
def LANE_PRBS_CNT.errors (l : Nat) : Fld := ⟨LANE_PRBS_CNT.regOff l, 0, 32⟩
def LANE_PRBS_CNT.mbits (l : Nat) : Fld := ⟨LANE_PRBS_CNT.regOff l, 32, 32⟩
def LANE_PRBS_CNT.desc : List FDesc := [⟨0, 32, .rc, 0⟩, ⟨32, 32, .rc, 0⟩]

/-! LANE_PRBS_USER (11_serial_lanes.md R441) -/
def LANE_PRBS_USER.regOff (l : Nat) : Nat := laneKey l 5
def LANE_PRBS_USER.pattern (l : Nat) : Fld := ⟨LANE_PRBS_USER.regOff l, 0, 64⟩
def LANE_PRBS_USER.desc : List FDesc := [⟨0, 64, .rw, 0⟩]

/-! PORT_CTL (11_serial_lanes.md R442) -/
def PORT_CTL.regOff (l : Nat) : Nat := laneKey l 16
def PORT_CTL.enable (l : Nat) : Fld := ⟨PORT_CTL.regOff l, 0, 1⟩
def PORT_CTL.disable (l : Nat) : Fld := ⟨PORT_CTL.regOff l, 1, 1⟩
def PORT_CTL.retrain (l : Nat) : Fld := ⟨PORT_CTL.regOff l, 2, 1⟩
def PORT_CTL.desc : List FDesc := [⟨0, 1, .w1s, 0⟩, ⟨1, 1, .w1s, 0⟩, ⟨2, 1, .w1s, 0⟩]

/-! PORT_ENABLE_STATUS (11_serial_lanes.md R442) -/
def PORT_ENABLE_STATUS.regOff (l : Nat) : Nat := laneKey l 17
def PORT_ENABLE_STATUS.reason (l : Nat) : Fld := ⟨PORT_ENABLE_STATUS.regOff l, 0, 16⟩
def PORT_ENABLE_STATUS.busy (l : Nat) : Fld := ⟨PORT_ENABLE_STATUS.regOff l, 16, 1⟩
def PORT_ENABLE_STATUS.valid (l : Nat) : Fld := ⟨PORT_ENABLE_STATUS.regOff l, 17, 1⟩
def PORT_ENABLE_STATUS.detail (l : Nat) : Fld := ⟨PORT_ENABLE_STATUS.regOff l, 32, 16⟩
def PORT_ENABLE_STATUS.attempts (l : Nat) : Fld := ⟨PORT_ENABLE_STATUS.regOff l, 48, 16⟩
def PORT_ENABLE_STATUS.desc : List FDesc := [⟨0, 16, .ro, 0⟩, ⟨16, 1, .ro, 0⟩, ⟨17, 1, .ro, 0⟩, ⟨32, 16, .ro, 0⟩, ⟨48, 16, .ro, 0⟩]

/-! PORT_CFG (11_serial_lanes.md R442) -/
def PORT_CFG.regOff (l : Nat) : Nat := laneKey l 18
def PORT_CFG.media (l : Nat) : Fld := ⟨PORT_CFG.regOff l, 0, 2⟩
def PORT_CFG.fec (l : Nat) : Fld := ⟨PORT_CFG.regOff l, 2, 2⟩
def PORT_CFG.an_en (l : Nat) : Fld := ⟨PORT_CFG.regOff l, 4, 1⟩
def PORT_CFG.lt_en (l : Nat) : Fld := ⟨PORT_CFG.regOff l, 5, 1⟩
def PORT_CFG.eee_en (l : Nat) : Fld := ⟨PORT_CFG.regOff l, 6, 1⟩
def PORT_CFG.auto_restart (l : Nat) : Fld := ⟨PORT_CFG.regOff l, 7, 1⟩
def PORT_CFG.max_frame (l : Nat) : Fld := ⟨PORT_CFG.regOff l, 8, 14⟩
def PORT_CFG.pcs_loop (l : Nat) : Fld := ⟨PORT_CFG.regOff l, 22, 1⟩
def PORT_CFG.an_adv (l : Nat) : Fld := ⟨PORT_CFG.regOff l, 24, 8⟩
def PORT_CFG.retry_ms (l : Nat) : Fld := ⟨PORT_CFG.regOff l, 32, 16⟩
def PORT_CFG.desc : List FDesc := [⟨0, 2, .rw, 0⟩, ⟨2, 2, .rw, 0⟩, ⟨4, 1, .rw, 1⟩, ⟨5, 1, .rw, 1⟩, ⟨6, 1, .rw, 0⟩, ⟨7, 1, .rw, 1⟩, ⟨8, 14, .rw, 0x2400⟩, ⟨22, 1, .rw, 0⟩, ⟨24, 8, .rw, 0xff⟩, ⟨32, 16, .rw, 0xa⟩]

/-! PORT_MAC (11_serial_lanes.md R442) -/
def PORT_MAC.regOff (l : Nat) : Nat := laneKey l 19
def PORT_MAC.mac (l : Nat) : Fld := ⟨PORT_MAC.regOff l, 0, 48⟩
def PORT_MAC.desc : List FDesc := [⟨0, 48, .rw, 0⟩]

/-! PORT_EEE (11_serial_lanes.md R442) -/
def PORT_EEE.regOff (l : Nat) : Nat := laneKey l 20
def PORT_EEE.lpi_idle_us (l : Nat) : Fld := ⟨PORT_EEE.regOff l, 0, 16⟩
def PORT_EEE.tw_ns (l : Nat) : Fld := ⟨PORT_EEE.regOff l, 16, 16⟩
def PORT_EEE.train_ms (l : Nat) : Fld := ⟨PORT_EEE.regOff l, 32, 16⟩
def PORT_EEE.desc : List FDesc := [⟨0, 16, .rw, 0x64⟩, ⟨16, 16, .rw, 0⟩, ⟨32, 16, .rw, 0x1f4⟩]

/-! PORT_STATUS (11_serial_lanes.md R442) -/
def PORT_STATUS.regOff (l : Nat) : Nat := laneKey l 21
def PORT_STATUS.state (l : Nat) : Fld := ⟨PORT_STATUS.regOff l, 0, 4⟩
def PORT_STATUS.up (l : Nat) : Fld := ⟨PORT_STATUS.regOff l, 4, 1⟩
def PORT_STATUS.speed (l : Nat) : Fld := ⟨PORT_STATUS.regOff l, 8, 5⟩
def PORT_STATUS.fec_active (l : Nat) : Fld := ⟨PORT_STATUS.regOff l, 16, 2⟩
def PORT_STATUS.eee_active (l : Nat) : Fld := ⟨PORT_STATUS.regOff l, 18, 1⟩
def PORT_STATUS.lpi_tx (l : Nat) : Fld := ⟨PORT_STATUS.regOff l, 19, 1⟩
def PORT_STATUS.lpi_rx (l : Nat) : Fld := ⟨PORT_STATUS.regOff l, 20, 1⟩
def PORT_STATUS.low_margin (l : Nat) : Fld := ⟨PORT_STATUS.regOff l, 21, 1⟩
def PORT_STATUS.down_cause (l : Nat) : Fld := ⟨PORT_STATUS.regOff l, 24, 4⟩
def PORT_STATUS.flaps (l : Nat) : Fld := ⟨PORT_STATUS.regOff l, 32, 16⟩
def PORT_STATUS.desc : List FDesc := [⟨0, 4, .ro, 0⟩, ⟨4, 1, .ro, 0⟩, ⟨8, 5, .ro, 0⟩, ⟨16, 2, .ro, 0⟩, ⟨18, 1, .ro, 0⟩, ⟨19, 1, .ro, 0⟩, ⟨20, 1, .ro, 0⟩, ⟨21, 1, .ro, 0⟩, ⟨24, 4, .ro, 0⟩, ⟨32, 16, .rc, 0⟩]

/-! PORT_RX0 (11_serial_lanes.md R442) -/
def PORT_RX0.regOff (l : Nat) : Nat := laneKey l 22
def PORT_RX0.rx_frames (l : Nat) : Fld := ⟨PORT_RX0.regOff l, 0, 48⟩
def PORT_RX0.desc : List FDesc := [⟨0, 48, .rc, 0⟩]

/-! PORT_RX1 (11_serial_lanes.md R442) -/
def PORT_RX1.regOff (l : Nat) : Nat := laneKey l 23
def PORT_RX1.rx_bytes (l : Nat) : Fld := ⟨PORT_RX1.regOff l, 0, 48⟩
def PORT_RX1.desc : List FDesc := [⟨0, 48, .rc, 0⟩]

/-! PORT_RX2 (11_serial_lanes.md R442) -/
def PORT_RX2.regOff (l : Nat) : Nat := laneKey l 24
def PORT_RX2.fcs_err (l : Nat) : Fld := ⟨PORT_RX2.regOff l, 0, 16⟩
def PORT_RX2.len_err (l : Nat) : Fld := ⟨PORT_RX2.regOff l, 16, 16⟩
def PORT_RX2.overrun (l : Nat) : Fld := ⟨PORT_RX2.regOff l, 32, 16⟩
def PORT_RX2.no_image (l : Nat) : Fld := ⟨PORT_RX2.regOff l, 48, 16⟩
def PORT_RX2.desc : List FDesc := [⟨0, 16, .rc, 0⟩, ⟨16, 16, .rc, 0⟩, ⟨32, 16, .rc, 0⟩, ⟨48, 16, .rc, 0⟩]

/-! PORT_RX3 (11_serial_lanes.md R442) -/
def PORT_RX3.regOff (l : Nat) : Nat := laneKey l 25
def PORT_RX3.brine_discards (l : Nat) : Fld := ⟨PORT_RX3.regOff l, 0, 32⟩
def PORT_RX3.rl_hdr_err (l : Nat) : Fld := ⟨PORT_RX3.regOff l, 32, 16⟩
def PORT_RX3.rl_sync_loss (l : Nat) : Fld := ⟨PORT_RX3.regOff l, 48, 16⟩
def PORT_RX3.desc : List FDesc := [⟨0, 32, .rc, 0⟩, ⟨32, 16, .rc, 0⟩, ⟨48, 16, .rc, 0⟩]

/-! PORT_TX0 (11_serial_lanes.md R442) -/
def PORT_TX0.regOff (l : Nat) : Nat := laneKey l 26
def PORT_TX0.tx_frames (l : Nat) : Fld := ⟨PORT_TX0.regOff l, 0, 48⟩
def PORT_TX0.desc : List FDesc := [⟨0, 48, .rc, 0⟩]

/-! PORT_TX1 (11_serial_lanes.md R442) -/
def PORT_TX1.regOff (l : Nat) : Nat := laneKey l 27
def PORT_TX1.tx_bytes (l : Nat) : Fld := ⟨PORT_TX1.regOff l, 0, 48⟩
def PORT_TX1.desc : List FDesc := [⟨0, 48, .rc, 0⟩]

/-! PORT_TX2 (11_serial_lanes.md R442) -/
def PORT_TX2.regOff (l : Nat) : Nat := laneKey l 28
def PORT_TX2.stomped (l : Nat) : Fld := ⟨PORT_TX2.regOff l, 0, 32⟩
def PORT_TX2.errored_discards (l : Nat) : Fld := ⟨PORT_TX2.regOff l, 32, 32⟩
def PORT_TX2.desc : List FDesc := [⟨0, 32, .rc, 0⟩, ⟨32, 32, .rc, 0⟩]

/-! PORT_FEC0 (11_serial_lanes.md R442) -/
def PORT_FEC0.regOff (l : Nat) : Nat := laneKey l 29
def PORT_FEC0.cw_corrected (l : Nat) : Fld := ⟨PORT_FEC0.regOff l, 0, 32⟩
def PORT_FEC0.cw_uncorrectable (l : Nat) : Fld := ⟨PORT_FEC0.regOff l, 32, 32⟩
def PORT_FEC0.desc : List FDesc := [⟨0, 32, .rc, 0⟩, ⟨32, 32, .rc, 0⟩]

/-! PORT_FEC1 (11_serial_lanes.md R442) -/
def PORT_FEC1.regOff (l : Nat) : Nat := laneKey l 30
def PORT_FEC1.sym_corrected (l : Nat) : Fld := ⟨PORT_FEC1.regOff l, 0, 48⟩
def PORT_FEC1.sym_max (l : Nat) : Fld := ⟨PORT_FEC1.regOff l, 48, 8⟩
def PORT_FEC1.desc : List FDesc := [⟨0, 48, .rc, 0⟩, ⟨48, 8, .rc, 0⟩]

/-! PORT_INJ (11_serial_lanes.md R442) -/
def PORT_INJ.regOff (l : Nat) : Nat := laneKey l 31
def PORT_INJ.symbols (l : Nat) : Fld := ⟨PORT_INJ.regOff l, 0, 5⟩
def PORT_INJ.period (l : Nat) : Fld := ⟨PORT_INJ.regOff l, 5, 16⟩
def PORT_INJ.go (l : Nat) : Fld := ⟨PORT_INJ.regOff l, 21, 1⟩
def PORT_INJ.stop (l : Nat) : Fld := ⟨PORT_INJ.regOff l, 22, 1⟩
def PORT_INJ.active (l : Nat) : Fld := ⟨PORT_INJ.regOff l, 23, 1⟩
def PORT_INJ.desc : List FDesc := [⟨0, 5, .rw, 0⟩, ⟨5, 16, .rw, 0⟩, ⟨21, 1, .w1s, 0⟩, ⟨22, 1, .w1s, 0⟩, ⟨23, 1, .ro, 0⟩]

/-! LM_STATUS (11_serial_lanes.md R443) -/
def LM_STATUS.regOff (m : Nat) : Nat := laneMacroKey m
def LM_STATUS.band (m : Nat) : Fld := ⟨LM_STATUS.regOff m, 0, 2⟩
def LM_STATUS.pll_lock (m : Nat) : Fld := ⟨LM_STATUS.regOff m, 2, 1⟩
def LM_STATUS.ports_enabled (m : Nat) : Fld := ⟨LM_STATUS.regOff m, 3, 4⟩
def LM_STATUS.desc : List FDesc := [⟨0, 2, .ro, 0⟩, ⟨2, 1, .ro, 0⟩, ⟨3, 4, .ro, 0⟩]

/-! HIF_CAPS (12_host_interface_rings.md R481) -/
def HIF_CAPS.regOff : Nat := 0x82c000
def HIF_CAPS.rings : Fld := ⟨HIF_CAPS.regOff, 0, 11⟩
def HIF_CAPS.vfs : Fld := ⟨HIF_CAPS.regOff, 16, 6⟩
def HIF_CAPS.prefetch : Fld := ⟨HIF_CAPS.regOff, 24, 8⟩
def HIF_CAPS.work_items : Fld := ⟨HIF_CAPS.regOff, 32, 15⟩
def HIF_CAPS.max_reads : Fld := ⟨HIF_CAPS.regOff, 48, 10⟩
def HIF_CAPS.desc : List FDesc := [⟨0, 11, .ro, 0x400⟩, ⟨16, 6, .ro, 0x3f⟩, ⟨24, 8, .ro, 8⟩, ⟨32, 15, .ro, 0x4000⟩, ⟨48, 10, .ro, 0x300⟩]

/-! HIF_STATUS (12_host_interface_rings.md R481) -/
def HIF_STATUS.regOff : Nat := 0x82c008
def HIF_STATUS.link_speed : Fld := ⟨HIF_STATUS.regOff, 0, 4⟩
def HIF_STATUS.link_width : Fld := ⟨HIF_STATUS.regOff, 4, 6⟩
def HIF_STATUS.work_in_flight : Fld := ⟨HIF_STATUS.regOff, 16, 15⟩
def HIF_STATUS.reads_out : Fld := ⟨HIF_STATUS.regOff, 32, 10⟩
def HIF_STATUS.vfs_enabled : Fld := ⟨HIF_STATUS.regOff, 48, 6⟩
def HIF_STATUS.desc : List FDesc := [⟨0, 4, .ro, 0⟩, ⟨4, 6, .ro, 0⟩, ⟨16, 15, .ro, 0⟩, ⟨32, 10, .ro, 0⟩, ⟨48, 6, .ro, 0⟩]

/-! HIF_STAT (12_host_interface_rings.md R481) -/
def HIF_STAT.regOff : Nat := 0x82c010
def HIF_STAT.db_discarded : Fld := ⟨HIF_STAT.regOff, 0, 16⟩
def HIF_STAT.read_fail : Fld := ⟨HIF_STAT.regOff, 16, 16⟩
def HIF_STAT.wr_held : Fld := ⟨HIF_STAT.regOff, 32, 16⟩
def HIF_STAT.punt_tenant_drops : Fld := ⟨HIF_STAT.regOff, 48, 16⟩
def HIF_STAT.desc : List FDesc := [⟨0, 16, .rc, 0⟩, ⟨16, 16, .rc, 0⟩, ⟨32, 16, .rc, 0⟩, ⟨48, 16, .rc, 0⟩]

/-! HIF_VF (12_host_interface_rings.md R482) -/
def HIF_VF.regOff (n : Nat) : Nat := 0x82d000 + 0x8 * n
def HIF_VF.tenant (n : Nat) : Fld := ⟨HIF_VF.regOff n, 0, 12⟩
def HIF_VF.bind_valid (n : Nat) : Fld := ⟨HIF_VF.regOff n, 12, 1⟩
def HIF_VF.inject_en (n : Nat) : Fld := ⟨HIF_VF.regOff n, 13, 1⟩
def HIF_VF.inject_bd (n : Nat) : Fld := ⟨HIF_VF.regOff n, 16, 14⟩
def HIF_VF.reset (n : Nat) : Fld := ⟨HIF_VF.regOff n, 32, 1⟩
def HIF_VF.in_reset (n : Nat) : Fld := ⟨HIF_VF.regOff n, 33, 1⟩
def HIF_VF.desc : List FDesc := [⟨0, 12, .rw, 0⟩, ⟨12, 1, .rw, 0⟩, ⟨13, 1, .rw, 0⟩, ⟨16, 14, .rw, 0⟩, ⟨32, 1, .w1s, 0⟩, ⟨33, 1, .ro, 0⟩]

/-! HIF_HQ_MAP (12_host_interface_rings.md R483) -/
def HIF_HQ_MAP.regOff (h : Nat) : Nat := 0x82e000 + 0x8 * h
def HIF_HQ_MAP.ring (h : Nat) : Fld := ⟨HIF_HQ_MAP.regOff h, 0, 10⟩
def HIF_HQ_MAP.valid (h : Nat) : Fld := ⟨HIF_HQ_MAP.regOff h, 10, 1⟩
def HIF_HQ_MAP.desc : List FDesc := [⟨0, 10, .rw, 0⟩, ⟨10, 1, .rw, 0⟩]

/-! RING_ASSIGN (12_host_interface_rings.md R483) -/
def RING_ASSIGN.regOff (r : Nat) : Nat := 0x830000 + 0x8 * r
def RING_ASSIGN.func (r : Nat) : Fld := ⟨RING_ASSIGN.regOff r, 0, 6⟩
def RING_ASSIGN.slot (r : Nat) : Fld := ⟨RING_ASSIGN.regOff r, 6, 6⟩
def RING_ASSIGN.kind (r : Nat) : Fld := ⟨RING_ASSIGN.regOff r, 12, 4⟩
def RING_ASSIGN.vector (r : Nat) : Fld := ⟨RING_ASSIGN.regOff r, 16, 11⟩
def RING_ASSIGN.valid (r : Nat) : Fld := ⟨RING_ASSIGN.regOff r, 27, 1⟩
def RING_ASSIGN.desc : List FDesc := [⟨0, 6, .rw, 0⟩, ⟨6, 6, .rw, 0⟩, ⟨12, 4, .rw, 0⟩, ⟨16, 11, .rw, 0⟩, ⟨27, 1, .rw, 0⟩]

/-! RING_STAT (12_host_interface_rings.md R483) -/
def RING_STAT.regOff (r : Nat) : Nat := 0x832000 + 0x8 * r
def RING_STAT.completed (r : Nat) : Fld := ⟨RING_STAT.regOff r, 0, 32⟩
def RING_STAT.lost (r : Nat) : Fld := ⟨RING_STAT.regOff r, 32, 16⟩
def RING_STAT.aborted (r : Nat) : Fld := ⟨RING_STAT.regOff r, 48, 16⟩
def RING_STAT.desc : List FDesc := [⟨0, 32, .rc, 0⟩, ⟨32, 16, .rc, 0⟩, ⟨48, 16, .rc, 0⟩]

/-! RING_DB (12_host_interface_rings.md R484) -/
def RING_DB.regOff (slot : Nat) : Nat := slot + 0
def RING_DB.db (slot : Nat) : Fld := ⟨RING_DB.regOff slot, 0, 64⟩
def RING_DB.desc : List FDesc := [⟨0, 64, .wo, 0⟩]

/-! RING_INVAL (12_host_interface_rings.md R484) -/
def RING_INVAL.regOff (slot : Nat) : Nat := slot + 8
def RING_INVAL.go (slot : Nat) : Fld := ⟨RING_INVAL.regOff slot, 0, 1⟩
def RING_INVAL.done (slot : Nat) : Fld := ⟨RING_INVAL.regOff slot, 1, 1⟩
def RING_INVAL.take_idx (slot : Nat) : Fld := ⟨RING_INVAL.regOff slot, 16, 16⟩
def RING_INVAL.desc : List FDesc := [⟨0, 1, .w1s, 0⟩, ⟨1, 1, .ro, 0⟩, ⟨16, 16, .ro, 0⟩]

/-! RING_ABORT (12_host_interface_rings.md R484) -/
def RING_ABORT.regOff (slot : Nat) : Nat := slot + 16
def RING_ABORT.go (slot : Nat) : Fld := ⟨RING_ABORT.regOff slot, 0, 1⟩
def RING_ABORT.busy (slot : Nat) : Fld := ⟨RING_ABORT.regOff slot, 1, 1⟩
def RING_ABORT.aborted (slot : Nat) : Fld := ⟨RING_ABORT.regOff slot, 2, 17⟩
def RING_ABORT.caught (slot : Nat) : Fld := ⟨RING_ABORT.regOff slot, 19, 17⟩
def RING_ABORT.finished (slot : Nat) : Fld := ⟨RING_ABORT.regOff slot, 36, 17⟩
def RING_ABORT.desc : List FDesc := [⟨0, 1, .w1s, 0⟩, ⟨1, 1, .ro, 0⟩, ⟨2, 17, .ro, 0⟩, ⟨19, 17, .ro, 0⟩, ⟨36, 17, .ro, 0⟩]

/-! RING_CTL (12_host_interface_rings.md R484) -/
def RING_CTL.regOff (slot : Nat) : Nat := slot + 24
def RING_CTL.enable (slot : Nat) : Fld := ⟨RING_CTL.regOff slot, 0, 1⟩
def RING_CTL.disable (slot : Nat) : Fld := ⟨RING_CTL.regOff slot, 1, 1⟩
def RING_CTL.enabled (slot : Nat) : Fld := ⟨RING_CTL.regOff slot, 2, 1⟩
def RING_CTL.disabling (slot : Nat) : Fld := ⟨RING_CTL.regOff slot, 3, 1⟩
def RING_CTL.halted (slot : Nat) : Fld := ⟨RING_CTL.regOff slot, 4, 1⟩
def RING_CTL.desc : List FDesc := [⟨0, 1, .w1s, 0⟩, ⟨1, 1, .w1s, 0⟩, ⟨2, 1, .ro, 0⟩, ⟨3, 1, .ro, 0⟩, ⟨4, 1, .ro, 0⟩]

/-! RING_ENABLE_STATUS (12_host_interface_rings.md R484) -/
def RING_ENABLE_STATUS.regOff (slot : Nat) : Nat := slot + 32
def RING_ENABLE_STATUS.reason (slot : Nat) : Fld := ⟨RING_ENABLE_STATUS.regOff slot, 0, 16⟩
def RING_ENABLE_STATUS.busy (slot : Nat) : Fld := ⟨RING_ENABLE_STATUS.regOff slot, 16, 1⟩
def RING_ENABLE_STATUS.valid (slot : Nat) : Fld := ⟨RING_ENABLE_STATUS.regOff slot, 17, 1⟩
def RING_ENABLE_STATUS.detail (slot : Nat) : Fld := ⟨RING_ENABLE_STATUS.regOff slot, 32, 16⟩
def RING_ENABLE_STATUS.attempts (slot : Nat) : Fld := ⟨RING_ENABLE_STATUS.regOff slot, 48, 16⟩
def RING_ENABLE_STATUS.desc : List FDesc := [⟨0, 16, .ro, 0⟩, ⟨16, 1, .ro, 0⟩, ⟨17, 1, .ro, 0⟩, ⟨32, 16, .ro, 0⟩, ⟨48, 16, .ro, 0⟩]

/-! RING_ADDR (12_host_interface_rings.md R484) -/
def RING_ADDR.regOff (slot : Nat) : Nat := slot + 40
def RING_ADDR.addr (slot : Nat) : Fld := ⟨RING_ADDR.regOff slot, 12, 52⟩
def RING_ADDR.desc : List FDesc := [⟨12, 52, .rw, 0⟩]

/-! RING_CFG (12_host_interface_rings.md R484) -/
def RING_CFG.regOff (slot : Nat) : Nat := slot + 48
def RING_CFG.size_log2 (slot : Nat) : Fld := ⟨RING_CFG.regOff slot, 0, 5⟩
def RING_CFG.irq_count (slot : Nat) : Fld := ⟨RING_CFG.regOff slot, 8, 8⟩
def RING_CFG.irq_us (slot : Nat) : Fld := ⟨RING_CFG.regOff slot, 16, 16⟩
def RING_CFG.irq_en (slot : Nat) : Fld := ⟨RING_CFG.regOff slot, 32, 1⟩
def RING_CFG.punt_meta (slot : Nat) : Fld := ⟨RING_CFG.regOff slot, 33, 1⟩
def RING_CFG.punt_drop (slot : Nat) : Fld := ⟨RING_CFG.regOff slot, 34, 1⟩
def RING_CFG.desc : List FDesc := [⟨0, 5, .rw, 0⟩, ⟨8, 8, .rw, 1⟩, ⟨16, 16, .rw, 0⟩, ⟨32, 1, .rw, 0⟩, ⟨33, 1, .rw, 0⟩, ⟨34, 1, .rw, 0⟩]

/-! RING_POS (12_host_interface_rings.md R484) -/
def RING_POS.regOff (slot : Nat) : Nat := slot + 56
def RING_POS.take_idx (slot : Nat) : Fld := ⟨RING_POS.regOff slot, 0, 16⟩
def RING_POS.complete_idx (slot : Nat) : Fld := ⟨RING_POS.regOff slot, 16, 16⟩
def RING_POS.taken (slot : Nat) : Fld := ⟨RING_POS.regOff slot, 32, 17⟩
def RING_POS.desc : List FDesc := [⟨0, 16, .ro, 0⟩, ⟨16, 16, .ro, 0⟩, ⟨32, 17, .ro, 0⟩]

/-! TIME_CTL (13_time.md R504) -/
def TIME_CTL.regOff : Nat := 0x834000
def TIME_CTL.servo_en : Fld := ⟨TIME_CTL.regOff, 0, 1⟩
def TIME_CTL.servo_dis : Fld := ⟨TIME_CTL.regOff, 1, 1⟩
def TIME_CTL.fab_en : Fld := ⟨TIME_CTL.regOff, 2, 1⟩
def TIME_CTL.fab_dis : Fld := ⟨TIME_CTL.regOff, 3, 1⟩
def TIME_CTL.set : Fld := ⟨TIME_CTL.regOff, 4, 1⟩
def TIME_CTL.step : Fld := ⟨TIME_CTL.regOff, 5, 1⟩
def TIME_CTL.desc : List FDesc := [⟨0, 1, .w1s, 0⟩, ⟨1, 1, .w1s, 0⟩, ⟨2, 1, .w1s, 0⟩, ⟨3, 1, .w1s, 0⟩, ⟨4, 1, .w1s, 0⟩, ⟨5, 1, .w1s, 0⟩]

/-! TIME_ENABLE_STATUS (13_time.md R504) -/
def TIME_ENABLE_STATUS.regOff : Nat := 0x834008
def TIME_ENABLE_STATUS.reason : Fld := ⟨TIME_ENABLE_STATUS.regOff, 0, 16⟩
def TIME_ENABLE_STATUS.busy : Fld := ⟨TIME_ENABLE_STATUS.regOff, 16, 1⟩
def TIME_ENABLE_STATUS.valid : Fld := ⟨TIME_ENABLE_STATUS.regOff, 17, 1⟩
def TIME_ENABLE_STATUS.detail : Fld := ⟨TIME_ENABLE_STATUS.regOff, 32, 16⟩
def TIME_ENABLE_STATUS.attempts : Fld := ⟨TIME_ENABLE_STATUS.regOff, 48, 16⟩
def TIME_ENABLE_STATUS.desc : List FDesc := [⟨0, 16, .ro, 0⟩, ⟨16, 1, .ro, 0⟩, ⟨17, 1, .ro, 0⟩, ⟨32, 16, .ro, 0⟩, ⟨48, 16, .ro, 0⟩]

/-! TIME_NOW0 (13_time.md R504) -/
def TIME_NOW0.regOff : Nat := 0x834010
def TIME_NOW0.sec : Fld := ⟨TIME_NOW0.regOff, 0, 48⟩
def TIME_NOW0.frac : Fld := ⟨TIME_NOW0.regOff, 48, 16⟩
def TIME_NOW0.desc : List FDesc := [⟨0, 48, .ro, 0⟩, ⟨48, 16, .ro, 0⟩]

/-! TIME_NOW1 (13_time.md R504) -/
def TIME_NOW1.regOff : Nat := 0x834018
def TIME_NOW1.ns : Fld := ⟨TIME_NOW1.regOff, 0, 32⟩
def TIME_NOW1.desc : List FDesc := [⟨0, 32, .ro, 0⟩]

/-! TIME_SET0 (13_time.md R504) -/
def TIME_SET0.regOff : Nat := 0x834020
def TIME_SET0.sec : Fld := ⟨TIME_SET0.regOff, 0, 48⟩
def TIME_SET0.frac : Fld := ⟨TIME_SET0.regOff, 48, 16⟩
def TIME_SET0.desc : List FDesc := [⟨0, 48, .rw, 0⟩, ⟨48, 16, .rw, 0⟩]

/-! TIME_SET1 (13_time.md R504) -/
def TIME_SET1.regOff : Nat := 0x834028
def TIME_SET1.ns : Fld := ⟨TIME_SET1.regOff, 0, 32⟩
def TIME_SET1.desc : List FDesc := [⟨0, 32, .rw, 0⟩]

/-! TIME_STEP (13_time.md R504) -/
def TIME_STEP.regOff : Nat := 0x834030
def TIME_STEP.step : Fld := ⟨TIME_STEP.regOff, 0, 64⟩
def TIME_STEP.desc : List FDesc := [⟨0, 64, .rw, 0⟩]

/-! TIME_SERVO_CFG (13_time.md R504) -/
def TIME_SERVO_CFG.regOff : Nat := 0x834038
def TIME_SERVO_CFG.kp_shift : Fld := ⟨TIME_SERVO_CFG.regOff, 0, 6⟩
def TIME_SERVO_CFG.ki_shift : Fld := ⟨TIME_SERVO_CFG.regOff, 8, 6⟩
def TIME_SERVO_CFG.sample_ms : Fld := ⟨TIME_SERVO_CFG.regOff, 16, 16⟩
def TIME_SERVO_CFG.max_ppm : Fld := ⟨TIME_SERVO_CFG.regOff, 32, 9⟩
def TIME_SERVO_CFG.desc : List FDesc := [⟨0, 6, .rw, 2⟩, ⟨8, 6, .rw, 4⟩, ⟨16, 16, .rw, 0x7d⟩, ⟨32, 9, .rw, 0x64⟩]

/-! TIME_SERVO_THR (13_time.md R504) -/
def TIME_SERVO_THR.regOff : Nat := 0x834040
def TIME_SERVO_THR.step_thr_ns : Fld := ⟨TIME_SERVO_THR.regOff, 0, 32⟩
def TIME_SERVO_THR.lock_thr_ns : Fld := ⟨TIME_SERVO_THR.regOff, 32, 16⟩
def TIME_SERVO_THR.lock_count : Fld := ⟨TIME_SERVO_THR.regOff, 48, 8⟩
def TIME_SERVO_THR.desc : List FDesc := [⟨0, 32, .rw, 0x1f4⟩, ⟨32, 16, .rw, 0x14⟩, ⟨48, 8, .rw, 8⟩]

/-! TIME_OFFSET (13_time.md R504) -/
def TIME_OFFSET.regOff : Nat := 0x834048
def TIME_OFFSET.sample : Fld := ⟨TIME_OFFSET.regOff, 0, 64⟩
def TIME_OFFSET.desc : List FDesc := [⟨0, 64, .wo, 0⟩]

/-! TIME_FREQ (13_time.md R504) -/
def TIME_FREQ.regOff : Nat := 0x834050
def TIME_FREQ.freq : Fld := ⟨TIME_FREQ.regOff, 0, 32⟩
def TIME_FREQ.integ : Fld := ⟨TIME_FREQ.regOff, 32, 32⟩
def TIME_FREQ.desc : List FDesc := [⟨0, 32, .rw, 0⟩, ⟨32, 32, .ro, 0⟩]

/-! TIME_STATUS (13_time.md R504) -/
def TIME_STATUS.regOff : Nat := 0x834058
def TIME_STATUS.servo_en : Fld := ⟨TIME_STATUS.regOff, 0, 1⟩
def TIME_STATUS.locked : Fld := ⟨TIME_STATUS.regOff, 1, 1⟩
def TIME_STATUS.fab_en : Fld := ⟨TIME_STATUS.regOff, 2, 1⟩
def TIME_STATUS.holdover : Fld := ⟨TIME_STATUS.regOff, 3, 1⟩
def TIME_STATUS.source : Fld := ⟨TIME_STATUS.regOff, 4, 2⟩
def TIME_STATUS.distance : Fld := ⟨TIME_STATUS.regOff, 6, 4⟩
def TIME_STATUS.parent : Fld := ⟨TIME_STATUS.regOff, 10, 10⟩
def TIME_STATUS.parent_valid : Fld := ⟨TIME_STATUS.regOff, 20, 1⟩
def TIME_STATUS.desc : List FDesc := [⟨0, 1, .ro, 0⟩, ⟨1, 1, .ro, 0⟩, ⟨2, 1, .ro, 0⟩, ⟨3, 1, .ro, 0⟩, ⟨4, 2, .ro, 0⟩, ⟨6, 4, .ro, 0xf⟩, ⟨10, 10, .ro, 0⟩, ⟨20, 1, .ro, 0⟩]

/-! TIME_STAT (13_time.md R504) -/
def TIME_STAT.regOff : Nat := 0x834060
def TIME_STAT.samples : Fld := ⟨TIME_STAT.regOff, 0, 16⟩
def TIME_STAT.steps : Fld := ⟨TIME_STAT.regOff, 16, 8⟩
def TIME_STAT.lock_losses : Fld := ⟨TIME_STAT.regOff, 24, 8⟩
def TIME_STAT.samples_ignored : Fld := ⟨TIME_STAT.regOff, 32, 16⟩
def TIME_STAT.bad_items : Fld := ⟨TIME_STAT.regOff, 48, 8⟩
def TIME_STAT.ptp_skipped : Fld := ⟨TIME_STAT.regOff, 56, 8⟩
def TIME_STAT.desc : List FDesc := [⟨0, 16, .rc, 0⟩, ⟨16, 8, .rc, 0⟩, ⟨24, 8, .rc, 0⟩, ⟨32, 16, .rc, 0⟩, ⟨48, 8, .rc, 0⟩, ⟨56, 8, .rc, 0⟩]

/-! TIME_FAB_CFG (13_time.md R504) -/
def TIME_FAB_CFG.regOff : Nat := 0x834068
def TIME_FAB_CFG.prio : Fld := ⟨TIME_FAB_CFG.regOff, 0, 8⟩
def TIME_FAB_CFG.source : Fld := ⟨TIME_FAB_CFG.regOff, 8, 1⟩
def TIME_FAB_CFG.interval_us : Fld := ⟨TIME_FAB_CFG.regOff, 16, 16⟩
def TIME_FAB_CFG.timeout : Fld := ⟨TIME_FAB_CFG.regOff, 32, 8⟩
def TIME_FAB_CFG.desc : List FDesc := [⟨0, 8, .rw, 0xff⟩, ⟨8, 1, .rw, 0⟩, ⟨16, 16, .rw, 0x3e8⟩, ⟨32, 8, .rw, 8⟩]

/-! TIME_EVT_CFG (13_time.md R504) -/
def TIME_EVT_CFG.regOff : Nat := 0x834070
def TIME_EVT_CFG.event_ring : Fld := ⟨TIME_EVT_CFG.regOff, 0, 10⟩
def TIME_EVT_CFG.event_en : Fld := ⟨TIME_EVT_CFG.regOff, 10, 1⟩
def TIME_EVT_CFG.desc : List FDesc := [⟨0, 10, .rw, 0⟩, ⟨10, 1, .rw, 0⟩]

/-! TIME_LAST_OFS (13_time.md R504) -/
def TIME_LAST_OFS.regOff : Nat := 0x834078
def TIME_LAST_OFS.offset : Fld := ⟨TIME_LAST_OFS.regOff, 0, 64⟩
def TIME_LAST_OFS.desc : List FDesc := [⟨0, 64, .ro, 0⟩]

/-! TIME_LAST_DELAY (13_time.md R504) -/
def TIME_LAST_DELAY.regOff : Nat := 0x834080
def TIME_LAST_DELAY.delay : Fld := ⟨TIME_LAST_DELAY.regOff, 0, 48⟩
def TIME_LAST_DELAY.desc : List FDesc := [⟨0, 48, .ro, 0⟩]

/-! TIME_PO_CTL (13_time.md R504) -/
def TIME_PO_CTL.regOff (k : Nat) : Nat := 0x834100 + 0x20 * k
def TIME_PO_CTL.mode (k : Nat) : Fld := ⟨TIME_PO_CTL.regOff k, 0, 2⟩
def TIME_PO_CTL.polarity (k : Nat) : Fld := ⟨TIME_PO_CTL.regOff k, 2, 1⟩
def TIME_PO_CTL.arm (k : Nat) : Fld := ⟨TIME_PO_CTL.regOff k, 3, 1⟩
def TIME_PO_CTL.disarm (k : Nat) : Fld := ⟨TIME_PO_CTL.regOff k, 4, 1⟩
def TIME_PO_CTL.armed (k : Nat) : Fld := ⟨TIME_PO_CTL.regOff k, 5, 1⟩
def TIME_PO_CTL.width_ns (k : Nat) : Fld := ⟨TIME_PO_CTL.regOff k, 32, 32⟩
def TIME_PO_CTL.desc : List FDesc := [⟨0, 2, .rw, 0⟩, ⟨2, 1, .rw, 0⟩, ⟨3, 1, .w1s, 0⟩, ⟨4, 1, .w1s, 0⟩, ⟨5, 1, .ro, 0⟩, ⟨32, 32, .rw, 0⟩]

/-! TIME_PO_START (13_time.md R504) -/
def TIME_PO_START.regOff (k : Nat) : Nat := 0x834108 + 0x20 * k
def TIME_PO_START.start (k : Nat) : Fld := ⟨TIME_PO_START.regOff k, 0, 48⟩
def TIME_PO_START.desc : List FDesc := [⟨0, 48, .rw, 0⟩]

/-! TIME_PO_PERIOD (13_time.md R504) -/
def TIME_PO_PERIOD.regOff (k : Nat) : Nat := 0x834110 + 0x20 * k
def TIME_PO_PERIOD.period (k : Nat) : Fld := ⟨TIME_PO_PERIOD.regOff k, 0, 32⟩
def TIME_PO_PERIOD.desc : List FDesc := [⟨0, 32, .rw, 0⟩]

/-! TIME_CAP_CTL (13_time.md R504) -/
def TIME_CAP_CTL.regOff (k : Nat) : Nat := 0x834180 + 0x20 * k
def TIME_CAP_CTL.en (k : Nat) : Fld := ⟨TIME_CAP_CTL.regOff k, 0, 1⟩
def TIME_CAP_CTL.falling (k : Nat) : Fld := ⟨TIME_CAP_CTL.regOff k, 1, 1⟩
def TIME_CAP_CTL.event_en (k : Nat) : Fld := ⟨TIME_CAP_CTL.regOff k, 2, 1⟩
def TIME_CAP_CTL.desc : List FDesc := [⟨0, 1, .rw, 0⟩, ⟨1, 1, .rw, 0⟩, ⟨2, 1, .rw, 0⟩]

/-! TIME_CAP0 (13_time.md R504) -/
def TIME_CAP0.regOff (k : Nat) : Nat := 0x834188 + 0x20 * k
def TIME_CAP0.sec (k : Nat) : Fld := ⟨TIME_CAP0.regOff k, 0, 48⟩
def TIME_CAP0.frac (k : Nat) : Fld := ⟨TIME_CAP0.regOff k, 48, 16⟩
def TIME_CAP0.desc : List FDesc := [⟨0, 48, .ro, 0⟩, ⟨48, 16, .ro, 0⟩]

/-! TIME_CAP1 (13_time.md R504) -/
def TIME_CAP1.regOff (k : Nat) : Nat := 0x834190 + 0x20 * k
def TIME_CAP1.ns (k : Nat) : Fld := ⟨TIME_CAP1.regOff k, 0, 32⟩
def TIME_CAP1.count (k : Nat) : Fld := ⟨TIME_CAP1.regOff k, 32, 16⟩
def TIME_CAP1.overflow (k : Nat) : Fld := ⟨TIME_CAP1.regOff k, 48, 1⟩
def TIME_CAP1.desc : List FDesc := [⟨0, 32, .ro, 0⟩, ⟨32, 16, .ro, 0⟩, ⟨48, 1, .w1c, 0⟩]

/-! TIME_PORT (13_time.md R505) -/
def TIME_PORT.regOff (n : Nat) : Nat := 0x835000 + 0x8 * n
def TIME_PORT.rx_en (n : Nat) : Fld := ⟨TIME_PORT.regOff n, 0, 1⟩
def TIME_PORT.tx_en (n : Nat) : Fld := ⟨TIME_PORT.regOff n, 1, 1⟩
def TIME_PORT.one_step (n : Nat) : Fld := ⟨TIME_PORT.regOff n, 2, 1⟩
def TIME_PORT.tc_en (n : Nat) : Fld := ⟨TIME_PORT.regOff n, 3, 1⟩
def TIME_PORT.ipv4 (n : Nat) : Fld := ⟨TIME_PORT.regOff n, 4, 1⟩
def TIME_PORT.ipv6 (n : Nat) : Fld := ⟨TIME_PORT.regOff n, 5, 1⟩
def TIME_PORT.l2 (n : Nat) : Fld := ⟨TIME_PORT.regOff n, 6, 1⟩
def TIME_PORT.rx_adj (n : Nat) : Fld := ⟨TIME_PORT.regOff n, 16, 16⟩
def TIME_PORT.tx_adj (n : Nat) : Fld := ⟨TIME_PORT.regOff n, 32, 16⟩
def TIME_PORT.desc : List FDesc := [⟨0, 1, .rw, 0⟩, ⟨1, 1, .rw, 0⟩, ⟨2, 1, .rw, 0⟩, ⟨3, 1, .rw, 0⟩, ⟨4, 1, .rw, 0⟩, ⟨5, 1, .rw, 0⟩, ⟨6, 1, .rw, 0⟩, ⟨16, 16, .rw, 0⟩, ⟨32, 16, .rw, 0⟩]

/-! PWR_CTL (14_power_thermal.md R530) -/
def PWR_CTL.regOff : Nat := 0x838000
def PWR_CTL.apply : Fld := ⟨PWR_CTL.regOff, 0, 1⟩
def PWR_CTL.brine_enter : Fld := ⟨PWR_CTL.regOff, 1, 1⟩
def PWR_CTL.brine_exit : Fld := ⟨PWR_CTL.regOff, 2, 1⟩
def PWR_CTL.desc : List FDesc := [⟨0, 1, .w1s, 0⟩, ⟨1, 1, .w1s, 0⟩, ⟨2, 1, .w1s, 0⟩]

/-! PWR_ENABLE_STATUS (14_power_thermal.md R530) -/
def PWR_ENABLE_STATUS.regOff : Nat := 0x838008
def PWR_ENABLE_STATUS.reason : Fld := ⟨PWR_ENABLE_STATUS.regOff, 0, 16⟩
def PWR_ENABLE_STATUS.busy : Fld := ⟨PWR_ENABLE_STATUS.regOff, 16, 1⟩
def PWR_ENABLE_STATUS.valid : Fld := ⟨PWR_ENABLE_STATUS.regOff, 17, 1⟩
def PWR_ENABLE_STATUS.detail : Fld := ⟨PWR_ENABLE_STATUS.regOff, 32, 16⟩
def PWR_ENABLE_STATUS.attempts : Fld := ⟨PWR_ENABLE_STATUS.regOff, 48, 16⟩
def PWR_ENABLE_STATUS.desc : List FDesc := [⟨0, 16, .ro, 0⟩, ⟨16, 1, .ro, 0⟩, ⟨17, 1, .ro, 0⟩, ⟨32, 16, .ro, 0⟩, ⟨48, 16, .ro, 0⟩]

/-! PWR_CAP_CFG (14_power_thermal.md R530) -/
def PWR_CAP_CFG.regOff : Nat := 0x838010
def PWR_CAP_CFG.cap_w : Fld := ⟨PWR_CAP_CFG.regOff, 0, 11⟩
def PWR_CAP_CFG.up_slope : Fld := ⟨PWR_CAP_CFG.regOff, 16, 8⟩
def PWR_CAP_CFG.down_slope : Fld := ⟨PWR_CAP_CFG.regOff, 24, 8⟩
def PWR_CAP_CFG.brine_drain_us : Fld := ⟨PWR_CAP_CFG.regOff, 32, 16⟩
def PWR_CAP_CFG.desc : List FDesc := [⟨0, 11, .rw, 0x5aa⟩, ⟨16, 8, .rw, 0x10⟩, ⟨24, 8, .rw, 0x10⟩, ⟨32, 16, .rw, 0x1f4⟩]

/-! PWR_THERM_CFG (14_power_thermal.md R530) -/
def PWR_THERM_CFG.regOff : Nat := 0x838018
def PWR_THERM_CFG.throttle_c : Fld := ⟨PWR_THERM_CFG.regOff, 0, 8⟩
def PWR_THERM_CFG.release_c : Fld := ⟨PWR_THERM_CFG.regOff, 8, 8⟩
def PWR_THERM_CFG.trip_c : Fld := ⟨PWR_THERM_CFG.regOff, 16, 8⟩
def PWR_THERM_CFG.desc : List FDesc := [⟨0, 8, .rw, 0x64⟩, ⟨8, 8, .rw, 0x5f⟩, ⟨16, 8, .rw, 0x6e⟩]

/-! PWR_EXT_LIMIT (14_power_thermal.md R530) -/
def PWR_EXT_LIMIT.regOff : Nat := 0x838020
def PWR_EXT_LIMIT.host_cap_w : Fld := ⟨PWR_EXT_LIMIT.regOff, 0, 11⟩
def PWR_EXT_LIMIT.bmc_cap_w : Fld := ⟨PWR_EXT_LIMIT.regOff, 16, 11⟩
def PWR_EXT_LIMIT.desc : List FDesc := [⟨0, 11, .rw, 0x5aa⟩, ⟨16, 11, .ro, 0x5aa⟩]

/-! PWR_STATUS (14_power_thermal.md R530) -/
def PWR_STATUS.regOff : Nat := 0x838028
def PWR_STATUS.state : Fld := ⟨PWR_STATUS.regOff, 0, 2⟩
def PWR_STATUS.level : Fld := ⟨PWR_STATUS.regOff, 2, 2⟩
def PWR_STATUS.reasons : Fld := ⟨PWR_STATUS.regOff, 4, 4⟩
def PWR_STATUS.cap_unmet : Fld := ⟨PWR_STATUS.regOff, 8, 1⟩
def PWR_STATUS.power_w : Fld := ⟨PWR_STATUS.regOff, 16, 11⟩
def PWR_STATUS.temp_c : Fld := ⟨PWR_STATUS.regOff, 32, 8⟩
def PWR_STATUS.core_mv : Fld := ⟨PWR_STATUS.regOff, 40, 12⟩
def PWR_STATUS.desc : List FDesc := [⟨0, 2, .ro, 0⟩, ⟨2, 2, .ro, 0⟩, ⟨4, 4, .ro, 0⟩, ⟨8, 1, .ro, 0⟩, ⟨16, 11, .ro, 0⟩, ⟨32, 8, .ro, 0⟩, ⟨40, 12, .ro, 0⟩]

/-! PWR_STAT (14_power_thermal.md R530) -/
def PWR_STAT.regOff : Nat := 0x838030
def PWR_STAT.brine_entries : Fld := ⟨PWR_STAT.regOff, 0, 16⟩
def PWR_STAT.droop_events : Fld := ⟨PWR_STAT.regOff, 16, 16⟩
def PWR_STAT.brine_writes : Fld := ⟨PWR_STAT.regOff, 32, 16⟩
def PWR_STAT.brine_discards : Fld := ⟨PWR_STAT.regOff, 48, 16⟩
def PWR_STAT.desc : List FDesc := [⟨0, 16, .rc, 0⟩, ⟨16, 16, .rc, 0⟩, ⟨32, 16, .rc, 0⟩, ⟨48, 16, .rc, 0⟩]

/-! PWR_THR_ACC (14_power_thermal.md R530) -/
def PWR_THR_ACC.regOff (r : Nat) : Nat := 0x838038 + 0x8 * r
def PWR_THR_ACC.us (r : Nat) : Fld := ⟨PWR_THR_ACC.regOff r, 0, 48⟩
def PWR_THR_ACC.desc : List FDesc := [⟨0, 48, .rc, 0⟩]

/-! PWR_EVT_CFG (14_power_thermal.md R530) -/
def PWR_EVT_CFG.regOff : Nat := 0x838060
def PWR_EVT_CFG.event_ring : Fld := ⟨PWR_EVT_CFG.regOff, 0, 10⟩
def PWR_EVT_CFG.event_en : Fld := ⟨PWR_EVT_CFG.regOff, 10, 1⟩
def PWR_EVT_CFG.desc : List FDesc := [⟨0, 10, .rw, 0⟩, ⟨10, 1, .rw, 0⟩]

/-! PWR_WAKE_TIME (14_power_thermal.md R530) -/
def PWR_WAKE_TIME.regOff : Nat := 0x838068
def PWR_WAKE_TIME.time : Fld := ⟨PWR_WAKE_TIME.regOff, 0, 48⟩
def PWR_WAKE_TIME.wake_en : Fld := ⟨PWR_WAKE_TIME.regOff, 48, 1⟩
def PWR_WAKE_TIME.desc : List FDesc := [⟨0, 48, .rw, 0⟩, ⟨48, 1, .rw, 0⟩]

/-! PWR_PIPE_CFG (14_power_thermal.md R530) -/
def PWR_PIPE_CFG.regOff (p : Nat) : Nat := 0x838100 + 0x8 * p
def PWR_PIPE_CFG.nominal (p : Nat) : Fld := ⟨PWR_PIPE_CFG.regOff p, 0, 3⟩
def PWR_PIPE_CFG.max_ratio (p : Nat) : Fld := ⟨PWR_PIPE_CFG.regOff p, 4, 3⟩
def PWR_PIPE_CFG.desc : List FDesc := [⟨0, 3, .rw, 1⟩, ⟨4, 3, .rw, 7⟩]

/-! PWR_PIPE_STAT (14_power_thermal.md R530) -/
def PWR_PIPE_STAT.regOff (p : Nat) : Nat := 0x838200 + 0x8 * p
def PWR_PIPE_STAT.ratio (p : Nat) : Fld := ⟨PWR_PIPE_STAT.regOff p, 0, 3⟩
def PWR_PIPE_STAT.fmax_mhz (p : Nat) : Fld := ⟨PWR_PIPE_STAT.regOff p, 4, 11⟩
def PWR_PIPE_STAT.phase (p : Nat) : Fld := ⟨PWR_PIPE_STAT.regOff p, 16, 2⟩
def PWR_PIPE_STAT.activity (p : Nat) : Fld := ⟨PWR_PIPE_STAT.regOff p, 18, 8⟩
def PWR_PIPE_STAT.desc : List FDesc := [⟨0, 3, .ro, 1⟩, ⟨4, 11, .ro, 0⟩, ⟨16, 2, .ro, 0⟩, ⟨18, 8, .ro, 0⟩]

/-! FLT_CFG (15_faults.md R554) -/
def FLT_CFG.regOff : Nat := 0x839000
def FLT_CFG.reset_delay_us : Fld := ⟨FLT_CFG.regOff, 0, 10⟩
def FLT_CFG.desc : List FDesc := [⟨0, 10, .rw, 0xa⟩]

/-! FLT_STATUS (15_faults.md R554) -/
def FLT_STATUS.regOff : Nat := 0x839008
def FLT_STATUS.corr_any : Fld := ⟨FLT_STATUS.regOff, 0, 1⟩
def FLT_STATUS.cont_any : Fld := ⟨FLT_STATUS.regOff, 1, 1⟩
def FLT_STATUS.fatal_any : Fld := ⟨FLT_STATUS.regOff, 2, 1⟩
def FLT_STATUS.urgent_pend : Fld := ⟨FLT_STATUS.regOff, 3, 1⟩
def FLT_STATUS.fault_pin : Fld := ⟨FLT_STATUS.regOff, 4, 1⟩
def FLT_STATUS.chip_reset_cause : Fld := ⟨FLT_STATUS.regOff, 5, 1⟩
def FLT_STATUS.last_fatal : Fld := ⟨FLT_STATUS.regOff, 16, 11⟩
def FLT_STATUS.desc : List FDesc := [⟨0, 1, .ro, 0⟩, ⟨1, 1, .ro, 0⟩, ⟨2, 1, .ro, 0⟩, ⟨3, 1, .w1c, 0⟩, ⟨4, 1, .w1c, 0⟩, ⟨5, 1, .w1c, 0⟩, ⟨16, 11, .ro, 0⟩]

/-! FLT_HIST_PTR (15_faults.md R554) -/
def FLT_HIST_PTR.regOff : Nat := 0x839010
def FLT_HIST_PTR.next : Fld := ⟨FLT_HIST_PTR.regOff, 0, 6⟩
def FLT_HIST_PTR.read : Fld := ⟨FLT_HIST_PTR.regOff, 6, 6⟩
def FLT_HIST_PTR.last_seq : Fld := ⟨FLT_HIST_PTR.regOff, 16, 16⟩
def FLT_HIST_PTR.lost : Fld := ⟨FLT_HIST_PTR.regOff, 32, 16⟩
def FLT_HIST_PTR.desc : List FDesc := [⟨0, 6, .ro, 0⟩, ⟨6, 6, .rw, 0⟩, ⟨16, 16, .ro, 0⟩, ⟨32, 16, .rc, 0⟩]

/-! FLT_INJ (15_faults.md R554) -/
def FLT_INJ.regOff : Nat := 0x839018
def FLT_INJ.source : Fld := ⟨FLT_INJ.regOff, 0, 11⟩
def FLT_INJ.cls : Fld := ⟨FLT_INJ.regOff, 11, 2⟩
def FLT_INJ.go : Fld := ⟨FLT_INJ.regOff, 13, 1⟩
def FLT_INJ.desc : List FDesc := [⟨0, 11, .rw, 0⟩, ⟨11, 2, .rw, 0⟩, ⟨13, 1, .w1s, 0⟩]

/-! FLT_RESET (15_faults.md R554) -/
def FLT_RESET.regOff : Nat := 0x839020
def FLT_RESET.source : Fld := ⟨FLT_RESET.regOff, 0, 11⟩
def FLT_RESET.go : Fld := ⟨FLT_RESET.regOff, 11, 1⟩
def FLT_RESET.busy : Fld := ⟨FLT_RESET.regOff, 12, 1⟩
def FLT_RESET.desc : List FDesc := [⟨0, 11, .rw, 0⟩, ⟨11, 1, .w1s, 0⟩, ⟨12, 1, .ro, 0⟩]

/-! FLT_PEND (15_faults.md R554) -/
def FLT_PEND.regOff (j : Nat) : Nat := 0x839100 + 0x8 * j
def FLT_PEND.pend (j : Nat) : Fld := ⟨FLT_PEND.regOff j, 0, 64⟩
def FLT_PEND.desc : List FDesc := [⟨0, 64, .ro, 0⟩]

/-! CH_STAT (15_faults.md R556) -/
def CH_STAT.regOff (s : Nat) : Nat := 0x83b000 + 0x8 * s
def CH_STAT.restart (s : Nat) : Fld := ⟨CH_STAT.regOff s, 0, 1⟩
def CH_STAT.stopped (s : Nat) : Fld := ⟨CH_STAT.regOff s, 1, 1⟩
def CH_STAT.resets (s : Nat) : Fld := ⟨CH_STAT.regOff s, 16, 16⟩
def CH_STAT.discards (s : Nat) : Fld := ⟨CH_STAT.regOff s, 32, 32⟩
def CH_STAT.desc : List FDesc := [⟨0, 1, .w1s, 0⟩, ⟨1, 1, .ro, 0⟩, ⟨16, 16, .rc, 0⟩, ⟨32, 32, .rc, 0⟩]

/-! FLT_SRC (15_faults.md R557) -/
def FLT_SRC.regOff (n : Nat) : Nat := 0x83c000 + 0x8 * n
def FLT_SRC.rx_corr (n : Nat) : Fld := ⟨FLT_SRC.regOff n, 0, 5⟩
def FLT_SRC.rx_cont (n : Nat) : Fld := ⟨FLT_SRC.regOff n, 5, 5⟩
def FLT_SRC.rx_fatal (n : Nat) : Fld := ⟨FLT_SRC.regOff n, 10, 5⟩
def FLT_SRC.present (n : Nat) : Fld := ⟨FLT_SRC.regOff n, 15, 1⟩
def FLT_SRC.vector (n : Nat) : Fld := ⟨FLT_SRC.regOff n, 16, 11⟩
def FLT_SRC.corr_pend (n : Nat) : Fld := ⟨FLT_SRC.regOff n, 32, 1⟩
def FLT_SRC.cont_pend (n : Nat) : Fld := ⟨FLT_SRC.regOff n, 33, 1⟩
def FLT_SRC.fatal_pend (n : Nat) : Fld := ⟨FLT_SRC.regOff n, 34, 1⟩
def FLT_SRC.count (n : Nat) : Fld := ⟨FLT_SRC.regOff n, 48, 16⟩
def FLT_SRC.desc : List FDesc := [⟨0, 5, .rw, 0⟩, ⟨5, 5, .rw, 2⟩, ⟨10, 5, .rw, 0x12⟩, ⟨15, 1, .ro, 1⟩, ⟨16, 11, .rw, 1⟩, ⟨32, 1, .w1c, 0⟩, ⟨33, 1, .w1c, 0⟩, ⟨34, 1, .w1c, 0⟩, ⟨48, 16, .ro, 0⟩]

/-! CIPHER_LOCK (16_cipher_engine.md R576) -/
def CIPHER_LOCK.regOff : Nat := 0x837000
def CIPHER_LOCK.req : Fld := ⟨CIPHER_LOCK.regOff, 0, 1⟩
def CIPHER_LOCK.release : Fld := ⟨CIPHER_LOCK.regOff, 1, 1⟩
def CIPHER_LOCK.owner : Fld := ⟨CIPHER_LOCK.regOff, 2, 2⟩
def CIPHER_LOCK.waiting : Fld := ⟨CIPHER_LOCK.regOff, 4, 1⟩
def CIPHER_LOCK.revoked : Fld := ⟨CIPHER_LOCK.regOff, 5, 1⟩
def CIPHER_LOCK.desc : List FDesc := [⟨0, 1, .w1s, 0⟩, ⟨1, 1, .w1s, 0⟩, ⟨2, 2, .ro, 0⟩, ⟨4, 1, .ro, 0⟩, ⟨5, 1, .w1c, 0⟩]

/-! CIPHER_ENABLE_STATUS (16_cipher_engine.md R576) -/
def CIPHER_ENABLE_STATUS.regOff : Nat := 0x837008
def CIPHER_ENABLE_STATUS.reason : Fld := ⟨CIPHER_ENABLE_STATUS.regOff, 0, 16⟩
def CIPHER_ENABLE_STATUS.busy : Fld := ⟨CIPHER_ENABLE_STATUS.regOff, 16, 1⟩
def CIPHER_ENABLE_STATUS.valid : Fld := ⟨CIPHER_ENABLE_STATUS.regOff, 17, 1⟩
def CIPHER_ENABLE_STATUS.detail : Fld := ⟨CIPHER_ENABLE_STATUS.regOff, 32, 16⟩
def CIPHER_ENABLE_STATUS.attempts : Fld := ⟨CIPHER_ENABLE_STATUS.regOff, 48, 16⟩
def CIPHER_ENABLE_STATUS.desc : List FDesc := [⟨0, 16, .ro, 0⟩, ⟨16, 1, .ro, 0⟩, ⟨17, 1, .ro, 0⟩, ⟨32, 16, .ro, 0⟩, ⟨48, 16, .ro, 0⟩]

/-! CIPHER_CFG (16_cipher_engine.md R576) -/
def CIPHER_CFG.regOff : Nat := 0x837010
def CIPHER_CFG.slot : Fld := ⟨CIPHER_CFG.regOff, 0, 3⟩
def CIPHER_CFG.decrypt : Fld := ⟨CIPHER_CFG.regOff, 3, 1⟩
def CIPHER_CFG.hold_ms : Fld := ⟨CIPHER_CFG.regOff, 8, 7⟩
def CIPHER_CFG.desc : List FDesc := [⟨0, 3, .rw, 3⟩, ⟨3, 1, .rw, 0⟩, ⟨8, 7, .rw, 0x32⟩]

/-! CIPHER_IV0 (16_cipher_engine.md R576) -/
def CIPHER_IV0.regOff : Nat := 0x837018
def CIPHER_IV0.iv : Fld := ⟨CIPHER_IV0.regOff, 0, 64⟩
def CIPHER_IV0.desc : List FDesc := [⟨0, 64, .rw, 0⟩]

/-! CIPHER_IV1 (16_cipher_engine.md R576) -/
def CIPHER_IV1.regOff : Nat := 0x837020
def CIPHER_IV1.iv : Fld := ⟨CIPHER_IV1.regOff, 0, 32⟩
def CIPHER_IV1.desc : List FDesc := [⟨0, 32, .rw, 0⟩]

/-! CIPHER_LEN (16_cipher_engine.md R576) -/
def CIPHER_LEN.regOff : Nat := 0x837028
def CIPHER_LEN.aad_len : Fld := ⟨CIPHER_LEN.regOff, 0, 32⟩
def CIPHER_LEN.text_len : Fld := ⟨CIPHER_LEN.regOff, 32, 32⟩
def CIPHER_LEN.desc : List FDesc := [⟨0, 32, .rw, 0⟩, ⟨32, 32, .rw, 0⟩]

/-! CIPHER_CMD (16_cipher_engine.md R576) -/
def CIPHER_CMD.regOff : Nat := 0x837030
def CIPHER_CMD.start : Fld := ⟨CIPHER_CMD.regOff, 0, 1⟩
def CIPHER_CMD.push_aad : Fld := ⟨CIPHER_CMD.regOff, 1, 1⟩
def CIPHER_CMD.push_text : Fld := ⟨CIPHER_CMD.regOff, 2, 1⟩
def CIPHER_CMD.finish : Fld := ⟨CIPHER_CMD.regOff, 3, 1⟩
def CIPHER_CMD.abandon : Fld := ⟨CIPHER_CMD.regOff, 4, 1⟩
def CIPHER_CMD.desc : List FDesc := [⟨0, 1, .w1s, 0⟩, ⟨1, 1, .w1s, 0⟩, ⟨2, 1, .w1s, 0⟩, ⟨3, 1, .w1s, 0⟩, ⟨4, 1, .w1s, 0⟩]

/-! CIPHER_STATUS (16_cipher_engine.md R576) -/
def CIPHER_STATUS.regOff : Nat := 0x837038
def CIPHER_STATUS.state : Fld := ⟨CIPHER_STATUS.regOff, 0, 3⟩
def CIPHER_STATUS.in_ready : Fld := ⟨CIPHER_STATUS.regOff, 3, 1⟩
def CIPHER_STATUS.out_valid : Fld := ⟨CIPHER_STATUS.regOff, 4, 1⟩
def CIPHER_STATUS.tag_ok : Fld := ⟨CIPHER_STATUS.regOff, 5, 1⟩
def CIPHER_STATUS.tag_fail : Fld := ⟨CIPHER_STATUS.regOff, 6, 1⟩
def CIPHER_STATUS.blocks : Fld := ⟨CIPHER_STATUS.regOff, 16, 32⟩
def CIPHER_STATUS.desc : List FDesc := [⟨0, 3, .ro, 0⟩, ⟨3, 1, .ro, 0⟩, ⟨4, 1, .ro, 0⟩, ⟨5, 1, .ro, 0⟩, ⟨6, 1, .ro, 0⟩, ⟨16, 32, .ro, 0⟩]

/-! CIPHER_DIN (16_cipher_engine.md R576) -/
def CIPHER_DIN.regOff (j : Nat) : Nat := 0x837040 + 0x8 * j
def CIPHER_DIN.data (j : Nat) : Fld := ⟨CIPHER_DIN.regOff j, 0, 64⟩
def CIPHER_DIN.desc : List FDesc := [⟨0, 64, .wo, 0⟩]

/-! CIPHER_DOUT (16_cipher_engine.md R576) -/
def CIPHER_DOUT.regOff (j : Nat) : Nat := 0x837050 + 0x8 * j
def CIPHER_DOUT.data (j : Nat) : Fld := ⟨CIPHER_DOUT.regOff j, 0, 64⟩
def CIPHER_DOUT.desc : List FDesc := [⟨0, 64, .ro, 0⟩]

/-! CIPHER_TAG (16_cipher_engine.md R576) -/
def CIPHER_TAG.regOff (j : Nat) : Nat := 0x837060 + 0x8 * j
def CIPHER_TAG.tag (j : Nat) : Fld := ⟨CIPHER_TAG.regOff j, 0, 64⟩
def CIPHER_TAG.desc : List FDesc := [⟨0, 64, .rw, 0⟩]

/-! CIPHER_KEY (16_cipher_engine.md R576) -/
def CIPHER_KEY.regOff (j : Nat) : Nat := 0x837070 + 0x8 * j
def CIPHER_KEY.key (j : Nat) : Fld := ⟨CIPHER_KEY.regOff j, 0, 64⟩
def CIPHER_KEY.desc : List FDesc := [⟨0, 64, .wo, 0⟩]

/-! CIPHER_KEY_CTL (16_cipher_engine.md R576) -/
def CIPHER_KEY_CTL.regOff : Nat := 0x837090
def CIPHER_KEY_CTL.slot : Fld := ⟨CIPHER_KEY_CTL.regOff, 0, 3⟩
def CIPHER_KEY_CTL.len : Fld := ⟨CIPHER_KEY_CTL.regOff, 3, 1⟩
def CIPHER_KEY_CTL.wrapped : Fld := ⟨CIPHER_KEY_CTL.regOff, 4, 1⟩
def CIPHER_KEY_CTL.lock : Fld := ⟨CIPHER_KEY_CTL.regOff, 5, 1⟩
def CIPHER_KEY_CTL.load : Fld := ⟨CIPHER_KEY_CTL.regOff, 6, 1⟩
def CIPHER_KEY_CTL.clear : Fld := ⟨CIPHER_KEY_CTL.regOff, 7, 1⟩
def CIPHER_KEY_CTL.provision : Fld := ⟨CIPHER_KEY_CTL.regOff, 8, 1⟩
def CIPHER_KEY_CTL.desc : List FDesc := [⟨0, 3, .rw, 0⟩, ⟨3, 1, .rw, 0⟩, ⟨4, 1, .rw, 0⟩, ⟨5, 1, .rw, 0⟩, ⟨6, 1, .w1s, 0⟩, ⟨7, 1, .w1s, 0⟩, ⟨8, 1, .w1s, 0⟩]

/-! CIPHER_SLOTS (16_cipher_engine.md R576) -/
def CIPHER_SLOTS.regOff : Nat := 0x837098
def CIPHER_SLOTS.slots : Fld := ⟨CIPHER_SLOTS.regOff, 0, 64⟩
def CIPHER_SLOTS.desc : List FDesc := [⟨0, 64, .ro, 0⟩]

/-! CIPHER_KCV (16_cipher_engine.md R576) -/
def CIPHER_KCV.regOff (j : Nat) : Nat := 0x8370a0 + 0x8 * j
def CIPHER_KCV.kcv0 (j : Nat) : Fld := ⟨CIPHER_KCV.regOff j, 0, 32⟩
def CIPHER_KCV.kcv1 (j : Nat) : Fld := ⟨CIPHER_KCV.regOff j, 32, 32⟩
def CIPHER_KCV.desc : List FDesc := [⟨0, 32, .ro, 0⟩, ⟨32, 32, .ro, 0⟩]

/-! CIPHER_STAT (16_cipher_engine.md R576) -/
def CIPHER_STAT.regOff : Nat := 0x8370c0
def CIPHER_STAT.sessions : Fld := ⟨CIPHER_STAT.regOff, 0, 32⟩
def CIPHER_STAT.tag_fails : Fld := ⟨CIPHER_STAT.regOff, 32, 16⟩
def CIPHER_STAT.revocations : Fld := ⟨CIPHER_STAT.regOff, 48, 16⟩
def CIPHER_STAT.desc : List FDesc := [⟨0, 32, .rc, 0⟩, ⟨32, 16, .rc, 0⟩, ⟨48, 16, .rc, 0⟩]

/-! PKG_BOOT_STATUS (17_startup.md R588) -/
def PKG_BOOT_STATUS.regOff : Nat := 0xf802000
def PKG_BOOT_STATUS.phase : Fld := ⟨PKG_BOOT_STATUS.regOff, 0, 3⟩
def PKG_BOOT_STATUS.fuse_ok : Fld := ⟨PKG_BOOT_STATUS.regOff, 3, 1⟩
def PKG_BOOT_STATUS.selftest_done : Fld := ⟨PKG_BOOT_STATUS.regOff, 4, 1⟩
def PKG_BOOT_STATUS.selftest_fail : Fld := ⟨PKG_BOOT_STATUS.regOff, 5, 1⟩
def PKG_BOOT_STATUS.last_reset : Fld := ⟨PKG_BOOT_STATUS.regOff, 6, 2⟩
def PKG_BOOT_STATUS.selftest_ms : Fld := ⟨PKG_BOOT_STATUS.regOff, 16, 16⟩
def PKG_BOOT_STATUS.warm_count : Fld := ⟨PKG_BOOT_STATUS.regOff, 32, 16⟩
def PKG_BOOT_STATUS.desc : List FDesc := [⟨0, 3, .ro, 0⟩, ⟨3, 1, .ro, 0⟩, ⟨4, 1, .ro, 0⟩, ⟨5, 1, .ro, 0⟩, ⟨6, 2, .ro, 0⟩, ⟨16, 16, .ro, 0⟩, ⟨32, 16, .ro, 0⟩]

/-! PKG_SELFTEST (17_startup.md R588) -/
def PKG_SELFTEST.regOff : Nat := 0xf802008
def PKG_SELFTEST.pipe_fail : Fld := ⟨PKG_SELFTEST.regOff, 0, 32⟩
def PKG_SELFTEST.buffer : Fld := ⟨PKG_SELFTEST.regOff, 32, 1⟩
def PKG_SELFTEST.cell_state : Fld := ⟨PKG_SELFTEST.regOff, 33, 1⟩
def PKG_SELFTEST.sequencers : Fld := ⟨PKG_SELFTEST.regOff, 34, 1⟩
def PKG_SELFTEST.io_dies : Fld := ⟨PKG_SELFTEST.regOff, 35, 1⟩
def PKG_SELFTEST.repairs : Fld := ⟨PKG_SELFTEST.regOff, 48, 16⟩
def PKG_SELFTEST.desc : List FDesc := [⟨0, 32, .ro, 0⟩, ⟨32, 1, .ro, 0⟩, ⟨33, 1, .ro, 0⟩, ⟨34, 1, .ro, 0⟩, ⟨35, 1, .ro, 0⟩, ⟨48, 16, .ro, 0⟩]

/-! PKG_STRAPS (17_startup.md R588) -/
def PKG_STRAPS.regOff : Nat := 0xf802010
def PKG_STRAPS.smba : Fld := ⟨PKG_STRAPS.regOff, 0, 3⟩
def PKG_STRAPS.test : Fld := ⟨PKG_STRAPS.regOff, 3, 1⟩
def PKG_STRAPS.desc : List FDesc := [⟨0, 3, .ro, 0⟩, ⟨3, 1, .ro, 0⟩]

/-! PKG_RST_CTL (17_startup.md R588) -/
def PKG_RST_CTL.regOff : Nat := 0xf802018
def PKG_RST_CTL.warm : Fld := ⟨PKG_RST_CTL.regOff, 0, 1⟩
def PKG_RST_CTL.code : Fld := ⟨PKG_RST_CTL.regOff, 8, 8⟩
def PKG_RST_CTL.desc : List FDesc := [⟨0, 1, .w1s, 0⟩, ⟨8, 8, .wo, 0⟩]

/-! PKG_PIN_STATUS (18_package_pins.md R611) -/
def PKG_PIN_STATUS.regOff : Nat := 0xf803000
def PKG_PIN_STATUS.perst_n : Fld := ⟨PKG_PIN_STATUS.regOff, 0, 1⟩
def PKG_PIN_STATUS.fault_n : Fld := ⟨PKG_PIN_STATUS.regOff, 1, 1⟩
def PKG_PIN_STATUS.urgent_n : Fld := ⟨PKG_PIN_STATUS.regOff, 2, 1⟩
def PKG_PIN_STATUS.trst_n : Fld := ⟨PKG_PIN_STATUS.regOff, 3, 1⟩
def PKG_PIN_STATUS.tpi : Fld := ⟨PKG_PIN_STATUS.regOff, 4, 4⟩
def PKG_PIN_STATUS.tpo : Fld := ⟨PKG_PIN_STATUS.regOff, 8, 4⟩
def PKG_PIN_STATUS.desc : List FDesc := [⟨0, 1, .ro, 0⟩, ⟨1, 1, .ro, 0⟩, ⟨2, 1, .ro, 0⟩, ⟨3, 1, .ro, 0⟩, ⟨4, 4, .ro, 0⟩, ⟨8, 4, .ro, 0⟩]

/-! PKG_AVS_STATUS (18_package_pins.md R611) -/
def PKG_AVS_STATUS.regOff : Nat := 0xf803008
def PKG_AVS_STATUS.target_mv : Fld := ⟨PKG_AVS_STATUS.regOff, 0, 11⟩
def PKG_AVS_STATUS.confirmed_mv : Fld := ⟨PKG_AVS_STATUS.regOff, 16, 11⟩
def PKG_AVS_STATUS.fail : Fld := ⟨PKG_AVS_STATUS.regOff, 27, 1⟩
def PKG_AVS_STATUS.retries : Fld := ⟨PKG_AVS_STATUS.regOff, 32, 16⟩
def PKG_AVS_STATUS.desc : List FDesc := [⟨0, 11, .ro, 0x320⟩, ⟨16, 11, .ro, 0x320⟩, ⟨27, 1, .w1c, 0⟩, ⟨32, 16, .rc, 0⟩]

/-! PKG_SMB_STAT (18_package_pins.md R611) -/
def PKG_SMB_STAT.regOff : Nat := 0xf803010
def PKG_SMB_STAT.transactions : Fld := ⟨PKG_SMB_STAT.regOff, 0, 16⟩
def PKG_SMB_STAT.nacks : Fld := ⟨PKG_SMB_STAT.regOff, 16, 16⟩
def PKG_SMB_STAT.pec_errors : Fld := ⟨PKG_SMB_STAT.regOff, 32, 16⟩
def PKG_SMB_STAT.timeouts : Fld := ⟨PKG_SMB_STAT.regOff, 48, 16⟩
def PKG_SMB_STAT.desc : List FDesc := [⟨0, 16, .rc, 0⟩, ⟨16, 16, .rc, 0⟩, ⟨32, 16, .rc, 0⟩, ⟨48, 16, .rc, 0⟩]

/-! PKG_SUMMARY0 (19_register_map.md R620) -/
def PKG_SUMMARY0.regOff : Nat := 0xf804000
def PKG_SUMMARY0.boot_phase : Fld := ⟨PKG_SUMMARY0.regOff, 0, 3⟩
def PKG_SUMMARY0.image_state : Fld := ⟨PKG_SUMMARY0.regOff, 3, 3⟩
def PKG_SUMMARY0.patch_state : Fld := ⟨PKG_SUMMARY0.regOff, 6, 2⟩
def PKG_SUMMARY0.power_state : Fld := ⟨PKG_SUMMARY0.regOff, 8, 2⟩
def PKG_SUMMARY0.level : Fld := ⟨PKG_SUMMARY0.regOff, 10, 2⟩
def PKG_SUMMARY0.corr_any : Fld := ⟨PKG_SUMMARY0.regOff, 12, 1⟩
def PKG_SUMMARY0.cont_any : Fld := ⟨PKG_SUMMARY0.regOff, 13, 1⟩
def PKG_SUMMARY0.fatal_any : Fld := ⟨PKG_SUMMARY0.regOff, 14, 1⟩
def PKG_SUMMARY0.time_locked : Fld := ⟨PKG_SUMMARY0.regOff, 15, 1⟩
def PKG_SUMMARY0.placement : Fld := ⟨PKG_SUMMARY0.regOff, 16, 1⟩
def PKG_SUMMARY0.metering : Fld := ⟨PKG_SUMMARY0.regOff, 17, 1⟩
def PKG_SUMMARY0.meter_stalled : Fld := ⟨PKG_SUMMARY0.regOff, 18, 1⟩
def PKG_SUMMARY0.cap_unmet : Fld := ⟨PKG_SUMMARY0.regOff, 19, 1⟩
def PKG_SUMMARY0.selftest_fail : Fld := ⟨PKG_SUMMARY0.regOff, 20, 1⟩
def PKG_SUMMARY0.ports_up : Fld := ⟨PKG_SUMMARY0.regOff, 32, 11⟩
def PKG_SUMMARY0.links_live : Fld := ⟨PKG_SUMMARY0.regOff, 48, 8⟩
def PKG_SUMMARY0.desc : List FDesc := [⟨0, 3, .ro, 0⟩, ⟨3, 3, .ro, 0⟩, ⟨6, 2, .ro, 0⟩, ⟨8, 2, .ro, 0⟩, ⟨10, 2, .ro, 0⟩, ⟨12, 1, .ro, 0⟩, ⟨13, 1, .ro, 0⟩, ⟨14, 1, .ro, 0⟩, ⟨15, 1, .ro, 0⟩, ⟨16, 1, .ro, 0⟩, ⟨17, 1, .ro, 0⟩, ⟨18, 1, .ro, 0⟩, ⟨19, 1, .ro, 0⟩, ⟨20, 1, .ro, 0⟩, ⟨32, 11, .ro, 0⟩, ⟨48, 8, .ro, 0⟩]

/-! PKG_SUMMARY1 (19_register_map.md R620) -/
def PKG_SUMMARY1.regOff : Nat := 0xf804008
def PKG_SUMMARY1.pipes_stopped : Fld := ⟨PKG_SUMMARY1.regOff, 0, 32⟩
def PKG_SUMMARY1.channels_stopped : Fld := ⟨PKG_SUMMARY1.regOff, 32, 32⟩
def PKG_SUMMARY1.desc : List FDesc := [⟨0, 32, .ro, 0⟩, ⟨32, 32, .ro, 0⟩]

/-! PKG_REGMAP (19_register_map.md R620) -/
def PKG_REGMAP.regOff : Nat := 0xf804010
def PKG_REGMAP.map_rev : Fld := ⟨PKG_REGMAP.regOff, 0, 16⟩
def PKG_REGMAP.desc : List FDesc := [⟨0, 16, .ro, 0x100⟩]

/-! PKG_SERIAL (00_scope.md R6) -/
def PKG_SERIAL.regOff : Nat := 0xf800010
def PKG_SERIAL.serial : Fld := ⟨PKG_SERIAL.regOff, 0, 64⟩
def PKG_SERIAL.desc : List FDesc := [⟨0, 64, .ro, 0⟩]

/-! FLT_HIST (15_faults.md R555) -/
def FLT_HIST.regOff (i k : Nat) : Nat := 0x83a000 + 0x20 * i + 0x8 * k
def FLT_HIST.word (i k : Nat) : Fld := ⟨FLT_HIST.regOff i k, 0, 64⟩
def FLT_HIST.desc : List FDesc := [⟨0, 64, .ro, 0⟩]

/-! STRUCT_ENABLE_STATUS (02_structure_image.md R78) -/
def STRUCT_ENABLE_STATUS.regOff : Nat := 0x800018
def STRUCT_ENABLE_STATUS.reason : Fld := ⟨STRUCT_ENABLE_STATUS.regOff, 0, 16⟩
def STRUCT_ENABLE_STATUS.busy : Fld := ⟨STRUCT_ENABLE_STATUS.regOff, 16, 1⟩
def STRUCT_ENABLE_STATUS.valid : Fld := ⟨STRUCT_ENABLE_STATUS.regOff, 17, 1⟩
def STRUCT_ENABLE_STATUS.detail : Fld := ⟨STRUCT_ENABLE_STATUS.regOff, 32, 16⟩
def STRUCT_ENABLE_STATUS.attempts : Fld := ⟨STRUCT_ENABLE_STATUS.regOff, 48, 16⟩
def STRUCT_ENABLE_STATUS.desc : List FDesc := [⟨0, 16, .ro, 0⟩, ⟨16, 1, .ro, 0⟩, ⟨17, 1, .ro, 0⟩, ⟨32, 16, .ro, 0⟩, ⟨48, 16, .ro, 0⟩]

/-! The decomposition (R612-R619). -/

/-- Registers of a performance-counter group, indices 496-511 (R376). -/
def perfRows : List RegRow :=
   [⟨496, 4, 1, PERF_SEL.desc⟩,
    ⟨500, 4, 1, PERF_FILT.desc⟩,
    ⟨504, 4, 1, PERF_CNT.desc⟩,
    ⟨508, 4, 1, PERF_SNAP.desc⟩]

/-- Registers of one action-unit block (R138). -/
def actRows : List RegRow :=
   [⟨0, 1, 1, ACT_CFG.desc⟩,
    ⟨1, 1, 1, ACT_CS_CRC.desc⟩,
    ⟨2, 1, 1, ACT_TRAP_CNT.desc⟩,
    ⟨3, 1, 1, ACT_TRAP_LAST.desc⟩,
    ⟨4, 1, 1, ACT_RECIRC_CNT.desc⟩,
    ⟨5, 1, 1, ACT_CS_ECC.desc⟩]

/-- Blocks 32 and above of a pipe (R616). -/
def pipeHighRows : Nat → List RegRow
  | 32 => [⟨0, 1, 1, PRS_CNT_PKT.desc⟩,
    ⟨1, 6, 1, PRS_CNT_ERR.desc⟩,
    ⟨7, 1, 1, PRS_LAST_ERR.desc⟩,
    ⟨8, 8, 1, PRS_CNT_PAY.desc⟩] ++ perfRows
  | 33 => perfRows
  | 34 => [⟨0, 256, 2, TBL_OCC.desc⟩,
    ⟨1, 256, 2, TBL_ERR.desc⟩]
  | 35 => [⟨0, 1, 1, PL_PIPE_STAT0.desc⟩,
    ⟨1, 1, 1, PL_PIPE_STAT1.desc⟩,
    ⟨2, 1, 1, PL_PIPE_STAT2.desc⟩] ++ perfRows
  | 36 => [⟨0, 1, 1, BUF_PIPE_STAT0.desc⟩,
    ⟨1, 1, 1, BUF_PIPE_STAT1.desc⟩,
    ⟨2, 1, 1, BUF_PIPE_STAT2.desc⟩,
    ⟨3, 1, 1, BUF_PIPE_STAT3.desc⟩,
    ⟨4, 1, 1, BUF_PIPE_STAT4.desc⟩] ++ perfRows
  | 37 => [⟨0, 1, 1, SCHED_PIPE_STAT0.desc⟩,
    ⟨1, 1, 1, SCHED_PIPE_STAT1.desc⟩] ++ perfRows
  | 38 => [⟨0, 1, 1, TEL_PIPE_STAT0.desc⟩,
    ⟨1, 1, 1, TEL_PIPE_STAT1.desc⟩] ++ perfRows
  | _ => []

/-- Blocks of a pipe (R616). -/
def pipeRows (blk : Nat) : List RegRow :=
  if blk < 32 then actRows ++ perfRows else pipeHighRows blk

/-- Blocks of the shared unit (R618). -/
def sharedRows : Nat → List RegRow
  | 0 => [⟨0, 1, 1, STRUCT_CTL.desc⟩,
    ⟨1, 1, 1, STRUCT_IMG_ADDR.desc⟩,
    ⟨2, 1, 1, STRUCT_IMG_LEN.desc⟩,
    ⟨4, 1, 1, STRUCT_STATUS.desc⟩,
    ⟨5, 1, 1, STRUCT_IMAGE_ID.desc⟩,
    ⟨8, 1, 1, STRUCT_VER_CFG.desc⟩,
    ⟨10, 1, 1, STRUCT_DISCARD_CNT.desc⟩,
    ⟨6, 1, 1, STRUCT_VERSION.desc⟩,
    ⟨7, 1, 1, STRUCT_VER_OLDEST.desc⟩,
    ⟨9, 1, 1, STRUCT_COMMIT.desc⟩,
    ⟨64, 64, 1, STRUCT_GROUP_STATUS.desc⟩,
    ⟨3, 1, 1, STRUCT_ENABLE_STATUS.desc⟩]
  | 3 => [⟨0, 1, 1, PATCH_CTL.desc⟩,
    ⟨1, 1, 1, PATCH_ADDR.desc⟩,
    ⟨2, 1, 1, PATCH_LEN.desc⟩,
    ⟨3, 1, 1, PATCH_ENABLE_STATUS.desc⟩,
    ⟨4, 1, 1, PATCH_STATUS.desc⟩,
    ⟨5, 1, 1, PATCH_MIN_LEVEL.desc⟩]
  | 4 => [⟨0, 1, 1, SEQ_STATUS.desc⟩,
    ⟨1, 1, 1, SEQ_ECC.desc⟩] ++ perfRows
  | 5 => [⟨0, 1, 1, SEQ_STATUS.desc⟩,
    ⟨1, 1, 1, SEQ_ECC.desc⟩] ++ perfRows
  | 6 => [⟨0, 1, 1, SEQ_STATUS.desc⟩,
    ⟨1, 1, 1, SEQ_ECC.desc⟩] ++ perfRows
  | 7 => [⟨0, 1, 1, PRS_G_CFG.desc⟩,
    ⟨1, 1, 1, PRS_IPV4_NODES.desc⟩,
    ⟨2, 1, 1, PRS_ERR_ACTION.desc⟩,
    ⟨3, 1, 1, PRS_PAT_CTL.desc⟩,
    ⟨4, 1, 1, PRS_PAT_ADDR.desc⟩,
    ⟨5, 1, 1, PRS_PAT_CMD.desc⟩,
    ⟨6, 4, 1, PRS_PAT_DATA.desc⟩]
  | 8 => [⟨0, 1, 1, TBL_PL_CFG.desc⟩,
    ⟨1, 1, 1, TBL_PL_STATUS.desc⟩,
    ⟨2, 1, 1, TBL_PL_MOVES.desc⟩,
    ⟨3, 1, 1, TBL_PL_PARITY_LAST.desc⟩]
  | 9 => [⟨0, 256, 1, TBL_INFO.desc⟩]
  | 10 => [⟨0, 1, 1, TBL_CMD.desc⟩,
    ⟨1, 1, 1, TBL_CMD_ARG.desc⟩,
    ⟨2, 1, 1, TBL_CMD_RESULT.desc⟩,
    ⟨3, 1, 1, TBL_CMD_STAT.desc⟩,
    ⟨4, 1, 1, TBL_CMD_CURSOR.desc⟩,
    ⟨8, 8, 1, TBL_CMD_KEY.desc⟩,
    ⟨16, 5, 1, TBL_CMD_MASK.desc⟩,
    ⟨24, 7, 1, TBL_CMD_DATA.desc⟩,
    ⟨32, 2, 1, TBL_CMD_RDHDR.desc⟩]
  | 11 => [⟨0, 256, 1, TBL_LRN_CFG.desc⟩,
    ⟨256, 256, 1, TBL_AGE_CFG.desc⟩]
  | 12 => [⟨0, 512, 1, LRN_PORT.desc⟩]
  | 13 => [⟨0, 512, 1, LRN_PORT.desc⟩]
  | 14 => [⟨0, 252, 1, TBL_VF_PERM.desc⟩,
    ⟨256, 1, 1, TBL_LRN_STAT.desc⟩]
  | 16 => [⟨0, 1, 1, PL_CTL.desc⟩,
    ⟨1, 1, 1, PL_ENABLE_STATUS.desc⟩,
    ⟨2, 1, 1, PL_FAB_CFG.desc⟩,
    ⟨3, 1, 1, PL_BEACON_CFG.desc⟩,
    ⟨4, 1, 1, PL_STEER_CFG.desc⟩,
    ⟨5, 1, 1, PL_HASH_CFG.desc⟩,
    ⟨6, 1, 1, PL_IOAM_CFG.desc⟩,
    ⟨7, 1, 1, PL_IND_ADDR.desc⟩,
    ⟨8, 1, 1, PL_IND_DATA.desc⟩,
    ⟨9, 1, 1, PL_IND_CMD.desc⟩,
    ⟨10, 1, 1, PL_STAT.desc⟩,
    ⟨11, 1, 1, PL_FAB_STATUS.desc⟩,
    ⟨64, 64, 1, PL_IOAM_TEN.desc⟩]
  | 17 => [⟨0, 128, 1, PL_LINK.desc⟩]
  | 18 => [⟨0, 128, 1, PL_LINK_CRED.desc⟩]
  | 20 => [⟨0, 1, 1, BUF_CTL.desc⟩,
    ⟨1, 1, 1, BUF_ENABLE_STATUS.desc⟩,
    ⟨2, 1, 1, BUF_G_CFG.desc⟩,
    ⟨3, 1, 1, BUF_G_ACTIVE.desc⟩,
    ⟨4, 1, 1, BUF_STATUS.desc⟩,
    ⟨5, 1, 1, BUF_FAULT_LAST.desc⟩,
    ⟨6, 1, 1, BUF_FAULT_CNT.desc⟩,
    ⟨7, 1, 1, BUF_RAKE_STAT.desc⟩]
  | 21 => [⟨0, 8, 1, BUF_POOL_CFG.desc⟩,
    ⟨8, 8, 1, BUF_POOL_STAT.desc⟩,
    ⟨16, 8, 1, BUF_POOL_DROP.desc⟩]
  | 22 => [⟨0, 1, 1, BUF_IND_ADDR.desc⟩,
    ⟨1, 2, 1, BUF_IND_DATA.desc⟩,
    ⟨3, 1, 1, BUF_IND_CMD.desc⟩]
  | 23 => [⟨0, 32, 1, BUF_RING_FILL.desc⟩]
  | 24 => [⟨0, 512, 1, BUF_PORT_CFG.desc⟩]
  | 25 => [⟨0, 512, 1, BUF_PORT_CFG.desc⟩]
  | 26 => [⟨0, 512, 1, BUF_PORT_CFG2.desc⟩]
  | 27 => [⟨0, 512, 1, BUF_PORT_CFG2.desc⟩]
  | 28 => [⟨0, 1, 1, SCHED_GATE_CTL.desc⟩,
    ⟨1, 1, 1, SCHED_ENABLE_STATUS.desc⟩,
    ⟨2, 1, 1, SCHED_GATE_TIME.desc⟩,
    ⟨3, 1, 1, SCHED_G_CFG.desc⟩,
    ⟨4, 1, 1, SCHED_STAT.desc⟩]
  | 29 => [⟨0, 1, 1, SCHED_IND_ADDR.desc⟩,
    ⟨1, 2, 1, SCHED_IND_DATA.desc⟩,
    ⟨3, 1, 1, SCHED_IND_CMD.desc⟩]
  | 30 => [⟨0, 512, 1, SCHED_PORT_CFG.desc⟩]
  | 31 => [⟨0, 512, 1, SCHED_PORT_CFG.desc⟩]
  | 32 => [⟨0, 512, 1, SCHED_PFC_MAP.desc⟩]
  | 33 => [⟨0, 512, 1, SCHED_PFC_MAP.desc⟩]
  | 34 => [⟨0, 512, 1, SCHED_PORT_STAT.desc⟩]
  | 35 => [⟨0, 512, 1, SCHED_PORT_STAT.desc⟩]
  | 40 => [⟨0, 1, 1, MTR_CTL.desc⟩,
    ⟨1, 1, 1, MTR_ENABLE_STATUS.desc⟩,
    ⟨2, 1, 1, MTR_CFG.desc⟩,
    ⟨3, 1, 1, MTR_CFG2.desc⟩,
    ⟨4, 1, 1, MTR_STATUS.desc⟩,
    ⟨5, 1, 1, MTR_LAST0.desc⟩,
    ⟨6, 1, 1, MTR_LAST1.desc⟩,
    ⟨7, 1, 1, MTR_STAT.desc⟩,
    ⟨8, 1, 1, MTR_NONCE.desc⟩,
    ⟨65, 63, 1, MTR_VF.desc⟩]
  | 41 => [⟨0, 1, 1, POST_CTL.desc⟩,
    ⟨1, 1, 1, POST_ENABLE_STATUS.desc⟩,
    ⟨2, 1, 1, POST_CFG.desc⟩,
    ⟨3, 1, 1, POST_TMPL_CFG.desc⟩,
    ⟨4, 1, 1, TRC_CFG.desc⟩,
    ⟨5, 1, 1, POST_STAT.desc⟩,
    ⟨6, 1, 1, FLOW_IND_ADDR.desc⟩,
    ⟨7, 1, 1, FLOW_IND_DATA.desc⟩,
    ⟨8, 1, 1, FLOW_IND_CMD.desc⟩,
    ⟨16, 16, 1, POST_TMPL.desc⟩]
  | 44 => [⟨0, 1, 1, HIF_CAPS.desc⟩,
    ⟨1, 1, 1, HIF_STATUS.desc⟩,
    ⟨2, 1, 1, HIF_STAT.desc⟩] ++ perfRows
  | 45 => [⟨0, 64, 1, HIF_VF.desc⟩]
  | 46 => [⟨0, 256, 1, HIF_HQ_MAP.desc⟩]
  | 48 => [⟨0, 512, 1, RING_ASSIGN.desc⟩]
  | 49 => [⟨0, 512, 1, RING_ASSIGN.desc⟩]
  | 50 => [⟨0, 512, 1, RING_STAT.desc⟩]
  | 51 => [⟨0, 512, 1, RING_STAT.desc⟩]
  | 52 => [⟨0, 1, 1, TIME_CTL.desc⟩,
    ⟨1, 1, 1, TIME_ENABLE_STATUS.desc⟩,
    ⟨2, 1, 1, TIME_NOW0.desc⟩,
    ⟨3, 1, 1, TIME_NOW1.desc⟩,
    ⟨4, 1, 1, TIME_SET0.desc⟩,
    ⟨5, 1, 1, TIME_SET1.desc⟩,
    ⟨6, 1, 1, TIME_STEP.desc⟩,
    ⟨7, 1, 1, TIME_SERVO_CFG.desc⟩,
    ⟨8, 1, 1, TIME_SERVO_THR.desc⟩,
    ⟨9, 1, 1, TIME_OFFSET.desc⟩,
    ⟨10, 1, 1, TIME_FREQ.desc⟩,
    ⟨11, 1, 1, TIME_STATUS.desc⟩,
    ⟨12, 1, 1, TIME_STAT.desc⟩,
    ⟨13, 1, 1, TIME_FAB_CFG.desc⟩,
    ⟨14, 1, 1, TIME_EVT_CFG.desc⟩,
    ⟨15, 1, 1, TIME_LAST_OFS.desc⟩,
    ⟨16, 1, 1, TIME_LAST_DELAY.desc⟩,
    ⟨32, 4, 4, TIME_PO_CTL.desc⟩,
    ⟨33, 4, 4, TIME_PO_START.desc⟩,
    ⟨34, 4, 4, TIME_PO_PERIOD.desc⟩,
    ⟨48, 4, 4, TIME_CAP_CTL.desc⟩,
    ⟨49, 4, 4, TIME_CAP0.desc⟩,
    ⟨50, 4, 4, TIME_CAP1.desc⟩]
  | 53 => [⟨0, 512, 1, TIME_PORT.desc⟩]
  | 54 => [⟨0, 512, 1, TIME_PORT.desc⟩]
  | 55 => [⟨0, 1, 1, CIPHER_LOCK.desc⟩,
    ⟨1, 1, 1, CIPHER_ENABLE_STATUS.desc⟩,
    ⟨2, 1, 1, CIPHER_CFG.desc⟩,
    ⟨3, 1, 1, CIPHER_IV0.desc⟩,
    ⟨4, 1, 1, CIPHER_IV1.desc⟩,
    ⟨5, 1, 1, CIPHER_LEN.desc⟩,
    ⟨6, 1, 1, CIPHER_CMD.desc⟩,
    ⟨7, 1, 1, CIPHER_STATUS.desc⟩,
    ⟨8, 2, 1, CIPHER_DIN.desc⟩,
    ⟨10, 2, 1, CIPHER_DOUT.desc⟩,
    ⟨12, 2, 1, CIPHER_TAG.desc⟩,
    ⟨14, 4, 1, CIPHER_KEY.desc⟩,
    ⟨18, 1, 1, CIPHER_KEY_CTL.desc⟩,
    ⟨19, 1, 1, CIPHER_SLOTS.desc⟩,
    ⟨20, 4, 1, CIPHER_KCV.desc⟩,
    ⟨24, 1, 1, CIPHER_STAT.desc⟩]
  | 56 => [⟨0, 1, 1, PWR_CTL.desc⟩,
    ⟨1, 1, 1, PWR_ENABLE_STATUS.desc⟩,
    ⟨2, 1, 1, PWR_CAP_CFG.desc⟩,
    ⟨3, 1, 1, PWR_THERM_CFG.desc⟩,
    ⟨4, 1, 1, PWR_EXT_LIMIT.desc⟩,
    ⟨5, 1, 1, PWR_STATUS.desc⟩,
    ⟨6, 1, 1, PWR_STAT.desc⟩,
    ⟨7, 5, 1, PWR_THR_ACC.desc⟩,
    ⟨12, 1, 1, PWR_EVT_CFG.desc⟩,
    ⟨13, 1, 1, PWR_WAKE_TIME.desc⟩,
    ⟨32, 32, 1, PWR_PIPE_CFG.desc⟩,
    ⟨64, 32, 1, PWR_PIPE_STAT.desc⟩]
  | 57 => [⟨0, 1, 1, FLT_CFG.desc⟩,
    ⟨1, 1, 1, FLT_STATUS.desc⟩,
    ⟨2, 1, 1, FLT_HIST_PTR.desc⟩,
    ⟨3, 1, 1, FLT_INJ.desc⟩,
    ⟨4, 1, 1, FLT_RESET.desc⟩,
    ⟨32, 32, 1, FLT_PEND.desc⟩]
  | 58 => [⟨0, 64, 4, FLT_HIST.desc⟩,
    ⟨1, 64, 4, FLT_HIST.desc⟩,
    ⟨2, 64, 4, FLT_HIST.desc⟩]
  | 59 => [⟨0, 32, 1, CH_STAT.desc⟩]
  | 60 => [⟨0, 512, 1, FLT_SRC.desc⟩]
  | 61 => [⟨0, 512, 1, FLT_SRC.desc⟩]
  | 62 => [⟨0, 512, 1, FLT_SRC.desc⟩]
  | 63 => [⟨0, 512, 1, FLT_SRC.desc⟩]
  | _ => []

/-- Blocks of the package-global unit (R619). -/
def packageRows : Nat → List RegRow
  | 0 => [⟨0, 1, 1, PKG_ID.desc⟩,
    ⟨1, 1, 1, PKG_CAPS.desc⟩,
    ⟨2, 1, 1, PKG_SERIAL.desc⟩]
  | 1 => [⟨0, 1, 1, CLK_STATUS.desc⟩,
    ⟨1, 2, 1, CLK_LANE_LOCK.desc⟩]
  | 2 => [⟨0, 1, 1, PKG_BOOT_STATUS.desc⟩,
    ⟨1, 1, 1, PKG_SELFTEST.desc⟩,
    ⟨2, 1, 1, PKG_STRAPS.desc⟩,
    ⟨3, 1, 1, PKG_RST_CTL.desc⟩]
  | 3 => [⟨0, 1, 1, PKG_PIN_STATUS.desc⟩,
    ⟨1, 1, 1, PKG_AVS_STATUS.desc⟩,
    ⟨2, 1, 1, PKG_SMB_STAT.desc⟩]
  | 4 => [⟨0, 1, 1, PKG_SUMMARY0.desc⟩,
    ⟨1, 1, 1, PKG_SUMMARY1.desc⟩,
    ⟨2, 1, 1, PKG_REGMAP.desc⟩]
  | _ => []

/-- Lane and port registers by number j (R440). -/
def laneRows : List RegRow :=
   [⟨0, 1, 1, LANE_CFG.desc⟩,
    ⟨1, 1, 1, LANE_EQ.desc⟩,
    ⟨2, 1, 1, LANE_STATUS.desc⟩,
    ⟨3, 1, 1, LANE_PRBS.desc⟩,
    ⟨4, 1, 1, LANE_PRBS_CNT.desc⟩,
    ⟨5, 1, 1, LANE_PRBS_USER.desc⟩,
    ⟨16, 1, 1, PORT_CTL.desc⟩,
    ⟨17, 1, 1, PORT_ENABLE_STATUS.desc⟩,
    ⟨18, 1, 1, PORT_CFG.desc⟩,
    ⟨19, 1, 1, PORT_MAC.desc⟩,
    ⟨20, 1, 1, PORT_EEE.desc⟩,
    ⟨21, 1, 1, PORT_STATUS.desc⟩,
    ⟨22, 1, 1, PORT_RX0.desc⟩,
    ⟨23, 1, 1, PORT_RX1.desc⟩,
    ⟨24, 1, 1, PORT_RX2.desc⟩,
    ⟨25, 1, 1, PORT_RX3.desc⟩,
    ⟨26, 1, 1, PORT_TX0.desc⟩,
    ⟨27, 1, 1, PORT_TX1.desc⟩,
    ⟨28, 1, 1, PORT_TX2.desc⟩,
    ⟨29, 1, 1, PORT_FEC0.desc⟩,
    ⟨30, 1, 1, PORT_FEC1.desc⟩,
    ⟨31, 1, 1, PORT_INJ.desc⟩]

/-- Registers of one ring slot (R480). -/
def slotRows : List RegRow :=
   [⟨0, 1, 1, RING_DB.desc⟩,
    ⟨1, 1, 1, RING_INVAL.desc⟩,
    ⟨2, 1, 1, RING_ABORT.desc⟩,
    ⟨3, 1, 1, RING_CTL.desc⟩,
    ⟨4, 1, 1, RING_ENABLE_STATUS.desc⟩,
    ⟨5, 1, 1, RING_ADDR.desc⟩,
    ⟨6, 1, 1, RING_CFG.desc⟩,
    ⟨7, 1, 1, RING_POS.desc⟩]

/-- The fields of the register at index `idx` of a block, none where the index decodes to no register (R615). -/
def rowAt (rows : List RegRow) (idx : Nat) : List FDesc :=
  match rows.find? (fun r => r.idx ≤ idx && (idx - r.idx) % r.stride == 0 && (idx - r.idx) / r.stride < r.count) with
  | some r => r.fields
  | none => []

/-- Registers of a lane-macro block of an I/O die (R617). -/
def ioRow (idx : Nat) : List FDesc :=
  if idx < 256 then rowAt laneRows (idx % 32)
  else if idx = 256 then LM_STATUS.desc
  else rowAt perfRows idx

/-- FLT_SRCn of a source that R531 does not list reads 0 and ignores writes. -/
def sourceListed (n : Nat) : Bool :=
  if n < 1536 then n % 48 < 40 else n < 1706

/-- Fields of the register at a BAR0 offset; the empty list where it decodes to no register (R612-R615). -/
def bar0Desc (off : Nat) : List FDesc :=
  let die := off / 0x1000000
  let unit := off / 0x40000 % 64
  let blk := off / 0x1000 % 64
  let idx := off / 8 % 512
  if off % 8 ≠ 0 then []
  else if die = 0 then
    if unit < 32 then rowAt (pipeRows blk) idx
    else if unit = 32 then
      if 60 ≤ blk && !sourceListed ((blk - 60) * 512 + idx) then [] else rowAt (sharedRows blk) idx
    else []
  else if die ≤ 8 then
    if unit / 4 = die - 1 && blk < 4 then ioRow idx else []
  else if die = 15 && unit = 32 then rowAt (packageRows blk) idx
  else []

/-- Ring slots of a function in BAR2: 1,024 of the PF, 64 of a VF (R445, R446). -/
def slotCount (f : Nat) : Nat := if f = 0 then 1024 else 64

/-- MSI-X vectors of a function (R451): 2,048 of the PF, 64 of a VF. -/
def vectorCount (f : Nat) : Nat := if f = 0 then 2048 else 64

/-- BAR2 offset of a function's MSI-X table and of its pending bits. -/
def msixTable (f : Nat) : Nat := if f = 0 then 0x10000 else 0x2000

def msixPba (f : Nat) : Nat := if f = 0 then 0x18000 else 0x3000

/-- One MSI-X entry is two 64-bit words: address; data with the vector mask in bit 32 (PCI Express). -/
def msixDesc (odd : Bool) : List FDesc :=
  if odd then [⟨0, 32, .rw, 0⟩, ⟨32, 1, .rw, 1⟩] else [⟨2, 62, .rw, 0⟩]

/-- Fields of the register of function `f` at BAR2 offset `off` (R445-R447, R451). -/
def bar2Desc (f off : Nat) : List FDesc :=
  if f ≥ 64 then []
  else if off < slotCount f * 64 then rowAt slotRows (off / 8 % 8)
  else if msixTable f ≤ off && off < msixTable f + 16 * vectorCount f then msixDesc (off / 8 % 2 = 1)
  else if msixPba f ≤ off && off < msixPba f + vectorCount f / 8 then [⟨0, 64, .ro, 0⟩]
  else []

/-- Fields of the register with key `k`. -/
def regDesc (k : Nat) : List FDesc :=
  if k < 0x10000000 then bar0Desc k
  else if k % 8 ≠ 0 then [] else bar2Desc ((k - 0x10000000) / 0x20000) ((k - 0x10000000) % 0x20000)

/-- The value whose fields hold their Reset column. -/
def descReset (l : List FDesc) : Nat := l.foldl (fun a d => a + d.reset * 2 ^ d.lo) 0

/-- What a register reads as when nothing has changed it since a cold reset (R12). -/
def regReset (k : Nat) : Word := BitVec.ofNat 64 (descReset (regDesc k))

end Sys2Proof.Machine
end

