-- ==== Sys2Proof/Machine/Bits.lean ====
section
/-! DEFINITION. Plain arithmetic every unit uses: sparse memories in canonical form, bit fields of numbers, byte
orders (00_scope.md R9), saturating and wrapping counts, signed readings, ones' complement sums and the CRCs. -/

namespace Sys2Proof.Machine

/-! Sparse memories: strictly rising keys, and no entry equal to what an unlisted key reads as. -/

/-- The value at key `k`: what is listed, else the default `d k`. -/
def smGet {α : Type} (d : Nat → α) : List (Nat × α) → Nat → α
  | [], k => d k
  | (a, v) :: t, k => if k = a then v else smGet d t k

/-- The memory without key `k`. -/
def smErase {α : Type} : List (Nat × α) → Nat → List (Nat × α)
  | [], _ => []
  | (a, v) :: t, k => if k = a then smErase t k else (a, v) :: smErase t k

/-- The memory with `v` listed at key `k`, keys still rising. -/
def smInsert {α : Type} : List (Nat × α) → Nat → α → List (Nat × α)
  | [], k, v => [(k, v)]
  | (a, w) :: t, k, v =>
    if k < a then (k, v) :: (a, w) :: t
    else if k = a then (k, v) :: t
    else (a, w) :: smInsert t k v

/-- Write `v` at key `k`, keeping the canonical form: writing the default removes the entry. -/
def smPut {α : Type} [DecidableEq α] (d : Nat → α) (m : List (Nat × α)) (k : Nat) (v : α) : List (Nat × α) :=
  if v = d k then smErase m k else smInsert m k v

/-- The canonical form: keys strictly rising above `lo`, no entry equal to its default. -/
def smWf {α : Type} [DecidableEq α] (d : Nat → α) : List (Nat × α) → Option Nat → Bool
  | [], _ => true
  | (a, v) :: t, lo =>
    (match lo with | none => true | some b => decide (b < a)) && !(decide (v = d a)) && smWf d t (some a)

/-- Write many entries, first to last. -/
def smPutAll {α : Type} [DecidableEq α] (d : Nat → α) (m : List (Nat × α)) : List (Nat × α) → List (Nat × α)
  | [] => m
  | (k, v) :: t => smPutAll d (smPut d m k v) t

/-! Bit fields of numbers. -/

/-- Bits [lo + w - 1 : lo] of `v`. -/
def bitsOf (v lo w : Nat) : Nat := v / 2 ^ lo % 2 ^ w

/-- Bit `i` of `v`. -/
def bitAt (v i : Nat) : Bool := v / 2 ^ i % 2 = 1

/-- `v` with bits [lo + w - 1 : lo] holding `x`. -/
def setBits (v lo w x : Nat) : Nat := v - bitsOf v lo w * 2 ^ lo + x % 2 ^ w * 2 ^ lo

def b2n (b : Bool) : Nat := if b then 1 else 0

/-- The signed reading of a `w`-bit number (two's complement). -/
def signed (w v : Nat) : Int :=
  if v % 2 ^ w < 2 ^ (w - 1) then (v % 2 ^ w : Nat) else ((v % 2 ^ w : Nat) : Int) - (2 ^ w : Nat)

/-- The `w`-bit two's complement of an integer. -/
def toBits (w : Nat) (i : Int) : Nat := (i % ((2 ^ w : Nat) : Int)).toNat

def clampInt (lo hi i : Int) : Int := if i < lo then lo else if hi < i then hi else i

/-- Saturating sum in `w` bits. -/
def satAdd (w a b : Nat) : Nat := min (a + b) (2 ^ w - 1)

/-- The signed 48-bit difference of wrap times (R31). -/
def wrapDiff (current target : Nat) : Int := signed 48 (toBits 48 ((current : Int) - (target : Int)))

/-- The target wrap time has been reached (R31). -/
def wrapReached (current target : Nat) : Bool := 0 ≤ wrapDiff current target

/-! Byte orders. -/

/-- `n` bytes, least significant first. -/
def leBytes : Nat → Nat → List Byte
  | 0, _ => []
  | n + 1, v => BitVec.ofNat 8 v :: leBytes n (v / 256)

def ofLe : List Byte → Nat
  | [] => 0
  | b :: t => b.toNat + 256 * ofLe t

/-- `n` bytes in network order. -/
def beBytes (n v : Nat) : List Byte := (leBytes n v).reverse

def ofBe (l : List Byte) : Nat := l.foldl (fun a b => a * 256 + b.toNat) 0

/-- `n` bytes from `off`; bytes beyond the end read 0. -/
def slice (l : List Byte) (off n : Nat) : List Byte :=
  let got := (l.drop off).take n
  got ++ List.replicate (n - got.length) 0

/-- Little-endian field of `n` bytes at `off`. -/
def leAt (l : List Byte) (off n : Nat) : Nat := ofLe (slice l off n)

/-- Network-order field of `n` bytes at `off`. -/
def beAt (l : List Byte) (off n : Nat) : Nat := ofBe (slice l off n)

/-- `l` with the bytes from `off` on replaced by `new`; a place beyond the end is left out. -/
def patchBytes (l : List Byte) (off : Nat) (new : List Byte) : List Byte :=
  let n := min new.length (l.length - off)
  l.take off ++ new.take n ++ l.drop (off + n)

/-- Words of `n` bytes each, little-endian. -/
def leWords (n : Nat) : Nat → List Byte → List Nat
  | 0, _ => []
  | k + 1, l => leAt l 0 n :: leWords n k (l.drop n)

/-- `l` with element `i` replaced. -/
def setAt {α : Type} (l : List α) (i : Nat) (v : α) : List α := l.set i v

def nth (l : List Nat) (i : Nat) : Nat := l.getD i 0

/-! Checks. -/

/-- Ones' complement sum of 16-bit network-order words, odd byte padded with 0. -/
def onesSum : List Byte → Nat
  | [] => 0
  | [a] => a.toNat * 256
  | a :: b :: t =>
    let x := a.toNat * 256 + b.toNat + onesSum t
    x % 65536 + x / 65536

/-- The Internet checksum of a header whose checksum field reads 0. -/
def inetChecksum (l : List Byte) : Nat := 65535 - onesSum l

/-- One byte of a reflected CRC: eight shifts. -/
def crcByteR (poly : Nat) : Nat → Nat → Nat
  | 0, c => c
  | n + 1, c => crcByteR poly n (if c % 2 = 1 then (c / 2) ^^^ poly else c / 2)

def crcR (poly init : Nat) (l : List Byte) : Nat :=
  l.foldl (fun c b => crcByteR poly 8 (c ^^^ b.toNat)) init

/-- CRC-32C (Castagnoli), reflected, complemented. -/
def crc32c (l : List Byte) : Nat := crcR 0x82F63B78 0xFFFFFFFF l ^^^ 0xFFFFFFFF

/-- The Ethernet FCS value (IEEE 802.3), reflected, complemented. -/
def crc32 (l : List Byte) : Nat := crcR 0xEDB88320 0xFFFFFFFF l ^^^ 0xFFFFFFFF

/-- One byte of an unreflected CRC of width `w`. -/
def crcStepL (w poly : Nat) : Nat → Nat → Nat
  | 0, c => c
  | n + 1, c => crcStepL w poly n (if bitAt c (w - 1) then (c * 2 % 2 ^ w) ^^^ poly else c * 2 % 2 ^ w)

/-- CRC of width `w ≥ 8`, most significant bit first. -/
def crcL (w poly init : Nat) (l : List Byte) : Nat :=
  l.foldl (fun c b => crcStepL w poly 8 (c ^^^ (b.toNat * 2 ^ (w - 8)))) init

/-! Lists. -/

/-- Rotate through `n` candidates after `last`: last+1, last+2, … , last. -/
def rotation (n last : Nat) : List Nat := (List.range n).map (fun i => (last + 1 + i) % n)

def sumNat (l : List Nat) : Nat := l.foldl (· + ·) 0

def minNat? (l : List Nat) : Option Nat :=
  l.foldl (fun a x => match a with | none => some x | some y => some (min x y)) none

/-- The quotient rounded up. -/
def ceilDiv (a b : Nat) : Nat := (a + b - 1) / b

end Sys2Proof.Machine
end

