-- ==== Sys2Proof/Machine/Operands.lean ====
section
/-! DEFINITION. The microword and op slot formats and every operand form (03_action_microcode.md R114-R117). A
microword is a 256-bit number, an op slot a 56-bit number. -/

namespace Sys2Proof.Machine

/-! ### Microword fields (R114) -/

def mwNext (w : Nat) : Nat := bitsOf w 0 15

def mwRecirc (w : Nat) : Bool := bitAt w 15

def mwNextSel (w : Nat) : Nat := bitsOf w 16 2

def mwRecircSelf (w : Nat) : Bool := bitAt w 18

def mwRecircPipe (w : Nat) : Nat := bitsOf w 19 5

def mwLookup (w : Nat) : Bool := bitAt w 24

def mwTable (w : Nat) : Nat := bitsOf w 25 8

def mwKeyWord (w : Nat) : Nat := bitsOf w 33 7

def mwResWord (w : Nat) : Nat := bitsOf w 40 7

def mwReserved (w : Nat) : Nat := bitsOf w 47 9

def mwImm (w : Nat) : Nat := bitsOf w 56 32

/-- Op slot `i` of the word, 0 to 2. -/
def mwOp (w i : Nat) : Nat := bitsOf w (88 + 56 * i) 56

def mwOps (w : Nat) : List Nat := [mwOp w 0, mwOp w 1, mwOp w 2]

/-- Stage and word of a 15-bit address. -/
def addrStage (a : Nat) : Nat := bitsOf a 10 5

def addrWord (a : Nat) : Nat := bitsOf a 0 10

/-! ### Op slot fields (R115) -/

def opCode (o : Nat) : Nat := bitsOf o 0 6

def opCondEn (o : Nat) : Bool := bitAt o 6

def opCond (o : Nat) : Nat := bitsOf o 7 3

def opSetFlags (o : Nat) : Bool := bitAt o 10

def opDst (o : Nat) : Nat := bitsOf o 11 10

def opA (o : Nat) : Nat := bitsOf o 21 10

def opB (o : Nat) : Nat := bitsOf o 31 10

def opLo (o : Nat) : Nat := bitsOf o 41 5

def opW (o : Nat) : Nat := bitsOf o 46 5

def opReserved (o : Nat) : Nat := bitsOf o 51 5

/-! ### Operand forms (R116) -/

/-- What a 10-bit operand names. -/
inductive Operand where
  | word (index : Nat)
  | imm
  | const (value : Nat)
  | bad
  deriving DecidableEq, Repr

/-- Decode an operand; a form that R116 does not list is `bad`. Scratch register r is word 28 + r. -/
def operandOf (x : Nat) : Operand :=
  let space := bitsOf x 8 2
  let top := bitAt x 7
  let i := bitsOf x 0 7
  if top then .bad
  else if space = 0 then .word i
  else if space = 1 then (if i < 4 then .word (28 + i) else .bad)
  else if space = 2 then (if i = 0 then .imm else .bad)
  else .const i

/-- A source form is listed. -/
def sourceOk (x : Nat) : Bool := operandOf x ≠ .bad

/-- A destination form is listed: space 0 or 1. -/
def destOk (x : Nat) : Bool :=
  match operandOf x with
  | .word _ => bitsOf x 8 2 < 2
  | _ => false

/-- The metadata word a destination names. -/
def destWord (x : Nat) : Nat :=
  match operandOf x with
  | .word w => w
  | _ => 0

/-- Opcodes of R117; CALL and RETURN only in compatibility mode (R133). -/
def opKnown (compat : Bool) (c : Nat) : Bool :=
  c ≤ 0x10 || c = 0x20 || c = 0x21 || (compat && (c = 0x22 || c = 0x23))

/-- The opcode writes dst. -/
def opWritesDst (c : Nat) : Bool := (1 ≤ c && c ≤ 0x0C) || c = 0x0E || c = 0x0F

/-- TRAP, RESUME, CALL or RETURN. -/
def opControl (c : Nat) : Bool := 0x20 ≤ c && c ≤ 0x23

/-- The word holds RESUME or RETURN: its next_addr is never used (R121). -/
def mwReturns (w : Nat) : Bool := (mwOps w).any (fun o => opCode o = 0x21 || opCode o = 0x23)

/-! ### Metadata words (R110) -/

/-- A static destination may name the word (R119): not the trap frame, control state or reserved words by space 0. -/
def staticDest (x : Nat) : Bool :=
  let w := destWord x
  bitsOf x 8 2 = 1 || !((16 ≤ w && w ≤ 27) || (35 ≤ w && w ≤ 39))

/-- The value of a source operand. -/
def sourceVal (md : List Nat) (imm x : Nat) : Nat :=
  match operandOf x with
  | .word w => nth md w
  | .imm => imm
  | .const v => v
  | .bad => 0

/-- The 32 stored bytes of a microword (R114). -/
def mwBytes (w : Nat) : List Byte := leBytes 32 w

end Sys2Proof.Machine
end

