-- ==== Sys2Proof/Machine/Flags.lean ====
section
/-! DEFINITION. The action unit's flags H, Z and N and every condition (03_action_microcode.md R117, R118). The
flags stand in bits 26, 27 and 28 of metadata word 24 (R111). -/

namespace Sys2Proof.Machine

structure MFlags where
  h : Bool
  z : Bool
  n : Bool
  deriving DecidableEq, Repr

/-- The flags held in word 24. -/
def flagsOf (w24 : Nat) : MFlags := ⟨bitAt w24 26, bitAt w24 27, bitAt w24 28⟩

/-- Word 24 with the flags replaced. -/
def putFlags (w24 : Nat) (f : MFlags) : Nat :=
  setBits (setBits (setBits w24 26 1 (b2n f.h)) 27 1 (b2n f.z)) 28 1 (b2n f.n)

/-- Z is set when the result is 0, N to result bit 31. -/
def flagsFrom (f : MFlags) (r : Nat) : MFlags := { f with z := r % 2 ^ 32 = 0, n := bitAt r 31 }

/-- The condition of an op slot (R118). -/
def condHolds (c : Nat) (f : MFlags) : Bool :=
  match c with
  | 0 => f.z
  | 1 => !f.z
  | 2 => f.n
  | 3 => !f.n
  | 4 => f.z || f.n
  | 5 => !f.z && !f.n
  | 6 => f.h
  | _ => !f.h

/-- Flags as saved in a trap frame: H, Z, N in bits 0, 1, 2 (R130). -/
def flagsPack (f : MFlags) : Nat := b2n f.h + 2 * b2n f.z + 4 * b2n f.n

def flagsUnpack (v : Nat) : MFlags := ⟨bitAt v 0, bitAt v 1, bitAt v 2⟩

end Sys2Proof.Machine
end

