-- ==== Sys2Proof/Machine/State.lean ====
section
/-! DEFINITION. The whole state of the device as plain data, what it has sent, the outcomes' reasons, and the state
after a cold reset. Sparse memories list (key, value) pairs in canonical form (see smWf in Machine/Bits.lean). -/

namespace Sys2Proof.Machine

/-- Why the block would stop. No meaning of this model stops with a fault: the device's own faults are state (R534). -/
inductive Fault where
  /-- Raised by nothing; the type must have an inhabitant to be named. Safe. -/
  | never
  deriving DecidableEq, Repr

/-- Why a command has no meaning. -/
inductive Refusal where
  /-- The command is not modelled yet; raised only by exec's own arm for it. Safe. -/
  | notModelled (mnemonic : String)
  deriving DecidableEq, Repr

/-- What the device sends out of the package. Times are wrap nanoseconds. -/
inductive Out where
  /-- A host memory write of function `f`, at most Max Payload Size long (R448, R449). -/
  | hostWrite (f addr : Nat) (bytes : List Byte)
  /-- A host memory read of function `f`, at most Max Read Request Size long (R448). -/
  | hostRead (f addr len : Nat)
  /-- An MSI-X message (R451). -/
  | msix (f vector : Nat)
  /-- A frame on a port, FCS included; on a Ristlink port as it joins the stream. -/
  | frame (port : Nat) (bytes : List Byte)
  /-- A Ristlink control item, as it joins its port's stream (R263). -/
  | item (port : Nat) (bytes : List Byte)
  /-- A Ristlink codeword's line symbols on a lane, stuffing included (R421, R425). -/
  | codeword (lane : Nat) (line : List Nat)
  /-- An Ethernet training frame's request, acknowledgement or status on a lane (R418). -/
  | train (lane : Nat) (word : Nat)
  /-- Clause 73 abilities of a port: its speeds, the RS-FEC request and EEE (R409). -/
  | abilities (port speeds : Nat) (fec eee : Bool)
  /-- A port begins or ends to send remote fault (R407). -/
  | fault (port : Nat) (on : Bool)
  /-- A pulse output edge (R499). -/
  | pulse (k : Nat) (high : Bool) (wrap : Nat)
  /-- An SMBus answer: data bytes, none where the byte was not acknowledged (R603). -/
  | smb (data : Option (List Byte))
  /-- An AVSBus voltage write in mV (R600). -/
  | avs (mv : Nat)
  /-- A test access port answer (R606). -/
  | tdo (bits : Nat)
  /-- The pins driven from the boundary cells, none where the outputs float (R607). -/
  | pins (cells : Option (List Byte))
  /-- A configuration read completion (R444, R445). -/
  | config (f value : Nat)
  /-- One bit of a lane's test pattern flipped (R435). -/
  | flip (lane : Nat)
  /-- One FEC codeword of a port sent with symbols corrupted (R435). -/
  | corrupt (port symbols : Nat)
  deriving DecidableEq, Repr

/-- The enables and commands that run a check reported under R19. -/
inductive CheckOp where
  | ringEnable (r : Nat)
  | portEnable (p : Nat)
  | buffer | gate | placement | metering | postcards
  | servo | fabTime | timeSet | timeStep | pulseArm (k : Nat)
  | power | brineEnter | brineExit
  | cipherStart | cipherAad | cipherText | cipherFinish | cipherAbandon
  | cipherMany (key : Bool)
  | keyLoad | keyClear | keyProvision
  | image | patch
  deriving DecidableEq, Repr

/-- A running check: its ENABLE_STATUS register, what it judges, and the values it captured. -/
structure Check where
  key : Nat
  op : CheckOp
  args : List Nat
  deriving DecidableEq, Repr

/-! ### Host interface (12_host_interface_rings.md) -/

/-- Configuration-space state of one function that the spec's rules read (R444, R448, R451, R475). -/
structure FnCfg where
  memSpace : Bool := false
  busMaster : Bool := false
  msixEnable : Bool := false
  msixMask : Bool := false
  relaxed : Bool := true
  tenBitTag : Bool := false
  maxPayload : Nat := 0
  maxRead : Nat := 2
  deriving DecidableEq, Repr

/-- An entry taken and not yet completed (R460): its words as read, and the completed words once ready. -/
structure Taken where
  words : List Word
  result : Option (List Word)
  deriving DecidableEq, Repr

/-- Positions and state of one ring (R458-R474). `copies` are the prefetched entries T to S - 1. -/
structure RingSt where
  complete : Nat := 0
  take : Nat := 0
  copies : List (List Word) := []
  scanning : Bool := false
  again : Bool := false
  inval : Bool := false
  abortScan : Bool := false
  aborting : Bool := false
  taken : List Taken := []
  unsignalled : Nat := 0
  dueEvents : List (List Word) := []
  lostCount : Nat := 0
  lostFirst : Nat := 0
  lostLast : Nat := 0
  lastHq : Nat := 255
  deriving DecidableEq, Repr

/-- A host memory write waiting under R450. -/
structure Held where
  func : Nat
  item : Out
  deriving DecidableEq, Repr

/-- A frame read for an INJECT entry, waiting for its parser (R465); `ring` 1,024 means the exporter (R395). -/
structure Inject where
  ring : Nat
  index : Nat
  pipe : Nat
  tenant : Nat
  bd : Nat
  bclass : Nat
  post : Bool
  exported : Bool
  bytes : List Byte
  deriving DecidableEq, Repr

/-- `flr` lists the functions whose running reset is a Function Level Reset; `scans` the rings whose entries are being
read, in the order in which the reading began (R448, R458). -/
structure HostSt where
  fns : List (Nat × FnCfg) := []
  vfEnable : Bool := false
  numVfs : Nat := 0
  vfMemSpace : Bool := false
  msixPend : List (Nat × Bool) := []
  rings : List (Nat × RingSt) := []
  scans : List Nat := []
  held : List Held := []
  inject : List Inject := []
  aerCorr : Nat := 0
  aerUncorr : Nat := 0
  aerFirst : Nat := 0
  aerHeader : List Nat := [0, 0, 0, 0]
  pfReset : Bool := false
  flr : List Nat := []
  deriving DecidableEq, Repr

/-! ### Fault collection (15_faults.md) -/

/-- What a slot of a channel's queue holds, and what the consumer receives from an empty channel (R55, R545, R547): a
control item of a port, or a 256-byte cell of a frame. -/
inductive ChItem where
  | idle
  | control (port : Nat)
  | cell (port : Nat) (lossless : Bool)
  deriving DecidableEq, Repr

/-- One receive queue of a die-to-die channel direction: its pointers in their copies A and B, 7 bits each, the
producer's credits, and the items in it, oldest first (R545-R548). -/
structure ChQueue where
  writeA : Nat
  writeB : Nat
  readA : Nat
  readB : Nat
  credits : Nat
  items : List ChItem
  deriving DecidableEq, Repr

/-- A run of channel resets (R552): the clock of its first reset, the resets begun, and whether the last was raised
as FATAL. -/
structure ChRun where
  first : Nat
  count : Nat
  escalated : Bool
  deriving DecidableEq, Repr

structure FaultSt where
  unread : Nat := 0
  seq : Nat := 0
  repeats : List (Nat × Nat) := []
  lastCorr : List (Nat × Option Nat) := []
  running : List UnitId := []
  requested : Option UnitId := none
  chipAt : Option Nat := none
  stopped : List Nat := []
  chRuns : List (Nat × Option ChRun) := []
  channels : List (Nat × ChQueue) := []
  deriving DecidableEq, Repr

/-! ### Time (13_time.md) -/

/-- The last accepted item of a time link (R496, R497). Times are full nanoseconds times 2^16. -/
structure TimeLink where
  port : Nat
  sourceValid : Bool
  parentFlag : Bool
  distance : Nat
  srcChip : Nat
  srcPrio : Nat
  seq : Nat
  txTs : Nat
  rxTs : Nat
  deriving DecidableEq, Repr

/-- One armed pulse output (R499): captured settings and its next edge in full nanoseconds. -/
structure Pulse where
  mode : Nat
  polarity : Bool
  width : Nat
  start : Nat
  period : Nat
  next : Nat
  high : Bool
  stopping : Bool
  fired : Bool
  deriving DecidableEq, Repr

/-- A fabric sample waiting for the servo: its port and offset in 2^-16 ns (R498). -/
structure FabSample where
  port : Nat
  offset : Int
  deriving DecidableEq, Repr

/-- Device time in units of 2^-40 ns with the carried quarter units (R486). -/
structure TimeSt where
  total : Nat := 0
  quarter : Nat := 0
  samples : List Int := []
  fab : Option FabSample := none
  lockRun : Nat := 0
  links : List TimeLink := []
  sent : List (Nat × Nat) := []
  lastDelay : Option Int := none
  pulses : List (Nat × Option Pulse) := []
  capLast : List (Nat × Option Nat) := []
  capUnread : List (Nat × Bool) := []
  stepped : Bool := false
  deriving DecidableEq, Repr

/-! ### Power (14_power_thermal.md) -/

/-- The values an accepted apply makes active (R528). Ratios are codes. -/
structure PwrActive where
  cap : Nat
  upSlope : Nat
  downSlope : Nat
  brineDrain : Nat
  throttleC : Nat
  releaseC : Nat
  tripC : Nat
  nominal : List Nat
  maxRatio : List Nat
  deriving DecidableEq, Repr

structure PowerSt where
  active : PwrActive
  staged : Option PwrActive := none
  windows : List (Nat × List Nat) := []
  targets : List Nat := []
  moves : List Nat := []
  capReason : Bool := false
  fastIdle : Bool := false
  rampIdle : Bool := false
  dummy : Bool := false
  droopIdle : Bool := false
  floor : Bool := false
  modelEpoch : Nat := 0
  corePower : Nat := 0
  held : Bool := false
  railWait : Bool := false
  attempts : Nat := 0
  evtLast : Option Nat := none
  evtDue : Option Nat := none
  deriving DecidableEq, Repr

/-! ### Cipher engine (16_cipher_engine.md) -/

structure KeySlot where
  valid : Bool := false
  aes256 : Bool := false
  locked : Bool := false
  failed : Bool := false
  key : List Byte := []
  deriving DecidableEq, Repr

/-- A block being worked on: 0 associated data, 1 text. -/
structure CipherBlock where
  text : Bool
  bytes : List Byte
  deriving DecidableEq, Repr

structure CipherSt where
  slots : List (Nat × KeySlot)
  waitHost : Bool := false
  waitLoader : Bool := false
  waitHarvester : Bool := false
  waitSince : Nat := 0
  running : Bool := false
  slot : Nat := 0
  decrypt : Bool := false
  aadLen : Nat := 0
  textLen : Nat := 0
  iv : List Byte := []
  expect : List Byte := []
  ghash : Nat := 0
  aadDone : Nat := 0
  textDone : Nat := 0
  block : Option CipherBlock := none
  finishing : Bool := false
  provisioning : Bool := false
  fuse2 : Option KeySlot := none
  deriving DecidableEq, Repr

/-! ### Reset and pins (17_startup.md, 18_package_pins.md) -/

/-- Reset progress (R580-R587): a warm reset runs; its work is done but PERST_N is still asserted; the straps as
sampled. -/
structure BootSt where
  warm : Bool := false
  waits : Bool := false
  smba : Nat := 0
  test : Bool := false
  deriving DecidableEq, Repr

/-- What the boundary cells do while a test instruction is in effect (R606, R607). -/
inductive TapInstr where
  | bypass | idcode | samplePreload | extest | extestPulse | extestTrain | clamp | highz
  deriving DecidableEq, Repr

/-- Pin levels (`perst` and `trst` are the levels at PERST_N and TRST_N), the test instruction in effect, the boundary
cells, and whether forwarding has stopped for a test (R607). -/
structure PinSt where
  perst : Bool := false
  trst : Bool := false
  tpi : Nat := 0
  tpo : Nat := 0
  tap : TapInstr := .idcode
  cells : List Byte := []
  stopped : Bool := false
  deriving DecidableEq, Repr

/-! ### Structure image and rule versions (02_structure_image.md) -/

structure Transition where
  value : Nat
  mask : Nat
  next : Nat
  deriving DecidableEq, Repr

structure Extraction where
  src : Nat
  width : Nat
  dst : Nat
  deriving DecidableEq, Repr

/-- A parser node (R69). -/
structure PNode where
  id : Nat
  hdrLen : Nat
  lenOff : Nat
  lenWidth : Nat
  lenScale : Nat
  lenAdd : Nat
  selOff : Nat
  selWidth : Nat
  trans : List Transition
  extr : List Extraction
  deriving DecidableEq, Repr

/-- A table declaration (R70). -/
structure TblDecl where
  id : Nat
  kind : Nat
  scope : Nat
  keyBits : Nat
  dataBits : Nat
  capacity : Nat
  first : Nat
  last : Nat
  levels : Nat
  flags : Nat
  strides : List Nat
  tiles : List Nat
  defAction : Nat
  deriving DecidableEq, Repr

/-- A stage's control-store record (R71). Microwords are 256-bit numbers. -/
structure StoreRec where
  stage : Nat
  flags : Nat
  first : Nat
  trap : Nat
  words : List Nat
  deriving DecidableEq, Repr

structure QNode where
  node : Nat
  parent : Nat
  quantum : Nat
  shaper : Nat
  deriving DecidableEq, Repr

structure QQueue where
  queue : Nat
  node : Nat
  quantum : Nat
  shaper : Nat
  starve : Nat
  deriving DecidableEq, Repr

/-- A port's queue hierarchy (R72). -/
structure QPort where
  port : Nat
  nodes : List QNode
  queues : List QQueue
  deriving DecidableEq, Repr

/-- A port record (R73). link: 1 Ethernet, 2 Ristlink. -/
structure PortRec where
  port : Nat
  link : Nat
  first : Nat
  lanes : Nat
  speed : Nat
  tenant : Nat
  bd : Nat
  pfc : Bool
  deriving DecidableEq, Repr

/-- A domain membership (R73). kind: 1 bridge domain, 2 tenant. -/
structure Member where
  kind : Nat
  id : Nat
  ports : List Nat
  deriving DecidableEq, Repr

structure PoolRec where
  pool : Nat
  size : Nat
  code : Nat
  deriving DecidableEq, Repr

structure QuotaRec where
  cls : Nat
  tenant : Nat
  cells : Nat
  overflow : Nat
  deriving DecidableEq, Repr

structure HeadRec where
  cls : Nat
  port : Nat
  cells : Nat
  deriving DecidableEq, Repr

/-- The active image's configuration (R64-R75). -/
structure Image where
  imageId : Nat
  nodes : List PNode
  tables : List TblDecl
  stores : List StoreRec
  queues : List QPort
  ports : List PortRec
  members : List Member
  pools : List PoolRec
  quotas : List QuotaRec
  heads : List HeadRec
  deriving DecidableEq, Repr

/-- A record of a vendor patch (R147). -/
structure PatchRec where
  target : Nat
  first : Nat
  words : List Nat
  deriving DecidableEq, Repr

/-- A live rule version and the packets that carry it (R93, R94). -/
structure LiveVer where
  version : Nat
  packets : Nat
  deriving DecidableEq, Repr

/-- A commit that waits (R100): its group, the ring entry it completes (ring 1,024 is STRUCT_COMMIT), the
commands it still covers, and whether it waits for a version slot. -/
structure CommitJob where
  group : Nat
  ring : Nat
  index : Nat
  covers : List Nat
  upTo : Nat
  waiting : Bool
  deriving DecidableEq, Repr

/-- The image and patch loaders and the rule versions. `phase`: 0 idle, 1 waits for the lock, 2 holds it and
fetches, 3 checks. `plain` holds the decrypted body in staging (R84). -/
structure StructSt where
  phase : Nat := 0
  header : List Byte := []
  plain : List Byte := []
  active : Option Image := none
  live : List LiveVer := []
  tags : List Nat := List.replicate 16 0
  jobs : List CommitJob := []
  patchPhase : Nat := 0
  patchHeader : List Byte := []
  patchPlain : List Byte := []
  patched : Bool := false
  patch : List PatchRec := []
  deriving DecidableEq, Repr

/-! ### Lanes and ports (11_serial_lanes.md) -/

/-- A lane's training (R416): 0 idle, 1 a sweep of codes `lo` to `hi`, 2 a tap request waits for its acknowledgement,
3 the short sweep after it, 4 OK, 5 FAIL; the best code and its figure; the place in the taps' order and the steps
made; the number of the last request made and served (R429); the full-rate peaking code kept through keep-alive; the
partner's ready and how far from 0 its taps stand, by number; and, on Ristlink, sync misses in a row, the last 58
scrambled bits received, whether the lane has locked with the sync fields found in a row (R428), whether its last codeword
was uncorrectable or invalid (R420), the last 58 scrambled bits sent, training codewords sent, and the requests not yet
acknowledged (tap, request, number) (R429). -/
structure LaneSt where
  phase : Nat := 0
  lo : Nat := 0
  hi : Nat := 0
  best : Nat := 0
  fom : Nat := 0
  tap : Nat := 0
  steps : Nat := 0
  seq : Nat := 0
  served : Nat := 0
  full : Nat := 0
  partner : Bool := false
  far : List Nat := []
  miss : Nat := 0
  hist : Nat := 0
  locked : Bool := false
  hits : Nat := 0
  bad : Bool := false
  txHist : Nat := 0
  sent : Nat := 0
  asks : List (Nat × Nat × Nat) := []
  deriving DecidableEq, Repr

/-- What a port keeps beside PORT_STATUS: whether its link passes frames, a disable that waits for the enable check,
EEE resolved by auto-negotiation, whether an Ethernet port sends remote fault (R407), and on Ristlink the rate (0 full, 1
full and asking for keep-alive, 2 keep-alive, 3 returning to full), the clock at which asking began, whether state 1 has
come since, agreeing codewords received and sent in a row, the next chunk number, chunks ahead of it (number, first
element, frame ends, bytes) and the bytes of an element begun; and for sending, the elements of the stream that wait, the
bytes of the first one already sent, and the number of chunks sent (R426, R427). -/
structure PortSt where
  linked : Bool := false
  disable : Bool := false
  eee : Bool := false
  fault : Bool := false
  rate : Nat := 0
  since : Nat := 0
  heard : Bool := false
  agreed : Nat := 0
  told : Nat := 0
  next : Nat := 0
  chunks : List (Nat × Nat × List Nat × List Byte) := []
  part : List Byte := []
  stream : List (Bool × List Byte) := []
  off : Nat := 0
  sent : Nat := 0
  deriving DecidableEq, Repr

/-- The records under which ports were enabled (R92), and what lanes and ports keep. -/
structure IoSt where
  records : List (Nat × Option PortRec) := []
  lanes : List (Nat × LaneSt) := []
  ports : List (Nat × PortSt) := []
  deriving DecidableEq, Repr


/-! ### Tables, the command engine and learning (05_lookup_tables.md, 06_table_access_learning.md) -/

/-- A stored entry: the control fields of R184, its identity (R217) and its contents. `seq` is the acceptance order
that ranks rows of one priority (R201); a `hidden` copy waits for the other pipes of its placement (R221). `stagedBy` is
the acceptance number of the command that staged it (R100), and `handle` its number in an iteration (R223). -/
structure Entry where
  stagedAdd : Bool
  stagedDel : Bool
  addedTag : Nat
  addedBase : Bool
  deletedTag : Nat
  deleted : Bool
  moveSrc : Bool
  hit : Bool
  age : Nat
  group : Nat
  action : Nat
  domain : Nat
  key : Nat
  mask : Nat
  len : Nat
  prio : Nat
  data : Nat
  seq : Nat
  hidden : Bool
  stagedBy : Nat
  handle : Nat
  deriving DecidableEq, Repr

/-- A relocation between its copy and its removal (R207): of one pipe, or of all 32 for a replicated table (unit
32). It was made for command `job`; job 0 is the background. -/
structure Move where
  job : Nat
  table : Nat
  unit : Nat
  src : Nat
  dst : Nat
  deriving DecidableEq, Repr

/-- One placement of a command (R204, R205): its unit, whether its copy is in place or its search failed, the moves
made, and the moves still to make with the position that the last one frees (R192). -/
structure Placing where
  unit : Nat
  placed : Bool
  failed : Bool
  moves : Nat
  path : List (Nat × Nat)
  goal : Option Nat
  deriving DecidableEq, Repr

/-- An LPM node below the root (R194): its level, the key bits of the levels above it, and its number. An `old` copy is
about to be freed by a move (R207). -/
structure LpmNode where
  level : Nat
  path : Nat
  num : Nat
  old : Bool
  deriving DecidableEq, Repr

/-- An accepted command (R214). `src` is the CMD ring, 1,024 for the TBL_CMD registers, 1,025 for learning; `index`
is its ring position. `op` is the opcode of R218. -/
structure TblJob where
  id : Nat
  src : Nat
  index : Nat
  fn : Nat
  op : Nat
  imm : Bool
  indirect : Bool
  table : Nat
  domain : Nat
  key : Nat
  mask : Nat
  len : Nat
  action : Nat
  prio : Nat
  data : Nat
  flushBy : Nat
  flushPort : Nat
  allDomains : Bool
  cursor : Nat
  buffer : Nat
  seq : Nat
  handle : Nat
  started : Bool
  done : Bool
  places : List Placing
  status : Nat
  reason : Nat
  detail : Nat
  replaced : Bool
  moves : Nat
  result : Nat
  readback : Option (List Byte)
  deriving DecidableEq, Repr

/-- A request in a pipe's learn queue (R235). -/
structure LearnReq where
  table : Nat
  domain : Nat
  key : Nat
  port : Nat
  move : Bool
  deriving DecidableEq, Repr

/-- `entries` is keyed (pipe x 256 + table) x 2^20 + position. `bad` lists TCAM rows that a scrub found in error, by
the same key (R209). `lastSrc` and `hostTurns` are the engine's rotation (R213). `goArgs` are the
register values of a TBL_CMD command not yet accepted (R230): TBL_CMD, argument, cursor, key, mask, data. `discards`
are groups to be discarded once their commands numbered below the bound have completed (R104, R233), and `nodes` the LPM
nodes by pipe x 256 + table (R194). -/
structure TblSt where
  entries : List (Nat × Option Entry) := []
  moves : List Move := []
  jobs : List TblJob := []
  nextJob : Nat := 1
  seq : Nat := 0
  learn : List (Nat × List LearnReq) := []
  bad : List Nat := []
  lastSrc : Nat := 1023
  hostTurns : Nat := 0
  goArgs : Option (List Nat) := none
  discards : List (Nat × Nat) := []
  nodes : List (Nat × List LpmNode) := []
  deriving DecidableEq, Repr

/-! ### Packets and copies (01_architecture.md, 03_action_microcode.md, 04_parser_classification.md) -/

/-- A lookup in flight (R122): the table, domain and key taken at its issue, the result word, and the answer so
far. `keyWord` decides learning and hit recording (R235, R243). -/
structure Lk where
  table : Nat
  domain : Nat
  key : Nat
  keyWord : Nat
  res : Nat
  tag : Nat
  rank : Nat
  entry : Option Entry
  parity : Bool
  deriving DecidableEq, Repr

/-- What an event carries for the filters of performance counters (R379). -/
structure PerfAttr where
  tenant : Option Nat := none
  port : Option Nat := none
  func : Option Nat := none
  pipe : Option Nat := none
  cls : Option Nat := none
  deriving DecidableEq, Repr

/-- `n` events of a code in a block, met in a pass whose end is not yet known (R372). -/
structure PerfNote where
  block : Nat
  code : Nat
  attr : PerfAttr
  n : Nat
  deriving DecidableEq, Repr

/-- A packet or copy in a pipe half: its next stage, its 128 metadata words (R110) and its lookups. `port` is the
port that performance counters see (R379); `rq` is the recirculation queue that a request takes (R125, R126); `times` are
the stage entry times in units of 0.25 ns (R397); `notes` are the performance events of this pass, which count unless
it ends in recirculation (R372). -/
structure Walk where
  pipe : Nat
  stage : Nat
  port : Nat
  fn : Option Nat
  first : Bool
  injected : Bool
  rq : Nat
  md : List Nat
  look : List Lk
  times : List Nat
  notes : List PerfNote := []
  deriving DecidableEq, Repr

/-- A frame in a section's receive FIFO (R46). Fabric header and trailer bytes of a Ristlink frame stand apart
(R154); `rx` is the receive timestamp in 2^-16 ns. -/
structure RxFrame where
  port : Nat
  bytes : List Byte
  whole : Bool
  err : Bool
  cls : Nat
  lossless : Bool
  rx : Nat
  hdr : List Byte
  deriving DecidableEq, Repr

/-- Where an admitted packet is charged (R314). -/
inductive Charge where
  | none
  | quota (key : Nat)
  | pool (p : Nat)
  | headroom (key : Nat)
  deriving DecidableEq, Repr

/-- A packet from its parser entry until its last copy has gone. `bytes` is the frame as known, FCS included once
`whole`; `fromFifo` says that its bytes still come from a receive FIFO, and `crossed` how many of them have crossed the
channel to the core die (R549), `via` the queue in which they cross (R545); `rxErr` that its PCS has marked a block of it; `ver` is the rule version it holds, 0 once
released; `force` is R236's screen; `inject` is the INJECT ring and entry that it came from; `hdr` the
fabric header and trailer; `fabDst` the destination chip of the group that placed it (R274); `policed` that a policer
has judged it (R350). After admission: its descriptor (R304, R305), the number of copies admitted and the pipes that
would have presented the references of copies removed before the last cell (R294, R295), the charge and the cells
charged and reserved, the cells written as (pointer, epoch), whether the last is written, whether a stall ended it
(R302), and the byte counts that wait for the last byte as (kind, key): 0 rx_bytes, 1 drop_bytes, 2 a flow entry's
bytes. -/
structure Pkt where
  id : Nat
  w : Walk
  port : Nat
  bytes : List Byte
  whole : Bool
  err : Bool
  rxErr : Bool
  exported : Bool
  fromFifo : Bool
  crossed : Nat
  via : Nat
  bank : Nat
  ver : Nat
  force : Nat
  rx : Nat
  policed : Bool
  admitted : Bool
  pd : Nat
  copies : Nat
  gone : List Nat
  charge : Charge
  charged : Nat
  reserved : Nat
  cells : List (Nat × Nat)
  last : Bool
  ended : Bool
  inject : Option (Nat × Nat)
  hdr : List Byte
  fabDst : Option Nat
  pending : List (Nat × Nat)
  deriving DecidableEq, Repr

/-- Where a copy stands: in its queue, in stages 20 to 31, held at the deparser for its start, or on the wire. -/
inductive CopyAt where
  | queued
  | stages
  | held
  | sending
  deriving DecidableEq, Repr

/-- A frame on the wire: when its first bit left, in 2^-16 ns, this chip's throttle level then, the credits debited for
it, and whether its last byte was not yet held then, so that its rewrites and its transmit bytes are settled when it
ends. -/
structure Wire where
  dep : Nat
  throttle : Nat
  debit : Nat
  late : Bool
  deriving DecidableEq, Repr

/-- A copy: its packet, its queue of R303 and segment, its index and copy_data (R124, R309), its CE mark, the wrap time
of its admission (R305), cells read, whether it is charged to a pool, whether it may depart in cut-through (R43), and
its own walk through stages 20 to 31; `mcast` says that replication formed it,
`guarded` that the guard held it, `wire` its frame once it is on the wire. -/
structure Copy where
  id : Nat
  pkt : Nat
  queue : Nat
  seg : Nat
  idx : Nat
  data : Nat
  ecn : Bool
  admitAt : Nat
  read : Nat
  pooled : Bool
  cut : Bool
  at' : CopyAt
  w : Walk
  mcast : Bool
  guarded : Bool
  wire : Option Wire
  deriving DecidableEq, Repr

/-- An indirect command that runs (R629): the key of its command register, its kind, and what it took. -/
structure IndJob where
  key : Nat
  write : Bool
  addr : Nat
  data : List Nat
  deriving DecidableEq, Repr

/-- Packets; copies, those in a queue in order of admission and those that a scheduler has chosen behind them in order
of choice; frames waiting by section; the payload patterns by (bank x 8 + set) x 33 + entry; indirect commands that run;
and by pipe the recirculation queue that its parser served last (R362), 2 for none. -/
structure PktSt where
  pkts : List Pkt := []
  copies : List Copy := []
  fifo : List (Nat × List RxFrame) := []
  pats : List (Nat × Nat) := []
  ind : List IndJob := []
  nextPkt : Nat := 1
  nextCopy : Nat := 1
  recircLast : List (Nat × Nat) := []
  deriving DecidableEq, Repr

/-! ### Shared buffer (08_shared_buffer.md) -/

/-- A tenant's class quota, one staged and one active (R328, R333). -/
structure QuotaVal where
  cells : Nat := 0
  overflow : Nat := 0
  valid : Bool := false
  deriving DecidableEq, Repr

/-- The staged values that an apply took (R328). -/
structure BufSnap where
  sizes : List Nat
  codes : List Nat
  quotas : List (Nat × QuotaVal)
  heads : List (Nat × QuotaVal)
  resv : Nat
  classPool : Nat
  deriving DecidableEq, Repr

/-- Quotas and headroom by tenant x 4 + class and port x 4 + class, their used counts and drops, queue
configuration and counters, replication records and entries as written, cell state words by pointer (R293), the
pointers cached by pipe x 32 + group, next first (R299), the free ring's sub-rings by group as runs of a first pointer
and a length, next first (R298), the Rake's grant pointers, the packets each pipe has admitted (R292), quarantined
cells, classes
in XOFF with whether their XOFF frame has left, PFC changes not yet sent by port,
the ports that drain with the clock of their stop, and the values of a running apply. -/
structure BufSt where
  quotaStaged : List (Nat × QuotaVal) := []
  quotaActive : List (Nat × QuotaVal) := []
  quotaUsed : List (Nat × Nat) := []
  headStaged : List (Nat × QuotaVal) := []
  headActive : List (Nat × QuotaVal) := []
  headUsed : List (Nat × Nat) := []
  headDrops : List (Nat × Nat) := []
  ecnThr : List (Nat × Nat) := []
  queueDrops : List (Nat × Nat) := []
  queueMarked : List (Nat × Nat) := []
  groups : List (Nat × Nat) := []
  entries : List (Nat × Nat) := []
  cellState : List (Nat × Nat) := []
  cache : List (Nat × List Nat) := []
  subring : List (Nat × List (Nat × Nat)) := []
  ringInit : Bool := false
  packets : List (Nat × Nat) := []
  grant : List (Nat × Nat) := []
  bad : List Nat := []
  xoff : List (Nat × Nat) := []
  pfcSet : List (Nat × Nat) := []
  pfcClear : List (Nat × Nat) := []
  drains : List (Nat × Nat) := []
  snap : Option BufSnap := none
  deriving DecidableEq, Repr
/-! ### Meters, flow statistics, harvest and postcards (10_telemetry_metering.md) -/

/-- The counts of one tenant and class in one bank of one pipe (R373). -/
structure Meter where
  rxPkts : Nat := 0
  rxBytes : Nat := 0
  txPkts : Nat := 0
  txBytes : Nat := 0
  dropPkts : Nat := 0
  dropBytes : Nat := 0
  ecn : Nat := 0
  peak : Nat := 0
  deriving DecidableEq, Repr

/-- An authenticated batch waiting for an entry (R387, R388): its bytes, records, and where delivery stands after it. -/
structure Batch where
  bytes : List Byte
  batch : Nat
  last : Bool
  summary : Bool
  nextPair : Nat
  deriving DecidableEq, Repr

/-- A harvest under delivery (R382, R384). Times are full device time in 2^-40 ns. `pair` is the next pair of the
physical function's pass, 16,384 once it is done; `vfs` lists (VF, ring, tenant) as they stood at the edge. -/
structure Delivery where
  seq : Nat
  start : Nat
  stop : Nat
  folded : Nat
  onDemand : Bool
  stepped : Bool
  pair : Nat
  batch : Nat
  vfs : List (Nat × Nat × Nat)
  stalled : Bool
  held : Option Batch
  tries : Nat
  waits : Bool
  deriving DecidableEq, Repr

/-- Batches that a virtual function lost since its last summary (R391). -/
structure VfLoss where
  count : Nat
  seq : Nat
  first : Nat
  last : Nat
  deriving DecidableEq, Repr

/-- A postcard in the exporter: 64 bytes, or 128 with its trace block, and when it came, in clocks (R394, R395). -/
structure PostItem where
  bytes : List Byte
  at' : Nat
  deriving DecidableEq, Repr

/-- Meters by (pipe x 2 + bank) x 16,384 + tenant x 4 + class, flow entries by pipe x 2^17 + index, the harvest's
next boundary in ns and its last edge, the free value that boot_nonce is (its number, R387), the exporter's FIFO, and
the postcard tokens of each pipe in thousandths with their clock. `vfs` lists (VF, ring, tenant) as of the last flip,
`sums` holds summaries whose write failed by VF (R391), and `final` says that the image's final harvest is owed (1) or
under delivery (2) (R398). -/
structure MtrSt where
  meters : List (Nat × Meter) := []
  bank : Nat := 0
  flows : List (Nat × Nat) := []
  nextAt : Nat := 0
  lastEnd : Nat := 0
  now : Bool := false
  nonce : Nat := 0
  delivery : Option Delivery := none
  losses : List (Nat × Option VfLoss) := []
  vfs : List (Nat × Nat × Nat) := []
  sums : List (Nat × Option Batch) := []
  final : Nat := 0
  postOn : Bool := false
  posts : List PostItem := []
  postSeq : Nat := 0
  tokens : List (Nat × Option (Nat × Nat)) := []
  deriving DecidableEq, Repr

/-! ### Scheduling (09_scheduling_shaping.md) -/

/-- A token bucket: credit in 1/6,400 byte and the clock at which it held (R346). -/
structure Bucket where
  credit : Int
  at' : Nat
  deriving DecidableEq, Repr

/-- A node, a queue or a port's root: what the image and indirect writes give it, and its running state (R337-R346,
R358); `later` is a quantum written during its turn, which applies from its next turn (R363). Nodes are keyed port x 64 + node, queues port x 16 + queue, roots by port. -/
structure SNode where
  declared : Bool := false
  parent : Nat := 0
  quantum : Nat := 0
  profile : Nat := 0
  starve : Nat := 0
  deficit : Int := 0
  bucket : Option Bucket := none
  cur : Option Nat := none
  promoLeft : Int := 0
  promoted : Bool := false
  later : Option Nat := none
  deriving DecidableEq, Repr

/-- A tide-gate list as installed (R352, R355). -/
structure GateList where
  bank : Nat
  len : Nat
  base : Nat
  openAll : Bool
  deriving DecidableEq, Repr

/-- `none` for a policer's bucket means full since the image's activation. Pause ends are clocks, by port x 8 +
priority; 0 means not paused. -/
structure SchedSt where
  profiles : List (Nat × Nat) := []
  nodes : List (Nat × SNode) := []
  queues : List (Nat × SNode) := []
  roots : List (Nat × SNode) := []
  policers : List (Nat × Nat) := []
  polBuckets : List (Nat × Option Bucket) := []
  polExceed : List (Nat × Nat) := []
  gates : List (Nat × Nat) := []
  lists : List (Nat × Option GateList) := []
  pend : List (Nat × Option GateList) := []
  pause : List (Nat × Nat) := []
  deriving DecidableEq, Repr

/-! ### Placement and fabric links (07_placement_fabric.md) -/

/-- Credit of a class on a Ristlink port (R279): available to send, the init count received and whether it has come
since link up, returns owed. -/
structure Credit where
  avail : Nat := 0
  init : Nat := 0
  heard : Bool := false
  owed : Nat := 0
  deriving DecidableEq, Repr

/-- Group records and member entries as written, the congestion map by destination x 128 + link, flowlet entries by
pipe x 2^17 + index, the level snapshot (cells by queue number) with the ports that were up and the pipes at a ratio
above 4, the next beacon block and sweep of each link, the clocks at which each was last heard and may next send, and
credits by port x 4 + class with the ports that still owe their init item. -/
structure PlSt where
  groups : List (Nat × Nat) := []
  members : List (Nat × Nat) := []
  map : List (Nat × Nat) := []
  flowlets : List (Nat × Nat) := []
  levels : List (Nat × Nat) := []
  upPorts : List Nat := []
  slowPipes : List Nat := []
  block : List (Nat × Nat) := []
  sweep : List (Nat × Nat) := []
  heard : List (Nat × Nat) := []
  sent : List (Nat × Nat) := []
  credits : List (Nat × Credit) := []
  initOwed : List Nat := []
  deriving DecidableEq, Repr

/-! ### The whole machine -/

/-- The device. `pending` is the queue of commands, first in first out; `free` counts the free values drawn;
`clk` counts TCLK cycles; `out` is all that was sent, latest first; `readVal` is the value the last read returned. -/
structure State where
  pending : List Instr := []
  regs : List (Nat × Word) := []
  clk : Nat := 0
  free : Nat := 0
  readVal : Word := 0
  out : List Out := []
  checks : List Check := []
  time : TimeSt := {}
  flt : FaultSt := {}
  hif : HostSt := {}
  pwr : PowerSt
  cip : CipherSt
  boot : BootSt := {}
  pin : PinSt := {}
  img : StructSt := {}
  tbl : TblSt := {}
  pk : PktSt := {}
  buf : BufSt := {}
  mtr : MtrSt := {}
  sch : SchedSt := {}
  pl : PlSt := {}
  io : IoSt := {}
  deriving DecidableEq, Repr

/-- Key slots as loaded from fuses (R561, R580). -/
def fuseSlots (fuse2 : Option KeySlot) : List (Nat × KeySlot) :=
  [(0, { valid := true, aes256 := true, key := (List.range 32).map (Config.slotKey 0) }),
   (1, { valid := true, aes256 := true, key := (List.range 32).map (Config.slotKey 1) })] ++
  (match fuse2 with | some k => [(2, k)] | none => [])

/-- Slot 2 as it left the factory or its owner's provisioning (R564). -/
def fusedSlot2 : Option KeySlot :=
  if Config.slot2Fused then
    some { valid := true, aes256 := Config.slot2Is256, key := (List.range 32).map (Config.slotKey 2) }
  else none

/-- Power values after reset (R530). -/
def PwrActive.reset : PwrActive :=
  { cap := 1450, upSlope := 16, downSlope := 16, brineDrain := 500, throttleC := 100, releaseC := 95, tripC := 110,
    nominal := List.replicate 32 1, maxRatio := List.replicate 32 7 }

/-- The machine at the end of a cold reset (R580): READY, fuses loaded, self-test done, PCIe link not trained,
every port DISABLED, device time 0. -/
def State.reset : State :=
  { regs := [(PKG_BOOT_STATUS.regOff, 0x1C)]
    free := 1
    pwr := { active := PwrActive.reset }
    cip := { slots := fuseSlots fusedSlot2, fuse2 := fusedSlot2 } }

end Sys2Proof.Machine
end

