-- ==== Sys2Proof/Machine/Ops.lean ====
section
/-! DEFINITION. The named operations every unit shares: the register file, device time, performance counters,
interrupts and host memory writes, ring completions and event records, raising a fault, and enable checks. -/

namespace Sys2Proof.Machine

/-! ### Register file -/

/-- The stored value of the register with key `k` (R12). -/
def State.raw (s : State) (k : Nat) : Word := smGet regReset s.regs k

/-- Store a whole register. -/
def State.setRaw (s : State) (k : Nat) (w : Word) : State := { s with regs := smPut regReset s.regs k w }

/-- A field's value. -/
def State.get (s : State) (f : Fld) : Nat := bitsOf (s.raw f.off).toNat f.lo f.w

/-- A one-bit field. -/
def State.flag (s : State) (f : Fld) : Bool := s.get f = 1

/-- Set a field, other bits kept. -/
def State.put (s : State) (f : Fld) (v : Nat) : State :=
  s.setRaw f.off (BitVec.ofNat 64 (setBits (s.raw f.off).toNat f.lo f.w v))

/-- Add to a saturating counter field. -/
def State.bump (s : State) (f : Fld) (n : Nat) : State := s.put f (satAdd f.w (s.get f) n)

/-- Add to a wrapping counter field. -/
def State.bumpWrap (s : State) (f : Fld) (n : Nat) : State := s.put f (s.get f + n)

def State.putFlag (s : State) (f : Fld) (b : Bool) : State := s.put f (b2n b)

/-- Put a list of fields. -/
def State.puts (s : State) : List (Fld × Nat) → State
  | [] => s
  | (f, v) :: t => State.puts (s.put f v) t

/-! ### Free values (notes/assumptions/3.md) -/

/-- The next free value and the state that has drawn it. -/
def State.draw (s : State) : Word × State := (Config.freeWord s.free, { s with free := s.free + 1 })

/-! ### Device time (R486, R30) -/

/-- One nanosecond in units of device time. -/
def nsUnits : Nat := 2 ^ 40

/-- Device time wraps with its 48-bit seconds. -/
def timeModulus : Nat := 2 ^ 48 * 1000000000 * 2 ^ 40

/-- Full device time in nanoseconds. -/
def State.nowNs (s : State) : Nat := s.time.total / nsUnits

/-- Wrap time (R30). -/
def State.wrapNow (s : State) : Nat := s.nowNs % 2 ^ 48

/-- Full device time in 2^-16 ns. -/
def State.now16 (s : State) : Nat := s.time.total / 2 ^ 24

def fullSec (ns : Nat) : Nat := ns / 1000000000

def fullNano (ns : Nat) : Nat := ns % 1000000000

/-- TCLK cycles in a microsecond (R10). -/
def clkPerUs : Nat := 800

/-! ### Functions, interrupts and host memory writes (12_host_interface_rings.md) -/

def fnDefault : Nat → FnCfg := fun _ => {}

def State.fn (s : State) (f : Nat) : FnCfg := smGet fnDefault s.hif.fns f

def State.setFn (s : State) (f : Nat) (c : FnCfg) : State :=
  { s with hif := { s.hif with fns := smPut fnDefault s.hif.fns f c } }

/-- The link is up: HIF_STATUS.link_speed is not 0. -/
def State.linkUp (s : State) : Bool := s.get HIF_STATUS.link_speed ≠ 0

def State.send (s : State) (o : Out) : State := { s with out := o :: s.out }

def portDefault : Nat → PortSt := fun _ => {}

def State.port (s : State) (p : Nat) : PortSt := smGet portDefault s.io.ports p

def State.setPort (s : State) (p : Nat) (x : PortSt) : State :=
  { s with io := { s.io with ports := smPut portDefault s.io.ports p x } }

/-- A control item, or a frame with its header and trailer, joins the stream of a Ristlink port, which its codewords
carry (11_serial_lanes.md R426; notes/assumptions/95.md). -/
def State.sendStream (s : State) (port : Nat) (frame : Bool) (b : List Byte) : State :=
  let x := s.port port
  (s.send (if frame then .frame port b else .item port b)).setPort port { x with stream := x.stream ++ [(frame, b)] }

/-- The function can send a memory write now, and nothing of it waits (R450). -/
def State.canSend (s : State) (f : Nat) : Bool :=
  (s.fn f).busMaster && s.linkUp && s.hif.held.all (fun h => h.func != f)

/-- Send a memory write of function `f`, or hold it and count it (R450). -/
def State.hostSend (s : State) (f : Nat) (o : Out) : State :=
  if s.canSend f then s.send o
  else { s with hif := { s.hif with held := s.hif.held ++ [Held.mk f o] } }.bump HIF_STAT.wr_held 1

/-- The requests for the `n` bytes at `addr`, address and length: none longer than `size`, none across a 4 KiB boundary
(R448); `fuel` bounds their number. -/
def requests (size : Nat) : Nat → Nat → Nat → List (Nat × Nat)
  | 0, _, _ => []
  | fuel + 1, addr, n =>
    if n = 0 then []
    else
      let k := min n (min size (4096 - addr % 4096))
      (addr, k) :: requests size fuel (addr + k) (n - k)

/-- Max Payload Size and Max Read Request Size as programmed in the physical function (R448; notes/assumptions/96.md). -/
def State.payloadSize (s : State) : Nat := min 512 (128 * 2 ^ (s.fn 0).maxPayload)

def State.readSize (s : State) : Nat := min 4096 (128 * 2 ^ (s.fn 0).maxRead)

/-- Write `b` to host memory at `addr` for function `f`, in requests that R448 allows. -/
def State.writeHost (s : State) (f addr : Nat) (b : List Byte) : State :=
  (requests s.payloadSize b.length addr b.length).foldl
    (fun s x => s.hostSend f (.hostWrite f x.1 (slice b (x.1 - addr) x.2))) s

/-- Read `n` bytes of host memory at `addr` for function `f`, in requests that R448 allows. -/
def State.readHost (s : State) (f addr n : Nat) : State :=
  (requests s.readSize n addr n).foldl (fun s x => s.send (.hostRead f x.1 x.2)) s

def msixKey (f v : Nat) : Nat := bar2Base f + msixTable f + 16 * v

/-- The vector's Mask bit. -/
def State.msixMasked (s : State) (f v : Nat) : Bool := s.flag ⟨msixKey f v + 8, 32, 1⟩

def pendKey (f v : Nat) : Nat := f * 2048 + v

def State.msixPend (s : State) (f v : Nat) (b : Bool) : State :=
  { s with hif := { s.hif with msixPend := smPut (fun _ => false) s.hif.msixPend (pendKey f v) b } }

/-! ### Performance counters (10_telemetry_metering.md R376-R379) -/


def perfBlock (unit blk : Nat) : Nat := unit * 0x40000 + blk * 0x1000

/-- The event passes every enabled filter of counter `k` (R378). -/
def State.perfPass (s : State) (b k : Nat) (a : PerfAttr) : Bool :=
  (!s.flag (PERF_FILT.tenant_en b k) || a.tenant == some (s.get (PERF_FILT.tenant b k))) &&
  (!s.flag (PERF_FILT.port_en b k) || a.port == some (s.get (PERF_FILT.port b k))) &&
  (!s.flag (PERF_FILT.func_en b k) || a.func == some (s.get (PERF_FILT.function b k))) &&
  (!s.flag (PERF_FILT.pipe_en b k) || a.pipe == some (s.get (PERF_FILT.pipe b k))) &&
  (match a.cls with | some c => bitAt (s.get (PERF_FILT.class_mask b k)) c | none => true)

def ringDefault : Nat → RingSt := fun _ => {}

def State.ring (s : State) (r : Nat) : RingSt := smGet ringDefault s.hif.rings r

/-- Some scan reads the ring's entries. -/
def scans (x : RingSt) : Bool := x.scanning || x.abortScan

/-- The rings being read, as ring `r` goes from `x` to `y`. -/
def scansAfter (r : Nat) (x y : RingSt) (l : List Nat) : List Nat :=
  if scans x = scans y then l else if scans y then l ++ [r] else l.filter (fun i => i ≠ r)

def State.setRing (s : State) (r : Nat) (x : RingSt) : State :=
  { s with hif := { s.hif with rings := smPut ringDefault s.hif.rings r x
                               scans := scansAfter r (s.ring r) x s.hif.scans } }

/-- Key of ring `r`'s slot registers (R454). -/
def State.slot (s : State) (r : Nat) : Nat :=
  let f := s.get (RING_ASSIGN.func r)
  if f = 0 then ringSlotKey 0 r else ringSlotKey f (s.get (RING_ASSIGN.slot r))

def State.ringFunc (s : State) (r : Nat) : Nat := s.get (RING_ASSIGN.func r)

def State.ringKind (s : State) (r : Nat) : Nat := s.get (RING_ASSIGN.kind r)

def State.ringEnabled (s : State) (r : Nat) : Bool :=
  s.flag (RING_ASSIGN.valid r) && s.flag (RING_CTL.enabled (s.slot r))

/-- The ring serves work: enabled, not being disabled, not halted. -/
def State.ringLive (s : State) (r : Nat) : Bool :=
  s.ringEnabled r && !s.flag (RING_CTL.disabling (s.slot r)) && !s.flag (RING_CTL.halted (s.slot r))

/-- An event record for PF EVENT ring `r` joins its due events; for any other ring it is lost (R470). -/
def State.queueEvent (s : State) (r : Nat) (w : List Word) : State :=
  if s.ringEnabled r && s.ringFunc r = 0 && s.ringKind r = 4 then
    let x := s.ring r
    s.setRing r { x with dueEvents := x.dueEvents ++ [w] }
  else s.bump (RING_STAT.lost r) 1

/-- Four record words, the rest 0 (R392). -/
def record (w0 w1 w2 w3 : Nat) : List Word :=
  [BitVec.ofNat 64 w0, BitVec.ofNat 64 w1, BitVec.ofNat 64 w2, BitVec.ofNat 64 w3, 0, 0, 0, 0]

/-- One counter adds `n` events; a wrap sets overflow and may queue a PERF_OVERFLOW record (R377, R378, R392). -/
def State.perfOne (s : State) (b k code : Nat) (a : PerfAttr) (n : Nat) : State :=
  if s.get (PERF_SEL.event b k) = code && code ≠ 0 && s.perfPass b k a then
    let v := s.get (PERF_CNT.value b k) + n
    let s1 := s.put (PERF_CNT.value b k) v
    if v < 2 ^ 48 then s1
    else
      let s2 := s1.put (PERF_CNT.overflow b k) 1
      if s.flag (PERF_SEL.ov_event b k) && s.flag MTR_CFG2.event_en then
        s2.queueEvent (s.get MTR_CFG2.event_ring) (record 0x11 (PERF_CNT.regOff b k) s.wrapNow 0)
      else s2
  else s

/-- Count `n` events of `code` in the four counters of a block (R376). -/
def State.perf (s : State) (b code : Nat) (a : PerfAttr) (n : Nat) : State :=
  (((s.perfOne b 0 code a n).perfOne b 1 code a n).perfOne b 2 code a n).perfOne b 3 code a n

/-- The host interface block's counters (R485). -/
def hifBlock : Nat := perfBlock 32 44

/-- Send an MSI-X message under R451. -/
def State.msix (s : State) (f v : Nat) : State :=
  let c := s.fn f
  if !c.msixEnable then s
  else if f = 0 && v = 0 then
    if c.busMaster && s.linkUp then (s.send (.msix f v)).perf hifBlock 0x65 { func := some f } 1 else s
  else if c.msixMask || s.msixMasked f v then s.msixPend f v true
  else (s.hostSend f (.msix f v)).perf hifBlock 0x65 { func := some f } 1

/-! ### Ring entries and completions (R27-R29, R456-R461) -/

def State.ringSize (s : State) (r : Nat) : Nat := 2 ^ s.get (RING_CFG.size_log2 (s.slot r))

def State.entryAddr (s : State) (r i : Nat) : Nat :=
  s.get (RING_ADDR.addr (s.slot r)) * 4096 + 64 * (i % s.ringSize r)

/-- Word `i` of an entry. -/
def wordAt (w : List Word) (i : Nat) : Nat := (w.getD i 0).toNat

def entryKind (w : List Word) : Nat := bitsOf (wordAt w 0) 59 4

/-- The entry rewritten by a completion: word 0 keeps [47:0] and the kind, takes the status and clears OWN (R28). -/
def completed (w : List Word) (status : Nat) (words : List (Nat × Nat)) : List Word :=
  let base := (List.range 8).map (fun i => w.getD i 0)
  let l := words.foldl (fun l x => setAt l x.1 (BitVec.ofNat 64 x.2)) base
  setAt l 0 (BitVec.ofNat 64 (setBits (setBits (wordAt l 0) 48 8 status) 63 1 0))

/-- A refused entry: status REFUSED with the reason in word 1 [15:0], the rest of word 1 zero (R28, R480). -/
def refusedEntry (w : List Word) (reason : Nat) : List Word := completed w 2 [(1, reason)]

/-- Entries taken and not completed, over all rings (R461). -/
def State.workInFlight (s : State) : Nat := sumNat (s.hif.rings.map (fun x => x.2.taken.length))

/-- A completion has been written: counters and the interrupt of R452. -/
def State.afterCompletion (s : State) (r status : Nat) : State :=
  let k := s.slot r
  let f := s.ringFunc r
  let s := (s.bump (RING_STAT.completed r) 1).perf hifBlock 0x61 { func := some f } 1
  let s := s.perf hifBlock 0x63 { func := some f } 64
  let s := if status = 1 then s.bump (RING_STAT.aborted r) 1 else s
  if s.flag (RING_CFG.irq_en k) then
    let n := (s.ring r).unsignalled + 1
    if n ≥ max 1 (s.get (RING_CFG.irq_count k)) || s.get (RING_CFG.irq_us k) = 0 then
      (s.setRing r { s.ring r with unsignalled := 0 }).msix f (s.get (RING_ASSIGN.vector r))
    else s.setRing r { s.ring r with unsignalled := n }
  else s

/-- Write one finished entry: words 1 to 7, then word 0 (R449). -/
def State.writeEntry (s : State) (r i : Nat) (w : List Word) : State :=
  let f := s.ringFunc r
  let a := s.entryAddr r i
  let body := ((List.range 7).map (fun j => leBytes 8 (wordAt w (j + 1)))).flatten
  let s := s.hostSend f (.hostWrite f (a + 8) body)
  let s := s.hostSend f (.hostWrite f a (leBytes 8 (wordAt w 0)))
  s.afterCompletion r (bitsOf (wordAt w 0) 48 8)

/-- Write every entry at the head of ring `r` that is ready, in ring order (R460); `n` bounds the run. -/
def State.drainRing (s : State) (r : Nat) : Nat → State
  | 0 => s
  | n + 1 =>
    let x := s.ring r
    match x.taken with
    | ⟨_, some w⟩ :: t =>
      let s := s.setRing r { x with taken := t, complete := x.complete + 1 }
      (s.writeEntry r x.complete w).drainRing r n
    | _ => s

def State.drain (s : State) (r : Nat) : State := s.drainRing r (s.ring r).taken.length

/-- Take the next prefetched copy (R460): it joins the taken entries with result `res`. -/
def State.takeCopy (s : State) (r : Nat) (res : List Word → Option (List Word)) : State :=
  let x := s.ring r
  match x.copies with
  | [] => s
  | w :: t =>
    (s.setRing r { x with copies := t, take := x.take + 1, taken := x.taken ++ [⟨w, res w⟩] }).perf
      hifBlock 0x60 { func := some (s.ringFunc r) } 1

/-- The ring may take an entry now: live, not under RING_INVAL or abort, work items left (R461, R463, R471). -/
def State.mayTake (s : State) (r : Nat) : Bool :=
  s.ringLive r && !(s.ring r).inval && !(s.ring r).aborting && s.workInFlight < 16384

/-- Complete every head copy of a wrong kind REFUSED with 0x0320 (R455); `n` bounds the run. -/
def State.refuseWrongKind (s : State) (r : Nat) : Nat → State
  | 0 => s
  | n + 1 =>
    match (s.ring r).copies with
    | w :: _ =>
      if entryKind w ≠ s.ringKind r && s.mayTake r then
        ((s.takeCopy r (fun w => some (refusedEntry w 0x320))).drain r).refuseWrongKind r n
      else s
    | [] => s

/-- The entry that the ring's next take would use, its wrong-kind predecessors refused. -/
def State.headCopy (s : State) (r : Nat) : State × Option (List Word) :=
  let s := s.refuseWrongKind r ((s.ring r).copies.length)
  if s.mayTake r then (s, (s.ring r).copies.head?) else (s, none)

/-- Take and complete the head copy of a device-filled ring with the given words. -/
def State.fillEntry (s : State) (r status : Nat) (words : List (Nat × Nat)) : State :=
  (s.takeCopy r (fun w => some (completed w status words))).drain r

/-- The words of an event record placed in an entry: word 0 [47:0] and words 1 to 7 (R470). -/
def eventWords (e w : List Word) : List (Nat × Nat) :=
  (0, wordAt w 0 / 2 ^ 48 * 2 ^ 48 + wordAt e 0 % 2 ^ 48) ::
    (List.range 7).map (fun j => (j + 1, wordAt e (j + 1)))

/-- Write what EVENT ring `r` lost into its entry `w` (R392). -/
def State.writeSummary (s : State) (r : Nat) (w : List Word) : State :=
  let x := s.ring r
  let sum := record 1 (min x.lostCount (2 ^ 32 - 1)) x.lostFirst x.lostLast
  (s.setRing r { x with lostCount := 0 }).fillEntry r 0 (eventWords sum w)

/-- Write the due events of EVENT ring `r` while entries are available; without one they are lost, reported by a
summary as soon as one becomes available (R392). -/
def State.serveEvents (s : State) (r : Nat) : Nat → State
  | 0 => s
  | n + 1 =>
    match (s.ring r).dueEvents with
    | [] =>
      if (s.ring r).lostCount = 0 then s
      else
        match s.headCopy r with
        | (s, some w) => s.writeSummary r w
        | (s, none) => s
    | e :: t =>
      match s.headCopy r with
      | (s, some w) =>
        if (s.ring r).lostCount > 0 then (s.writeSummary r w).serveEvents r n
        else ((s.setRing r { s.ring r with dueEvents := t }).fillEntry r 0 (eventWords e w)).serveEvents r n
      | (s, none) =>
        let x := s.ring r
        if x.scanning && s.mayTake r then s
        else
          let first := if x.lostCount = 0 then s.wrapNow else x.lostFirst
          ((s.setRing r { x with dueEvents := t, lostCount := x.lostCount + 1, lostFirst := first,
                                 lostLast := s.wrapNow }).bump (RING_STAT.lost r) 1).serveEvents r n

/-- Serve ring `r`'s due events. -/
def State.serve (s : State) (r : Nat) : State :=
  s.serveEvents r (2 * (s.ring r).dueEvents.length + 2)

/-- Serve every ring with due events, those of performance counters that wrapped among them (R392). -/
def State.serveAll (s : State) : State :=
  ((s.hif.rings.filter (fun x => !x.2.dueEvents.isEmpty)).map (·.1)).foldl (fun s r => s.serve r) s

/-- Write an event record to ring `r` of the physical function. -/
def State.event (s : State) (r : Nat) (w : List Word) : State := (s.queueEvent r w).serve r

/-- The ring of metering, harvest and counter events, when enabled (R392). -/
def State.mtrEvent (s : State) (w : List Word) : State :=
  if s.flag MTR_CFG2.event_en then s.event (s.get MTR_CFG2.event_ring) w else s

/-! ### Raising a fault (15_faults.md R531-R544) -/

/-- The unit that a block reset of source `n` acts on (R540); none where it has no block reset. -/
def resetUnit (n : Nat) : Option UnitId :=
  if n < 1536 then
    let u := n % 48
    if u < 35 then some (.pipe (n / 48))
    else if u = 35 then some (.channel (n / 48))
    else if u < 40 then some (.laneMacro (4 * (n / 48) + (u - 36)))
    else none
  else if n < 1664 then some (.link (n - 1536))
  else if n = 1697 || n = 1698 || n = 1699 then some (.sequencer (n - 1697))
  else if n = 1701 || n = 1702 || n = 1703 then some .host
  else none

/-- The unit's block reset is running (R541). -/
def State.resetting (s : State) (u : UnitId) : Bool := s.flt.running.contains u

def noRun : Nat → Option ChRun := fun _ => none

/-- One second in TCLK cycles. -/
def clkPerSec : Nat := 1000000 * clkPerUs

/-- Count a reset of channel `c` that begins: in its register and in its run of one second (R552). -/
def State.countChannel (s : State) (c : Nat) : State :=
  let run : ChRun := match smGet noRun s.flt.chRuns c with
    | some r => if s.clk < r.first + clkPerSec then { r with count := r.count + 1 } else ⟨s.clk, 1, false⟩
    | none => ⟨s.clk, 1, false⟩
  ({ s with flt := { s.flt with chRuns := smPut noRun s.flt.chRuns c (some run) } }).bump (CH_STAT.resets c) 1

/-- Start a block reset unless one of the unit is running; a pipe's includes its channel's (R540, R541). -/
def State.startBlockReset (s : State) (u : UnitId) : State :=
  if s.resetting u then s
  else
    let s := { s with flt := { s.flt with running := s.flt.running ++ [u] } }
    match u with
    | .pipe p =>
      if s.resetting (.channel p) then s
      else ({ s with flt := { s.flt with running := s.flt.running ++ [UnitId.channel p] } }).countChannel p
    | .channel p => s.countChannel p
    | _ => s

/-- The reaction set of a class (R533): bit 4 of the FATAL set reads 1 (R537). -/
def State.reactions (s : State) (n cls : Nat) : Nat :=
  if cls = 1 then s.get (FLT_SRC.rx_corr n)
  else if cls = 2 then s.get (FLT_SRC.rx_cont n)
  else setBits (s.get (FLT_SRC.rx_fatal n)) 4 1 1

def pendField (n cls : Nat) : Fld :=
  if cls = 1 then FLT_SRC.corr_pend n else if cls = 2 then FLT_SRC.cont_pend n else FLT_SRC.fatal_pend n

/-- The reactions that will be acted on: no block reset without a unit or while it runs, no chip reset while one
waits or during CLOCK and SELFTEST (R534, R538, R541, R587). -/
def State.acted (s : State) (n cls : Nat) : Nat :=
  let rx := s.reactions n cls
  let noBlock := match resetUnit n with | some u => s.resetting u | none => true
  let rx := if noBlock then setBits rx 2 1 0 else rx
  if s.flt.chipAt.isSome || s.boot.warm || s.get PKG_BOOT_STATUS.phase = 2 || s.get PKG_BOOT_STATUS.phase = 3 then
    setBits rx 3 1 0 else rx

/-- Write the next history entry (R542, R543). -/
def State.recordFault (s : State) (n cls syn acted : Nat) (injected : Bool) : State :=
  let i := s.get FLT_HIST_PTR.next
  let rk := n * 4 + cls
  let rep := smGet (fun _ => 0) s.flt.repeats rk
  let w0 := s.wrapNow + s.flt.seq % 65536 * 2 ^ 48
  let w1 := n + cls * 2 ^ 11 + acted * 2 ^ 13 + b2n injected * 2 ^ 18 + rep * 2 ^ 20
  let s := s.setRaw (FLT_HIST.regOff i 0) (BitVec.ofNat 64 w0)
  let s := s.setRaw (FLT_HIST.regOff i 1) (BitVec.ofNat 64 w1)
  let s := s.setRaw (FLT_HIST.regOff i 2) (BitVec.ofNat 64 syn)
  let s := (s.put FLT_HIST_PTR.next (i + 1)).put FLT_HIST_PTR.last_seq s.flt.seq
  let s := if s.flt.unread = 64 then
      (s.bump FLT_HIST_PTR.lost 1).put FLT_HIST_PTR.read (s.get FLT_HIST_PTR.read + 1) else s
  { s with flt := { s.flt with
      seq := s.flt.seq + 1
      unread := min 64 (s.flt.unread + 1)
      repeats := smPut (fun _ => 0) s.flt.repeats rk 0
      lastCorr := if cls = 1 then smPut (fun _ => none) s.flt.lastCorr n (some s.clk) else s.flt.lastCorr } }

/-- A CORRECTED event within 1 ms of the source's last recorded one is withheld from the history (R543). -/
def State.withheld (s : State) (n cls : Nat) : Bool :=
  cls == 1 && (match smGet (fun _ => none) s.flt.lastCorr n with
    | some c => decide (s.clk < c + 1000 * clkPerUs)
    | none => false)

/-- The urgent reaction (R536). -/
def State.urgent (s : State) : State :=
  if s.flag FLT_STATUS.urgent_pend then s
  else (s.put FLT_STATUS.urgent_pend 1).msix 0 0

/-- Raise an event of class `cls` (1 CORRECTED, 2 CONTAINED, 3 FATAL) on source `n` with its syndrome: record it,
set the pending bit and count, then act through the selected reactions in the order of R534. -/
def State.raiseWith (s : State) (n cls syn : Nat) (injected : Bool) : State :=
  if !sourceListed n then s
  else
    let act := s.acted n cls
    let rk := n * 4 + cls
    let more := smPut (fun _ => 0) s.flt.repeats rk (satAdd 12 (smGet (fun _ => 0) s.flt.repeats rk) 1)
    let s := if s.withheld n cls then { s with flt := { s.flt with repeats := more } }
      else s.recordFault n cls syn act injected
    let was := s.flag (pendField n cls)
    let s := (s.put (pendField n cls) 1).bumpWrap (FLT_SRC.count n) 1
    let s := if cls = 3 then s.put FLT_STATUS.last_fatal n else s
    let s := if bitAt act 0 && !was then s.msix 0 (s.get (FLT_SRC.vector n)) else s
    let s := if bitAt act 1 then s.urgent else s
    let s := if bitAt act 4 || cls = 3 then s.put FLT_STATUS.fault_pin 1 else s
    let s := if bitAt act 2 then
        (match resetUnit n with | some u => s.startBlockReset u | none => s) else s
    if bitAt act 3 then
      let s := s.put FLT_STATUS.chip_reset_cause 1
      { s with flt := { s.flt with chipAt := some (s.clk + min 1000 (s.get FLT_CFG.reset_delay_us) * clkPerUs) } }
    else s

def State.raise (s : State) (n cls syn : Nat) : State := s.raiseWith n cls syn false

/-- Pipe `p` takes packets: not stopped under R136 and not in block reset (R540). -/
def State.pipeRuns (s : State) (p : Nat) : Bool :=
  !s.flt.stopped.contains p && !s.resetting (.pipe p)

/-- Cells cross channel `c` (R550, R552). -/
def State.channelRuns (s : State) (c : Nat) : Bool := !s.resetting (.channel c) && !s.flag (CH_STAT.stopped c)

/-! ### Die-to-die channels (R55, R545-R547) -/

/-- Slots of queue `q` of a channel direction: 0 control, 1 lossless, 2 lossy (R545). -/
def chSlots (q : Nat) : Nat := if q = 0 then 16 else 64

/-- Key of a receive queue: channel, direction (1 toward the I/O die) and queue. -/
def chKey (c : Nat) (toIo : Bool) (q : Nat) : Nat := (c * 2 + b2n toIo) * 3 + q

/-- A queue at channel start and after each channel reset: empty, the producer's count the full queue size (R546). -/
def noQueue (k : Nat) : ChQueue := ⟨0, 0, 0, 0, chSlots (k % 3), []⟩

def State.chQueue (s : State) (k : Nat) : ChQueue := smGet noQueue s.flt.channels k

def State.setChQueue (s : State) (k : Nat) (x : ChQueue) : State :=
  { s with flt := { s.flt with channels := smPut noQueue s.flt.channels k x } }

/-- The producer may send a channel cell of queue `q`: the channel runs and its count is above 0 (R55, R546). -/
def State.chReady (s : State) (c : Nat) (toIo : Bool) (q : Nat) : Bool :=
  s.channelRuns c && decide (0 < (s.chQueue (chKey c toIo q)).credits)

/-- The producer sends an item of queue `q` against a credit; without one it sends nothing. -/
def State.chSend (s : State) (c : Nat) (toIo : Bool) (q : Nat) (i : ChItem) : State :=
  let k := chKey c toIo q
  let x := s.chQueue k
  if s.chReady c toIo q then
    s.setChQueue k { x with
      writeA := (x.writeA + 1) % 128, writeB := (x.writeB + 1) % 128, credits := x.credits - 1, items := x.items ++ [i] }
  else s

/-- The consumer reads the head of the first queue that holds an item, control before lossless before lossy, and
returns one credit for the slot; from an empty channel it receives IDLE (R547). -/
def State.chRead (s : State) (c : Nat) (toIo : Bool) : State × ChItem :=
  match [0, 1, 2].find? (fun q => !(s.chQueue (chKey c toIo q)).items.isEmpty) with
  | none => (s, .idle)
  | some q =>
    let k := chKey c toIo q
    let x := s.chQueue k
    (s.setChQueue k { x with
      readA := (x.readA + 1) % 128, readB := (x.readB + 1) % 128, credits := min (chSlots q) (x.credits + 1)
      items := x.items.drop 1 }, x.items.headD .idle)

/-- `n` items of queue `q` cross channel `c`, each read as it arrives: nothing stands in a channel between commands
(DESIGN CHOICE, notes/assumptions/33.md). -/
def State.chCross (s : State) (c : Nat) (toIo : Bool) (q : Nat) (i : ChItem) : Nat → State
  | 0 => s
  | n + 1 => ((s.chSend c toIo q i).chRead c toIo).1.chCross c toIo q i n

/-- The queue in which a frame's cells travel (R545). -/
def chData (lossless : Bool) : Nat := if lossless then 1 else 2

/-! ### Enable checks (R19-R22) -/

/-- The fields of an ENABLE_STATUS register with key `k` (R19). -/
def esReason (k : Nat) : Fld := ⟨k, 0, 16⟩

def esBusy (k : Nat) : Fld := ⟨k, 16, 1⟩

def esValid (k : Nat) : Fld := ⟨k, 17, 1⟩

def esDetail (k : Nat) : Fld := ⟨k, 32, 16⟩

def esAttempts (k : Nat) : Fld := ⟨k, 48, 16⟩

/-- Start a check unless one of the block is running (R21). -/
def State.startCheck (s : State) (k : Nat) (op : CheckOp) (args : List Nat) : State :=
  if s.flag (esBusy k) then s
  else
    let s := s.put (esBusy k) 1
    { s with checks := s.checks ++ [⟨k, op, args⟩] }

/-- End the check of block `k`: reason, detail and attempts change as busy falls (R19, R20). -/
def State.endCheck (s : State) (k reason detail : Nat) : State :=
  let s := s.puts [(esReason k, reason), (esDetail k, detail), (esValid k, 1), (esBusy k, 0)]
  let s := s.bumpWrap (esAttempts k) 1
  { s with checks := s.checks.filter (fun c => c.key != k) }

/-- Judge a list of refusals in order: the first that holds, else accepted. -/
def firstReason : List (Bool × Nat × Nat) → Option (Nat × Nat)
  | [] => none
  | (true, r, d) :: _ => some (r, d)
  | (false, _, _) :: t => firstReason t

/-- The power unit's state is RUN (0), BRINE_ENTRY (1), BRINE (2) or BRINE_EXIT (3) (R530). -/
def State.pwrState (s : State) : Nat := s.get PWR_STATUS.state

/-- The power unit holds the gated units still: BRINE or BRINE_EXIT (R523, R525). -/
def State.gated (s : State) : Bool := 2 ≤ s.pwrState

/-- A host write to a register of a gated unit: in Brine it is discarded and counted (R524). -/
def State.gatedWrite (s : State) (f : State → State) : State := if s.gated then s.bump PWR_STAT.brine_writes 1 else f s

/-- STRUCT_STATUS.state is ACTIVE. -/
def State.imageActive (s : State) : Bool := s.get STRUCT_STATUS.state = 3

/-- READY was reached and no reset runs. -/
def State.ready (s : State) : Bool := s.get PKG_BOOT_STATUS.phase = 4

/-! ### Ports (02_structure_image.md R73, R92; 11_serial_lanes.md R413) -/

/-- The record under which port `p` was enabled and runs (R92). -/
def State.enabledRec (s : State) (p : Nat) : Option PortRec := smGet (fun _ => none) s.io.records p

/-- The record of port `p` in the active image's port map. -/
def State.mapRec (s : State) (p : Nat) : Option PortRec :=
  match s.img.active with
  | some i => i.ports.find? (fun r => r.port = p)
  | none => none

/-- The record that places port `p`: the active image's, else the one it was enabled under. -/
def State.portRec (s : State) (p : Nat) : Option PortRec :=
  match s.mapRec p with
  | some r => some r
  | none => s.enabledRec p

/-- First lane of port `p`; a port without a record has none and its number stands in. -/
def State.laneOf (s : State) (p : Nat) : Nat :=
  match s.portRec p with
  | some r => r.first
  | none => p

/-- Port state of R413. -/
def State.portState (s : State) (p : Nat) : Nat :=
  match s.portRec p with
  | some r => s.get (PORT_STATUS.state r.first)
  | none => 0

def State.portUp (s : State) (p : Nat) : Bool := s.portState p = 4

def State.isRistlink (s : State) (p : Nat) : Bool :=
  match s.portRec p with
  | some r => r.link = 2
  | none => false

/-- The pipe of port `p` (R7, R34). -/
def State.pipeOf (s : State) (p : Nat) : Nat := s.laneOf p / 32

end Sys2Proof.Machine
end

