-- ==== Sys2Proof/Machine/Rings.lean ====
section
/-! DEFINITION. Descriptor rings and the host interface (12_host_interface_rings.md): doorbells, entry reads,
invalidation, the start of an abort, injection, interrupts, held writes and PCIe errors. -/

namespace Sys2Proof.Machine

/-- Scan position S (R458): taken positions plus the prefetched copies. -/
def scanPos (x : RingSt) : Nat := x.take + x.copies.length

/-- Reading may go on: fewer than 8 copies and S below C + N (R458). -/
def scanRoom (x : RingSt) (size : Nat) : Bool :=
  x.copies.length < 8 && scanPos x < x.complete + size

/-- A doorbell of ring `r` (R457-R459, R463). -/
def State.doorbell (s : State) (r : Nat) : State :=
  let k := s.slot r
  let f := s.ringFunc r
  let inReset := (f ≠ 0 && s.flag (HIF_VF.in_reset f)) || (f = 0 && s.hif.pfReset)
  if !s.ringEnabled r || s.flag (RING_CTL.halted k) || inReset then s.bump HIF_STAT.db_discarded 1
  else
    let s := s.perf hifBlock 0x64 { func := some f } 1
    let x := s.ring r
    if x.aborting then s
    else if x.scanning && scanRoom x (s.ringSize r) then s.setRing r { x with again := true }
    else s.setRing r { x with scanning := true, inval := false }

def execRingDoorbell (r : Fin 1024) (s : State) : Host.Outcome State Fault Refusal :=
  .next (s.doorbell r)

/-- A failed read of a ring entry halts the ring (R450, R477). -/
def State.haltRing (s : State) (r : Nat) : State :=
  let x := s.ring r
  let i := scanPos x % s.ringSize r
  let s := s.bump HIF_STAT.read_fail 1
  let s := s.put (RING_CTL.halted (s.slot r)) 1
  let s := s.setRing r { s.ring r with scanning := false, again := false, abortScan := false }
  s.raise 1703 2 (r + i * 2 ^ 10)

/-- What an abort gives an entry that it takes (R471). -/
def abortedEntry (w : List Word) : List Word := completed w 1 [(1, 0)]

/-- An abort scan has read the entry at S (R471). -/
def State.abortFetched (s : State) (r : Nat) (w : List Word) : State :=
  let x := s.ring r
  if bitAt (wordAt w 0) 63 && scanPos x < x.complete + s.ringSize r then
    let s := s.setRing r { x with take := x.take + 1, taken := x.taken ++ [⟨w, some (abortedEntry w)⟩] }
    let s := (s.bump (RING_ABORT.aborted (s.slot r)) 1).drain r
    let x := s.ring r
    if scanPos x < x.complete + s.ringSize r then s else s.setRing r { x with abortScan := false }
  else s.setRing r { x with abortScan := false }

/-- A doorbell scan has read the entry at S (R458, R459). -/
def State.scanFetched (s : State) (r : Nat) (w : List Word) : State :=
  let x := s.ring r
  let s := if bitAt (wordAt w 0) 63 then s.setRing r { x with copies := x.copies ++ [w] }
    else s.setRing r { x with scanning := x.again, again := false }
  s.serve r

/-- Ring `r` has an entry to read: an abort scan, or a doorbell scan with room (R458, R471). -/
def State.reading (s : State) (r : Nat) : Bool :=
  let x := s.ring r
  s.ringEnabled r && !s.flag (RING_CTL.halted (s.slot r)) && (x.abortScan || (x.scanning && scanRoom x (s.ringSize r)))

/-- Ring `r` is among those that read, within the limit of outstanding requests (R448). -/
def State.readAllowed (s : State) (r : Nat) : Bool :=
  ((s.hif.scans.filter s.reading).take (if (s.fn 0).tenBitTag then 768 else 256)).contains r

/-- A read of the entry at S of ring `r` completes with `words`, or fails (R448, R450, R458, R471, R477). -/
def State.entryFetched (s : State) (r : Nat) (ok : Bool) (words : List Word) : State :=
  if !s.readAllowed r then s
  else
    let s := s.readHost (s.ringFunc r) (s.entryAddr r (scanPos (s.ring r))) 64
    if !ok then s.haltRing r
    else
      let s := s.perf hifBlock 0x62 { func := some (s.ringFunc r) } 64
      if (s.ring r).abortScan then s.abortFetched r words else s.scanFetched r words

def execRingEntryFetch (r : Fin 1024) (ok : Bool) (words : List Word) (s : State) :
    Host.Outcome State Fault Refusal :=
  .next (s.entryFetched r ok words)

/-- RING_INVAL.go (R463): the copies are discarded, done and take_idx are set, and nothing is taken until a
doorbell. -/
def State.ringInval (s : State) (r : Nat) : State :=
  let k := s.slot r
  let x := s.ring r
  let s := s.setRing r { x with copies := [], inval := true, scanning := false, again := false }
  s.puts [(RING_INVAL.done k, 1), (RING_INVAL.take_idx k, x.take % s.ringSize r)]

def execRingInval (r : Fin 1024) (s : State) : Host.Outcome State Fault Refusal :=
  .next (s.ringInval r)

/-- The fields an INJECT entry must leave 0 (R464, R480 reason 0x0321). -/
def injectReserved (w : List Word) : Bool :=
  bitsOf (wordAt w 0) 28 4 ≠ 0 || bitsOf (wordAt w 0) 56 3 ≠ 0 || bitsOf (wordAt w 3) 14 2 ≠ 0 ||
  bitsOf (wordAt w 3) 22 42 ≠ 0 || wordAt w 4 ≠ 0 || wordAt w 5 ≠ 0 || wordAt w 6 ≠ 0 || wordAt w 7 ≠ 0

/-- The tenant or bd of an INJECT entry of VF `f` is neither 0 nor its binding's (R466). -/
def State.injectForeign (s : State) (f : Nat) (w : List Word) : Bool :=
  let t := bitsOf (wordAt w 0) 0 12
  let b := bitsOf (wordAt w 0) 12 14
  f ≠ 0 && ((t ≠ 0 && t ≠ s.get (HIF_VF.tenant f)) || (b ≠ 0 && b ≠ s.get (HIF_VF.inject_bd f)))

/-- The refusal of an INJECT entry, if any (R480). -/
def State.injectReason (s : State) (r : Nat) (w : List Word) (ok : Bool) : Option (Nat × Nat) :=
  let len := bitsOf (wordAt w 3) 0 14
  let pipe := bitsOf (wordAt w 3) 16 5
  firstReason [
    (injectReserved w, 0x321, 0),
    (wordAt w 2 % 64 ≠ 0 || len < 60 || 16379 < len, 0x322, 0),
    (!s.pipeRuns pipe || s.pwrState ≠ 0, 0x323, 0),
    (!s.imageActive, 0x324, 0),
    (!ok, 0x325, 0),
    (s.injectForeign (s.ringFunc r) w, 0x326, 0)]

/-- The frame with its FCS appended (IEEE 802.3: least significant byte of the CRC first). -/
def withFcs (l : List Byte) : List Byte := l ++ leBytes 4 (crc32 l)

/-- Take the next INJECT entry of ring `r`; its buffer read returns `bytes`, or fails (R460, R464-R466). -/
def State.injectTake (s : State) (r : Nat) (ok : Bool) (bytes : List Byte) : State :=
  if s.ringKind r ≠ 2 then s
  else
    match s.headCopy r with
    | (s, none) => s
    | (s, some w) =>
      let f := s.ringFunc r
      match s.injectReason r w ok with
      | some (reason, _) =>
        let s := if reason = 0x325 then (s.readHost f (wordAt w 2) (bitsOf (wordAt w 3) 0 14)).bump HIF_STAT.read_fail 1
          else s
        (s.takeCopy r (fun w => some (refusedEntry w reason))).drain r
      | none =>
        let len := bitsOf (wordAt w 3) 0 14
        let x := s.ring r
        let item : Inject :=
          { ring := r, index := x.take, pipe := bitsOf (wordAt w 3) 16 5
            tenant := if f = 0 then bitsOf (wordAt w 0) 0 12 else s.get (HIF_VF.tenant f)
            bd := if f = 0 then bitsOf (wordAt w 0) 12 14 else s.get (HIF_VF.inject_bd f)
            bclass := bitsOf (wordAt w 0) 26 2
            post := bitAt (wordAt w 3) 21
            exported := false
            bytes := withFcs (slice bytes 0 len) }
        let s := ((s.readHost f (wordAt w 2) len).takeCopy r (fun _ => none)).perf hifBlock 0x62 { func := some f } len
        { s with hif := { s.hif with inject := s.hif.inject ++ [item] } }

def execInjectTake (r : Fin 1024) (ok : Bool) (bytes : List Byte) (s : State) :
    Host.Outcome State Fault Refusal :=
  .next (s.injectTake r ok bytes)

/-- Give the taken entry at absolute index `i` of ring `r` its result and write what is ready (R460). -/
def State.finishEntry (s : State) (r i : Nat) (res : List Word → List Word) : State :=
  let x := s.ring r
  if i < x.complete then s
  else
    let taken := x.taken.mapIdx (fun j t => if x.complete + j = i then { t with result := some (res t.words) } else t)
    (s.setRing r { x with taken := taken }).drain r

/-- irq_us has passed since the oldest completion not yet signalled (R452). -/
def State.irqTimer (s : State) (r : Nat) : State :=
  let x := s.ring r
  if s.flag (RING_CFG.irq_en (s.slot r)) && x.unsignalled > 0 then
    (s.setRing r { x with unsignalled := 0 }).msix (s.ringFunc r) (s.get (RING_ASSIGN.vector r))
  else s

def execIrqTimer (r : Fin 1024) (s : State) : Host.Outcome State Fault Refusal :=
  .next (s.irqTimer r)

/-- Remove the first held write of function `f`. -/
def dropHeld (f : Nat) : List Held → List Held
  | [] => []
  | h :: t => if h.func = f then t else h :: dropHeld f t

/-- The oldest held write of function `f` is sent once it can be (R450). -/
def State.heldSend (s : State) (f : Nat) : State :=
  match s.hif.held.find? (fun h => h.func = f) with
  | some h =>
    if (s.fn f).busMaster && s.linkUp then
      ({ s with hif := { s.hif with held := dropHeld f s.hif.held } }).send h.item
    else s
  | none => s

def execHeldWriteSend (f : Fin 64) (s : State) : Host.Outcome State Fault Refusal :=
  .next (s.heldSend f)

/-- A PCIe error is logged in AER; it raises CORRECTED on source 1,701 or CONTAINED on 1,702 (R453, R531, R544). -/
def State.pcieError (s : State) (uncorr : Bool) (bit : Nat) (header : List Nat) : State :=
  if uncorr then
    let h := s.hif
    let fresh := h.aerUncorr = 0
    let h := { h with
      aerFirst := if fresh then bit else h.aerFirst
      aerHeader := if fresh then header else h.aerHeader
      aerUncorr := h.aerUncorr ||| 2 ^ bit }
    ({ s with hif := h }).raise 1702 2 (h.aerUncorr + h.aerFirst * 2 ^ 32)
  else
    let h := { s.hif with aerCorr := s.hif.aerCorr ||| 2 ^ bit }
    ({ s with hif := h }).raise 1701 1 (h.aerCorr + h.aerFirst * 2 ^ 32)

def execPcieError (uncorrectable : Bool) (bit : Fin 32) (header : List (BitVec 32)) (s : State) :
    Host.Outcome State Fault Refusal :=
  .next (s.pcieError uncorrectable bit (header.map (·.toNat)))

/-- Send every pending vector of function `f` that is no longer masked (R451). -/
def State.msixFlush (s : State) (f : Nat) : State :=
  let c := s.fn f
  if !c.msixEnable || c.msixMask then s
  else
    (s.hif.msixPend.map (·.1)).foldl (fun s k =>
      let v := k - f * 2048
      if k / 2048 = f && !s.msixMasked f v then (s.msixPend f v false).msix f v else s) s

/-- The first read of a configuration register that R445 fixes; any other register's value is left open. -/
def State.configRead (s : State) (f off : Nat) : State :=
  let c := s.fn f
  if f = 0 && off = 0 then s.send (.config f 0x92041F4D)
  else if f = 0 && off = 4 then s.send (.config f (b2n c.memSpace * 2 + b2n c.busMaster * 4))
  else if off = 8 then s.send (.config f 0x028000A0)
  else if off = 0x2C then s.send (.config f 0x92041F4D)
  else
    let (w, s) := s.draw
    s.send (.config f (w.toNat % 2 ^ 32))

/-- RING_CTL.enable: the check of R479 starts. A slot without a ring discards the write (R447). -/
def State.ringEnable (s : State) (r : Nat) : State :=
  let k := s.slot r
  s.startCheck (RING_ENABLE_STATUS.regOff k) (.ringEnable r) []

def execRingEnable (r : Fin 1024) (s : State) : Host.Outcome State Fault Refusal :=
  .next (s.ringEnable r)

/-- Another valid ring has the same function and slot. -/
def State.slotShared (s : State) (r : Nat) : Bool :=
  s.ringFunc r ≠ 0 && (List.range 1024).any (fun q =>
    q ≠ r && s.flag (RING_ASSIGN.valid q) && s.ringFunc q = s.ringFunc r &&
      s.get (RING_ASSIGN.slot q) = s.get (RING_ASSIGN.slot r))

/-- The ring enable check (R479); detail is the ring. -/
def State.ringReason (s : State) (r : Nat) : Option (Nat × Nat) :=
  let k := s.slot r
  let f := s.ringFunc r
  let kind := s.ringKind r
  let v := s.get (RING_ASSIGN.vector r)
  let size := s.get (RING_CFG.size_log2 k)
  firstReason [
    (!s.flag (RING_ASSIGN.valid r), 0x301, r),
    (s.flag (RING_CTL.enabled k), 0x302, r),
    (s.get (RING_ADDR.addr k) = 0 || size < 4 || 16 < size, 0x303, r),
    (vectorCount f ≤ v || (f = 0 && v = 0), 0x304, r),
    (kind = 0 || 5 < kind || (f ≠ 0 && (kind = 4 || (kind = 2 && !s.flag (HIF_VF.inject_en f)))), 0x305, r),
    (f ≠ 0 && !s.flag (HIF_VF.bind_valid f), 0x306, r),
    (!(s.fn f).busMaster, 0x307, r),
    ((f ≠ 0 && s.flag (HIF_VF.in_reset f)) || (f = 0 && s.hif.pfReset), 0x308, r),
    (s.slotShared r, 0x309, r)]

/-- An accepted ring enable: positions at 0 (R456). -/
def State.ringAccepted (s : State) (r : Nat) : State :=
  let k := s.slot r
  (s.setRing r {}).puts [(RING_CTL.enabled k, 1), (RING_CTL.halted k, 0), (RING_INVAL.done k, 0)]

end Sys2Proof.Machine
end

