-- ==== Sys2Proof/Machine/Image.lean ====
section
/-! DEFINITION. Reading a decrypted structure image and its consistency checks, as plain functions of the body bytes
(02_structure_image.md R65-R77, R88, R626, R627; 03_action_microcode.md R119, R121; 04 R157, R159; 05 R178-R203). -/

namespace Sys2Proof.Machine

/-- A refusal: reason and detail. -/
abbrev Reject := Nat × Nat

/-- The first failing check in the order given, each with its lowest offending item (R627). -/
def firstBad : List (Nat × List Nat) → Option Reject
  | [] => none
  | (r, l) :: t => match minNat? l with | some d => some (r, d) | none => firstBad t

/-- Items met more than once. -/
def repeated (l : List Nat) : List Nat := l.filter (fun x => 1 < l.count x)

/-! ### Header and directory (R66-R68) -/

/-- The checks of step 1 that read the header, in the order of R627. -/
def headerReject (h : List Byte) (len : Nat) : Option Reject :=
  let part := leAt h 8 2
  let body := leAt h 0x0C 4
  let bad (b : Bool) : List Nat := if b then [0] else []
  firstBad [
    (0x103, bad (leAt h 0 4 ≠ 0x4B4D4C53)),
    (0x104, bad (part = 0x5120)),
    (0x103, bad (leAt h 4 2 ≠ 0x0100)),
    (0x105, bad (part ≠ 0x9204 || leAt h 0x0A 1 ≠ 0xA0)),
    (0x106, bad (leAt h 6 2 ≠ 256 || body % 16 ≠ 0 || leAt h 0x18 2 ≠ 6 || 256 + body + 16 ≠ len))]

structure DirEnt where
  typ : Nat
  count : Nat
  off : Nat
  len : Nat
  deriving DecidableEq, Repr

def directory (h : List Byte) : List DirEnt :=
  (List.range 6).map (fun i =>
    let b := 0x30 + 16 * i
    ⟨leAt h b 2, leAt h (b + 4) 4, leAt h (b + 8) 4, leAt h (b + 12) 4⟩)

/-- Byte ranges overlap; an empty range overlaps none. -/
def overlaps (a b : DirEnt) : Bool := a.len ≠ 0 && b.len ≠ 0 && a.off < b.off + b.len && b.off < a.off + a.len

def dirBadRange (d : List DirEnt) (body i : Nat) : Bool :=
  match d[i]? with
  | some e => e.off % 16 ≠ 0 || body < e.off + e.len ||
      (List.range d.length).any (fun j => j ≠ i && (match d[j]? with | some f => overlaps e f | none => false))
  | none => false

/-- Reasons 0x0121, 0x0120 and 0x0122. -/
def dirReject (d : List DirEnt) (body : Nat) : Option Reject :=
  let types := d.map (·.typ)
  firstBad [
    (0x121, types.filter (fun t => t = 0 || 6 < t) ++ repeated types),
    (0x120, [1, 2, 3, 4, 5, 6].filter (fun t => !types.contains t)),
    (0x122, (List.range d.length).filter (dirBadRange d body))]

/-! ### Record framing (reason 0x0123) -/

/-- Length of the record at the start of the bytes, for each section type. -/
def recordLen (typ : Nat) (l : List Byte) : Option Nat :=
  match typ with
  | 1 => if l.length < 16 then none else some (16 + 12 * leAt l 11 1 + 8 * leAt l 12 1)
  | 2 => some 80
  | 3 => if l.length < 16 then none else some (16 + 32 * leAt l 4 2)
  | 4 => if l.length < 8 then none else some (8 + 16 * leAt l 2 1 + 256)
  | 5 => if l.length = 0 then none else if leAt l 0 1 = 1 then some 16 else if leAt l 0 1 = 2 then some 136 else none
  | _ => if l.length = 0 then none else if 1 ≤ leAt l 0 1 && leAt l 0 1 ≤ 3 then some 16 else none

/-- Exactly `n` records fill the bytes. -/
def splitRecords (typ : Nat) : Nat → List Byte → Option (List (List Byte))
  | 0, l => if l.isEmpty then some [] else none
  | n + 1, l =>
    match recordLen typ l with
    | some k =>
      if l.length < k then none
      else match splitRecords typ n (l.drop k) with
        | some t => some (l.take k :: t)
        | none => none
    | none => none

/-- The records of section `typ`; a count that the section cannot hold fails. -/
def sectionRecords (d : List DirEnt) (body : List Byte) (typ : Nat) : Option (List (List Byte)) :=
  match d.find? (fun e => e.typ = typ) with
  | some e => if e.len < e.count then none else splitRecords typ e.count (slice body e.off e.len)
  | none => none

/-! ### Records (R69-R75) -/

def readTransition (l : List Byte) : Transition := ⟨leAt l 0 4, leAt l 4 4, leAt l 8 2⟩

def readExtraction (l : List Byte) : Extraction := ⟨leAt l 0 2, leAt l 2 2, leAt l 4 2⟩

def readNode (l : List Byte) : PNode :=
  let nt := leAt l 11 1
  let nx := leAt l 12 1
  { id := leAt l 0 2, hdrLen := leAt l 2 2, lenOff := leAt l 4 1, lenWidth := leAt l 5 1, lenScale := leAt l 6 1
    lenAdd := leAt l 7 1, selOff := leAt l 8 2, selWidth := leAt l 10 1
    trans := (List.range nt).map (fun i => readTransition (slice l (16 + 12 * i) 12))
    extr := (List.range nx).map (fun i => readExtraction (slice l (16 + 12 * nt + 8 * i) 8)) }

def readTable (l : List Byte) : TblDecl :=
  { id := leAt l 0 2, kind := leAt l 2 1, scope := leAt l 3 1, keyBits := leAt l 4 2, dataBits := leAt l 6 2
    capacity := leAt l 8 4, first := leAt l 12 1, last := leAt l 13 1, levels := leAt l 14 1, flags := leAt l 15 1
    strides := (List.range 12).map (fun i => leAt l (16 + i) 1)
    tiles := (List.range 32).map (fun i => leAt l (32 + i) 1 % 64)
    defAction := leAt l 64 2 }

def readStore (l : List Byte) : StoreRec :=
  { stage := leAt l 0 1, flags := leAt l 1 1, first := leAt l 2 2, trap := leAt l 6 2
    words := leWords 32 (leAt l 4 2) (l.drop 16) }

def readQNode (l : List Byte) : QNode := ⟨leAt l 0 1, leAt l 1 1, leAt l 2 4, leAt l 6 2⟩

def readQQueue (l : List Byte) : QQueue := ⟨leAt l 0 1, leAt l 1 1, leAt l 2 4, leAt l 6 2, leAt l 8 2⟩

def readQPort (l : List Byte) : QPort :=
  let n := leAt l 2 1
  { port := leAt l 0 2
    nodes := (List.range n).map (fun i => readQNode (slice l (8 + 16 * i) 16))
    queues := (List.range 16).map (fun i => readQQueue (slice l (8 + 16 * n + 16 * i) 16)) }

def readPort (l : List Byte) : PortRec :=
  { port := leAt l 2 2, link := leAt l 1 1, first := leAt l 4 2, lanes := leAt l 6 1, speed := leAt l 7 1
    tenant := leAt l 8 2, bd := leAt l 10 2, pfc := bitAt (leAt l 12 2) 0 }

def readMember (l : List Byte) : Member :=
  let bits := leAt l 8 128
  ⟨leAt l 1 1, leAt l 2 2, (List.range 1024).filter (fun p => bitAt bits p)⟩

def readPool (l : List Byte) : PoolRec := ⟨leAt l 1 1, leAt l 4 4, leAt l 8 1⟩

def readQuota (l : List Byte) : QuotaRec := ⟨leAt l 1 1, leAt l 2 2, leAt l 4 4, leAt l 8 1⟩

def readHead (l : List Byte) : HeadRec := ⟨leAt l 1 1, leAt l 2 2, leAt l 4 4⟩

def ofKind (k : Nat) (l : List (List Byte)) : List (List Byte) := l.filter (fun r => leAt r 0 1 = k)

/-- The six sections split into records, or the lowest section type whose framing fails (R627). -/
def readImage (h body : List Byte) : Except Reject Image :=
  let d := directory h
  match dirReject d body.length with
  | some r => .error r
  | none =>
    match sectionRecords d body 1, sectionRecords d body 2, sectionRecords d body 3, sectionRecords d body 4,
        sectionRecords d body 5, sectionRecords d body 6 with
    | some p, some t, some c, some q, some m, some o =>
      .ok { imageId := leAt h 0x10 8, nodes := p.map readNode, tables := t.map readTable, stores := c.map readStore
            queues := q.map readQPort, ports := (ofKind 1 m).map readPort, members := (ofKind 2 m).map readMember
            pools := (ofKind 1 o).map readPool, quotas := (ofKind 2 o).map readQuota
            heads := (ofKind 3 o).map readHead }
    | p, t, c, q, m, o =>
      let bad (i : Nat) (x : Option (List (List Byte))) : List Nat := if x.isNone then [i] else []
      .error (0x123, (minNat? (bad 1 p ++ bad 2 t ++ bad 3 c ++ bad 4 q ++ bad 5 m ++ bad 6 o)).getD 0)

/-! ### Parser graph (0x0128-0x012D) -/

/-- Needed bytes of a node (R159). -/
def needed (n : PNode) : Nat :=
  let sel := if n.selWidth = 0 then 0 else ceilDiv (n.selOff + n.selWidth) 8
  let len := if n.hdrLen = 0 then n.lenOff + ceilDiv n.lenWidth 8 else 0
  (n.extr.map (fun e => ceilDiv (e.src + e.width) 8)).foldl max (max sel len)

/-- The least header length that lets a walk go on past the node (R159). -/
def leastLen (n : PNode) : Option Nat :=
  if n.hdrLen ≠ 0 then some n.hdrLen
  else if needed n ≤ n.lenAdd then some n.lenAdd
  else if n.lenScale = 0 then none
  else
    let f := ceilDiv (needed n - n.lenAdd) n.lenScale
    if f < 2 ^ n.lenWidth then some (f * n.lenScale + n.lenAdd) else none

def nodeById (g : List PNode) (i : Nat) : Option PNode := g.find? (fun n => n.id = i)

def successors (n : PNode) : List Nat := (n.trans.map (·.next)).filter (fun x => x ≠ 0xFFFF)

/-- Nodes reached from the listed ones in at most `n` rounds. -/
def reach (g : List PNode) : Nat → List Nat → List Nat
  | 0, seen => seen
  | n + 1, seen =>
    let more := ((seen.filterMap (nodeById g)).flatMap successors).eraseDups.filter (fun x => !seen.contains x)
    if more.isEmpty then seen else reach g n (seen ++ more)

def onCycle (g : List PNode) (n : PNode) : Bool := (reach g g.length (successors n).eraseDups).contains n.id

/-- One round of earliest starts: (node, start) pairs. -/
def relax (g : List PNode) (m : List (Nat × Option Nat)) : List (Nat × Option Nat) :=
  g.foldl (fun m n =>
    match smGet (fun _ => none) m n.id, leastLen n with
    | some p, some l => (successors n).foldl (fun m x =>
        match smGet (fun _ => none) m x with
        | some q => if p + l < q then smInsert m x (some (p + l)) else m
        | none => smInsert m x (some (p + l))) m
    | _, _ => m) m

def earliest (g : List PNode) : List (Nat × Option Nat) :=
  (List.range g.length).foldl (fun m _ => relax g m) [(0, some 0)]

def tooDeep (starts : List (Nat × Option Nat)) (n : PNode) : Bool :=
  match smGet (fun _ => none) starts n.id with
  | some p => needed n ≠ 0 && 512 < p + needed n
  | none => false

def badExtraction (e : Extraction) : Bool :=
  e.width = 0 || 128 < e.width || bitsOf e.dst 5 7 < 40 || bitsOf e.dst 12 4 ≠ 0 ||
  4096 < bitsOf e.dst 5 7 * 32 + bitsOf e.dst 0 5 + e.width

def graphReject (g : List PNode) : Option Reject :=
  let ids := g.map (·.id)
  let pick (f : PNode → Bool) : List Nat := (g.filter f).map (·.id)
  match firstBad [
    (0x128, ids.filter (fun i => 255 < i) ++ repeated ids ++ (if ids.contains 0 then [] else [0])),
    (0x129, pick (fun n => (successors n).any (fun x => !ids.contains x))),
    (0x12A, pick (onCycle g))] with
  | some r => some r
  | none =>
    let st := earliest g
    firstBad [
      (0x12B, pick (tooDeep st)),
      (0x12C, pick (fun n => n.extr.any badExtraction)),
      (0x12D, pick (fun n => 16 < n.trans.length || 16 < n.extr.length || 32 < n.selWidth ||
        (n.hdrLen = 0 && (n.lenWidth = 0 || 16 < n.lenWidth))))]

/-! ### Table declarations (0x0130-0x0139) -/

/-- SRAM and TCAM tile counts of a table in one stage. -/
def sramIn (t : TblDecl) (st : Nat) : Nat := sumNat ((List.range 4).map (fun i => b2n (bitAt (nth t.tiles st) i)))

def tcamIn (t : TblDecl) (st : Nat) : Nat := b2n (bitAt (nth t.tiles st) 4) + b2n (bitAt (nth t.tiles st) 5)

def stageRun (t : TblDecl) : List Nat := (List.range 32).filter (fun st => t.first ≤ st && st ≤ t.last)

def sramTotal (t : TblDecl) : Nat := sumNat ((List.range 32).map (sramIn t))

def partitioned (t : TblDecl) : Bool := t.scope ≠ 1

/-- Counted key width of a ternary table (R178). -/
def countedBits (t : TblDecl) : Nat := t.keyBits + (if partitioned t then 16 else 0)

/-- Bits of an exact-match entry (R188). -/
def emBits (t : TblDecl) : Nat := 40 + (if partitioned t then 16 else 0) + t.keyBits + t.dataBits

/-- Words of an exact-match entry: 1, 2 or 4. -/
def emWords (t : TblDecl) : Nat := if emBits t ≤ 128 then 1 else if emBits t ≤ 256 then 2 else 4

def emPositions (t : TblDecl) : Nat := sramTotal t * 4096 / emWords t

/-- Rows of a ternary table in one stage (R199). -/
def rowsIn (t : TblDecl) (st : Nat) : Nat :=
  if countedBits t ≤ 80 then 2048 * tcamIn t st
  else if countedBits t ≤ 160 then 1024 * tcamIn t st
  else 1024

def tcamRows (t : TblDecl) : Nat := sumNat ((stageRun t).map (rowsIn t))

def stride (t : TblDecl) (k : Nat) : Nat := nth t.strides k

/-- Words of a node whose level has the given stride (R194). -/
def nodeWords (s : Nat) : Nat := max 1 (2 ^ s / 4)

def lpmLevels (t : TblDecl) : List Nat := t.strides.take t.levels

/-- Words of the last stage (R198). -/
def lpmLastWords (t : TblDecl) : Nat := 4096 * sramIn t t.last

def widthBad (t : TblDecl) : Bool :=
  if t.kind = 1 then t.keyBits = 0 || 448 < t.keyBits || 448 < t.dataBits || 512 < emBits t
  else if t.kind = 2 then t.keyBits = 0 || 192 < t.keyBits || 64 < t.dataBits
  else t.keyBits = 0 || 320 < countedBits t || 56 < t.dataBits

def tileKindBad (t : TblDecl) : Bool :=
  if t.kind = 1 then (List.range 32).any (fun st => tcamIn t st ≠ 0) || sramTotal t = 0 || sramTotal t % 4 ≠ 0
  else if t.kind = 2 then
    (List.range 32).any (fun st => tcamIn t st ≠ 0) || (stageRun t).any (fun st => sramIn t st = 0)
  else (stageRun t).any (fun st =>
    sramIn t st ≠ 1 || tcamIn t st = 0 || (160 < countedBits t && tcamIn t st ≠ 2))

def lpmBad (t : TblDecl) : Bool :=
  t.kind = 2 && (t.levels = 0 || 12 < t.levels || t.last + 1 ≠ t.first + t.levels ||
    (lpmLevels t).any (fun s => s = 0 || 16 < s) || sumNat (lpmLevels t) ≠ t.keyBits)

def capacityBad (t : TblDecl) : Bool :=
  if t.kind = 1 then emPositions t * 7 < t.capacity * 8
  else if t.kind = 2 then
    let root := nodeWords (stride t 0)
    let x := if t.levels = 1 then root else nodeWords (stride t (t.levels - 1))
    4096 * sramIn t t.first < root || lpmLastWords t < t.capacity + x
  else tcamRows t < t.capacity

def tileClash (ts : List TblDecl) (t : TblDecl) : Bool :=
  (List.range 32).any (fun st => nth t.tiles st ≠ 0 && (st < t.first || t.last < st)) ||
  ts.any (fun u => u.id ≠ t.id && (List.range 32).any (fun st => nth t.tiles st &&& nth u.tiles st ≠ 0))

/-- A word is loaded: by the image's store record of the stage, or by the patch (R107). -/
def wordLoaded (stores : List StoreRec) (patchWords : Nat → Nat) (a : Nat) : Bool :=
  (stores.any (fun r => r.stage = addrStage a && r.first ≤ addrWord a && addrWord a < r.first + r.words.length)) ||
  1024 ≤ addrWord a + patchWords (addrStage a)

def tablesReject (ts : List TblDecl) (stores : List StoreRec) (patchWords : Nat → Nat) : Option Reject :=
  let ids := ts.map (·.id)
  let pick (f : TblDecl → Bool) : List Nat := (ts.filter f).map (·.id)
  firstBad [
    (0x130, ids.filter (fun i => 255 < i) ++ repeated ids),
    (0x131, pick (fun t => t.kind = 0 || 3 < t.kind || t.scope = 0 || 3 < t.scope || (t.kind = 2 && t.scope ≠ 1))),
    (0x132, pick widthBad),
    (0x133, pick (tileClash ts)),
    (0x134, pick tileKindBad),
    (0x135, pick lpmBad),
    (0x136, pick capacityBad),
    (0x137, pick (fun t => t.first ≤ 19 && 20 ≤ t.last)),
    (0x138, pick (fun t => bitAt t.defAction 15 && !wordLoaded stores patchWords (t.defAction % 32768))),
    (0x139, pick (fun t => 31 < t.first || t.last < t.first || 31 < t.last))]

/-! ### Control stores (0x0140-0x0147) -/

/-- Addressed words of a store record: address and microword. -/
def storeWords (r : StoreRec) : List (Nat × Nat) := r.words.mapIdx (fun i w => (r.stage * 1024 + r.first + i, w))

/-- A destination that an op writes lies outside R119's limits. -/
def opDestBad (o : Nat) : Bool := opWritesDst (opCode o) && !staticDest (opDst o)

def opBad (compat : Bool) (o : Nat) : Bool :=
  !opKnown compat (opCode o) || !destOk (opDst o) || !sourceOk (opA o) || !sourceOk (opB o) || opReserved o ≠ 0 ||
  opDestBad o || ((opCode o = 0x0B || opCode o = 0x0C) && 31 < opLo o + opW o) ||
  ((opCode o = 0x21 || opCode o = 0x22 || opCode o = 0x23) && opCondEn o)

/-- Words that a table's result takes: header and data (R182). -/
def resultWords (t : TblDecl) : Nat := 1 + ceilDiv t.dataBits 32

def keyWords (t : TblDecl) : Nat := ceilDiv t.keyBits 32

/-- The key or the result runs beyond word 127. -/
def lookupSpanBad (ts : List TblDecl) (w : Nat) : Bool :=
  mwLookup w && (match ts.find? (fun t => t.id = mwTable w) with
    | some t => 128 < mwKeyWord w + keyWords t || 128 < mwResWord w + resultWords t
    | none => false)

def wordBad (ts : List TblDecl) (compat : Bool) (w : Nat) : Bool :=
  let ctl := ((mwOps w).filter (fun o => opControl (opCode o))).length
  mwNextSel w = 3 || mwReserved w ≠ 0 || (mwOps w).any (opBad compat) || 1 < ctl || (0 < ctl && mwRecirc w) ||
  lookupSpanBad ts w

/-- The next address is tested as a later stage's: fixed or lookup, no return, no recirculation (R121). -/
def nextChecked (w : Nat) : Bool := mwNextSel w < 2 && !mwReturns w && !mwRecirc w

def lookupAbsent (ts : List TblDecl) (stage w : Nat) : Bool :=
  mwLookup w && !ts.any (fun t => t.id = mwTable w && t.first = stage)

/-- Checks of the control-store records (R71, R88). A record of a stage above 31 is one that should not be there
(DESIGN CHOICE, notes/assumptions/88.md). -/
def storesReject (ts : List TblDecl) (rs : List StoreRec) (patchWords : Nat → Nat) : Option Reject :=
  let stages := rs.map (·.stage)
  let pickS (f : StoreRec → Bool) : List Nat := (rs.filter f).map (·.stage)
  let words := rs.flatMap storeWords
  let compat (a : Nat) : Bool := rs.any (fun r => r.stage = a / 1024 && bitAt r.flags 0)
  let pickW (f : Nat → Nat → Bool) : List Nat := (words.filter (fun x => f x.1 x.2)).map (·.1)
  match firstBad [
    (0x140, (List.range 32).filter (fun i => stages.count i ≠ 1) ++ stages.filter (fun i => 31 < i)),
    (0x141, pickS (fun r => 1024 < r.first + r.words.length))] with
  | some r => some r
  | none => firstBad [
    (0x142, pickW (fun a w => nextChecked w && addrStage (mwNext w) ≤ a / 1024)),
    (0x143, pickW (fun _ w => (nextChecked w || mwRecirc w) && !wordLoaded rs patchWords (mwNext w))),
    (0x144, pickW (fun a w => lookupAbsent ts (a / 1024) w)),
    (0x145, pickW (fun a w => wordBad ts (compat a) w)),
    (0x146, pickS (fun r => bitAt r.trap 15 && !wordLoaded rs patchWords (r.stage * 1024 + r.trap % 1024))),
    (0x147, pickS (fun r => !r.words.isEmpty && 1024 < r.first + r.words.length + patchWords r.stage))]

/-! ### Queue hierarchy (0x0150-0x0153) -/

/-- The node's chain of parents does not reach the port within `n` steps. -/
def rootless (q : QPort) : Nat → Nat → Bool
  | 0, _ => true
  | n + 1, i =>
    match q.nodes.find? (fun x => x.node = i) with
    | some x => if x.parent = 0xFF then false else rootless q n x.parent
    | none => true

def nodesBad (q : QPort) : Bool :=
  let ids := q.nodes.map (·.node)
  ids.any (fun i => 63 < i) || !(repeated ids).isEmpty ||
  q.nodes.any (fun x => (x.parent ≠ 0xFF && !ids.contains x.parent) || rootless q (q.nodes.length + 1) x.node)

def quantumBad (v : Nat) : Bool := v ≠ 0 && (v < 64 || 1048576 < v)

def queuesReject (qs : List QPort) (ports : List PortRec) : Option Reject :=
  let named := qs.map (·.port)
  let map := ports.map (·.port)
  let pick (f : QPort → Bool) : List Nat := (qs.filter f).map (·.port)
  firstBad [
    (0x150, map.filter (fun p => named.count p ≠ 1) ++ named.filter (fun p => !map.contains p) ++
      pick (fun q => q.nodes.isEmpty || 64 < q.nodes.length)),
    (0x151, pick nodesBad),
    (0x152, pick (fun q => (List.range 16).any (fun i => (q.queues.map (·.queue)).count i ≠ 1) ||
      q.queues.any (fun x => !(q.nodes.map (·.node)).contains x.node))),
    (0x153, pick (fun q => q.nodes.any (fun x => quantumBad x.quantum || 1023 < x.shaper) ||
      q.queues.any (fun x => quantumBad x.quantum || 1023 < x.shaper)))]

/-! ### Port map (0x0160-0x0166) -/

/-- Speed and lane count pairs (R74). -/
def speedPair (speed lanes : Nat) : Bool :=
  match speed with
  | 0x01 | 0x02 => lanes = 1
  | 0x03 => lanes = 1 || lanes = 2
  | 0x04 | 0x05 => lanes = 1 || lanes = 2 || lanes = 4
  | 0x06 => lanes = 2 || lanes = 4 || lanes = 8
  | 0x07 => lanes = 4 || lanes = 8
  | 0x08 => lanes = 8
  | 0x10 => lanes = 1 || lanes = 2 || lanes = 4 || lanes = 8
  | _ => false

def laneClash (ports : List PortRec) (p : PortRec) : Bool :=
  1 < (ports.filter (fun q => p.first < q.first + q.lanes && q.first < p.first + p.lanes)).length

def portsReject (ports : List PortRec) (members : List Member) : Option Reject :=
  let nums := ports.map (·.port)
  let pick (f : PortRec → Bool) : List Nat := (ports.filter f).map (·.port)
  let pickM (f : Member → Bool) : List Nat := (members.filter f).map (·.id)
  firstBad [
    (0x160, nums.filter (fun p => 1023 < p) ++ repeated nums),
    (0x161, pick (fun p => !(p.lanes = 1 || p.lanes = 2 || p.lanes = 4 || p.lanes = 8) || p.first % p.lanes ≠ 0 ||
      1023 < p.first)),
    (0x162, pick (laneClash ports)),
    (0x163, pick (fun p => !speedPair p.speed p.lanes || p.link ≠ (if p.speed = 0x10 then 2 else 1))),
    (0x164, pickM (fun m => m.ports.any (fun p => !nums.contains p))),
    (0x165, pickM (fun m => !(m.kind = 1 || m.kind = 2) || (if m.kind = 1 then 16383 < m.id else 4095 < m.id) ||
      1 < (members.filter (fun n => n.kind = m.kind && n.id = m.id)).length)),
    (0x166, pick (fun p => 4095 < p.tenant || 16383 < p.bd))]

/-! ### Pool layout (0x0170-0x0176) -/

/-- Cells that an image may hand out (R76). -/
def imageCells : Nat := 1548288

def poolsReject (pools : List PoolRec) (quotas : List QuotaRec) (heads : List HeadRec) (ports : List PortRec) :
    Option Reject :=
  let nums := pools.map (·.pool)
  let total := sumNat (pools.map (·.size)) + sumNat (quotas.map (·.cells)) + sumNat (heads.map (·.cells))
  let port (h : HeadRec) : Option PortRec := ports.find? (fun p => p.port = h.port)
  firstBad [
    (0x170, nums.filter (fun p => 7 < p) ++ repeated nums),
    (0x171, if imageCells < total then [0] else []),
    (0x172, (quotas.filter (fun q => 4095 < q.tenant || 3 < q.cls ||
      1 < (quotas.filter (fun r => r.cls = q.cls && r.tenant = q.tenant)).length)).map (·.tenant)),
    (0x173, (pools.filter (fun p => 11 < p.code)).map (·.pool) ++
      (quotas.filter (fun q => !nums.contains q.overflow)).map (·.overflow)),
    (0x174, (heads.filter (fun h => (match port h with
      | some p => p.link = 1 && !p.pfc | none => false))).map (·.port)),
    (0x175, (heads.filter (fun h => (match port h with
      | some p => p.link = 2 && (h.cells < 64 || 65535 < h.cells) | none => false))).map (·.port)),
    (0x176, (heads.filter (fun h => (port h).isNone || 3 < h.cls ||
      1 < (heads.filter (fun g => g.cls = h.cls && g.port = h.port)).length)).map (·.port))]

/-- Every consistency check of step 4, in the order of R627. -/
def imageReject (i : Image) (patchWords : Nat → Nat) : Option Reject :=
  (graphReject i.nodes).orElse (fun _ =>
    (tablesReject i.tables i.stores patchWords).orElse (fun _ =>
      (storesReject i.tables i.stores patchWords).orElse (fun _ =>
        (queuesReject i.queues i.ports).orElse (fun _ =>
          (portsReject i.ports i.members).orElse (fun _ =>
            poolsReject i.pools i.quotas i.heads i.ports)))))

/-! ### Patch records (03_action_microcode.md R146, R147, R150) -/

/-- The header checks of reason 0x0183. -/
def patchHeaderBad (h : List Byte) (len : Nat) : Bool :=
  leAt h 0 4 ≠ 0x4B4D5054 || leAt h 4 2 ≠ 0x0100 || leAt h 6 2 ≠ 64 || leAt h 8 2 ≠ 0x9204 || leAt h 0x0A 1 ≠ 0xA0 ||
  leAt h 0x0C 4 % 16 ≠ 0 || 64 + leAt h 0x0C 4 + 16 ≠ len

/-- `n` records from the start of the body, and the bytes that follow them. -/
def readPatch : Nat → List Byte → Option (List PatchRec × List Byte)
  | 0, l => some ([], l)
  | n + 1, l =>
    let k := leAt l 4 2
    if l.length < 8 + 32 * k then none
    else match readPatch n (l.drop (8 + 32 * k)) with
      | some (t, rest) => some (⟨leAt l 0 1, leAt l 2 2, leWords 32 k (l.drop 8)⟩ :: t, rest)
      | none => none

def patchTarget (t : Nat) : Bool := t < 32 || t = 0x40 || t = 0x41 || t = 0x42

def patchRangeBad (r : PatchRec) : Bool :=
  if r.target < 32 then r.words.isEmpty || 64 < r.words.length || r.first + r.words.length ≠ 1024
  else r.words.isEmpty || 2048 < r.words.length || 2048 < r.first + r.words.length

/-- The records of a patch body, or the refusal of step 4 (0x0189-0x018B, in an order that the spec leaves open: DESIGN
CHOICE, notes/assumptions/89.md). -/
def patchRecords (count : Nat) (body : List Byte) : Except Reject (List PatchRec) :=
  match readPatch count body with
  | some (rs, rest) =>
    let at' (f : PatchRec → Bool) : List Nat := (List.range rs.length).filter (fun i =>
      match rs[i]? with | some r => f r | none => false)
    match firstBad [
      (0x189, at' (fun r => !patchTarget r.target || 1 < (rs.filter (fun q => q.target = r.target)).length)),
      (0x18A, at' patchRangeBad),
      (0x18B, if count ≤ 35 && rest.all (· = 0) then [] else [0])] with
    | some r => .error r
    | none => .ok rs
  | none => .error (0x18B, 0)

end Sys2Proof.Machine
end

