-- ==== Sys2Proof/Machine/Tables.lean ====
section
/-! DEFINITION. Table storage (05_lookup_tables.md): what stands at each position of each pipe, visibility, where an
entry may be placed, relocation, lookups, and parity repair. -/

namespace Sys2Proof.Machine

/-! ### Positions -/

def tableKey (p t : Nat) : Nat := p * 256 + t

def entryKey (p t pos : Nat) : Nat := tableKey p t * 2 ^ 20 + pos

def noEntry : Nat → Option Entry := fun _ => none

def State.entryAt (s : State) (p t pos : Nat) : Option Entry := smGet noEntry s.tbl.entries (entryKey p t pos)

def State.putEntry (s : State) (p t pos : Nat) (e : Option Entry) : State :=
  { s with tbl := { s.tbl with entries := smPut noEntry s.tbl.entries (entryKey p t pos) e } }

/-- The entries of table `t` in pipe `p` with their positions. -/
def State.pipeEntries (s : State) (p t : Nat) : List (Nat × Entry) :=
  s.tbl.entries.filterMap (fun x => if x.1 / 2 ^ 20 = tableKey p t then x.2.map (fun e => (x.1 % 2 ^ 20, e)) else none)

/-- The entries of table `t` in every pipe, with their keys. -/
def State.tableEntries (s : State) (t : Nat) : List (Nat × Entry) :=
  s.tbl.entries.filterMap (fun x => if x.1 / 2 ^ 20 % 256 = t then x.2.map (fun e => (x.1, e)) else none)

/-- A placement unit (R204, R205): unit 32 writes all 32 pipes alike, unit `u` below 32 is one pipe. -/
def unitPipes (u : Nat) : List Nat := if u = 32 then List.range 32 else [u]

def unitHas (u p : Nat) : Bool := u = 32 || u = p

/-- Entries of a unit, one per position. -/
def State.unitEntries (s : State) (u t : Nat) : List (Nat × Entry) :=
  if u = 32 then
    (s.tableEntries t).foldl (fun l x =>
      if l.any (fun y => y.1 = x.1 % 2 ^ 20) then l else l ++ [(x.1 % 2 ^ 20, x.2)]) []
  else s.pipeEntries u t

/-- Valid positions of a table in a pipe (R206). -/
def State.usedIn (s : State) (p t : Nat) : Nat := (s.pipeEntries p t).length

/-! ### Versions and visibility (R93-R96, R184, R185) -/

/-- The current rule version; 0 with no image. -/
def State.version (s : State) : Nat := match s.img.live.getLast? with | some v => v.version | none => 0

/-- Tag of the current version. -/
def State.curTag (s : State) : Nat := s.version % 16

/-- 4-bit tags in a window of 8 (R96). -/
def olderOrEqual (a v : Nat) : Bool := (v + 16 - a % 16) % 16 < 8

/-- Tag `t` is RETIRED (2); 0 is FREE, 1 LIVE. -/
def tagRetired (tags : List Nat) (t : Nat) : Bool := nth tags t = 2

/-- The entry is visible to tag `v` (R185). -/
def visible (tags : List Nat) (e : Entry) (v : Nat) : Bool :=
  !e.hidden && !e.stagedAdd &&
  (e.addedBase || tagRetired tags e.addedTag || olderOrEqual e.addedTag v) &&
  !(e.deleted && (tagRetired tags e.deletedTag || olderOrEqual e.deletedTag v))

def State.visibleNow (s : State) (e : Entry) : Bool := visible s.img.tags e s.curTag

/-- Visible to every live version (R197). -/
def State.visibleAll (s : State) (e : Entry) : Bool :=
  s.img.live.all (fun v => visible s.img.tags e (v.version % 16))

/-! ### Declarations and domains -/

def State.decl (s : State) (t : Nat) : Option TblDecl :=
  match s.img.active with
  | some i => i.tables.find? (fun d => d.id = t)
  | none => none

/-- The members of a domain: kind 1 bridge domain, 2 tenant (R73). -/
def State.domainPorts (s : State) (kind id : Nat) : Option (List Nat) :=
  match s.img.active with
  | some i => (i.members.find? (fun m => m.kind = kind && m.id = id)).map (·.ports)
  | none => none

/-- Pipes that own a port of the domain (R87). -/
def State.pipeSet (s : State) (kind id : Nat) : List Nat :=
  let ports := (s.domainPorts kind id).getD []
  (List.range 32).filter (fun p => ports.any (fun q => match s.mapRec q with
    | some r => r.first / 32 = p
    | none => false))

/-- Placement units of an entry (R204, R205). -/
def State.unitsOf (s : State) (d : TblDecl) (dom : Nat) : List Nat :=
  if d.scope = 1 then [32] else s.pipeSet (d.scope - 1) dom

/-! ### LPM nodes (R194, R196) -/

/-- Bits consumed by levels 1 to k. -/
def lpmP (d : TblDecl) (k : Nat) : Nat := sumNat (d.strides.take k)

/-- The nodes that routes need, by level and path: one for each path of a longer route. -/
def neededNodes (d : TblDecl) (routes : List (Nat × Nat)) : List (Nat × Nat) :=
  (List.range (d.levels - 1)).flatMap (fun i =>
    let p := lpmP d (i + 1)
    (((routes.filter (fun r => p < r.2)).map (fun r => r.1 / 2 ^ (d.keyBits - p))).eraseDups).map (fun x => (i + 2, x)))

/-- The lowest number that no node of level `k` has. -/
def freeNode (l : List LpmNode) (k : Nat) : Nat :=
  ((List.range l.length).find? (fun n => l.all (fun x => x.level ≠ k || x.num ≠ n))).getD l.length

/-- The nodes once routes need `need`: those no longer needed are free, and a new one takes the lowest number. -/
def renumber (need : List (Nat × Nat)) (l : List LpmNode) : List LpmNode :=
  need.foldl (fun l x =>
    if l.any (fun n => n.level = x.1 && n.path = x.2) then l else l ++ [⟨x.1, x.2, freeNode l x.1, false⟩])
    (l.filter (fun n => need.contains (n.level, n.path)))

/-- The nodes of table `t` in pipe `p`. -/
def State.nodesOf (s : State) (p t : Nat) : List LpmNode := smGet (fun _ => []) s.tbl.nodes (tableKey p t)

def State.setNodes (s : State) (p t : Nat) (l : List LpmNode) : State :=
  { s with tbl := { s.tbl with nodes := smPut (fun _ => []) s.tbl.nodes (tableKey p t) l } }

/-- Prefixes and lengths of stored leaves. -/
def routesOf (l : List (Nat × Entry)) : List (Nat × Nat) := l.map (fun x => (x.2.key, x.2.len))

/-- The nodes of an LPM table follow its leaves. -/
def State.fitNodes (s : State) (p t : Nat) : State :=
  match s.decl t with
  | some d =>
    if d.kind = 2 then
      s.setNodes p t (renumber (neededNodes d (routesOf (s.pipeEntries p t))) (s.nodesOf p t))
    else s
  | none => s

def State.putUnit (s : State) (u t pos : Nat) (e : Option Entry) : State :=
  (unitPipes u).foldl (fun s p => (s.putEntry p t pos e).fitNodes p t) s

/-- A learn request or a deletion by aging, instead of a host command. -/
def learnSource : Nat := 1025

/-! ### Control fields as stored (R184) -/

def controlBits (e : Entry) : Nat :=
  1 + 2 * b2n e.stagedAdd + 4 * b2n e.stagedDel + 8 * (e.addedTag % 16) + 2 ^ 7 * b2n e.addedBase +
  2 ^ 8 * (e.deletedTag % 16) + 2 ^ 12 * b2n e.deleted + 2 ^ 13 * b2n e.moveSrc + 2 ^ 14 * b2n e.hit +
  2 ^ 15 * (e.age % 8) + 2 ^ 18 * (e.group % 64)

/-! ### Learned entries (R234, R238, R241) -/

/-- The table's declaration allows learning. -/
def canLearn (d : TblDecl) : Bool := d.kind = 1 && bitAt d.flags 0 && decide (11 ≤ d.dataBits)

/-- Learning is on for table `t`; the bit reads 0 for a table that cannot learn (R234). -/
def State.learnOn (s : State) (t : Nat) : Bool :=
  s.flag (TBL_LRN_CFG.learn_en t) && (match s.decl t with | some d => canLearn d | none => false)

/-- Aging is on for table `t`; the bit reads 0 for a table whose flags do not allow it (R242). -/
def State.ageOn (s : State) (t : Nat) : Bool :=
  s.flag (TBL_LRN_CFG.age_en t) && (match s.decl t with | some d => bitAt d.flags 1 | none => false)

def State.isLearned (s : State) (t : Nat) (e : Entry) : Bool :=
  match s.decl t with
  | some d => canLearn d && bitAt e.data 10
  | none => false

/-- LRN_PORT.over follows the count and the limit. -/
def State.portOver (s : State) (p : Nat) : State :=
  s.putFlag (LRN_PORT.over p) (s.get (LRN_PORT.limit p) ≤ s.get (LRN_PORT.learned p))

/-- One learned entry less on port `p` (R241). -/
def State.unlearn (s : State) (p : Nat) : State :=
  (s.put (LRN_PORT.learned p) (s.get (LRN_PORT.learned p) - 1)).portOver p

/-- One learned entry more on port `p`. -/
def State.relearn (s : State) (p : Nat) : State :=
  (s.put (LRN_PORT.learned p) (s.get (LRN_PORT.learned p) + 1)).portOver p

/-! ### Changing every copy of an entry -/

def firstOf (u : Nat) : Nat := if u = 32 then 0 else u

/-- The rows of entry `q` of table `t`: itself, and the other row of a move between two places of it (R201, R208). -/
def State.rowsOf (s : State) (t q : Nat) : List Nat :=
  q :: s.tbl.moves.filterMap (fun m =>
    let at' (pos : Nat) : Option Nat := (s.entryAt (firstOf m.unit) t pos).map (·.seq)
    if m.table ≠ t then none
    else if at' m.dst = some q then at' m.src
    else if at' m.src = some q then at' m.dst else none)

/-- Apply `f` to every copy of entry `q` of table `t` (R204, R208). -/
def State.mapCopies (s : State) (t q : Nat) (f : Entry → Entry) : State :=
  let l := s.rowsOf t q
  { s with tbl := { s.tbl with entries := s.tbl.entries.map (fun x =>
      if x.1 / 2 ^ 20 % 256 = t then (x.1, x.2.map (fun e => if l.contains e.seq then f e else e)) else x) } }

/-- A position frees: the pipe's block on learning in the table clears (R240), and an error mark goes. -/
def State.freeAt (s : State) (p t pos : Nat) : State :=
  let s := (s.putEntry p t pos none).fitNodes p t
  let s := { s with tbl := { s.tbl with bad := s.tbl.bad.filter (fun k => k ≠ entryKey p t pos) } }
  if (s.decl t).isSome then
    s.put (TBL_LRN_CFG.blocked_pipes t) (setBits (s.get (TBL_LRN_CFG.blocked_pipes t)) p 1 0)
  else s

/-- Nodes are moved under places of their own above every entry position: 2^19, level and number. -/
def nodePlace (k n : Nat) : Nat := 2 ^ 19 + k * 2 ^ 15 + n

def isNodePlace (pos : Nat) : Bool := 2 ^ 19 ≤ pos

/-- Moves whose copies still stand. -/
def State.pruneMoves (s : State) : State :=
  { s with tbl := { s.tbl with moves := s.tbl.moves.filter (fun m =>
      (unitPipes m.unit).any (fun p =>
        if isNodePlace m.src then (s.nodesOf p m.table).any (fun n => n.old && nodePlace n.level n.num = m.src)
        else (s.entryAt p m.table m.src).isSome && (s.entryAt p m.table m.dst).isSome)) } }

/-- Free every copy of entry `q` of table `t`; a move of it ends (R208). -/
def State.freeCopies (s : State) (t q : Nat) : State :=
  let ks := ((s.tableEntries t).filter (fun x => x.2.seq = q)).map (·.1)
  let old := s.tbl.moves.flatMap (fun m => if m.table = t then
    ((unitPipes m.unit).filter (fun p => ks.contains (entryKey p t m.dst))).map (fun p => entryKey p t m.src) else [])
  let ks := ks ++ old
  (ks.foldl (fun s k => s.freeAt (k / 2 ^ 28) t (k % 2 ^ 20)) s).pruneMoves

/-- Entries of group `g` that commands numbered below `n` staged, one for all copies (R98, R100, R103). A copy that waits
for other pipes is not staged yet, and the old row of a move does not count. -/
def State.stagedUpTo (s : State) (g n : Nat) : List (Nat × Nat) :=
  (s.tbl.entries.filterMap (fun x => match x.2 with
    | some e => if e.group = g && (e.stagedAdd || e.stagedDel) && !e.moveSrc && !e.hidden && e.stagedBy < n then
        some (x.1 / 2 ^ 20 % 256, e.seq) else none
    | none => none)).eraseDups

/-- Every staged entry of group `g`. -/
def State.stagedOf (s : State) (g : Nat) : List (Nat × Nat) := s.stagedUpTo g s.tbl.seq

/-- STRUCT_GROUP_STATUS shows the group's staged entries. -/
def State.showGroup (s : State) (g : Nat) : State := s.put (STRUCT_GROUP_STATUS.staged g) (s.stagedOf g).length

/-- Delete a present entry now: its copies free and a learned one leaves its port's count (R219, R241). -/
def State.deleteEntry (s : State) (t : Nat) (e : Entry) : State :=
  let learned := s.isLearned t e && !e.deleted && !e.stagedAdd
  let s := s.freeCopies t e.seq
  let s := if learned then s.unlearn (bitsOf e.data 0 10) else s
  if e.stagedAdd || e.stagedDel then s.showGroup e.group else s

/-- Discard what commands numbered below `n` staged in group `g`, without a version (R104). -/
def State.discardUpTo (s : State) (g n : Nat) : State :=
  let s := (s.stagedUpTo g n).foldl (fun s x =>
    match (s.tableEntries x.1).find? (fun y => y.2.seq = x.2) with
    | some y =>
      if y.2.stagedAdd then s.freeCopies x.1 x.2
      else s.mapCopies x.1 x.2 (fun e => { e with stagedDel := false, group := 0 })
    | none => s) s
  s.showGroup g

/-- Every command of group `g` numbered below `n` has completed. -/
def State.groupDone (s : State) (g n : Nat) : Bool :=
  s.tbl.jobs.all (fun j => j.fn ≠ g || n ≤ j.seq || j.done || j.src = learnSource)

/-- The discards that no longer wait for a command happen (R104, R233). -/
def State.discardDue (s : State) : State :=
  s.tbl.discards.foldl (fun s x =>
    if s.groupDone x.1 x.2 then
      ({ s with tbl := { s.tbl with discards := s.tbl.discards.filter (fun y => y ≠ x) } }).discardUpTo x.1 x.2
    else s) s

/-- The staged entries of group `g` are discarded once every command accepted for it has completed (R104, R233). -/
def State.discardGroup (s : State) (g : Nat) : State :=
  { s with tbl := { s.tbl with discards := s.tbl.discards ++ [(g, s.tbl.seq)] } }.discardDue

/-! ### Exact-match geometry (R188-R190) -/

/-- Tiles of the table in list order. -/
def tileList (d : TblDecl) : List (Nat × Nat) :=
  (List.range 32).flatMap (fun st => ((List.range 4).filter (fun i => bitAt (nth d.tiles st) i)).map (fun i => (st, i)))

def emBuckets (d : TblDecl) : Nat := 1024 * (sramTotal d / 4)

/-- Entry positions in a bucket. -/
def emPer (d : TblDecl) : Nat := 4 / emWords d

/-- The bytes that the hash of way `w` covers (R190). -/
def emHashBytes (d : TblDecl) (dom key w : Nat) : List Byte :=
  leBytes 1 d.id ++ (if partitioned d then leBytes 2 dom else []) ++ leBytes (ceilDiv d.keyBits 8) key ++ leBytes 1 w

def emBucket (d : TblDecl) (dom key w : Nat) : Nat := crc32c (emHashBytes d dom key w) % emBuckets d

def emPos (d : TblDecl) (w b i : Nat) : Nat := (w * emBuckets d + b) * emPer d + i

/-- The positions of a bucket. -/
def bucketPositions (d : TblDecl) (w b : Nat) : List Nat := (List.range (emPer d)).map (emPos d w b)

def wayOf (d : TblDecl) (pos : Nat) : Nat := pos / emPer d / emBuckets d

/-- The stage in which bucket `b` of way `w` is read. -/
def bucketStage (d : TblDecl) (w b : Nat) : Nat := ((tileList d).getD (4 * (b / 1024) + w) (0, 0)).1

/-! ### Plans: what a placement does next -/

/-- What a placement does in one unit: write at a position, make moves and then write at the position that the last one
frees (LPM and ternary placements plan anew after each move), wait for a move that stands in its way, or fail. -/
inductive Plan where
  | write (pos : Nat)
  | moves (l : List (Nat × Nat)) (goal : Option Nat)
  | wait
  | fail
  deriving DecidableEq, Repr

/-- An entry takes part in a running move of the unit. -/
def State.moving (s : State) (u t pos : Nat) : Bool :=
  s.tbl.moves.any (fun m => m.table = t && (m.unit = u) && (m.src = pos || m.dst = pos))

/-- Free positions among the listed ones. -/
def freeOf (l : List (Nat × Entry)) (ps : List Nat) : List Nat := ps.filter (fun p => l.all (fun x => x.1 ≠ p))

def lowest (l : List Nat) : Option Nat := minNat? l

def highest (l : List Nat) : Option Nat :=
  l.foldl (fun a x => match a with | none => some x | some y => some (max x y)) none

def wayCount (d : TblDecl) (l : List (Nat × Entry)) (w : Nat) : Nat :=
  (l.filter (fun x => wayOf d x.1 = w)).length

/-- A bucket that the search examines: way, bucket, and the residents that would move, the one into it first. -/
structure Hop where
  w : Nat
  b : Nat
  trail : List Nat
  deriving DecidableEq, Repr

/-- The moves along a trail of residents, the first into `free` and each next one into the place that the one before it
leaves. -/
def trailMoves (free : Nat) : List Nat → List (Nat × Nat)
  | [] => []
  | q :: t => (q, free) :: trailMoves q t

/-- Breadth-first search of R192: at most `n` buckets examined and 4 moves. `may` says which positions may move. -/
def emSearch (d : TblDecl) (l : List (Nat × Entry)) (may : Nat → Bool) : Nat → List Hop → Plan
  | 0, _ => .fail
  | _ + 1, [] => .fail
  | n + 1, h :: rest =>
    match lowest (freeOf l (bucketPositions d h.w h.b)) with
    | some p => .moves (trailMoves p h.trail) h.trail.getLast?
    | none =>
      if h.trail.length < 4 then
        let more := (bucketPositions d h.w h.b).flatMap (fun p =>
          match l.find? (fun x => x.1 = p) with
          | some x =>
            if may p then
              ((List.range 4).filter (fun w => w ≠ h.w)).map (fun w =>
                (⟨w, emBucket d x.2.domain x.2.key w, p :: h.trail⟩ : Hop))
            else []
          | none => [])
        emSearch d l may n (rest ++ more)
      else emSearch d l may n rest

/-- Placement of an exact-match entry in unit `u` (R192). A resident that is being moved already does not move again:
where only its move stands in the way, the placement waits. -/
def State.emPlan (s : State) (d : TblDecl) (u dom key : Nat) : Plan :=
  let l := s.unitEntries u d.id
  let ways := (List.range 4).filter (fun w => !(freeOf l (bucketPositions d w (emBucket d dom key w))).isEmpty)
  let best := ways.foldl (fun b w => match b with
    | none => some w
    | some v => if wayCount d l w < wayCount d l v then some w else some v) none
  match best with
  | some w =>
    match lowest (freeOf l (bucketPositions d w (emBucket d dom key w))) with
    | some p => .write p
    | none => .fail
  | none =>
    let start : List Hop := (List.range 4).map (fun w => ⟨w, emBucket d dom key w, []⟩)
    let path := emSearch d l (fun p => !s.moving u d.id p) 256 start
    if path = .fail && emSearch d l (fun _ => true) 256 start ≠ .fail then .wait else path

/-! ### LPM storage (R194-R198). A leaf's position is its word in the last stage. -/

/-- Words that the nodes of level `k` take from the bottom of their stage. -/
def nodeSpan (d : TblDecl) (l : List LpmNode) (k : Nat) : Nat :=
  match highest ((l.filter (fun n => n.level = k)).map (·.num)) with
  | some n => (n + 1) * nodeWords (stride d (k - 1))
  | none => 0

/-- First word of the last stage that nodes leave to leaves. -/
def lpmBottom (d : TblDecl) (l : List LpmNode) : Nat :=
  if d.levels = 1 then nodeWords (stride d 0) else nodeSpan d l d.levels

/-- Nodes `need` and `m` leaves fit the table's words when they are packed. -/
def lpmFits (d : TblDecl) (need : List (Nat × Nat)) (m : Nat) : Bool :=
  let words (k : Nat) : Nat := (need.filter (fun x => x.1 = k)).length * nodeWords (stride d (k - 1))
  (List.range d.levels).all (fun i => i = 0 || i + 1 = d.levels || words (i + 1) ≤ 4096 * sramIn d (d.first + i)) &&
  m + (if d.levels = 1 then nodeWords (stride d 0) else words d.levels) ≤ lpmLastWords d

/-- The highest node of a level above a free number moves down to it: its level, its number and the free one. -/
def packable (d : TblDecl) (l : List LpmNode) : Option (Nat × Nat × Nat) :=
  ((List.range d.levels).map (· + 1)).findSome? (fun k =>
    match highest ((l.filter (fun n => n.level = k && !n.old)).map (·.num)) with
    | some n => if freeNode l k < n then some (k, n, freeNode l k) else none
    | none => none)

/-- The nodes of every middle level fit their stage. -/
def nodesFit (d : TblDecl) (l : List LpmNode) : Bool :=
  (List.range d.levels).all (fun i => i = 0 || i + 1 = d.levels ||
    nodeSpan d l (i + 1) ≤ 4096 * sramIn d (d.first + i))

/-- Placement of a leaf: the highest free word above the nodes; leaves in the way of a node move up, and a node above a
free number moves down where room is wanted (R196, R198, R207). -/
def State.lpmPlan (s : State) (d : TblDecl) (u key len : Nat) : Plan :=
  let l := s.unitEntries u d.id
  let need := neededNodes d ((key, len) :: routesOf l)
  let now := s.nodesOf (firstOf u) d.id
  let nodes := renumber need now
  let bottom := lpmBottom d nodes
  let free := freeOf l ((List.range (lpmLastWords d)).filter (fun w => bottom ≤ w))
  if !lpmFits d need (l.length + 1) then .fail
  else
    match lowest ((l.map (·.1)).filter (fun p => p < bottom)), (if nodesFit d nodes then highest free else none) with
    | some low, some top => if s.moving u d.id low then .wait else .moves [(low, top)] none
    | none, some top => .write top
    | _, none =>
      match packable d now with
      | some (k, n, f) => .moves [(nodePlace k n, nodePlace k f)] none
      | none => .fail

/-- The slot words of a node (R194): what slot `i` of the node of level `k` at `path` names: its leaf word and its child
node, each with its valid bit. -/
def slotWord (d : TblDecl) (l : List (Nat × Entry)) (nodes : List LpmNode) (k path i : Nat) : Nat :=
  let here := path * 2 ^ stride d (k - 1) + i
  let p := lpmP d k
  let leaf := (l.filter (fun x => !x.2.moveSrc && x.2.len ≤ p && (lpmP d (k - 1) < x.2.len || (k = 1 && x.2.len = 0)) &&
    x.2.key / 2 ^ (d.keyBits - x.2.len) = here / 2 ^ (p - x.2.len))).foldl (fun b x => match b with
      | some y => if y.2.len * 2 ^ 64 + y.2.seq < x.2.len * 2 ^ 64 + x.2.seq then some x else some y
      | none => some x) none
  let child := nodes.find? (fun n => n.level = k + 1 && n.path = here && !n.old)
  (match leaf with | some x => x.1 + 2 ^ 14 | none => 0) +
  (match child with | some n => n.num * 2 ^ 16 + 2 ^ 15 | none => 0)

/-- The slots that a lookup of `key` reads, from level `k` on: level and word (R196). `n` bounds the levels. -/
def slotsRead (d : TblDecl) (l : List (Nat × Entry)) (nodes : List LpmNode) (key : Nat) : Nat → Nat → List (Nat × Nat)
  | 0, _ => []
  | n + 1, k =>
    let path := key / 2 ^ (d.keyBits - lpmP d (k - 1))
    let w := slotWord d l nodes k path (key / 2 ^ (d.keyBits - lpmP d k) % 2 ^ stride d (k - 1))
    (k, w) :: (if bitAt w 15 then slotsRead d l nodes key n (k + 1) else [])

/-- Insert by descending rank. -/
def insertDown {α : Type} (f : α → Nat) (x : α) : List α → List α
  | [] => [x]
  | y :: t => if f y ≤ f x then x :: y :: t else y :: insertDown f x t

/-- Sort by descending rank. -/
def sortDown {α : Type} (f : α → Nat) (l : List α) : List α := l.foldr (insertDown f) []

/-- The leaves that cover a key, the longest first and the later stored first (R196). -/
def lpmChain (d : TblDecl) (l : List (Nat × Entry)) (key : Nat) (maxLen : Nat) : List (Nat × Entry) :=
  let m := l.filter (fun x => x.2.len ≤ maxLen && !x.2.moveSrc &&
    x.2.key / 2 ^ (d.keyBits - x.2.len) = key / 2 ^ (d.keyBits - x.2.len))
  sortDown (fun x => x.2.len * 2 ^ 64 + x.2.seq) m

/-- Leaves before the first one visible to every live version, and to those that pending commits make: one whose delete
is staged does not count as such, so that no commit can break the bound. -/
def State.chainCount (s : State) (c : List (Nat × Entry)) : Nat :=
  (c.takeWhile (fun x => !s.visibleAll x.2 || x.2.stagedDel)).length

/-- Every cover chain of the unit keeps the bound of R197. -/
def State.chainsOk (s : State) (d : TblDecl) (l : List (Nat × Entry)) : Bool :=
  l.all (fun x => s.chainCount (lpmChain d l x.2.key x.2.len) ≤ 8)

/-! ### Ternary rows (R199-R203) -/

/-- `a` stands before `b`: higher priority, then accepted first. -/
def rowBefore (pa qa pb qb : Nat) : Bool := pb < pa || (pa = pb && qa < qb)

/-- Insert a row by shifting the fewest rows toward the nearest free one (R203). -/
def State.ternPlan (s : State) (d : TblDecl) (u prio seq : Nat) : Plan :=
  let l := s.unitEntries u d.id
  let before := highest ((l.filter (fun x => rowBefore x.2.prio x.2.seq prio seq)).map (·.1))
  let after := lowest ((l.filter (fun x => !rowBefore x.2.prio x.2.seq prio seq)).map (·.1))
  let lo := match before with | some p => p + 1 | none => 0
  let hi := match after with | some p => p | none => tcamRows d
  if lo < hi then .write lo
  else
    let free := freeOf l (List.range (tcamRows d))
    let up := lowest (free.filter (fun f => hi ≤ f))
    let down := highest (free.filter (fun f => f < lo))
    let plan (src dst : Nat) : Plan := if s.moving u d.id src then .wait else .moves [(src, dst)] none
    match up, down with
    | some f, some g => if f - hi ≤ lo - 1 - g then plan (f - 1) f else plan (g + 1) g
    | some f, none => plan (f - 1) f
    | none, some g => plan (g + 1) g
    | none, none => .fail

/-- The plan for one placement. -/
def State.plan (s : State) (d : TblDecl) (u : Nat) (j : TblJob) : Plan :=
  if d.kind = 1 then s.emPlan d u j.domain j.key
  else if d.kind = 2 then s.lpmPlan d u j.key j.len
  else s.ternPlan d u j.prio j.seq

/-! ### Relocation (R207, R208) -/

/-- The copy of a node is written under number `dst` and every slot that names it follows; the old copy stays. -/
def State.copyNode (s : State) (p t src dst : Nat) : State :=
  let l := s.nodesOf p t
  s.setNodes p t (l.flatMap (fun n =>
    if nodePlace n.level n.num = src then [{ n with num := dst % 2 ^ 15 }, { n with old := true }] else [n]))

/-- The old copy of a node frees. -/
def State.dropNode (s : State) (p t src : Nat) : State :=
  s.setNodes p t ((s.nodesOf p t).filter (fun n => !(n.old && nodePlace n.level n.num = src)))

/-- Begin a two-phase move: the copy is written, the old copy marked. -/
def State.startMove (s : State) (job t u src dst : Nat) : State :=
  let s := (unitPipes u).foldl (fun s p =>
    if isNodePlace src then s.copyNode p t src dst
    else match s.entryAt p t src with
    | some e => (s.putEntry p t dst (some { e with moveSrc := false })).putEntry p t src (some { e with moveSrc := true })
    | none => s) s
  { s with tbl := { s.tbl with moves := s.tbl.moves ++ [⟨job, t, u, src, dst⟩] } }

/-- The old copy is removed and the move counted. -/
def State.endMove (s : State) (m : Move) : State :=
  let s := (unitPipes m.unit).foldl (fun s p =>
    if isNodePlace m.src then s.dropNode p m.table m.src else s.freeAt p m.table m.src) s
  let s := { s with tbl := { s.tbl with moves := s.tbl.moves.filter (fun x => x ≠ m) } }
  s.bump TBL_PL_MOVES.moves 1

/-! ### Lookups -/

/-- What a lookup has found so far: the rank of the answer (way or row), its entry, and whether a word with a parity
error was met. -/
structure Found where
  rank : Nat
  entry : Option Entry
  parity : Bool
  deriving DecidableEq, Repr

def nothingFound : Found := ⟨0, none, false⟩

/-- Keep the answer of lower rank. -/
def Found.merge (a b : Found) : Found :=
  match a.entry, b.entry with
  | some _, some _ => if b.rank < a.rank then { b with parity := a.parity || b.parity } else { a with parity := a.parity || b.parity }
  | none, some _ => { b with parity := a.parity || b.parity }
  | _, none => { a with parity := a.parity || b.parity }

/-- The buckets of an exact-match lookup that lie in stage `st` (R191). Positions in `err` show a parity error (R209). -/
def State.emStage (s : State) (d : TblDecl) (p st dom key v : Nat) (err : List Nat) : Found :=
  let ways := (List.range 4).filter (fun w => bucketStage d w (emBucket d dom key w) = st)
  ways.foldl (fun f w =>
    let ps := bucketPositions d w (emBucket d dom key w)
    let par := ps.any (fun x => err.contains x)
    let e := (ps.filter (fun x => !err.contains x)).findSome? (fun x =>
      match s.entryAt p d.id x with
      | some e => if e.domain = dom && e.key = key && visible s.img.tags e v then some e else none
      | none => none)
    f.merge ⟨w, e, par⟩) nothingFound

/-- Rows of stage `st`: the first row number and the count. -/
def stageRows (d : TblDecl) (st : Nat) : Nat × Nat :=
  (sumNat (((stageRun d).filter (fun x => x < st)).map (rowsIn d)), rowsIn d st)

/-- The lowest visible matching row of stage `st` (R201, R202); a row known to be in error matches every key, and so
does one whose data word fails (R209). -/
def State.ternStage (s : State) (d : TblDecl) (p st dom key v : Nat) (err : List Nat) : Found :=
  let (lo, n) := stageRows d st
  let rows := (s.pipeEntries p d.id).filter (fun x => lo ≤ x.1 && x.1 < lo + n && visible s.img.tags x.2 v &&
    (s.tbl.bad.contains (entryKey p d.id x.1) || (x.2.domain = dom && key &&& x.2.mask = x.2.key)))
  match lowest (rows.map (·.1)) with
  | none => nothingFound
  | some r =>
    if err.contains r || s.tbl.bad.contains (entryKey p d.id r) then ⟨r, none, true⟩
    else ⟨r, (rows.find? (fun x => x.1 = r)).map (·.2), false⟩

/-- Leaves read, and the answer, of an LPM lookup; at most 9 leaves are read (R196, R197). -/
def State.lpmWalk (s : State) (c : List (Nat × Entry)) (v : Nat) (err : List Nat) : Nat → Nat × Found
  | 0 => (0, nothingFound)
  | n + 1 =>
    match c with
    | [] => (0, nothingFound)
    | x :: t =>
      if err.contains x.1 then (1, ⟨0, none, true⟩)
      else if visible s.img.tags x.2 v then (1, ⟨0, some x.2, false⟩)
      else
        let (k, f) := s.lpmWalk t v err n
        (k + 1, f)

/-- The levels of table `d` that a lookup of `key` reads in pipe `p`, with their slot words. -/
def State.lpmSlots (s : State) (d : TblDecl) (p key : Nat) : List (Nat × Nat) :=
  slotsRead d (s.pipeEntries p d.id) (s.nodesOf p d.id) key d.levels 1

/-- An LPM lookup in pipe `p`: the leaf that the deepest slot names and its cover chain (R196). A slot word in error is a
miss with parity, and every lookup of a table that failed misses (R209, R210). -/
def State.lpmLookup (s : State) (d : TblDecl) (p key v : Nat) (err : List Nat) (slotErr : Bool) : State × Found :=
  if slotErr || s.flag (TBL_ERR.failed p d.id) then (s, ⟨0, none, slotErr⟩)
  else
    let l := s.pipeEntries p d.id
    let best := ((s.lpmSlots d p key).reverse.find? (fun x => bitAt x.2 14)).map (fun x => x.2 % 2 ^ 14)
    let chain := match best.bind (fun w => l.find? (fun x => x.1 = w)) with
      | some x => lpmChain d l x.2.key x.2.len
      | none => []
    let (n, f) := s.lpmWalk chain v err 9
    let s := if s.get (TBL_ERR.chain_max p d.id) < n then s.put (TBL_ERR.chain_max p d.id) n else s
    (s, f)

/-- Set the hit bit of entry `q` in pipe `p`, both copies of a move alike (R208, R243). -/
def State.markHit (s : State) (p t q : Nat) : State :=
  let l := s.rowsOf t q
  { s with tbl := { s.tbl with entries := s.tbl.entries.map (fun x =>
      if x.1 / 2 ^ 20 = tableKey p t then (x.1, x.2.map (fun e => if l.contains e.seq then { e with hit := true } else e))
      else x) } }

/-! ### Tag sweeps and clearing (R185, R186) -/

/-- The sweep of tag `g` ends: deleted entries free, added ones become base, and the tag is FREE. -/
def State.sweepTag (s : State) (g : Nat) : State :=
  let gone : List (Nat × Nat) := (s.tbl.entries.filterMap (fun x => match x.2 with
    | some e => if e.deleted && e.deletedTag = g then some (x.1 / 2 ^ 20 % 256, e.seq) else none
    | none => none)).eraseDups
  let s : State := gone.foldl (fun s x => s.freeCopies x.1 x.2) s
  let base (e : Entry) : Entry := if !e.addedBase && !e.stagedAdd && e.addedTag = g then { e with addedBase := true } else e
  { s with
    tbl := { s.tbl with entries := s.tbl.entries.map (fun x => (x.1, x.2.map base)) }
    img := { s.img with tags := setAt s.img.tags g 0 } }

end Sys2Proof.Machine
end

