-- ==== Sys2Proof/Machine/Commands.lean ====
section
/-! DEFINITION. The command engine: sources and turns, reading a command, its refusals, its effect, placement over
the pipes, and completion (06_table_access_learning.md R213-R233, R628). -/

namespace Sys2Proof.Machine

/-! ### Turns (R213) -/


/-- Sequencer `q` runs: 0 command engine, 1 Rake, 2 harvester. Not gated, not in block reset, not stopped (R143). -/
def State.seqRuns (s : State) (q : Nat) : Bool :=
  !s.gated && !s.resetting (.sequencer q) && s.get (SEQ_STATUS.state q) = 1

/-- The engine takes commands. -/
def State.engineRuns (s : State) : Bool := s.seqRuns 0

/-- Source 1,024 is the TBL_CMD registers, below it the CMD rings. -/
def tblCmdSource : Nat := 1024

def State.sourceWaits (s : State) (src : Nat) : Bool :=
  if src = tblCmdSource then s.tbl.goArgs.isSome
  else s.ringKind src = 1 && s.mayTake src && !(s.ring src).copies.isEmpty

/-- Place in the rotation: the registers first, then rings ascending. -/
def sourceRank (src : Nat) : Nat := if src = tblCmdSource then 0 else src + 1

/-- Steps from the last source served to `src`. -/
def State.turnsTo (s : State) (src : Nat) : Nat := (sourceRank src + 1025 - sourceRank s.tbl.lastSrc - 1) % 1025

def State.waitingSources (s : State) : List Nat :=
  (tblCmdSource :: s.hif.rings.map (·.1)).filter s.sourceWaits

def State.learnWaits (s : State) : Bool := s.tbl.learn.any (fun x => !x.2.isEmpty)

/-- The turn is source `src`'s. -/
def State.hostTurn (s : State) (src : Nat) : Bool :=
  s.engineRuns && s.sourceWaits src && s.waitingSources.all (fun q => s.turnsTo src ≤ s.turnsTo q) &&
  !(3 ≤ s.tbl.hostTurns && s.learnWaits)

/-- The turn is learning's and aging's: one in four while a host command waits, else every turn. -/
def State.learnTurn (s : State) : Bool :=
  s.engineRuns && (s.waitingSources.isEmpty || decide (3 ≤ s.tbl.hostTurns))

def State.tookLearnTurn (s : State) : State := { s with tbl := { s.tbl with hostTurns := 0 } }

/-! ### Reading a command (R224-R226, R229) -/

/-- The stored form of a key (R217). -/
def storedKey (d : TblDecl) (len key mask : Nat) : Nat :=
  let k := key % 2 ^ d.keyBits
  if d.kind = 2 then k / 2 ^ (d.keyBits - len) * 2 ^ (d.keyBits - len)
  else if d.kind = 3 then k &&& (mask % 2 ^ d.keyBits)
  else k

/-- Key, mask and data of a ring entry or its buffer. -/
def entryOperands (d : Option TblDecl) (indirect : Bool) (w : List Word) (buf : List Byte) : Nat × Nat × Nat :=
  if indirect then (leAt buf 0 64, leAt buf 64 64, leAt buf 128 64)
  else
    let b := (w.map (fun x => leBytes 8 x.toNat)).flatten
    match d with
    | some d => if d.kind = 3 then (leAt b 16 20, leAt b 36 20, leAt b 56 7) else (leAt b 16 32, 0, leAt b 48 16)
    | none => (0, 0, 0)

/-- The domain of a command (R224, R232). -/
def State.jobDomain (s : State) (d : Option TblDecl) (fn w0 : Nat) : Nat :=
  match d with
  | some d => if d.scope = 1 then 0 else if fn = 0 then bitsOf w0 16 16 else s.get (HIF_VF.tenant fn)
  | none => 0

/-- The command that words 0 and 1 and the operands spell. -/
def State.makeJob (s : State) (src index fn w0 w1 cursor buffer : Nat) (ops : Nat × Nat × Nat) : TblJob :=
  let d := s.decl (bitsOf w0 8 8)
  let (key, mask, data) := ops
  let len := bitsOf w1 32 8
  let learning := s.learnOn (bitsOf w0 8 8)
  { id := s.tbl.nextJob, src := src, index := index, fn := fn, op := bitsOf w0 0 6, imm := bitAt w0 6
    indirect := src ≠ tblCmdSource && bitAt w0 7, table := bitsOf w0 8 8, domain := s.jobDomain d fn w0
    key := match d with | some d => storedKey d len key mask | none => 0
    mask := match d with | some d => if d.kind = 3 then mask % 2 ^ d.keyBits else 0 | none => 0
    len := len, action := bitsOf w1 0 16, prio := bitsOf w1 16 16
    data := match d with
      | some d => let v := data % 2 ^ d.dataBits
                  if learning then setBits v 10 1 0 else v
      | none => 0
    flushBy := bitsOf w1 40 2, flushPort := bitsOf w1 48 10, allDomains := fn = 0 && bitAt w1 42
    cursor := cursor, buffer := buffer, seq := s.tbl.seq, handle := 0, started := false, done := false, places := []
    status := 0, reason := 0, detail := 0, replaced := false, moves := 0, result := 0, readback := none }

/-! ### Refusals found at acceptance (R228, R231, R233, R628) -/

/-- The inline form holds the table's key and data (R225). -/
def inlineFits (d : TblDecl) : Bool :=
  if d.kind = 1 then d.keyBits ≤ 256 && d.dataBits ≤ 128 else d.kind = 2 || d.keyBits ≤ 160

def State.malformed (s : State) (j : TblJob) (w0 w1 : Nat) : Bool :=
  let ring := j.src ≠ tblCmdSource
  bitsOf w1 43 5 ≠ 0 || bitsOf w1 58 6 ≠ 0 || (ring && bitsOf w0 56 3 ≠ 0) ||
  (ring && !j.indirect && (j.op = 5 || j.op = 6)) || (j.indirect && 1 ≤ j.op && j.op ≤ 6 && j.buffer % 64 ≠ 0) ||
  (match s.decl j.table with
   | some d => (d.kind = 2 && d.keyBits < j.len) || (d.kind ≠ 2 && j.len ≠ 0) || (d.kind ≠ 3 && j.prio ≠ 0) ||
      (ring && !j.indirect && 1 ≤ j.op && j.op ≤ 4 && !inlineFits d)
   | none => false)

def State.vfBarred (s : State) (j : TblJob) : Bool :=
  j.fn ≠ 0 && (match s.decl j.table with
    | some d => d.scope ≠ 3 || !bitAt (s.get (TBL_VF_PERM.permit j.fn (j.table / 64))) (j.table % 64)
    | none => false)

def State.acceptReason (s : State) (j : TblJob) (w0 w1 : Nat) (ok : Bool) : Option (Nat × Nat) :=
  let d := s.decl j.table
  let scope := match d with | some d => d.scope | none => 0
  firstReason [
    (!s.imageActive, 0xA0E, 0),
    (8 < j.op || j.op = 8, 0xA01, 0),
    (d.isNone, 0xA02, 0),
    (s.vfBarred j, 0xA0A, 0),
    (j.fn ≠ 0 && j.imm && j.op ≠ 7, 0xA0B, 0),
    ((scope = 2 && 16383 < j.domain) || (scope = 3 && 4095 < j.domain), 0xA04, 0),
    (s.malformed j w0 w1, 0xA03, 0),
    (j.op = 7 && !s.learnOn j.table, 0xA10, 0),
    (j.indirect && 1 ≤ j.op && j.op ≤ 6 && !ok, 0xA0C, 0)]

/-! ### Jobs -/

def State.job (s : State) (id : Nat) : Option TblJob := s.tbl.jobs.find? (fun j => j.id = id)

def State.setJob (s : State) (j : TblJob) : State :=
  { s with tbl := { s.tbl with jobs := s.tbl.jobs.map (fun x => if x.id = j.id then j else x) } }

/-- A finished command no longer holds back the commits that cover it (R100). -/
def State.uncover (s : State) (id : Nat) : State :=
  { s with img := { s.img with jobs := s.img.jobs.map (fun c => { c with covers := c.covers.filter (fun x => x ≠ id) }) } }

/-- The command has completed: a discard that waited for it happens (R104). -/
def State.finishJob (s : State) (j : TblJob) : State :=
  ((s.setJob { j with started := true, done := true }).uncover j.id).discardDue

/-- The command is refused (R233). -/
def State.refuseJob (s : State) (j : TblJob) (reason detail : Nat) : State :=
  let s := s.finishJob { j with status := 2, reason := reason, detail := detail }
  if j.src = learnSource then s
  else
    let s := s.bump TBL_CMD_STAT.refused 1
    if reason = 0xA07 then s.bump TBL_CMD_STAT.full 1 else s

/-! ### Identity and presence (R217, R220) -/

def sameIdentity (j : TblJob) (e : Entry) : Bool :=
  e.domain = j.domain && e.key = j.key && e.mask = j.mask && e.len = j.len

/-- Entries of the command's identity, one for all copies, the latest stored last. -/
def State.identity (s : State) (j : TblJob) : List Entry :=
  (s.tableEntries j.table).foldl (fun l x =>
    if sameIdentity j x.2 && !x.2.moveSrc && !x.2.hidden && l.all (fun e => e.seq ≠ x.2.seq) then l ++ [x.2] else l) []

def isStaged (e : Entry) : Bool := e.stagedAdd || e.stagedDel

/-- The present entry (R220, R223). -/
def State.present (s : State) (j : TblJob) : Option Entry :=
  let l := s.identity j
  match l.find? (fun e => s.visibleNow e && !e.stagedDel) with
  | some e => some e
  | none => if j.imm then none else l.find? (fun e => e.stagedAdd && e.group = j.fn)

/-- Copies of one entry with a hit (R223, R243). -/
def State.anyHit (s : State) (t q : Nat) : Bool := (s.tableEntries t).any (fun x => x.2.seq = q && x.2.hit)

/-- The 256-byte entry buffer that a read returns (R226). -/
def State.readBytes (s : State) (t : Nat) (e : Entry) : List Byte :=
  let learned := s.isLearned t e
  let c := controlBits { e with hit := s.anyHit t e.seq }
  leBytes 64 e.key ++ leBytes 64 e.mask ++ leBytes 64 e.data ++
  leBytes 8 (e.action + e.prio * 2 ^ 16 + e.len * 2 ^ 32 + c * 2 ^ 40) ++
  leBytes 8 (e.domain + (if learned then bitsOf e.data 0 10 * 2 ^ 16 + 2 ^ 26 else 0)) ++ List.replicate 48 0

/-! ### Effects (R218-R223, R228) -/

def staged1 (j : TblJob) : Nat := if j.imm then 0 else 1

/-- The entry that a command writes, hidden until every pipe has placed it. -/
def newEntry (j : TblJob) : Entry :=
  { stagedAdd := !j.imm, stagedDel := false, addedTag := 0, addedBase := j.imm, deletedTag := 0, deleted := false
    moveSrc := false, hit := false, age := 0, group := if j.imm then 0 else j.fn, action := j.action
    domain := j.domain, key := j.key, mask := j.mask, len := j.len, prio := j.prio, data := j.data, seq := j.seq
    hidden := true, stagedBy := j.seq, handle := j.handle }

def State.resultVersion (s : State) (j : TblJob) : Nat := if j.imm then s.version else 0

/-- Rewrite an entry in place (R219). -/
def State.rewrite (s : State) (j : TblJob) (e : Entry) : State :=
  let was := s.isLearned j.table e
  let s := s.mapCopies j.table e.seq (fun x =>
    { x with action := j.action, prio := j.prio, data := j.data, hit := x.hit && !j.imm
             age := if j.imm then 0 else x.age, addedBase := x.addedBase || j.imm })
  if was && !bitAt j.data 10 then s.unlearn (bitsOf e.data 0 10) else s

/-- Old and new rows of one identity become a two-phase move (R201). -/
def State.rowMove (s : State) (j : TblJob) (old : Entry) (u : Nat) : State :=
  let pos (q : Nat) : Option Nat := ((s.unitEntries u j.table).find? (fun x => x.2.seq = q && !x.2.moveSrc)).map (·.1)
  match pos old.seq, pos j.seq with
  | some a, some b =>
    let s := (unitPipes u).foldl (fun s p => match s.entryAt p j.table a with
      | some e => s.putEntry p j.table a (some { e with moveSrc := true })
      | none => s) s
    { s with tbl := { s.tbl with moves := s.tbl.moves ++ [⟨j.id, j.table, u, a, b⟩] } }
  | _, _ => s

/-- What the present entry becomes once the new copy stands in every pipe. -/
def State.retireOld (s : State) (j : TblJob) (old : Entry) : State :=
  let own := old.stagedAdd && old.group = j.fn
  if j.imm || own then (j.places.map (·.unit)).foldl (fun s u => s.rowMove j old u) s
  else s.mapCopies j.table old.seq (fun x => { x with stagedDel := true, group := j.fn, stagedBy := j.seq })

/-- The moves of the pipe that needed the most (R227). -/
def mostMoves (j : TblJob) : Nat := (j.places.map (·.moves)).foldl max 0

/-- Every pipe has its copy: the entry becomes visible, or staged (R221). -/
def State.publish (s : State) (j : TblJob) : State :=
  let old := s.present j
  let s := s.mapCopies j.table j.seq (fun x => { x with hidden := false })
  let s := match old with | some e => s.retireOld j e | none => s
  let s := if j.imm then s else s.showGroup j.fn
  let more := if old.isSome && (j.imm || (match old with | some e => e.stagedAdd | none => false)) then 1 else 0
  s.finishJob { j with moves := min 63 (mostMoves j + more), result := s.resultVersion j }

/-- The command's hidden copies are removed (R221). -/
def State.withdraw (s : State) (j : TblJob) : State := s.freeCopies j.table j.seq

/-- Event record of R246. -/
def lrnRecord (ev t dom port old pipe time key : Nat) : List Word :=
  record (ev + t * 2 ^ 8 + dom * 2 ^ 16) (port + old * 2 ^ 16 + pipe * 2 ^ 32 + time % 2 ^ 16 * 2 ^ 48)
    (key % 2 ^ 64) (key / 2 ^ 64 % 2 ^ 64)

def State.lrnEvent (s : State) (ev t dom port old pipe key : Nat) : State :=
  if s.flag (TBL_LRN_CFG.notify t) then
    s.event (s.get (TBL_AGE_CFG.event_ring t)) (lrnRecord ev t dom port old pipe s.wrapNow key)
  else s

/-- A placement failed in unit `u`: the command is refused, or the learn request blocks the pipe (R221, R238). -/
def State.placeFailed (s : State) (j : TblJob) (u : Nat) : State :=
  let s := s.withdraw j
  let s := s.refuseJob { j with moves := min 63 (mostMoves j) } 0xA07 (if u = 32 then 0xFF else u)
  if j.src = learnSource then
    let blocked := s.get (TBL_LRN_CFG.blocked_pipes j.table)
    let now := if u = 32 then 2 ^ 32 - 1 else setBits blocked u 1 1
    let s := ((s.unlearn j.flushPort).put (TBL_LRN_CFG.blocked_pipes j.table) now).bump TBL_LRN_STAT.fail 1
    ({ s with tbl := { s.tbl with jobs := s.tbl.jobs.filter (fun x => x.id ≠ j.id) } }).lrnEvent 0x23 j.table
      j.domain j.flushPort 0 (if u = 32 then 0 else u) j.key
  else s

/-- A learned entry is in place in every pipe. -/
def State.learnDone (s : State) (j : TblJob) : State :=
  ({ s with tbl := { s.tbl with jobs := s.tbl.jobs.filter (fun x => x.id ≠ j.id) } }.portOver j.flushPort).lrnEvent
    0x20 j.table j.domain j.flushPort 0 0 j.key

/-- The capacity of every pipe of unit `u` is reached (R206). -/
def State.full (s : State) (d : TblDecl) (u : Nat) : Bool := (unitPipes u).any (fun p => d.capacity ≤ s.usedIn p d.id)

/-- The present row that a MODIFY of another priority moves instead of inserting one (R201, R219). -/
def State.movedRow (s : State) (d : TblDecl) (j : TblJob) : Option Entry :=
  if d.kind = 3 && (j.op = 2 || j.op = 3) then (s.present j).filter (fun e => j.imm || (e.stagedAdd && e.group = j.fn))
  else none

/-- An earlier command is still making room in unit `u`: placements of a unit follow one another. -/
def State.unitBusy (s : State) (j : TblJob) (u : Nat) : Bool :=
  s.tbl.jobs.any (fun x => x.id < j.id && x.started && !x.done && x.table = j.table &&
    x.places.any (fun p => p.unit = u && !p.placed && !p.failed))

def State.placeWrite (s : State) (d : TblDecl) (j : TblJob) (x : Placing) (pos : Nat) : State × Placing :=
  (s.putUnit x.unit d.id pos (some (newEntry j)), { x with placed := true, path := [] })

/-- Begin a placement, or go on after moves that met an event: a full unit takes no insertion (R206), and the plan says
the rest (R192, R196, R203). -/
def State.placeFresh (s : State) (d : TblDecl) (j : TblJob) (x : Placing) : State × Placing :=
  if s.full d x.unit && (s.movedRow d j).isNone then (s, { x with failed := true })
  else
    match s.plan d x.unit j with
    | .write p => s.placeWrite d j x p
    | .moves ((a, b) :: t) goal =>
      (s.startMove j.id d.id x.unit a b, { x with moves := x.moves + 1, path := t, goal := goal })
    | .moves [] _ => (s, { x with failed := true })
    | .wait => (s, x)
    | .fail => (s, { x with failed := true })

/-- A placement's next action in its unit. A resident that has gone leaves its place on the path free. -/
def State.placeStep (s : State) (d : TblDecl) (j : TblJob) (x : Placing) : State × Placing :=
  if x.placed || x.failed || s.tbl.moves.any (fun m => m.job = j.id && m.unit = x.unit) || s.unitBusy j x.unit then (s, x)
  else
    let stands (pos : Nat) : Bool := (s.entryAt (firstOf x.unit) d.id pos).isSome
    match x.path.dropWhile (fun m => !stands m.1), x.goal with
    | (a, b) :: t, _ =>
      if stands b then s.placeFresh d j { x with path := [], goal := none }
      else (s.startMove j.id d.id x.unit a b, { x with moves := x.moves + 1, path := t })
    | [], some g => if stands g then s.placeFresh d j { x with path := [], goal := none } else s.placeWrite d j x g
    | [], none => s.placeFresh d j x

/-- Advance every placement of a command, in the order of its units. Once each has placed its copy or failed, the entry
is published, or the command is refused with the lowest failing pipe (R221). -/
def State.placeAll (s : State) (d : TblDecl) (j : TblJob) : List Placing → List Placing → State
  | [], l =>
    let j := { j with places := l }
    if l.all (·.placed) then
      let s := (s.setJob j).publish j
      if j.src = learnSource then s.learnDone j else s
    else
      match l.find? (·.failed) with
      | some x => if l.all (fun y => y.placed || y.failed) then (s.setJob j).placeFailed j x.unit else s.setJob j
      | none => s.setJob j
  | x :: t, l =>
    let (s, y) := s.placeStep d j x
    s.placeAll d j t (l ++ [y])

/-- Advance command `id`. -/
def State.advance (s : State) (id : Nat) : State :=
  match s.job id with
  | some j =>
    match s.decl j.table with
    | some d => if j.started && !j.done then s.placeAll d j j.places [] else s
    | none => if j.started && !j.done then s.refuseJob j 0xA02 0 else s
  | none => s

/-- The lowest iteration number that no entry of the table has or is about to have (R223). -/
def State.freeHandle (s : State) (t : Nat) : Nat :=
  let l := (s.tableEntries t).map (fun x => x.2.handle) ++
    (s.tbl.jobs.filter (fun j => j.table = t && j.started && !j.done)).map (·.handle)
  ((List.range l.length).find? (fun n => !l.contains n)).getD l.length

/-- Begin placing the command's entry in each of its units. -/
def State.beginPlace (s : State) (d : TblDecl) (j : TblJob) : State :=
  let places := (s.unitsOf d j.domain).map (fun u => (⟨u, false, false, 0, [], none⟩ : Placing))
  let handle := match s.present j with | some e => e.handle | none => s.freeHandle j.table
  let j := { j with started := true, places := places, handle := handle }
  (s.setJob j).advance j.id

/-- The cover chains of every unit keep R197 once its leaves are as `f` makes them. -/
def State.chainsKept (s : State) (d : TblDecl) (j : TblJob) (f : List (Nat × Entry) → List (Nat × Entry)) : Bool :=
  d.kind ≠ 2 || (s.unitsOf d j.domain).all (fun u => s.chainsOk d (f (s.unitEntries u d.id)))

/-- The leaves with the delete of entry `q` staged. -/
def withDelete (q : Nat) (l : List (Nat × Entry)) : List (Nat × Entry) :=
  l.map (fun x => if x.2.seq = q then (x.1, { x.2 with stagedDel := true }) else x)

/-- ADD, or the new copy of a staged MODIFY of `old`. -/
def State.addEntry (s : State) (d : TblDecl) (j : TblJob) (old : Option Entry) : State :=
  let add (l : List (Nat × Entry)) : List (Nat × Entry) :=
    (match old with | some e => withDelete e.seq l | none => l) ++ [(lpmLastWords d, { newEntry j with hidden := false })]
  if !s.chainsKept d j add then s.refuseJob j 0xA09 0 else s.beginPlace d j

def State.modifyEntry (s : State) (d : TblDecl) (j : TblJob) (e : Entry) : State :=
  let own := e.stagedAdd && e.group = j.fn
  if j.imm || own then
    if d.kind = 3 && j.prio ≠ e.prio then s.beginPlace d j
    else (s.rewrite j e).finishJob { j with result := s.resultVersion j }
  else s.addEntry d j (some e)

def State.deleteJob (s : State) (d : TblDecl) (j : TblJob) (e : Entry) : State :=
  let own := e.stagedAdd && e.group = j.fn
  if j.imm || own then
    if !s.chainsKept d j (fun l => l.filter (fun x => x.2.seq ≠ e.seq)) then s.refuseJob j 0xA09 0
    else
      let s := s.deleteEntry j.table e
      (if j.imm then s else s.showGroup j.fn).finishJob { j with result := s.resultVersion j }
  else if !s.chainsKept d j (withDelete e.seq) then s.refuseJob j 0xA09 0
  else
    ((s.mapCopies j.table e.seq (fun x => { x with stagedDel := true, group := j.fn, stagedBy := j.seq })).showGroup
      j.fn).finishJob j

/-- Present entries of the table, the next of an iteration first: an entry keeps its number through its moves, and a
cursor is the number to go on from (R223). -/
def State.nextEntry (s : State) (d : TblDecl) (j : TblJob) : Option Entry :=
  let l := (s.tableEntries j.table).filter (fun x => !x.2.moveSrc && !x.2.hidden && j.cursor ≤ x.2.handle &&
    (d.scope = 1 || j.allDomains || x.2.domain = j.domain) &&
    ((s.visibleNow x.2 && !x.2.stagedDel) || (!j.imm && x.2.stagedAdd && x.2.group = j.fn)))
  l.foldl (fun b x => match b with
    | none => some x.2
    | some e => if x.2.handle < e.handle then some x.2 else some e) none

def State.readNext (s : State) (d : TblDecl) (j : TblJob) : State :=
  match s.nextEntry d j with
  | some e => s.finishJob { j with result := e.handle + 1, readback := some (s.readBytes j.table e) }
  | none => s.finishJob { j with result := 2 ^ 32 - 1 }

/-- Learned entries that a FLUSH selects (R228); a virtual function's only within its tenant (R232). -/
def State.flushed (s : State) (d : TblDecl) (j : TblJob) : List Entry :=
  let dom (e : Entry) : Bool := d.scope = 1 || e.domain = j.domain
  let port (e : Entry) : Bool := bitsOf e.data 0 10 = j.flushPort
  (s.tableEntries j.table).foldl (fun l x =>
    let e := x.2
    if s.isLearned j.table e && s.visibleNow e && !e.moveSrc && (j.fn = 0 || dom e) &&
        (if j.flushBy = 0 then dom e else if j.flushBy = 1 then port e
         else if j.flushBy = 2 then dom e && port e else true) &&
        l.all (fun y => y.seq ≠ e.seq) then l ++ [e] else l) []

def State.flushJob (s : State) (d : TblDecl) (j : TblJob) : State :=
  let l := s.flushed d j
  let now := l.take 65536
  let s := now.foldl (fun s e => s.deleteEntry j.table e) s
  s.finishJob { j with status := if 65536 < l.length then 4 else 0, result := now.length }

/-- ADD or MODIFY, as UPSERT acts (R218). -/
def opFor (j : TblJob) (e : Option Entry) : Nat := if j.op = 3 then (if e.isSome then 2 else 1) else j.op

/-- Entries that the command adds to its group (R98). -/
def grows (j : TblJob) (e : Option Entry) : Nat :=
  let own := match e with | some x => x.stagedAdd && x.group = j.fn | none => false
  if j.imm || own then 0 else if opFor j e = 2 then 2 else 1

/-- Entries that commands still placing theirs will add to group `g`. -/
def State.growing (s : State) (g : Nat) : Nat :=
  sumNat ((s.tbl.jobs.filter (fun j => j.fn = g && j.started && !j.done)).map (fun j => grows j (s.present j)))

/-- A write command on its identity, once earlier ones on it have completed (R214, R219-R222, R628). -/
def State.writeJob (s : State) (d : TblDecl) (j : TblJob) : State :=
  let e := s.present j
  let op := opFor j e
  let j := { j with replaced := j.op = 3 && e.isSome }
  match (s.identity j).find? (fun x => isStaged x && (j.imm || x.group ≠ j.fn)) with
  | some x => s.refuseJob j 0xA0D x.group
  | none =>
    if op = 1 && e.isSome then s.refuseJob j 0xA05 0
    else if op ≠ 1 && e.isNone then s.refuseJob j 0xA06 0
    else if 65536 < (s.stagedOf j.fn).length + s.growing j.fn + grows j e && grows j e ≠ 0 then
      s.refuseJob j 0xA08 j.fn
    else
      match op, e with
      | 1, _ => s.addEntry d j none
      | 2, some x => s.modifyEntry d j x
      | 4, some x => s.deleteJob d j x
      | _, _ => s.refuseJob j 0xA06 0

/-- READ of the present entry (R223); a READ whose identity another group holds is refused (R220). -/
def State.readJob (s : State) (j : TblJob) : State :=
  match (s.identity j).find? (fun x => isStaged x && (j.imm || x.group ≠ j.fn)), s.present j with
  | some x, _ => s.refuseJob j 0xA0D x.group
  | none, some e => s.finishJob { j with readback := some (s.readBytes j.table e) }
  | none, none => s.refuseJob j 0xA06 0

/-- A command starts. -/
def State.startJob (s : State) (j : TblJob) : State :=
  match s.decl j.table with
  | none => s.refuseJob j 0xA02 0
  | some d =>
    if j.op = 5 then s.readJob j
    else if j.op = 6 then s.readNext d j
    else if j.op = 7 then s.flushJob d j
    else if (s.unitsOf d j.domain).isEmpty then s.refuseJob j 0xA0F 0
    else s.writeJob d j

/-- An earlier command on the same identity has not completed (R214). -/
def State.blocked (s : State) (j : TblJob) : Bool :=
  s.tbl.jobs.any (fun x => x.id < j.id && !x.done && x.table = j.table && x.domain = j.domain && x.key = j.key &&
    x.mask = j.mask && x.len = j.len && x.op ≠ 6 && x.op ≠ 7 && j.op ≠ 6 && j.op ≠ 7)

/-- Start every command that may start and advance every placement; `n` bounds the rounds. -/
def State.runJobs (s : State) : Nat → State
  | 0 => s
  | n + 1 =>
    match s.tbl.jobs.find? (fun j => !j.started && !s.blocked j) with
    | some j => (s.startJob j).runJobs n
    | none => s

/-- Advance what has started, then start what may. -/
def State.kickOnce (s : State) : State :=
  let s := ((s.tbl.jobs.filter (fun j => j.started && !j.done)).map (·.id)).foldl (fun s id => s.advance id) s
  s.runJobs s.tbl.jobs.length

/-- Every command goes as far as it can: each round ends one that held back others, or changes nothing. -/
def State.kick (s : State) : State := (List.range (s.tbl.jobs.length + 1)).foldl (fun s _ => s.kickOnce) s

/-! ### Acceptance (R213, R214) -/

/-- Accept the command. -/
def State.enter (s : State) (j : TblJob) (w0 w1 : Nat) (ok : Bool) : State :=
  let s := { s with tbl := { s.tbl with
    jobs := s.tbl.jobs ++ [j], nextJob := s.tbl.nextJob + 1, seq := s.tbl.seq + 1, lastSrc := j.src
    hostTurns := min 3 (s.tbl.hostTurns + 1) } }
  let s := s.bump TBL_CMD_STAT.accepted 1
  if j.op = 0 then s.finishJob j
  else
    match s.acceptReason j w0 w1 ok with
    | some (r, d) => s.refuseJob j r d
    | none => s.kick

/-- A COMMIT on ring `src` becomes a commit of its function's group, or is refused with no image (R99-R102). -/
def State.enterCommit (s : State) (j : TblJob) : State :=
  let s := { s with tbl := { s.tbl with lastSrc := j.src, hostTurns := min 3 (s.tbl.hostTurns + 1) } }
  let s := s.bump TBL_CMD_STAT.accepted 1
  if !s.imageActive then
    (s.bump TBL_CMD_STAT.refused 1).finishEntry j.src j.index (fun w => completed w 2 [(1, 0x116)])
  else
    let covers := (s.tbl.jobs.filter (fun x => x.fn = j.fn && !x.imm && !x.done && x.src ≠ learnSource)).map (·.id)
    let c : CommitJob := { group := j.fn, ring := j.src, index := j.index, covers := covers, upTo := s.tbl.seq, waiting := false }
    let s := { s with img := { s.img with jobs := s.img.jobs ++ [c] } }
    s.put (STRUCT_GROUP_STATUS.busy j.fn) 1

/-- Take the command at the head of CMD ring `r` when its opcode is one of `ops`. -/
def State.acceptRing (s : State) (r : Nat) (ops : Nat → Bool) (ok : Bool) (buf : List Byte) : State :=
  match s.headCopy r with
  | (t, some w) =>
    let w0 := wordAt w 0
    if !ops (bitsOf w0 0 6) then s
    else
      let i := (t.ring r).take
      let fn := t.ringFunc r
      let ind := bitAt w0 7
      let j := t.makeJob r i fn w0 (wordAt w 1) (if ind then bitsOf (wordAt w 3) 0 32 else 0)
        (if ind then wordAt w 2 else 0) (entryOperands (t.decl (bitsOf w0 8 8)) ind w buf)
      let read := ind && 1 ≤ j.op && j.op ≤ 6
      let t := t.takeCopy r (fun _ => none)
      let t := if read then t.readHost fn (wordAt w 2) 192 else t
      let t := if read && ok then t.perf hifBlock 0x62 { func := some fn } 192
        else if read then t.bump HIF_STAT.read_fail 1 else t
      if j.op = 8 then t.enterCommit j else t.enter j w0 (wordAt w 1) ok
  | (t, none) => t

/-- Take the TBL_CMD command when its opcode is one of `ops` (R229, R230). -/
def State.acceptRegs (s : State) (ops : Nat → Bool) : State :=
  match s.tbl.goArgs with
  | some a =>
    let w0 := nth a 0
    if !ops (bitsOf w0 0 6) then s
    else
      let j := s.makeJob tblCmdSource 0 0 w0 (nth a 1) (nth a 2) 0 (nth a 3, nth a 4, nth a 5)
      ({ s with tbl := { s.tbl with goArgs := none } }).enter j w0 (nth a 1) true
  | none => s

/-- One turn of source `src` (R213). -/
def State.accept (s : State) (src : Nat) (ops : Nat → Bool) (ok : Bool) (buf : List Byte) : State :=
  if !s.hostTurn src then s
  else if src = tblCmdSource then s.acceptRegs ops
  else s.acceptRing src ops ok buf

/-- TBL_CMD.go: the argument registers are read (R229, R230). -/
def State.tblGo (s : State) : State :=
  if s.flag TBL_CMD.busy then s
  else
    let wide (n : Nat) (f : Nat → Nat) : Nat :=
      sumNat ((List.range n).map (fun j => (s.raw (f j)).toNat * 2 ^ (64 * j)))
    let args := [(s.raw TBL_CMD.regOff).toNat, (s.raw TBL_CMD_ARG.regOff).toNat, s.get TBL_CMD_CURSOR.cursor,
      wide 8 TBL_CMD_KEY.regOff, wide 5 TBL_CMD_MASK.regOff, wide 7 TBL_CMD_DATA.regOff]
    ({ s with tbl := { s.tbl with goArgs := some args } }).put TBL_CMD.busy 1

/-! The rows. A reserved opcode, which R218 refuses, is taken by the NOP row (notes/assumptions/9.md). -/

def execTblNop (src : Fin 1025) (ok : Bool) (buf : List Byte) (s : State) : Host.Outcome State Fault Refusal :=
  .next (s.accept src (fun o => o = 0 || 8 < o) ok buf)

def execTblAdd (src : Fin 1025) (ok : Bool) (buf : List Byte) (s : State) : Host.Outcome State Fault Refusal :=
  .next (s.accept src (fun o => o = 1) ok buf)

def execTblModify (src : Fin 1025) (ok : Bool) (buf : List Byte) (s : State) : Host.Outcome State Fault Refusal :=
  .next (s.accept src (fun o => o = 2) ok buf)

def execTblUpsert (src : Fin 1025) (ok : Bool) (buf : List Byte) (s : State) : Host.Outcome State Fault Refusal :=
  .next (s.accept src (fun o => o = 3) ok buf)

def execTblDelete (src : Fin 1025) (ok : Bool) (buf : List Byte) (s : State) : Host.Outcome State Fault Refusal :=
  .next (s.accept src (fun o => o = 4) ok buf)

def execTblRead (src : Fin 1025) (ok : Bool) (buf : List Byte) (s : State) : Host.Outcome State Fault Refusal :=
  .next (s.accept src (fun o => o = 5) ok buf)

def execTblReadNext (src : Fin 1025) (ok : Bool) (buf : List Byte) (s : State) : Host.Outcome State Fault Refusal :=
  .next (s.accept src (fun o => o = 6) ok buf)

def execTblFlush (src : Fin 1025) (ok : Bool) (buf : List Byte) (s : State) : Host.Outcome State Fault Refusal :=
  .next (s.accept src (fun o => o = 7) ok buf)

def execTblCommit (src : Fin 1025) (ok : Bool) (buf : List Byte) (s : State) : Host.Outcome State Fault Refusal :=
  .next (s.accept src (fun o => o = 8) ok buf)

/-! ### Completion (R215, R227, R229) -/

/-- Word 1 of a completion. -/
def jobWord1 (j : TblJob) : Nat :=
  (if j.status = 2 then j.reason else 0) + b2n (j.replaced && j.status = 0) * 2 ^ 16 + min 63 j.moves * 2 ^ 18 +
  (if j.status = 2 then j.detail % 256 else 0) * 2 ^ 24 + j.result % 2 ^ 32 * 2 ^ 32

/-- A read's registers (R229). -/
def State.putRead (s : State) (b : List Byte) : State :=
  let put (s : State) (n off : Nat) (f : Nat → Nat) : State :=
    (List.range n).foldl (fun s i => s.setRaw (f i) (BitVec.ofNat 64 (leAt b (off + 8 * i) 8))) s
  put (put (put (put s 8 0 TBL_CMD_KEY.regOff) 5 64 TBL_CMD_MASK.regOff) 7 128 TBL_CMD_DATA.regOff) 2 192
    TBL_CMD_RDHDR.regOff

def State.completeRegs (s : State) (j : TblJob) : State :=
  let s := s.setRaw TBL_CMD_RESULT.regOff (BitVec.ofNat 64 (jobWord1 j))
  let s := if j.status = 0 && j.op = 6 then s.put TBL_CMD_CURSOR.cursor j.result else s
  let s := match j.readback with | some b => s.putRead b | none => s
  s.puts [(TBL_CMD.status, j.status), (TBL_CMD.busy, 0)]

def State.completeRing (s : State) (j : TblJob) : State :=
  let s := match j.readback with
    | some b =>
      (s.writeHost j.fn j.buffer b).perf hifBlock 0x63 { func := some j.fn } 256
    | none => s
  s.finishEntry j.src j.index (fun w => completed w j.status [(1, jobWord1 j)])

/-- The completion of command `id` is delivered; `ok` says that a read's entry buffer could be written (0x0A0C). -/
def State.cmdComplete (s : State) (id : Nat) (ok : Bool) : State :=
  match s.job id with
  | some j =>
    if !j.done || j.src = learnSource then s
    else
      let s := { s with tbl := { s.tbl with jobs := s.tbl.jobs.filter (fun x => x.id ≠ id) } }
      let s := s.perf (perfBlock 32 4) 0x0E { func := some j.fn } 1
      if !ok && j.readback.isSome && j.src ≠ tblCmdSource then
        (s.bump TBL_CMD_STAT.refused 1).completeRing
          { j with status := 2, reason := 0xA0C, detail := 0, result := 0, readback := none }
      else if j.src = tblCmdSource then s.completeRegs j
      else s.completeRing j
  | none => s

def execTblCmdComplete (job : Nat) (ok : Bool) (s : State) : Host.Outcome State Fault Refusal :=
  .next ((s.cmdComplete job ok).kick)

/-! ### Relocation and scrubbing events (R207-R211) -/

/-- 512 CCLK after the copy the old copy goes, and placements that wait go on (R207). -/
def State.moveEnd (s : State) (t u src : Nat) : State :=
  if s.gated then s
  else
    match s.tbl.moves.find? (fun m => m.table = t && m.unit = u && m.src = src) with
    | some m => (s.endMove m).kick
    | none => s

def execEntryMoveEnd (table : Fin 256) (unit : Fin 33) (src : Nat) (s : State) : Host.Outcome State Fault Refusal :=
  .next (s.moveEnd table unit src)

/-- A command is making room in unit `u` of table `t`. -/
def State.placing (s : State) (t u : Nat) : Bool :=
  s.tbl.jobs.any (fun j => j.table = t && j.started && !j.done && j.places.any (fun p => p.unit = u && !p.placed && !p.failed))

/-- A background move of an exact-match entry to a free position of a less used candidate way (R192, R211). -/
def State.rebalance (s : State) (t u src : Nat) : State :=
  match s.decl t with
  | some d =>
    let l := s.unitEntries u t
    if d.kind ≠ 1 || !s.flag TBL_PL_CFG.rebalance_en || s.get TBL_PL_CFG.bg_move_rate = 0 || s.gated ||
        s.moving u t src || s.placing t u || ((d.scope = 1) != (u = 32)) then s
    else
      match l.find? (fun x => x.1 = src) with
      | some x =>
        let w0 := wayOf d src
        let ways := (List.range 4).filter (fun w => w ≠ w0 && wayCount d l w + 1 < wayCount d l w0 &&
          !(freeOf l (bucketPositions d w (emBucket d x.2.domain x.2.key w))).isEmpty)
        match lowest (ways.flatMap (fun w => (freeOf l (bucketPositions d w (emBucket d x.2.domain x.2.key w))).take 1)) with
        | some dst => s.startMove 0 t u src dst
        | none => s
      | none => s
  | none => s

def execRebalanceMove (table : Fin 256) (unit : Fin 33) (src : Nat) (s : State) : Host.Outcome State Fault Refusal :=
  .next (s.rebalance table unit src)

/-- The scrubber reads row `pos`; a row found in error matches every key until it is repaired (R209). -/
def State.tcamScrub (s : State) (p t pos : Nat) (bad : Bool) : State :=
  if bad && !s.gated && (s.entryAt p t pos).isSome && !s.tbl.bad.contains (entryKey p t pos) then
    { s with tbl := { s.tbl with bad := s.tbl.bad ++ [entryKey p t pos] } }
  else s

def execTcamScrub (pipe : Fin 32) (table : Fin 256) (row : Nat) (bad : Bool) (s : State) :
    Host.Outcome State Fault Refusal :=
  .next (s.tcamScrub pipe table row bad)


/-- The entry position of a word or row within a stage (R189, R195, R199). -/
def placeOf (d : TblDecl) (whr stage pos : Nat) : Option Nat :=
  if whr = 1 then none
  else if d.kind = 1 then
    match (tileList d).filter (fun x => x.1 = stage) with
    | [] => none
    | l =>
      match l[pos / 4096]? with
      | some tile =>
        let i := (tileList d).idxOf tile
        let b := i / 4 * 1024 + pos % 4096 / 4
        some (emPos d (i % 4) b (pos % 4 / emWords d))
      | none => none
  else if d.kind = 2 then (if stage = d.last then some pos else none)
  else some ((stageRows d stage).1 + pos)

/-- The first good copy of a replicated table's position: pipe `p` xor 1, then the others ascending (R210). -/
def repairFrom (p : Nat) (others : List Nat) : Option Nat :=
  ((p ^^^ 1) :: (List.range 32).filter (fun q => q ≠ p && q ≠ (p ^^^ 1))).find? (fun q => !others.contains q)

/-- The word or row at `pos` of pipe `p` is rewritten from that of pipe `q`. -/
def State.repairAt (s : State) (p q t pos : Nat) : State :=
  let s := s.putEntry p t pos (s.entryAt q t pos)
  { s with tbl := { s.tbl with bad := s.tbl.bad.filter (fun k => k ≠ entryKey p t pos) } }

/-- The copy at `pos` of pipe `p` is lost. Where a move had brought it there, the old copy stays and the move ends. -/
def State.loseAt (s : State) (p t pos : Nat) : State :=
  match s.entryAt p t pos with
  | none => s
  | some e =>
    let learned := s.isLearned t e && !e.deleted && !e.stagedAdd && !e.moveSrc
    let back := s.tbl.moves.filter (fun m => m.table = t && m.unit = p && m.dst = pos)
    let s := (s.freeAt p t pos).pruneMoves
    let s := back.foldl (fun s m => match s.entryAt p t m.src with
      | some x => s.putEntry p t m.src (some { x with moveSrc := false })
      | none => s) s
    let s := if learned && (s.tableEntries t).all (fun y => y.2.seq ≠ e.seq) then s.unlearn (bitsOf e.data 0 10) else s
    if isStaged e then s.showGroup e.group else s

/-- TBL_PL_PARITY_LAST, the syndrome of a parity fault. -/
def State.paritySyndrome (s : State) : Nat := (s.raw TBL_PL_PARITY_LAST.regOff).toNat

def State.repaired (s : State) (p q t : Nat) (place : Option Nat) : State :=
  let s := match place with
    | some x => s.repairAt p q t x
    | none => s
  (s.bump (TBL_ERR.repaired p t) 1).raise (48 * p + 32) 1 s.paritySyndrome

/-- A slot word that cannot be repaired fails the table in that pipe, and an entry that stands in the word is lost. -/
def State.unrepaired (s : State) (p t whr : Nat) (stands : Bool) (place : Option Nat) : State :=
  if whr = 1 then (s.put (TBL_ERR.failed p t) 1).raise (48 * p + 32) 2 s.paritySyndrome
  else if stands then
    (((s.bump (TBL_ERR.lost p t) 1).loseAt p t (place.getD 0)).raise (48 * p + 32) 2 s.paritySyndrome).kick
  else s

/-- A word or row of table `t` in pipe `p` shows a parity error; `others` are the pipes whose same position is in
error too. A replicated table is repaired from another pipe; else the entry that stands there is lost (R210). -/
def State.parityRepair (s : State) (p t whr stage pos : Nat) (others : List Nat) : State :=
  match s.decl t with
  | none => s
  | some d =>
    let good := if d.scope = 1 then repairFrom p others else none
    let place := placeOf d whr stage pos
    let stands := match place with | some x => (s.entryAt p t x).isSome | none => false
    let s := s.puts [(TBL_PL_PARITY_LAST.pipe, p), (TBL_PL_PARITY_LAST.table, t), (TBL_PL_PARITY_LAST.where_, whr),
      (TBL_PL_PARITY_LAST.repaired, b2n good.isSome), (TBL_PL_PARITY_LAST.lost, b2n (good.isNone && stands)),
      (TBL_PL_PARITY_LAST.stage, stage), (TBL_PL_PARITY_LAST.position, pos)]
    match good with
    | some q => s.repaired p q t place
    | none => s.unrepaired p t whr stands place

def execParityRepair (pipe : Fin 32) (table : Fin 256) (whr : Fin 4) (stage : Fin 32) (pos : Nat) (others : List Nat)
    (s : State) : Host.Outcome State Fault Refusal :=
  .next (if s.gated then s else s.parityRepair pipe table whr stage pos others)

/-- The sweep of a retired tag ends (R186). -/
def State.sweepDone (s : State) (g : Nat) : State :=
  if tagRetired s.img.tags g && !s.gated then (s.sweepTag g).kick else s

def execTagSweepComplete (tag : Fin 16) (s : State) : Host.Outcome State Fault Refusal := .next (s.sweepDone tag)

end Sys2Proof.Machine
end

