-- ==== Sys2Proof/Machine/Learn.lean ====
section
/-! DEFINITION. Learning and aging (06_table_access_learning.md R234-R246). -/

namespace Sys2Proof.Machine

/-- The learn queue of pipe `p`. -/
def State.learnQueue (s : State) (p : Nat) : List LearnReq := smGet (fun _ => []) s.tbl.learn p

def State.setLearnQueue (s : State) (p : Nat) (l : List LearnReq) : State :=
  { s with tbl := { s.tbl with learn := smPut (fun _ => []) s.tbl.learn p l } }

/-- What the screen asks of the packet besides its microcode: 0 nothing, 1 drop, 2 flood (R236). -/
abbrev Force := Nat

/-- Screen a learn or move request of pipe `p` (R236). -/
def State.learnScreen (s : State) (p : Nat) (r : LearnReq) : State × Force :=
  if s.flag (LRN_PORT.over r.port) then
    (s.bump (LRN_PORT.excess_cnt r.port) 1, if s.flag (LRN_PORT.excess r.port) then 2 else 1)
  else if bitAt (s.get (TBL_LRN_CFG.blocked_pipes r.table)) p then (s.bump TBL_LRN_STAT.floods 1, 2)
  else
    let q := s.learnQueue p
    if q.any (fun x => x.table = r.table && x.domain = r.domain && x.key = r.key) then (s, 0)
    else if 64 ≤ q.length then (s.bump TBL_LRN_STAT.queue_drops 1, 0)
    else (s.setLearnQueue p (q ++ [r]), 0)

/-- The command that a learn request becomes. -/
def State.learnJob (s : State) (r : LearnReq) : TblJob :=
  { id := s.tbl.nextJob, src := learnSource, index := 0, fn := 0, op := 1, imm := true, indirect := false
    table := r.table, domain := r.domain, key := r.key, mask := 0, len := 0
    action := s.get (TBL_LRN_CFG.action r.table), prio := 0, data := r.port + 2 ^ 10, flushBy := 0
    flushPort := r.port, allDomains := false, cursor := 0, buffer := 0, seq := s.tbl.seq, handle := 0, started := false
    done := false, places := [], status := 0, reason := 0, detail := 0, replaced := false, moves := 0, result := 0
    readback := none }

/-- A command on the identity has not completed (R214). -/
def State.identityBusy (s : State) (t dom key : Nat) : Bool :=
  s.tbl.jobs.any (fun j => !j.done && j.table = t && j.domain = dom && j.key = key && j.op ≠ 6 && j.op ≠ 7)

/-- Add the learned entry, or count the refusal of the port's limit (R238). -/
def State.learnNew (s : State) (d : TblDecl) (r : LearnReq) : State :=
  let j := s.learnJob r
  if (s.tableEntries r.table).any (fun x => sameIdentity j x.2) then s
  else if s.get (LRN_PORT.limit r.port) ≤ s.get (LRN_PORT.learned r.port) then s.bump (LRN_PORT.excess_cnt r.port) 1
  else if (s.unitsOf d r.domain).isEmpty then s
  else
    let s := s.relearn r.port
    let s := { s with tbl := { s.tbl with
      jobs := s.tbl.jobs ++ [j], nextJob := s.tbl.nextJob + 1, seq := s.tbl.seq + 1 } }
    s.beginPlace d j

/-- The engine takes the request at the head of pipe `p`'s learn queue (R213, R238). -/
def State.learnAccept (s : State) (p : Nat) : State :=
  match s.learnQueue p with
  | r :: rest =>
    match s.decl r.table with
    | some d =>
      if r.move || !s.learnTurn || s.identityBusy r.table r.domain r.key then s
      else ((s.setLearnQueue p rest).tookLearnTurn).learnNew d r
    | none => s.setLearnQueue p rest
  | [] => s

def execLearnAccept (pipe : Fin 32) (s : State) : Host.Outcome State Fault Refusal := .next (s.learnAccept pipe)

/-- A learned entry's port is rewritten in place unless the new port is at its limit (R238). -/
def State.moveStation (s : State) (r : LearnReq) : State :=
  match (s.tableEntries r.table).find? (fun x => x.2.domain = r.domain && x.2.key = r.key && !x.2.moveSrc &&
      s.visibleNow x.2 && s.isLearned r.table x.2 && !x.2.stagedDel) with
  | some x =>
    let old := bitsOf x.2.data 0 10
    if old = r.port then s
    else if s.get (LRN_PORT.limit r.port) ≤ s.get (LRN_PORT.learned r.port) then s.bump (LRN_PORT.excess_cnt r.port) 1
    else
      let s := s.mapCopies r.table x.2.seq (fun e =>
        { e with data := setBits e.data 0 10 r.port, hit := false, age := 0, addedBase := true })
      (((s.unlearn old).relearn r.port).bump TBL_LRN_STAT.moves 1).lrnEvent 0x21 r.table r.domain r.port old 0 r.key
  | none => s

/-- The engine takes a move request (R238). -/
def State.stationMove (s : State) (p : Nat) : State :=
  match s.learnQueue p with
  | r :: rest =>
    if !r.move || !s.learnTurn || s.identityBusy r.table r.domain r.key then s
    else ((s.setLearnQueue p rest).tookLearnTurn).moveStation r
  | [] => s

def execStationMove (pipe : Fin 32) (s : State) : Host.Outcome State Fault Refusal := .next (s.stationMove pipe)

/-- TBL_LRN_CFGt.unblock (R240). -/
def State.unblock (s : State) (t : Nat) : State := s.put (TBL_LRN_CFG.blocked_pipes t) 0

def execLearnUnblock (table : Fin 256) (s : State) : Host.Outcome State Fault Refusal :=
  .next (s.gatedWrite (fun s => s.unblock table))

/-- The sweep visits the entry at `pos` of pipe `p` (R242-R244); `late` says that a hit met the visit. -/
def State.ageVisit (s : State) (t p pos : Nat) (late : Bool) : State :=
  match s.entryAt p t pos with
  | none => s
  | some e =>
    let due := s.ageOn t && s.get (TBL_AGE_CFG.interval_ms t) ≠ 0 && !s.gated &&
      (s.flag (TBL_LRN_CFG.age_all t) || bitAt e.data 10) && !isStaged e && !e.hidden
    let limit := max 1 (s.get (TBL_AGE_CFG.age_limit t))
    if !due || late || s.identityBusy t e.domain e.key then s
    else if s.anyHit t e.seq then s.mapCopies t e.seq (fun x => { x with hit := false, age := 0 })
    else if limit ≤ e.age + 1 then
      if !s.learnTurn then s
      else
        let port := if bitAt e.data 10 then bitsOf e.data 0 10 else 0
        ((s.tookLearnTurn.deleteEntry t e).lrnEvent 0x22 t e.domain port 0 0 e.key).kick
    else s.mapCopies t e.seq (fun x => { x with hit := false, age := e.age + 1 })

def execAgeVisit (table : Fin 256) (pipe : Fin 32) (pos : Nat) (late : Bool) (s : State) :
    Host.Outcome State Fault Refusal :=
  .next (s.ageVisit table pipe pos late)

end Sys2Proof.Machine
end

