-- ==== Sys2Proof/Machine/Microcode.lean ====
section
/-! DEFINITION. One packet or copy in one stage: the word, its lookup, its ops, its next address, recirculation and
micro-traps (03_action_microcode.md R106-R137; 05_lookup_tables.md R180-R183). -/

namespace Sys2Proof.Machine

/-! ### Stores (R107, R108) -/

def State.storeRec (s : State) (st : Nat) : Option StoreRec :=
  match s.img.active with
  | some i => i.stores.find? (fun r => r.stage = st)
  | none => none

def State.patchRec (s : State) (target : Nat) : Option PatchRec := s.img.patch.find? (fun r => r.target = target)

/-- The loaded word `w` of stage `st`; none where neither image nor patch has loaded one. -/
def State.storeWord (s : State) (st w : Nat) : Option Nat :=
  match s.patchRec st with
  | some r => if r.first ≤ w then r.words[w - r.first]? else
      match s.storeRec st with
      | some q => if q.first ≤ w then q.words[w - q.first]? else none
      | none => none
  | none =>
    match s.storeRec st with
    | some q => if q.first ≤ w then q.words[w - q.first]? else none
    | none => none

def State.compat (s : State) (st : Nat) : Bool := match s.storeRec st with | some r => bitAt r.flags 0 | none => false

/-- The trap address for a fault in stage `st`: the first later stage with a valid vector (R128). -/
def State.trapAddress (s : State) (st : Nat) : Option Nat :=
  (List.range 32).findSome? (fun x => if x ≤ st then none else
    match s.storeRec x with
    | some r => if bitAt r.trap 15 then some (x * 1024 + r.trap % 1024) else none
    | none => none)

/-! ### Metadata words (R110, R111, R170, R171, R370) -/

/-- Bits of word `w` that microcode or a lookup result may write in stage `st`. -/
def writable (first : Bool) (st w : Nat) : Nat :=
  if w = 0 then (if st ≤ 7 then (if first then 0xFFF * 2 ^ 14 else 0) + 3 * 2 ^ 26 else 0)
  else if w = 1 then (if st ≤ 7 then 0x3FFF else 0)
  else if w = 2 then 2 ^ 26
  else if w ≤ 12 then 0
  else if w = 13 then 0xFFFF0000
  else if w ≤ 23 then 0xFFFFFFFF
  else if w ≤ 27 then 0
  else if w ≤ 31 then 0xFFFFFFFF
  else if w = 32 then 0x00FF3FFF
  else if w = 33 then 0x7FFF
  else if w = 34 then 0x3FFF7
  else if w ≤ 39 then 0
  else 0xFFFFFFFF

/-- Write `v` to word `w` under the mask; a word beyond 127 is left out. -/
def putMasked (md : List Nat) (w v mask : Nat) : List Nat :=
  let old := nth md w
  setAt md w ((old - (old &&& mask)) + (v &&& mask))

def putWord (first : Bool) (st : Nat) (md : List Nat) (w v : Nat) : List Nat :=
  putMasked md w v (writable first st w)

/-- A field of a metadata word. -/
def mdGet (md : List Nat) (w lo n : Nat) : Nat := bitsOf (nth md w) lo n

def mdPut (md : List Nat) (w lo n v : Nat) : List Nat := setAt md w (setBits (nth md w) lo n v)

def mdTenant (md : List Nat) : Nat := mdGet md 0 14 12

def mdClass (md : List Nat) : Nat := mdGet md 0 26 2

def mdBd (md : List Nat) : Nat := mdGet md 1 0 14

def mdTag (md : List Nat) : Nat := mdGet md 0 10 4

def mdIngress (md : List Nat) : Nat := mdGet md 0 0 10

def mdNext (md : List Nat) : Nat := mdGet md 24 0 15

def mdDone (md : List Nat) : Bool := bitAt (nth md 24) 15

def mdRecirc (md : List Nat) : Bool := bitAt (nth md 24) 16

def mdTrapLive (md : List Nat) : Bool := bitAt (nth md 24) 25

/-- 0 forward, 1 drop, 2 punt; 3 is handled as drop (R111). -/
def mdDisposition (md : List Nat) : Nat := if mdGet md 34 0 2 = 3 then 1 else mdGet md 34 0 2

def mdFlags (md : List Nat) : MFlags := flagsOf (nth md 24)

/-- Attributes of a packet event in the walk's block (R379). -/
def Walk.attr (k : Walk) : PerfAttr :=
  { tenant := some (mdTenant k.md), port := some k.port, func := k.fn, pipe := some k.pipe, cls := some (mdClass k.md) }

/-- The walk meets `n` events of a code in a block; they count at the end of its pass (R372). -/
def Walk.note (k : Walk) (block code n : Nat) : Walk := { k with notes := k.notes ++ [⟨block, code, k.attr, n⟩] }

/-- The performance events of a pass count at its end, unless it ends in recirculation (R372). -/
def State.countNotes (s : State) (l : List PerfNote) : State := l.foldl (fun s x => s.perf x.block x.code x.attr x.n) s

/-! ### Lookups (R172, R180-R183, R235, R243) -/

/-- Key bits taken from metadata (R180). -/
def keyFrom (md : List Nat) (w bits : Nat) : Nat :=
  sumNat ((List.range (ceilDiv bits 32)).map (fun i => nth md (w + i) * 2 ^ (32 * i))) % 2 ^ bits

/-- The domain of a lookup as it stands in cycle 1 (R181). -/
def domainFrom (d : TblDecl) (md : List Nat) : Nat :=
  if d.scope = 2 then mdBd md else if d.scope = 3 then mdTenant md else 0

def newLookup (d : TblDecl) (md : List Nat) (word : Nat) : Lk :=
  { table := d.id, domain := domainFrom d md, key := keyFrom md (mwKeyWord word) d.keyBits, keyWord := mwKeyWord word
    res := mwResWord word, tag := mdTag md, rank := 0, entry := none, parity := false }

/-- What stage `st` of pipe `p` adds to a lookup; `err` are the positions, by table, met with a parity error there, and
`slotErr` the tables whose slot word is in error. A slot word counts only where the lookup reads it (R196, R209). -/
def State.lookStep (s : State) (p st : Nat) (err : List (Nat × Nat)) (slotErr : List Nat) (l : Lk) : State × Lk :=
  match s.decl l.table with
  | none => (s, l)
  | some d =>
    let take (f : Found) : Lk :=
      let m := (Found.mk l.rank l.entry l.parity).merge f
      { l with rank := m.rank, entry := m.entry, parity := m.parity }
    let err := (err.filter (fun x => x.1 = l.table)).map (·.2)
    if d.kind = 1 then (s, take (s.emStage d p st l.domain l.key l.tag err))
    else if d.kind = 3 then
      if l.entry.isSome || l.parity then (s, l) else (s, take (s.ternStage d p st l.domain l.key l.tag err))
    else
      let bad := l.parity ||
        (slotErr.contains l.table && (s.lpmSlots d p l.key).any (fun x => d.first + x.1 = st + 1))
      if st = d.last then
        let (s, f) := s.lpmLookup d p l.key l.tag err bad
        (s, take f)
      else (s, { l with parity := bad })

/-- A landed result (R182): hit, action with its valid bit, data and parity. -/
structure Landed where
  table : Nat
  kind : Nat
  hit : Bool
  action : Nat
  data : Nat
  parity : Bool
  words : Nat
  res : Nat
  deriving DecidableEq, Repr

def landed (d : TblDecl) (l : Lk) : Landed :=
  { table := d.id, kind := d.kind, hit := l.entry.isSome
    action := match l.entry with | some e => e.action | none => d.defAction
    data := match l.entry with | some e => e.data | none => 0
    parity := l.entry.isNone && l.parity, words := ceilDiv d.dataBits 32, res := l.res }

/-- The result header word. -/
def resultHeader (r : Landed) : Nat :=
  r.action % 2 ^ 16 + b2n r.hit * 2 ^ 16 + b2n r.parity * 2 ^ 17 + r.kind * 2 ^ 18 + r.table * 2 ^ 24

/-- Write header and data words under the rules of microcode writes (R182). -/
def writeResult (first : Bool) (st : Nat) (md : List Nat) (r : Landed) : List Nat :=
  (List.range r.words).foldl (fun md i => putWord first st md (r.res + 1 + i) (bitsOf r.data (32 * i) 32))
    (putWord first st md r.res (resultHeader r))

/-- A landing lookup's effects outside the packet: parity misses, hit bits, learn and move requests. -/
def State.landEffects (s : State) (k : Walk) (l : Lk) (r : Landed) : State × Force :=
  let s := if r.parity then s.bump (TBL_ERR.parity_miss k.pipe l.table) 1 else s
  let src := l.keyWord = s.get (TBL_LRN_CFG.src_key_word l.table)
  let s := match l.entry with
    | some e => if src || s.flag (TBL_LRN_CFG.any_hit l.table) then s.markHit k.pipe l.table e.seq else s
    | none => s
  let learns := s.learnOn l.table && k.stage ≤ 19 && src && k.first && !k.injected
  let port := mdIngress k.md
  if !learns then (s, 0)
  else
    match l.entry with
    | none => if r.parity then (s, 0) else s.learnScreen k.pipe ⟨l.table, l.domain, l.key, port, false⟩
    | some e =>
      if bitAt e.data 10 && bitsOf e.data 0 10 ≠ port && s.flag (TBL_LRN_CFG.move_en l.table) then
        s.learnScreen k.pipe ⟨l.table, l.domain, l.key, port, true⟩
      else (s, 0)

/-- A forced drop stands over a forced flood. -/
def joinForce (a b : Force) : Force := if a = 1 || b = 1 then 1 else max a b

/-- Land every lookup that completes in this stage, in issue order; the last one listed gives H (R122). -/
def State.landAll (s : State) (k : Walk) : List Lk → Force → State × Walk × Force × Option Landed
  | [], f => (s, k, f, none)
  | l :: t, f =>
    match s.decl l.table with
    | none => s.landAll k t f
    | some d =>
      let r := landed d l
      let (s, g) := s.landEffects k l r
      let k := k.note (perfBlock k.pipe k.stage) (if r.hit then 5 else 6) 1
      let k := { k with md := writeResult k.first k.stage k.md r }
      let (s, k, f, last) := s.landAll k t (joinForce f g)
      (s, k, f, match last with | some x => some x | none => some r)

/-! ### Ops (R115-R120, R129, R131, R133) -/

/-- What the op slots ask for: word writes, Z and N, the first trap, and a control effect with its value
(1 RESUME, 2 CALL, 3 RETURN). -/
structure OpAcc where
  writes : List (Nat × Nat)
  zn : Option (Bool × Bool)
  trap : Option (Nat × Nat)
  ctl : Nat
  value : Nat
  deriving DecidableEq, Repr

def wrap32 (v : Nat) : Nat := v % 2 ^ 32

def sub32 (a b : Nat) : Nat := (a + 2 ^ 32 - b) % 2 ^ 32

/-- The arithmetic results of R117; none where the opcode has no plain result. -/
def aluResult (code a b lo w old : Nat) : Option Nat :=
  match code with
  | 1 => some a
  | 2 => some (wrap32 (a + b))
  | 3 => some (sub32 a b)
  | 4 => some (a &&& b)
  | 5 => some (a ||| b)
  | 6 => some (a ^^^ b)
  | 7 => some (wrap32 (a * 2 ^ (b % 32)))
  | 8 => some (a / 2 ^ (b % 32))
  | 9 => some (min a b)
  | 10 => some (max a b)
  | 11 => some (bitsOf a lo (w + 1))
  | 12 => some (setBits old lo (w + 1) a)
  | _ => none

/-- CRC-32C over words `a` to `a + b - 1` (R117). -/
def hashWords (md : List Nat) (a b : Nat) : Nat :=
  crc32c ((List.range b).map (fun i => leBytes 4 (nth md (a + i)))).flatten

def stackGet (md : List Nat) (i : Nat) : Nat := mdGet md (25 + i / 2) (16 * (i % 2)) 15

def stackDepth (md : List Nat) : Nat := mdGet md 24 29 3

def OpAcc.fail (acc : OpAcc) (cause detail : Nat) : OpAcc :=
  { acc with trap := match acc.trap with | some t => some t | none => some (cause, detail) }

def OpAcc.result (acc : OpAcc) (o w v : Nat) : OpAcc :=
  { acc with
    writes := acc.writes ++ [(w, v)]
    zn := if opSetFlags o then some (decide (v = 0), bitAt v 31) else acc.zn }

/-- A STORE may not name control state or reserved words (R129). -/
def storeBad (a : Nat) : Bool := 127 < a || (24 ≤ a && a ≤ 27) || (35 ≤ a && a ≤ 39)

/-- One op slot: operands as they stand in cycle 6; `compat` is the store's compatibility flag, without which 0x22 and
0x23 are reserved (R133). What R114 to R119 reserve and an image may not hold, a vendor patch word can: a reserved
opcode has no effect, a reserved operand form is 0 and a reserved next_sel is fixed (DESIGN CHOICE,
notes/assumptions/81.md). A HASH that runs past word 127 traps with the last index it asks for (DESIGN CHOICE,
notes/assumptions/79.md). -/
def opSlot (compat : Bool) (md : List Nat) (imm : Nat) (acc : OpAcc) (o : Nat) : OpAcc :=
  let a := sourceVal md imm (opA o)
  let b := sourceVal md imm (opB o)
  let code := opCode o
  if opCondEn o && !condHolds (opCond o) (mdFlags md) then acc
  else
    match aluResult code a b (opLo o) (opW o) (nth md (destWord (opDst o))) with
    | some v => acc.result o (destWord (opDst o)) v
    | none =>
      match code with
      | 0x0D => { acc with zn := some (decide (sub32 a b = 0), bitAt (sub32 a b) 31) }
      | 0x0E =>
        if b = 0 || 16 < b then acc.fail 2 b
        else if 127 < a + b - 1 then acc.fail 2 (a + b - 1)
        else acc.result o (destWord (opDst o)) (hashWords md a b)
      | 0x0F => if 127 < a then acc.fail 2 a else acc.result o (destWord (opDst o)) (nth md a)
      | 0x10 => if storeBad a then acc.fail 2 a else acc.result o a b
      | 0x20 => acc.fail 1 a
      | 0x21 => if mdTrapLive md then { acc with ctl := 1 } else acc.fail 7 0
      | 0x22 => if !compat then acc else if stackDepth md = 4 then acc.fail 3 (a % 2 ^ 15) else { acc with ctl := 2, value := a }
      | 0x23 => if !compat then acc else if stackDepth md = 0 then acc.fail 4 0 else { acc with ctl := 3 }
      | _ => acc

def opSlots (compat : Bool) (md : List Nat) (word : Nat) : OpAcc :=
  (mwOps word).foldl (opSlot compat md (mwImm word)) ⟨[], none, none, 0, 0⟩

/-- Metadata with the slots' writes, Z and N (R120). -/
def applyOps (first : Bool) (st : Nat) (md : List Nat) (acc : OpAcc) : List Nat :=
  let md := acc.writes.foldl (fun md x => putWord first st md x.1 x.2) md
  match acc.zn with
  | some (z, n) => setAt md 24 (putFlags (nth md 24) { mdFlags md with z := z, n := n })
  | none => md

/-! ### Next address (R121-R126) -/

/-- A word's next address, its done bit, whether it is an automatic return, and the metadata with control effects. -/
structure NextAddr where
  md : List Nat
  next : Nat
  done : Bool
  auto : Bool
  trap : Option (Nat × Nat)
  deriving DecidableEq, Repr

/-- A word whose next_sel is done forms no next address: next_addr keeps the word's own (DESIGN CHOICE,
notes/assumptions/80.md: what R130 saves of it, and where R125 re-enters after it). -/
def nextAddr (st : Nat) (md : List Nat) (word : Nat) (acc : OpAcc) (hit : Option Landed) : NextAddr :=
  if acc.ctl = 1 then
    let f := nth md 16
    let md := (List.range 4).foldl (fun md i => setAt md (28 + i) (nth md (20 + i))) md
    let md := mdPut (setAt md 24 (putFlags (nth md 24) (flagsUnpack (bitsOf f 16 3)))) 24 25 1 0
    ⟨md, bitsOf f 0 15, bitAt f 15, addrStage (bitsOf f 0 15) ≤ st, none⟩
  else if acc.ctl = 2 then
    let d := stackDepth md
    let md := mdPut (mdPut md (25 + d / 2) (16 * (d % 2)) 16 (bitsOf acc.value 0 15)) 24 29 3 (d + 1)
    ⟨md, mwNext word, false, false, none⟩
  else if acc.ctl = 3 then
    let d := stackDepth md - 1
    let n := stackGet md d
    ⟨mdPut md 24 29 3 d, n, false, addrStage n ≤ st, none⟩
  else if mwNextSel word = 1 then
    match hit with
    | some r =>
      if bitAt r.action 15 then
        let n := bitsOf r.action 0 15
        ⟨md, n, false, false, if addrStage n ≤ st then some (8, n) else none⟩
      else ⟨md, mwNext word, false, false, none⟩
    | none => ⟨md, mwNext word, false, false, none⟩
  else if mwNextSel word = 2 then ⟨md, mdNext md, true, false, none⟩
  else ⟨md, mwNext word, false, false, none⟩

/-! ### Traps (R128-R132) -/

/-- The trap frame (R130). -/
def trapFrame (md : List Nat) (next : Nat) (done : Bool) (addr cause detail : Nat) : List Nat :=
  let md := setAt md 16 (next + b2n done * 2 ^ 15 + flagsPack (mdFlags md) * 2 ^ 16)
  let md := setAt (setAt (setAt md 17 (addr + cause * 2 ^ 16)) 18 (wrap32 detail)) 19 0
  (List.range 4).foldl (fun md i => setAt md (20 + i) (nth md (28 + i))) md

/-- Raise a trap in word `addr`: to the next vector, or the packet is dropped at the end of its half (R128, R132).
Where R132 drops it, no trap frame is written and trap_live stays (DESIGN CHOICE, notes/assumptions/82.md). -/
def State.trap (s : State) (k : Walk) (word next : Nat) (done : Bool) (cause detail : Nat) : State × Walk :=
  let s := s.bump (ACT_TRAP_CNT.taken k.pipe k.stage) 1
  let s := s.puts [(ACT_TRAP_LAST.cause k.pipe k.stage, cause), (ACT_TRAP_LAST.word k.pipe k.stage, word),
    (ACT_TRAP_LAST.detail k.pipe k.stage, detail)]
  match mdTrapLive k.md, s.trapAddress k.stage with
  | false, some v =>
    let md := trapFrame k.md next done (k.stage * 1024 + word) cause detail
    let md := mdPut (mdPut (mdPut (mdPut md 24 25 1 1) 24 15 1 0) 24 16 1 0) 24 0 15 v
    (s, { k with md := md })
  | _, _ => (s.bump (ACT_TRAP_CNT.discarded k.pipe k.stage) 1, { k with md := mdPut (mdPut k.md 34 0 2 1) 24 15 1 1 })

/-! ### A word and a stage (R106, R109, R125-R127, R135, R136) -/

/-- Request recirculation to `target` through queue `q` (R125, R126). -/
def State.request (s : State) (k : Walk) (target q : Nat) : State × Walk :=
  let c := mdGet k.md 24 22 3 + 1
  let md := mdPut (mdPut (mdPut (mdPut k.md 24 16 1 1) 24 17 5 target) 24 22 3 c) 2 28 1 1
  let s := if q = 0 then s.bump (ACT_RECIRC_CNT.explicit k.pipe k.stage) 1
    else s.bump (ACT_RECIRC_CNT.automatic k.pipe k.stage) 1
  (s, { k with md := md, rq := q })

/-- Cycles 6 and 7 of word `word` at position `w`: ops, next address, trap (R109, R120, R129). A word with recirc set
re-enters at the next address that it forms, whatever its next_sel (DESIGN CHOICE, notes/assumptions/80.md). -/
def State.runWord (s : State) (k : Walk) (w word : Nat) (hit : Option Landed) : State × Walk :=
  let acc := opSlots (s.compat k.stage) k.md word
  let md := applyOps k.first k.stage k.md acc
  let n := nextAddr k.stage md word acc hit
  let wants := mwRecirc word || n.auto
  let target := if n.auto || mwRecircSelf word then k.pipe else mwRecircPipe word
  let limit := if wants && mdGet k.md 24 22 3 = 7 then some (5, target) else none
  match acc.trap.orElse (fun _ => n.trap.orElse (fun _ => limit)) with
  | some (cause, detail) => s.trap k w (if cause = 8 then mwNext word else n.next) n.done cause detail
  | none =>
    let md := mdPut n.md 24 0 15 n.next
    let k := { k with md := if n.done then mdPut md 24 15 1 1 else md }
    if wants then s.request k target (b2n n.auto) else (s, k)

/-- The built-in no-op with next_sel == done, which a position holds that nothing has loaded (R107). -/
def noopDone : Nat := 2 * 2 ^ 16

/-- The position that the packet's next_addr names in this stage (R106). -/
def State.selectWord (_s : State) (k : Walk) : Option Nat :=
  if mdDone k.md || mdRecirc k.md || addrStage (mdNext k.md) ≠ k.stage then none else some (addrWord (mdNext k.md))

/-- The syndrome of a stage store event (R544). -/
def storeSyndrome (word : Nat) (double : Bool) (from' : Nat) (repaired : Bool) : Nat :=
  word + b2n double * 2 ^ 10 + from' * 2 ^ 11 + b2n repaired * 2 ^ 16

/-- An ECC error in a read word: 1 corrected, 2 double-bit (R135, R136). -/
def State.storeError (s : State) (p st word ecc : Nat) : State :=
  if ecc = 0 then s
  else
    let s := s.puts [(ACT_CS_ECC.last_word p st, word), (ACT_CS_ECC.last_double p st, b2n (ecc = 2))]
    if ecc = 1 then
      (s.bump (ACT_CS_ECC.corrected p st) 1).raise (48 * p + st) 1 (storeSyndrome word false p true)
    else s

/-- Every lookup in flight takes its step, in issue order. -/
def State.lookAll (s : State) (p st : Nat) (err : List (Nat × Nat)) (slotErr : List Nat) : List Lk → State × List Lk
  | [] => (s, [])
  | l :: t =>
    let (s, l) := s.lookStep p st err slotErr l
    let (s, r) := s.lookAll p st err slotErr t
    (s, l :: r)

/-- One stage of a packet or copy. `ecc` is what the store's ECC found in the word read; `err` are the positions of
its tables that showed a parity error in this stage, by table, and `slotErr` the LPM tables whose slot word did. -/
def State.stageStep (s : State) (k : Walk) (ecc : Nat) (err : List (Nat × Nat)) (slotErr : List Nat) : State × Walk × Force :=
  let b := perfBlock k.pipe k.stage
  let entered := s.time.total / 2 ^ 38
  let before := mdDisposition k.md
  let k := (k.note b 2 1).note b 3 (mdGet k.md 2 6 14)
  let sel := s.selectWord k
  let s := match sel with | some w => s.storeError k.pipe k.stage w ecc | none => s
  let loaded := sel.bind (s.storeWord k.stage)
  let word := if ecc = 2 then none else sel.map (fun _ => loaded.getD noopDone)
  let issued := match word with
    | some w => if mwLookup w then (s.decl (mwTable w)).map (fun d => newLookup d k.md w) else none
    | none => none
  let (s, look) := s.lookAll k.pipe k.stage err slotErr (k.look ++ issued.toList)
  let ends (l : Lk) : Bool := match s.decl l.table with | some d => d.last = k.stage | none => true
  let (s, k, force, hit) := s.landAll { k with look := look.filter (fun l => !ends l) } (look.filter ends) 0
  let h := match hit with | some r => r.hit | none => false
  let k := { k with md := mdPut k.md 24 26 1 (b2n h) }
  let (s, k) := match sel, word with
    | some w, some x => s.runWord (if loaded.isSome then k.note b 4 1 else k) w x hit
    | some w, none => s.trap k w 0 true 6 w
    | none, _ => (s, k)
  let k := if before ≠ 1 && mdDisposition k.md = 1 then k.note b 7 1 else k
  (s, { k with stage := k.stage + 1, times := k.times ++ [entered] }, force)

/-! ### Packets and copies -/

def State.pkt (s : State) (id : Nat) : Option Pkt := s.pk.pkts.find? (fun p => p.id = id)

def State.setPkt (s : State) (p : Pkt) : State :=
  { s with pk := { s.pk with pkts := s.pk.pkts.map (fun q => if q.id = p.id then p else q) } }

def State.copy (s : State) (id : Nat) : Option Copy := s.pk.copies.find? (fun c => c.id = id)

def State.setCopy (s : State) (c : Copy) : State :=
  { s with pk := { s.pk with copies := s.pk.copies.map (fun d => if d.id = c.id then c else d) } }

/-- Packet slots of pipe `p` advance: not gated, not stopped, not in block reset. -/
def State.slotsRun (s : State) (p : Nat) : Bool := !s.gated && s.pipeRuns p && !s.pin.stopped

/-! ### Store repair and scrubbing (R135-R137, R143) -/

/-- The nearest good copy: pipe `p` xor 1, then the others ascending (R136). -/
def goodPipe (p : Nat) (bad : List Nat) : Option Nat :=
  ((p ^^^ 1) :: (List.range 32).filter (fun q => q ≠ p && q ≠ (p ^^^ 1))).find? (fun q => !bad.contains q)

/-- A word with an ECC error is rewritten; with no good copy anywhere the pipe stops (R136). -/
def State.csRepair (s : State) (p st word : Nat) (double : Bool) (bad : List Nat) : State :=
  if !double then s
  else
    match goodPipe p bad with
    | some q => (s.bump (ACT_CS_ECC.repaired p st) 1).raise (48 * p + st) 1 (storeSyndrome word true q true)
    | none =>
      let s := s.raise (48 * p + 34) 2 (word + st * 2 ^ 10)
      { s with flt := { s.flt with stopped := if s.flt.stopped.contains p then s.flt.stopped else s.flt.stopped ++ [p] } }

/-- The scrubber reads a word (R137). -/
def execCsScrub (pipe : Fin 32) (stage : Fin 32) (word : Fin 1024) (ecc : Fin 3) (s : State) :
    Host.Outcome State Fault Refusal :=
  .next (if s.gated then s else s.storeError pipe stage word ecc)

/-- Word `w` of sequencer `q`'s store: the vendor patch's, else the baseline's, which the spec does not give (R141,
R145; UNVERIFIED, notes/assumptions/83.md). -/
def State.seqWord (s : State) (q w : Nat) : Nat :=
  ((s.patchRec (0x40 + q)).bind (fun r => if r.first ≤ w then r.words[w - r.first]? else none)).getD (Config.seqBaseline q w)

/-- A store word of sequencer `q` shows an error: 0 single-bit, 1 double-bit in one copy, 2 in both (R143, R144). -/
def State.seqRepair (s : State) (q word kind : Nat) : State :=
  let s := s.puts [(SEQ_ECC.last_word q, word), (SEQ_ECC.last_double q, b2n (kind ≠ 0))]
  if kind = 0 then (s.bump (SEQ_ECC.corrected q) 1).raise (1697 + q) 1 word
  else if kind = 1 then (s.bump (SEQ_ECC.repaired q) 1).raise (1697 + q) 1 word
  else (s.put (SEQ_STATUS.state q) 2).raise (1697 + q) 2 (word + 2 ^ 11)

def execSeqStoreRepair (seq : Fin 3) (word : Fin 2048) (kind : Fin 3) (s : State) :
    Host.Outcome State Fault Refusal :=
  .next (s.seqRepair seq word kind)

end Sys2Proof.Machine
end

