-- ==== Sys2Proof/Machine/Meter.lean ====
section
/-! DEFINITION. Tenant meters, flow entries and the packets of each rule version (10_telemetry_metering.md
R372-R375; 02_structure_image.md R93, R94). -/

namespace Sys2Proof.Machine

/-! ### Meters -/

def meterDefault : Nat → Meter := fun _ => {}

def meterKey (pipe bank pair : Nat) : Nat := (pipe * 2 + bank) * 16384 + pair

def State.meter (s : State) (k : Nat) : Meter := smGet meterDefault s.mtr.meters k

/-- Change the active bank's counts of a pair in a pipe. -/
def State.onMeter (s : State) (pipe pair : Nat) (f : Meter → Meter) : State :=
  let k := meterKey pipe s.mtr.bank pair
  { s with mtr := { s.mtr with meters := smPut meterDefault s.mtr.meters k (f (s.meter k)) } }

/-- Tenant x 4 + class of a metadata record. -/
def pairOf (md : List Nat) : Nat := mdTenant md * 4 + mdClass md

def add64 (a b : Nat) : Nat := satAdd 64 a b

/-- Flow entry fields of R375: packets, bytes, drops, each wrapping. -/
def flowAdd (v packets bytes drops : Nat) : Nat :=
  setBits (setBits (setBits v 0 24 (bitsOf v 0 24 + packets)) 24 32 (bitsOf v 24 32 + bytes)) 56 8 (bitsOf v 56 8 + drops)

def flowKey (pipe index : Nat) : Nat := pipe * 2 ^ 17 + index

def State.flow (s : State) (k : Nat) : Nat := smGet (fun _ => 0) s.mtr.flows k

def State.addFlow (s : State) (k packets bytes drops : Nat) : State :=
  { s with mtr := { s.mtr with flows := smPut (fun _ => 0) s.mtr.flows k (flowAdd (s.flow k) packets bytes drops) } }

/-- A packet reaches its admission decision: receive counts, and drop counts when `dropped` (R373, R375). Its length
is not known yet when `len` is none. -/
def State.meterDecision (s : State) (pipe pair flow : Nat) (len : Option Nat) (dropped : Bool) : State :=
  let l := len.getD 0
  let d := b2n dropped
  let s := s.onMeter pipe pair (fun m => { m with
    rxPkts := add64 m.rxPkts 1, rxBytes := add64 m.rxBytes l
    dropPkts := add64 m.dropPkts d, dropBytes := add64 m.dropBytes (d * l) })
  s.addFlow flow 1 l d

/-- The byte counts that wait for the last byte (R373, R375). -/
def pendingOf (pair flow : Nat) (dropped : Bool) : List (Nat × Nat) :=
  [(0, pair), (2, flow)] ++ (if dropped then [(1, pair)] else [])

/-- The last byte is held: `len` joins the counts that waited. -/
def State.meterLate (s : State) (pipe len : Nat) : List (Nat × Nat) → State
  | [] => s
  | (kind, k) :: t =>
    let s := if kind = 0 then s.onMeter pipe k (fun m => { m with rxBytes := add64 m.rxBytes len })
      else if kind = 1 then s.onMeter pipe k (fun m => { m with dropBytes := add64 m.dropBytes len })
      else s.addFlow k 0 len 0
    s.meterLate pipe len t

/-- An admitted copy is removed without departing (R373). -/
def State.meterRemoved (s : State) (p : Pkt) : State :=
  let pair := pairOf p.w.md
  if p.whole then
    s.onMeter p.w.pipe pair (fun m => { m with
      dropPkts := add64 m.dropPkts 1, dropBytes := add64 m.dropBytes p.bytes.length })
  else
    let s := s.onMeter p.w.pipe pair (fun m => { m with dropPkts := add64 m.dropPkts 1 })
    s.setPkt { p with pending := p.pending ++ [(1, pair)] }

/-- A copy's first bit leaves a port (R373). -/
def State.meterSent (s : State) (pipe pair pkts len : Nat) : State :=
  s.onMeter pipe pair (fun m => { m with txPkts := add64 m.txPkts pkts, txBytes := add64 m.txBytes len })

def State.meterMarked (s : State) (pipe pair : Nat) : State :=
  s.onMeter pipe pair (fun m => { m with ecn := satAdd 32 m.ecn 1 })

/-- Cells charged for the packets of a pair (R373). -/
def State.pairCells (s : State) (pair : Nat) : Nat :=
  sumNat ((s.pk.pkts.filter (fun p => p.charge ≠ .none && pairOf p.w.md = pair)).map (·.charged))

/-- peak_cells of every pair with packets charged is sampled. The peak is the device's, kept with pipe 0. -/
def State.samplePeaks (s : State) : State :=
  (((s.pk.pkts.filter (fun p => p.charge ≠ .none)).map (fun p => pairOf p.w.md)).eraseDups).foldl (fun s pair =>
    s.onMeter 0 pair (fun m => { m with peak := max m.peak (min (s.pairCells pair) (2 ^ 21 - 1)) })) s

def execPeakSample (s : State) : Host.Outcome State Fault Refusal := .next s.samplePeaks

/-! ### Packets of each live version (R93, R94) -/

def State.addVersion (s : State) (v : Nat) (d : Int) : State :=
  { s with img := { s.img with live := s.img.live.map (fun x =>
      if x.version = v then { x with packets := ((x.packets : Int) + d).toNat } else x) } }

/-- Retire the oldest versions that hold no packet; the current version stays. -/
def retire : List LiveVer → List Nat → List LiveVer × List Nat
  | a :: b :: t, tags =>
    if a.packets = 0 then retire (b :: t) (setAt tags (a.version % 16) 2) else (a :: b :: t, tags)
  | l, tags => (l, tags)

def State.retireVersions (s : State) : State :=
  let (l, tags) := retire s.img.live s.img.tags
  { s with img := { s.img with live := l, tags := tags } }

/-- Packet `p` no longer holds its version. -/
def State.releaseVersion (s : State) (p : Pkt) : State :=
  if p.ver = 0 then s
  else ((s.addVersion p.ver (-1)).setPkt { p with ver := 0 }).retireVersions

end Sys2Proof.Machine
end

