-- ==== Sys2Proof/Machine/Shaper.lean ====
section
/-! DEFINITION. Shaper profiles, token buckets, policers and tide-gate lists (09_scheduling_shaping.md R346-R357). -/

namespace Sys2Proof.Machine

/-! ### Profiles and buckets (R346-R348). Credit is kept in 1/6,400 byte: a rate of r Mb/s adds r units a clock. -/

def creditUnit : Nat := 6400

def State.profile (s : State) (n : Nat) : Nat := smGet (fun _ => 0) s.sch.profiles n

def profRate (d : Nat) : Nat := bitsOf d 0 22

def profBurst (d : Nat) : Nat := bitsOf d 24 24

/-- Profile data `d` shapes; profile 0 holds 0. -/
def shaped (d : Nat) : Bool := profRate d ≠ 0

/-- A bucket's credit now under profile data `d`. -/
def bucketCredit (d : Nat) (b : Option Bucket) (clk : Nat) : Int :=
  let top : Int := profBurst d * creditUnit
  match b with
  | none => top
  | some x => min top (x.credit + (profRate d * (clk - x.at') : Nat))

/-- A departure is allowed. -/
def hasCredit (d : Nat) (b : Option Bucket) (clk : Nat) : Bool := !shaped d || decide (0 < bucketCredit d b clk)

/-- Debit `n` bytes. -/
def debitBucket (d : Nat) (b : Option Bucket) (clk n : Nat) : Option Bucket :=
  if shaped d then some ⟨bucketCredit d b clk - (n * creditUnit : Nat), clk⟩ else b

/-- The bucket after its profile data change from `old` to `new` (R346). -/
def rebucket (old new : Nat) (b : Option Bucket) (clk : Nat) : Option Bucket :=
  if !shaped new then none
  else if !shaped old then some ⟨(profBurst new * creditUnit : Nat), clk⟩
  else some ⟨min (bucketCredit old b clk) (profBurst new * creditUnit : Nat), clk⟩

/-! ### Nodes, queues and roots -/

def snDefault : Nat → SNode := fun _ => {}

def State.schNode (s : State) (k : Nat) : SNode := smGet snDefault s.sch.nodes k

def State.schQueue (s : State) (k : Nat) : SNode := smGet snDefault s.sch.queues k

def State.schRoot (s : State) (p : Nat) : SNode := smGet snDefault s.sch.roots p

def State.setSchNode (s : State) (k : Nat) (x : SNode) : State :=
  { s with sch := { s.sch with nodes := smPut snDefault s.sch.nodes k x } }

def State.setSchQueue (s : State) (k : Nat) (x : SNode) : State :=
  { s with sch := { s.sch with queues := smPut snDefault s.sch.queues k x } }

def State.setSchRoot (s : State) (p : Nat) (x : SNode) : State :=
  { s with sch := { s.sch with roots := smPut snDefault s.sch.roots p x } }

/-- The profile data that shape a port's root. -/
def State.rootProfile (s : State) (p : Nat) : Nat := s.profile (s.get (SCHED_PORT_CFG.profile p))

/-! ### Policers (R349, R350) -/

def polProfile (d : Nat) : Nat := bitsOf d 0 10

def polAction (d : Nat) : Nat := bitsOf d 10 2

def State.policer (s : State) (i : Nat) : Nat := smGet (fun _ => 0) s.sch.policers i

def noBucket : Nat → Option Bucket := fun _ => none

def State.polBucket (s : State) (pipe i : Nat) : Option Bucket := smGet noBucket s.sch.polBuckets (pipe * 16384 + i)

def State.setPolBucket (s : State) (pipe i : Nat) (b : Option Bucket) : State :=
  { s with sch := { s.sch with polBuckets := smPut noBucket s.sch.polBuckets (pipe * 16384 + i) b } }

/-- Every pipe's instance of policer `i` moves from profile data `old` to `new`. -/
def State.rebucketPolicer (s : State) (i old new : Nat) : State :=
  (List.range 32).foldl (fun s p => s.setPolBucket p i (rebucket old new (s.polBucket p i) s.clk)) s

/-- Police `len` bytes in a pipe: 0 conforms, 1 drop, 2 mark. -/
def State.police (s : State) (pipe i len : Nat) : State × Nat :=
  let d := s.policer i
  let prof := s.profile (polProfile d)
  if !shaped prof then (s, 0)
  else if (len * creditUnit : Nat) ≤ bucketCredit prof (s.polBucket pipe i) s.clk then
    (s.setPolBucket pipe i (debitBucket prof (s.polBucket pipe i) s.clk len), 0)
  else
    let s := s.bump (SCHED_PIPE_STAT1.pol_exceed pipe) 1
    let s := { s with sch := { s.sch with polExceed := smPut (fun _ => 0) s.sch.polExceed i (satAdd 32 (smGet (fun _ => 0) s.sch.polExceed i) 1) } }
    (s, if polAction d = 1 then 2 else 1)

/-! ### Tide gates (R351, R352) -/

def State.gateEntry (s : State) (port bank k : Nat) : Nat :=
  smGet (fun _ => 0) s.sch.gates (port * 512 + bank * 256 + k)

def gateMask (e : Nat) : Nat := bitsOf e 0 16

def gateLen (e : Nat) : Nat := bitsOf e 16 24

def noList : Nat → Option GateList := fun _ => none

def State.gateList (s : State) (port : Nat) : Option GateList := smGet noList s.sch.lists port

def State.gatePend (s : State) (port : Nat) : Option GateList := smGet noList s.sch.pend port

def State.listEntries (s : State) (port : Nat) (l : GateList) : List Nat :=
  (List.range l.len).map (s.gateEntry port l.bank)

/-- The entry in which position `x` of the cycle lies, with what is left of it. -/
def entryAtPos : List Nat → Nat → Nat → Nat × Nat
  | [], _, k => (k, 0)
  | e :: t, x, k => if x < gateLen e then (k, gateLen e - x) else entryAtPos t (x - gateLen e) (k + 1)

/-- Entry number at wrap time `t`, and the ns that it still lasts. -/
def State.gatePlace (s : State) (port : Nat) (l : GateList) (t : Nat) : Nat × Nat :=
  let es := s.listEntries port l
  let c := sumNat (es.map gateLen)
  entryAtPos es ((wrapDiff t l.base) % (c : Int)).toNat 0

/-- Gate states of a port at wrap time `t`. -/
def State.gatesAt (s : State) (port t : Nat) : Nat :=
  match s.gateList port with
  | none => 0xFFFF
  | some l => gateMask (s.gateEntry port l.bank (s.gatePlace port l t).1)

def State.gateOpen (s : State) (port q t : Nat) : Bool := bitAt (s.gatesAt port t) q

/-- SCHED_PORT_STAT's gate fields follow the list. -/
def State.showGates (s : State) (port : Nat) : State :=
  match s.gateList port with
  | some l =>
    let k := (s.gatePlace port l s.wrapNow).1
    s.puts [(SCHED_PORT_STAT.gates port, gateMask (s.gateEntry port l.bank k)), (SCHED_PORT_STAT.running port, 1),
      (SCHED_PORT_STAT.bank port, l.bank), (SCHED_PORT_STAT.entry port, k)]
  | none => s.puts [(SCHED_PORT_STAT.gates port, 0xFFFF), (SCHED_PORT_STAT.running port, 0),
      (SCHED_PORT_STAT.bank port, 0), (SCHED_PORT_STAT.entry port, 0)]

/-- A pending list takes over: the old list stops and the new one runs, or every gate opens (R355). -/
def State.installGates (s : State) (port : Nat) (l : GateList) : State :=
  let s := { s with sch := { s.sch with
    pend := smPut noList s.sch.pend port none
    lists := smPut noList s.sch.lists port (if l.openAll then none else some l) } }
  ((s.put (SCHED_PORT_STAT.pending port) 0).showGates port).bump SCHED_STAT.takeovers 1

/-- A pending takeover reaches its base time (R355). The scheduler is gated in Brine, and a takeover whose base time
passes there takes effect once it runs again (R61; DESIGN CHOICE, notes/assumptions/75.md). -/
def State.gateTakeover (s : State) (port : Nat) : State :=
  match s.gatePend port with
  | some l => if !s.gated && wrapReached s.wrapNow l.base then s.installGates port l else s
  | none => s

/-- Device time has been set or stepped: a pending takeover whose base time the change has passed takes effect now, at
entry 0, and the position of every running list moves with the time (R357). -/
def State.gatesStepped (s : State) : State :=
  if s.gated then s
  else
    let s := (s.sch.pend.map (·.1)).foldl (fun s p =>
      match s.gatePend p with
      | some l => if wrapReached s.wrapNow l.base then s.installGates p { l with base := s.wrapNow } else s
      | none => s) s
    (s.sch.lists.map (·.1)).foldl State.showGates s

/-- Time that the entries keep gate `q` open, from the first of them on. -/
def openRun (q : Nat) : List Nat → Nat
  | [] => 0
  | e :: t => if bitAt (gateMask e) q then gateLen e + openRun q t else 0

/-- The ns until gate `q` closes; none for a gate that never closes. -/
def State.closesIn (s : State) (port q : Nat) : Option Nat :=
  match s.gateList port with
  | none => none
  | some l =>
    let es := s.listEntries port l
    if es.all (fun e => bitAt (gateMask e) q) then none
    else
      let (k, left) := s.gatePlace port l s.wrapNow
      if bitAt (gateMask (nth es k)) q then some (left + openRun q (es.drop (k + 1) ++ es.take k)) else some 0

/-- Port rate in Gb/s (R74); a Ristlink lane carries 200 Gb/s of frames. -/
def State.portRate (s : State) (p : Nat) : Nat :=
  match s.portRec p with
  | some r =>
    if r.link = 2 then 200 * r.lanes
    else
      match s.get (PORT_STATUS.speed r.first) with
      | 1 => 10
      | 2 => 25
      | 3 => 50
      | 4 => 100
      | 5 => 200
      | 6 => 400
      | 7 => 800
      | 8 => 1600
      | _ => 0
  | none => 0

end Sys2Proof.Machine
end

