-- ==== Sys2Proof/Machine/Buffer.lean ====
section
/-! DEFINITION. The shared buffer (08_shared_buffer.md): charges, XOFF, cells and references, caches and the Rake,
flushes, stops, limits under traffic and the indirect interface. -/

namespace Sys2Proof.Machine

def natZero : Nat → Nat := fun _ => 0

def quotaDefault : Nat → QuotaVal := fun _ => {}

/-! ### Queues (R303) -/

def queueOf (port q : Nat) : Nat := 16 * port + q

def isPortQueue (q : Nat) : Bool := q < 16384

def isHostQueue (q : Nat) : Bool := 16384 ≤ q && q < 16640

def isRecircQueue (q : Nat) : Bool := 16640 ≤ q

/-- Cells that the copy has still to read (R307): the reservation stands for a packet not yet written whole. -/
def toRead (p : Pkt) (c : Copy) : Nat :=
  (if p.last || p.ended then p.cells.length else max p.reserved p.cells.length) - c.read

def State.copiesOf (s : State) (q : Nat) : List Copy := s.pk.copies.filter (fun c => c.queue = q)

/-- Copies that wait in queue `q`. -/
def State.queued (s : State) (q : Nat) : List Copy := s.pk.copies.filter (fun c => c.queue = q && c.at' = .queued)

def State.depthOf (s : State) (l : List Copy) : Nat :=
  sumNat (l.map (fun c => match s.pkt c.pkt with | some p => toRead p c | none => 0))

/-- Depth of a queue (R307). -/
def State.depth (s : State) (q : Nat) : Nat := s.depthOf (s.copiesOf q)

/-- The part of the depth that belongs to packets charged to a pool (R307). -/
def State.qocc (s : State) (q : Nat) : Nat := s.depthOf ((s.copiesOf q).filter (·.pooled))

def State.portDepth (s : State) (p : Nat) : Nat := s.depthOf (s.pk.copies.filter (fun c => c.queue / 16 = p && isPortQueue c.queue))

/-- The heads of the segments among copies that stand in order of admission; `seen` are segments met already. -/
def segHeads : List Copy → List Nat → List Copy
  | [], _ => []
  | c :: t, seen => if seen.contains c.seg then segHeads t seen else c :: segHeads t (c.seg :: seen)

/-- Wrap time `a` lies before `b`, by the sign of their 48-bit difference (R31). -/
def wrapBefore (a b : Nat) : Bool := decide (wrapDiff a b < 0)

/-- The head copy of a queue: of the heads of its segments the one with the earliest admit_time, then of the lowest
segment (R306). -/
def State.head (s : State) (q : Nat) : Option Copy :=
  (segHeads (s.queued q) []).foldl (fun b c => match b with
    | none => some c
    | some x => if wrapBefore c.admitAt x.admitAt || (c.admitAt = x.admitAt && c.seg < x.seg) then some c else some x) none

def State.portEmpty (s : State) (p : Nat) : Bool := (List.range 16).all (fun q => (s.queued (queueOf p q)).isEmpty)

/-- The pipe that presents a copy's references: of its port, of its recirculation queue, or of its segment for a
host queue. -/
def State.copyPipe (s : State) (c : Copy) : Nat :=
  if isPortQueue c.queue then s.pipeOf (c.queue / 16)
  else if isHostQueue c.queue then c.seg else (c.queue - 16640) / 2

/-! ### The receive FIFO (R46) -/

/-- Bytes that the section's FIFO holds: waiting frames, and what is not yet written of packets that entered. -/
def State.fifoFill (s : State) (sec : Nat) : Nat :=
  sumNat ((smGet (fun _ => ([] : List RxFrame)) s.pk.fifo sec).map (fun f => f.bytes.length)) +
  sumNat ((s.pk.pkts.filter (fun p => p.fromFifo && p.w.pipe = sec)).map (fun p => p.bytes.length - 256 * p.cells.length))

/-! ### XOFF (R319, R320) -/

def State.headroom (s : State) (port c : Nat) : QuotaVal := smGet quotaDefault s.buf.headActive (port * 4 + c)

def State.headUsed (s : State) (k : Nat) : Nat := smGet natZero s.buf.headUsed k

def State.isLossless (s : State) (port c : Nat) : Bool := (s.headroom port c).valid

def State.xoffOf (s : State) (k : Nat) : Nat := smGet natZero s.buf.xoff k

def State.setXoff (s : State) (k v : Nat) : State :=
  let s := { s with buf := { s.buf with xoff := smPut natZero s.buf.xoff k v } }
  let f := BUF_PORT_CFG2.xoff (k / 4 % 1024)
  s.put f (setBits (s.get f) (k % 4) 1 (b2n (v ≠ 0)))

def addBit (v i : Nat) : Nat := setBits v i 1 1

def clearBit (v i : Nat) : Nat := setBits v i 1 0

/-- Set the XOFF state of a lossless class of an Ethernet port; the port owes an XOFF frame (R320). -/
def State.xoffSet (s : State) (port c : Nat) : State :=
  if s.isLossless port c && !s.isRistlink port && s.xoffOf (port * 4 + c) = 0 then
    let s := s.setXoff (port * 4 + c) 1
    { s with buf := { s.buf with
      pfcSet := smPut natZero s.buf.pfcSet port (addBit (smGet natZero s.buf.pfcSet port) c)
      pfcClear := smPut natZero s.buf.pfcClear port (clearBit (smGet natZero s.buf.pfcClear port) c) } }
  else s

/-- Clear it when headroom use and FIFO allow and its XOFF frame has left; the port owes an XON frame. -/
def State.xoffTry (s : State) (k : Nat) : State :=
  let port := k / 4
  if s.xoffOf k = 2 && s.headUsed k ≤ s.get (BUF_PORT_CFG2.xon_cells port) &&
      s.fifoFill (s.pipeOf port) ≤ s.get BUF_G_CFG.fifo_resume_kib * 1024 then
    let s := s.setXoff k 0
    { s with buf := { s.buf with
      pfcClear := smPut natZero s.buf.pfcClear port (addBit (smGet natZero s.buf.pfcClear port) (k % 4)) } }
  else s

/-- Look again at every class of a section in XOFF. -/
def State.xoffSweep (s : State) (sec : Nat) : State :=
  ((s.buf.xoff.map (·.1)).filter (fun k => s.pipeOf (k / 4) = sec)).foldl State.xoffTry s

/-- The FIFO of a section, which held `was` bytes, may have passed 96 KiB: then every lossless class of its ports goes
to XOFF (R46, R320). -/
def State.fifoGrown (s : State) (sec was : Nat) : State :=
  if was ≤ 98304 && decide (98304 < s.fifoFill sec) then
    ((s.buf.headActive.map (·.1)).filter (fun k => s.pipeOf (k / 4) = sec)).foldl (fun s k => s.xoffSet (k / 4) (k % 4)) s
  else s

/-! ### Charges (R312, R314, R315) -/

def State.quota (s : State) (k : Nat) : QuotaVal := smGet quotaDefault s.buf.quotaActive k

def State.quotaUsed (s : State) (k : Nat) : Nat := smGet natZero s.buf.quotaUsed k

/-- Charge `n` cells, to one of the eight pools where a pool is charged. Headroom use that rises above 0 sets XOFF, of
which a control item tells the port's section (R320, R322). -/
def State.charge (s : State) (c : Charge) (n : Nat) : State :=
  match c with
  | .none => s
  | .quota k => { s with buf := { s.buf with quotaUsed := smPut natZero s.buf.quotaUsed k (s.quotaUsed k + n) } }
  | .pool p =>
    let u := s.get (BUF_POOL_STAT.used (p % 8)) + n
    let s := s.put (BUF_POOL_STAT.used (p % 8)) u
    if s.get (BUF_POOL_DROP.hwm (p % 8)) < u then s.put (BUF_POOL_DROP.hwm (p % 8)) u else s
  | .headroom k =>
    let t := { s with buf := { s.buf with headUsed := smPut natZero s.buf.headUsed k (s.headUsed k + n) } }
    if 0 < n && s.headUsed k = 0 then
      (t.chCross (s.pipeOf (k / 4)) true 0 (.control (k / 4)) 1).xoffSet (k / 4) (k % 4)
    else t

/-- Release `n` cells. -/
def State.unchargeCells (s : State) (c : Charge) (n : Nat) : State :=
  match c with
  | .none => s
  | .quota k => { s with buf := { s.buf with quotaUsed := smPut natZero s.buf.quotaUsed k (s.quotaUsed k - n) } }
  | .pool p => s.put (BUF_POOL_STAT.used (p % 8)) (s.get (BUF_POOL_STAT.used (p % 8)) - n)
  | .headroom k =>
    ({ s with buf := { s.buf with headUsed := smPut natZero s.buf.headUsed k (s.headUsed k - n) } }).xoffTry k

/-- Packet `p` gives back `n` of its charged cells. -/
def State.trimCharge (s : State) (p : Pkt) (n : Nat) : State :=
  let n := min n p.charged
  (s.setPkt { p with charged := p.charged - n }).unchargeCells p.charge n

def creditDefault : Nat → Credit := fun _ => {}

def State.credit (s : State) (k : Nat) : Credit := smGet creditDefault s.pl.credits k

def State.setCredit (s : State) (k : Nat) (c : Credit) : State :=
  { s with pl := { s.pl with credits := smPut creditDefault s.pl.credits k c } }

/-- A cell of a frame received on a Ristlink port was freed: one credit is owed (R323), for the cells of every pass of
a frame that recirculates (DEDUCED, notes/assumptions/76.md). -/
def State.oweCredit (s : State) (p : Pkt) : State :=
  let k := p.port * 4 + mdClass p.w.md
  if !p.w.injected && s.isRistlink p.port && s.isLossless p.port (mdClass p.w.md) then
    s.setCredit k { s.credit k with owed := (s.credit k).owed + 1 }
  else s

/-! ### Cells (R288-R297) -/

/-- Bank set of a cell, its row, and the tile of its quarter `i` (R290): cell c of a group lies in bank c mod 8 of each
of the group's 4 tiles, at row c div 8. -/
def cellBankSet (cell : Nat) : Nat := cell % 8

def cellRow (cell : Nat) : Nat := cell / 8

def ptrGroup (ptr : Nat) : Nat := ptr / 65536 % 32

def ptrCell (ptr : Nat) : Nat := ptr % 65536

/-- Cells of a group that images may use. -/
def groupCells (g : Nat) : Nat := if g < 8 then 46080 else 49152

def ptrInvalid (ptr : Nat) : Bool := groupCells (ptrGroup ptr) ≤ ptrCell ptr

def State.cell (s : State) (ptr : Nat) : Nat := smGet natZero s.buf.cellState ptr

def State.setCell (s : State) (ptr v : Nat) : State :=
  { s with buf := { s.buf with cellState := smPut natZero s.buf.cellState ptr v } }

def cellRefs (w : Nat) : Nat := bitsOf w 0 11

def cellOwner (w : Nat) : Nat := bitsOf w 11 5

def cellEpoch (w : Nat) : Nat := bitsOf w 16 4

def noPtrs : Nat → List Nat := fun _ => []

/-- The pointers of group `g` in pipe `p`'s cache, next first (R299). -/
def State.ptrs (s : State) (p g : Nat) : List Nat := smGet noPtrs s.buf.cache (p * 32 + g)

def State.setPtrs (s : State) (p g : Nat) (l : List Nat) : State :=
  { s with buf := { s.buf with cache := smPut noPtrs s.buf.cache (p * 32 + g) l } }

def State.cached (s : State) (p g : Nat) : Nat := (s.ptrs p g).length

def noRuns : Nat → List (Nat × Nat) := fun _ => []

/-- Sub-ring `g`: runs of a first pointer and a length, next first. Each entry of a run is one 32-bit entry of R298. -/
def State.runs (s : State) (g : Nat) : List (Nat × Nat) := smGet noRuns s.buf.subring g

def State.setRuns (s : State) (g : Nat) (l : List (Nat × Nat)) : State :=
  { s with buf := { s.buf with subring := smPut noRuns s.buf.subring g l } }

/-- Pointers in sub-ring `g`. -/
def State.subring (s : State) (g : Nat) : Nat := sumNat ((s.runs g).map (·.2))

/-- The first `n` pointers of a ring, and what remains. -/
def takeRuns : Nat → List (Nat × Nat) → List Nat × List (Nat × Nat)
  | _, [] => ([], [])
  | n, (a, k) :: t =>
    if n < k then ((List.range n).map (a + ·), (a + n, k - n) :: t)
    else
      let (l, r) := takeRuns (n - k) t
      ((List.range k).map (a + ·) ++ l, r)

/-- Pointers written behind a ring's last one. -/
def putRuns (l : List (Nat × Nat)) (ptrs : List Nat) : List (Nat × Nat) := l ++ ptrs.map (fun p => (p, 1))

/-- A freed pointer enters the freeing pipe's list of its group, or past 64 the sub-ring (R299). -/
def State.returnPtr (s : State) (p ptr : Nat) : State :=
  let g := ptrGroup ptr
  if s.cached p g < 64 then s.setPtrs p g (s.ptrs p g ++ [ptr]) else s.setRuns g (putRuns (s.runs g) [ptr])

/-- A refused reference (R295): 0 INVALID, 1 COUNT_ZERO, 2 NON_OWNER. -/
def State.refuseRef (s : State) (kind ptr owner epoch presenter : Nat) : State :=
  let w := if kind = 0 then 0 else s.cell ptr
  let s := if kind = 0 then s.bump BUF_FAULT_CNT.invalid 1
    else if kind = 1 then s.bump BUF_FAULT_CNT.count_zero 1 else s.bump BUF_FAULT_CNT.non_owner 1
  let s := s.puts [(BUF_FAULT_LAST.ptr, ptr), (BUF_FAULT_LAST.kind, kind), (BUF_FAULT_LAST.pres_pipe, owner),
    (BUF_FAULT_LAST.pres_epoch, epoch), (BUF_FAULT_LAST.owner_pipe, cellOwner w), (BUF_FAULT_LAST.epoch, cellEpoch w),
    (BUF_FAULT_LAST.presenter, presenter)]
  s.raise (48 * presenter + 33) 2 (s.raw BUF_FAULT_LAST.regOff).toNat

/-- The last reference of a cell has gone: its packet's charge falls and the pointer returns (R295, R315). -/
def State.freeCell (s : State) (ptr epoch presenter : Nat) : State :=
  let s := match s.pk.pkts.find? (fun p => p.cells.contains (ptr, epoch)) with
    | some p => (s.trimCharge p 1).oweCredit p
    | none => s
  if s.buf.bad.contains ptr then s else s.returnPtr presenter ptr

/-- One presented reference (R295). -/
def State.freeRef (s : State) (ptr owner epoch presenter : Nat) : State :=
  if ptrInvalid ptr then s.refuseRef 0 ptr owner epoch presenter
  else
    let w := s.cell ptr
    if cellRefs w = 0 then s.refuseRef 1 ptr owner epoch presenter
    else if cellOwner w ≠ owner || cellEpoch w ≠ epoch then s.refuseRef 2 ptr owner epoch presenter
    else
      let s := s.setCell ptr (w - 1)
      if cellRefs w = 1 then s.freeCell ptr epoch presenter else s

/-! ### Errors of cell state words (R297) -/

/-- Cell `ptr` shows a double-bit error: it is never allocated again (R297). -/
def State.quarantine (s : State) (ptr : Nat) : State :=
  let s := if s.buf.bad.contains ptr then s else { s with buf := { s.buf with bad := s.buf.bad ++ [ptr] } }
  s.raise (1664 + ptrGroup ptr) 2 (ptr + 2 ^ 21)

/-- Cells of the packet, by index, whose state words show an error as they are read: corrected, or found by two bits. -/
def State.readErrors (s : State) (p : Pkt) (ecc : List (Nat × Bool)) : State :=
  ecc.foldl (fun s x => match p.cells[x.1]? with
    | some (ptr, _) => if x.2 then s.quarantine ptr else s.raise (1664 + ptrGroup ptr) 1 ptr
    | none => s) s

/-- The packet holds a quarantined cell: each copy that reaches it is dropped. -/
def State.holdsBad (s : State) (p : Pkt) : Bool := p.cells.any (fun x => s.buf.bad.contains x.1)

/-! ### Copies leaving and packets ending -/

/-- The queue entry of a copy (R305): word 0 with the descriptor, the reference of the first cell, the CE mark and
whether the last cell is still to be written; word 1 the admission time. -/
def queueEntry (p : Pkt) (c : Copy) : Nat × Nat :=
  let (ptr, e) := p.cells.headD (0, 0)
  (p.pd + ptr * 2 ^ 20 + p.w.pipe * 2 ^ 41 + e * 2 ^ 46 + b2n c.ecn * 2 ^ 50 + b2n (!p.last && !p.ended) * 2 ^ 51,
   c.admitAt)

/-- Cells of the packet whose references are still held. -/
def State.outstanding (s : State) (p : Pkt) : Nat :=
  (p.cells.filter (fun x => cellRefs (s.cell x.1) ≠ 0 && cellOwner (s.cell x.1) = p.w.pipe && cellEpoch (s.cell x.1) = x.2)).length

def State.dropPkt (s : State) (id : Nat) : State :=
  { s with pk := { s.pk with pkts := s.pk.pkts.filter (fun p => p.id ≠ id) } }

/-- With no copy left, an admitted packet gives back what it never wrote and its version; it is forgotten once its
last byte is known and its cells are free. -/
def State.settle (s : State) (id : Nat) : State :=
  match s.pkt id with
  | none => s
  | some p =>
    if !p.admitted || s.pk.copies.any (fun c => c.pkt = id) then s
    else
      let s := s.trimCharge p (p.charged - s.outstanding p)
      let s := match s.pkt id with | some q => s.setPkt { q with fromFifo := false } | none => s
      let s := match s.pkt id with | some q => s.releaseVersion q | none => s
      let s := if s.outstanding p = 0 && p.whole then s.dropPkt id else s
      s.xoffSweep p.w.pipe

def State.dropCopy (s : State) (id : Nat) : State :=
  { s with pk := { s.pk with copies := s.pk.copies.filter (fun c => c.id ≠ id) } }

/-- Present every reference that the copy had still to read (R325). Of a packet whose last cell is not written yet, the
pipe presents those of later cells as they are written, since each counts every admitted copy (R294, R295). -/
def State.presentRest (s : State) (c : Copy) : State :=
  match s.pkt c.pkt with
  | some p =>
    let pipe := s.copyPipe c
    let s := if p.last || p.ended then s else s.setPkt { p with gone := p.gone ++ [pipe] }
    (p.cells.drop c.read).foldl (fun s x => s.freeRef x.1 p.w.pipe x.2 pipe) s
  | none => s

/-! ### Children of a port's scheduler (R339, R343, R359) -/

/-- Children of node `n` (0xFF the port) by key: queue q has key q, node m key 16 + m (R339). -/
def State.children (s : State) (port n : Nat) : List Nat :=
  (if n = 0xFF then [] else (List.range 16).filter (fun q =>
    (s.schQueue (queueOf port q)).declared && decide ((s.schQueue (queueOf port q)).parent = n))) ++
  ((List.range 64).filter (fun m => (s.schNode (port * 64 + m)).declared &&
    decide ((s.schNode (port * 64 + m)).parent = n))).map (· + 16)

def depthFuel : Nat := 66

def State.child (s : State) (port key : Nat) : SNode :=
  if key < 16 then s.schQueue (queueOf port key) else s.schNode (port * 64 + (key - 16))

def State.setChild (s : State) (port key : Nat) (x : SNode) : State :=
  if key < 16 then s.setSchQueue (queueOf port key) x else s.setSchNode (port * 64 + (key - 16)) x

def State.curOf (s : State) (port n : Nat) : Option Nat :=
  if n = 0xFF then (s.schRoot port).cur else (s.schNode (port * 64 + n)).cur

/-- A child's turn is in progress: its node's current child, with deficit left (R342). -/
def State.inTurn (s : State) (port key : Nat) : Bool :=
  let x := s.child port key
  s.curOf port x.parent == some key && decide (0 < x.deficit)

/-- SCHED_PORT_STAT.promoted follows the queues. -/
def State.setPromoted (s : State) (port q : Nat) (b : Bool) : State :=
  let f := SCHED_PORT_STAT.promoted port
  s.put f (setBits (s.get f) q 1 (b2n b))

/-- A copy waits in some queue beneath the child. -/
def State.holdsCopy (s : State) (port : Nat) : Nat → Nat → Bool
  | 0, _ => false
  | fuel + 1, key =>
    if key < 16 then !(s.queued (queueOf port key)).isEmpty
    else (s.children port (key - 16)).any (fun c => s.holdsCopy port fuel c)

/-- A child with no copy beneath it has deficit 0; a promotion ends when its bytes are spent or the queue is empty; a
quantum written during a turn applies once the turn is over (R343, R359, R363). -/
def State.afterChoice (s : State) (port : Nat) : List Nat → State
  | [] => s
  | k :: t =>
    let x := s.child port k
    let holds := s.holdsCopy port depthFuel k
    let ends := x.promoted && (!holds || decide (x.promoLeft ≤ 0))
    let isOver := !holds || !s.inTurn port k
    let s := s.setChild port k { x with
      deficit := if holds then x.deficit else 0
      promoted := x.promoted && !ends
      promoLeft := if ends then 0 else x.promoLeft
      quantum := if isOver then x.later.getD x.quantum else x.quantum
      later := if isOver then none else x.later }
    (if ends then s.setPromoted port k false else s).afterChoice port t

/-- Every child of the port whose queues have emptied loses its deficit (R343). -/
def State.settleSched (s : State) (port : Nat) : State :=
  s.afterChoice port ((List.range 16) ++ ((List.range 64).filter (fun m => (s.schNode (port * 64 + m)).declared)).map (· + 16))

/-- Queue `q` of a port has lost a waiting copy; once it holds none its deficit and its promotion end. -/
def State.queueLost (s : State) (q : Nat) : State :=
  if isPortQueue q && (s.queued q).isEmpty then s.settleSched (q / 16) else s

/-- Remove a copy for good, its remaining references presented. -/
def State.removeCopy (s : State) (c : Copy) : State :=
  let s := (s.presentRest c).dropCopy c.id
  (if c.at' = .queued then s.queueLost c.queue else s).settle c.pkt

def State.countQueueDrop (s : State) (q : Nat) : State :=
  { s with buf := { s.buf with queueDrops := smPut natZero s.buf.queueDrops q (satAdd 32 (smGet natZero s.buf.queueDrops q) 1) } }

/-- Remove a copy that does not depart; its tenant's drop meters count it (R373), and its last pass ends here. -/
def State.discardCopy (s : State) (c : Copy) : State :=
  let s := s.countNotes c.w.notes
  let s := match s.pkt c.pkt with | some p => s.meterRemoved p | none => s
  s.removeCopy c

/-- Flush one queued copy (R325). -/
def State.flushCopy (s : State) (c : Copy) : State :=
  let s := s.bump (BUF_PIPE_STAT3.flush_drops (s.copyPipe c)) 1
  (s.countQueueDrop c.queue).discardCopy c

def State.flushCopies (s : State) (l : List Copy) : State := l.foldl (fun s c => match s.copy c.id with
  | some d => s.flushCopy d
  | none => s) s

def State.flushQueue (s : State) (q : Nat) : State := s.flushCopies (s.queued q)

def State.flushPort (s : State) (p : Nat) : State :=
  s.flushCopies (s.pk.copies.filter (fun c => c.at' = .queued && isPortQueue c.queue && c.queue / 16 = p))

/-! ### Writing cells (R292-R294, R302, R312) -/

/-- Bytes of the packet's next cell, once the cell can be written. -/
def nextCell (p : Pkt) : Option (Nat × Bool) :=
  let i := p.cells.length
  if p.last || p.ended || !p.admitted then none
  else if p.whole && p.bytes.length ≤ 256 * (i + 1) then some (p.bytes.length - 256 * i, true)
  else if 256 * (i + 1) ≤ p.bytes.length then some (256, false)
  else none

/-- The state word of a new cell (R293, R294). -/
def cellWord (refs owner epoch bytes : Nat) (last : Bool) : Nat :=
  refs + owner * 2 ^ 11 + epoch * 2 ^ 16 + b2n last * 2 ^ 20 + (bytes - 1) * 2 ^ 46

/-- The previous cell's chain fields name the new one. -/
def State.chainCell (s : State) (prev : Option (Nat × Nat)) (ptr epoch : Nat) : State :=
  match prev with
  | some (q, _) => s.setCell q (setBits (setBits (s.cell q) 21 21 ptr) 42 4 epoch)
  | none => s

/-- The queue, the nodes above it and the port have credit. `fuel` bounds the nodes above. -/
def State.pathCredit (s : State) (port : Nat) : Nat → Nat → Bool
  | 0, _ => hasCredit (s.rootProfile port) (s.schRoot port).bucket s.clk
  | fuel + 1, n =>
    if n = 0xFF then hasCredit (s.rootProfile port) (s.schRoot port).bucket s.clk
    else
      let x := s.schNode (port * 64 + n)
      hasCredit (s.profile x.profile) x.bucket s.clk && s.pathCredit port fuel x.parent

/-- The copy may depart in cut-through, judged when its packet's first cell is written (R43). An injected packet has no
ingress port whose rate could be compared. The image format of 02_structure_image.md has no field that marks an egress
routine as needing the whole frame, so no routine is marked (DESIGN CHOICE, notes/assumptions/77.md). -/
def State.cutThrough (s : State) (p : Pkt) (c : Copy) : Bool :=
  let port := c.queue / 16
  let x := s.schQueue c.queue
  isPortQueue c.queue && s.portRate port ≤ s.portRate p.port && !p.w.injected &&
  (s.queued c.queue).all (fun d => d.pkt = p.id || c.id < d.id) &&
  s.gateOpen port (c.queue % 16) s.wrapNow && hasCredit (s.profile x.profile) x.bucket s.clk &&
  s.pathCredit port 65 x.parent

/-- Mark the packet's copies that may depart in cut-through. -/
def State.markCut (s : State) (p : Pkt) : State :=
  { s with pk := { s.pk with copies := s.pk.copies.map (fun c => if c.pkt = p.id then { c with cut := s.cutThrough p c } else c) } }

/-- Packets that pipe `p` has admitted. -/
def State.packetCount (s : State) (p : Nat) : Nat := smGet natZero s.buf.packets p

/-- The group of pipe `p`'s next cell (R292): of the groups with a pointer in its cache, the previous cell's left out,
the one whose next pointer names the bank set with the fewest waiting accesses, the first in rotating order from
(pipe + packet count) mod 32 on a tie. `waiting` gives the accesses that wait for bank set k of group g at 8g + k. -/
def State.chooseGroup (s : State) (p : Nat) (prev : Option Nat) (waiting : List Nat) : Option Nat :=
  let order := (List.range 32).map (fun i => (p + s.packetCount p + i) % 32)
  let e := order.filter (fun g => !(s.ptrs p g).isEmpty && prev ≠ some g)
  let load (g : Nat) : Nat := nth waiting (8 * g + cellBankSet (ptrCell ((s.ptrs p g).headD 0)))
  match e with
  | [] => none
  | g :: t => some (t.foldl (fun b h => if load h < load b then h else b) g)

/-- The 64 bytes at a row of bank `b` of tile `i` of group `g`: quarter `i` of the cell there, as far as a packet's
bytes fill it (R39, R290); none while no packet holds the cell. -/
def State.bankRow (s : State) (g i b row : Nat) : Option (List Byte) :=
  let ptr := g * 65536 + 8 * row + b
  let holds (p : Pkt) : Option Nat := p.cells.findIdx? (fun x => x.1 = ptr && x.2 = cellEpoch (s.cell ptr))
  (s.pk.pkts.find? (fun p => (holds p).isSome)).bind (fun p =>
    (holds p).map (fun n => ((p.bytes.drop (256 * n + 64 * i)).take 64)))

/-- Write the packet's next cell, of `n` bytes, at pointer `ptr` (R294): the word counts every admitted copy, and the
copies removed since present their references at once. A pass that recirculates counts no cell (R372). -/
def State.putCell (s : State) (p : Pkt) (ptr n : Nat) (last : Bool) : State :=
  let e := (cellEpoch (s.cell ptr) + 1) % 16
  let s := (s.setCell ptr (cellWord p.copies p.w.pipe e n last)).chainCell p.cells.getLast? ptr e
  let beyond := decide (p.reserved ≤ p.cells.length)
  let s := if beyond then (s.charge p.charge 1).bump (BUF_PIPE_STAT4.resv_over p.w.pipe) 1 else s
  let p := { p with
    cells := p.cells ++ [(ptr, e)], last := last, charged := p.charged + b2n beyond
    crossed := max p.crossed (min p.bytes.length (256 * (p.cells.length + 1))) }
  let s := s.setPkt p
  let s := if mdRecirc p.w.md then s else s.perf (perfBlock p.w.pipe 36) 0x0C p.w.attr 1
  let s := if last then s.trimCharge p (p.reserved - p.cells.length) else s
  let s := if p.cells.length = 1 then s.markCut p else s
  p.gone.foldl (fun s pipe => s.freeRef ptr p.w.pipe e pipe) s

/-- Bytes of the packet's next cell have not yet crossed to the core die. -/
def toCross (p : Pkt) : Bool := p.fromFifo && decide (p.crossed < min p.bytes.length (256 * (p.cells.length + 1)))

/-- Channel cells that carry the next cell of a frame still crossing to the core die. -/
def State.crossCell (s : State) (p : Pkt) : State :=
  if toCross p then s.chCross p.w.pipe false p.via (.cell p.port (p.via = 1)) 1 else s

/-- Packet `id`'s next cell can be written now: a copy still needs it, the pipe's slots run, and the cell has crossed or
can cross the channel. -/
def State.mayWrite (s : State) (p : Pkt) : Bool :=
  s.pk.copies.any (fun c => c.pkt = p.id) && s.slotsRun p.w.pipe &&
  (!toCross p || s.chReady p.w.pipe false p.via)

/-- Write the next cell of packet `id`, at the next pointer of the group that R292 chooses. -/
def State.cellWrite (s : State) (id : Nat) (waiting : List Nat) : State :=
  match s.pkt id with
  | none => s
  | some p =>
    match nextCell p, s.chooseGroup p.w.pipe (p.cells.getLast?.map (fun x => ptrGroup x.1)) waiting with
    | some (n, last), some g =>
      if s.mayWrite p then
        let l := s.ptrs p.w.pipe g
        let s := s.crossCell p
        ((s.setPtrs p.w.pipe g (l.drop 1)).putCell p (l.headD 0) n last).xoffSweep p.w.pipe
      else s
    | _, _ => s

/-- The accesses that wait at each bank set, from the writes and the reads that do. -/
def waitingAt (writes reads : List Nat) : List Nat := (List.range 256).map (fun i => nth writes i + nth reads i)

def execCellWrite (id : Nat) (writes reads : List Nat) (s : State) : Host.Outcome State Fault Refusal :=
  .next (s.cellWrite id (waitingAt writes reads))

/-- No pointer anywhere: every cache and sub-ring is empty. -/
def State.noPointers (s : State) : Bool :=
  s.buf.cache.all (fun x => x.2.isEmpty) && (List.range 32).all (fun g => s.subring g = 0)

/-! ### The Rake (R298-R302) -/

def rakeBlock : Nat := perfBlock 32 5

def State.rakeMoved (s : State) (p n : Nat) : State := s.perf rakeBlock 0x0E { pipe := some p } n

/-- The free ring as the Rake first fills it: every pointer that images may use is in its sub-ring, in rising order
(DESIGN CHOICE, notes/assumptions/64.md). -/
def State.initRing (s : State) : State :=
  if s.buf.ringInit then s
  else
    let s := (List.range 32).foldl (fun s g => s.setRuns g [(g * 65536, groupCells g)]) s
    { s with buf := { s.buf with ringInit := true } }

/-- One request to sub-ring `g`: the list fills to 48, or sees NO_CELL (R299, R301). -/
def State.refillOne (s : State) (g p : Nat) : State :=
  if 16 ≤ s.cached p g then s
  else
    let n := min (48 - s.cached p g) (s.subring g)
    if n = 0 then (s.bump (BUF_PIPE_STAT3.no_cell p) 1).bump BUF_RAKE_STAT.no_cell 1
    else
      let (l, r) := takeRuns n (s.runs g)
      let s := (s.setPtrs p g (s.ptrs p g ++ l)).setRuns g r
      let s := { s with buf := { s.buf with grant := smPut natZero s.buf.grant g ((p + 1) % 32) } }
      s.rakeMoved p n

/-- A list above 56 returns to 48: those behind go back to the sub-ring (R299; which of them is a DESIGN CHOICE,
notes/assumptions/64.md). -/
def State.trimOne (s : State) (g p : Nat) : State :=
  if s.cached p g ≤ 56 then s
  else
    let l := s.ptrs p g
    ((s.setPtrs p g (l.take 48)).setRuns g (putRuns (s.runs g) (l.drop 48))).rakeMoved p (l.length - 48)

/-- Requests of one CCLK to sub-ring `g`, from the pipe that the grant pointer names on (R301). -/
def State.rakeRefill (s : State) (g : Nat) (requests trims : List Nat) : State :=
  if !s.seqRuns 1 then s
  else
    let s := s.initRing
    let order := (List.range 32).map (fun i => (smGet natZero s.buf.grant g + i) % 32)
    let s := (order.filter requests.contains).foldl (fun s p => s.refillOne g p) s
    ((List.range 32).filter trims.contains).foldl (fun s p => s.trimOne g p) s

def execRakeRefill (group : Fin 32) (requests trims : List (Fin 32)) (s : State) : Host.Outcome State Fault Refusal :=
  .next (s.rakeRefill group (requests.map (·.val)) (trims.map (·.val)))

/-- The fullest list of any pipe but `p`, as its key and length; the lowest on a tie. -/
def State.fullest (s : State) (p : Nat) : Option (Nat × Nat) :=
  ((s.buf.cache.map (·.1)).filter (fun k => k / 32 ≠ p)).foldl (fun b k =>
    let n := s.cached (k / 32) (k % 32)
    match b with
    | none => some (k, n)
    | some y => if y.2 < n then some (k, n) else some y) none

/-- Half of the fullest list of another pipe moves to a stalled pipe, rounded up (R302); those behind move. -/
def State.rakeRebalance (s : State) (p : Nat) : State :=
  if !s.seqRuns 1 || (List.range 32).any (fun g => s.cached p g ≠ 0) then s
  else
    match s.fullest p with
    | some (k, n) =>
      let m := (n + 1) / 2
      let l := s.ptrs (k / 32) (k % 32)
      let s := (s.setPtrs (k / 32) (k % 32) (l.take (n - m))).setPtrs p (k % 32) (l.drop (n - m))
      (s.bump BUF_RAKE_STAT.rebalances 1).rakeMoved p m
    | none => s

def execRakeRebalance (pipe : Fin 32) (s : State) : Host.Outcome State Fault Refusal := .next (s.rakeRebalance pipe)

/-- The caches of a stopped or reset pipe go back to the sub-rings (R326). -/
def State.returnCaches (s : State) (p : Nat) : State :=
  (List.range 32).foldl (fun s g => (s.setRuns g (putRuns (s.runs g) (s.ptrs p g))).setPtrs p g []) s

/-! ### Stopping ports (R324) -/

/-- BUF_PORT_CFGp.stop is set: the drain starts; with drain_us 0 the queues are flushed at once. -/
def State.portStop (s : State) (p : Nat) : State :=
  let s := s.put (BUF_PORT_CFG.stop p) 1
  if s.get (BUF_PORT_CFG2.drain_us p) = 0 then s.flushPort p
  else { s with buf := { s.buf with drains := s.buf.drains.filter (fun x => x.1 ≠ p) ++ [(p, s.clk)] } }

def execPortStop (port : Fin 1024) (s : State) : Host.Outcome State Fault Refusal := .next (s.gatedWrite (fun s => s.portStop port))

def State.portStopClear (s : State) (p : Nat) : State :=
  let s := s.put (BUF_PORT_CFG.stop p) 0
  { s with buf := { s.buf with drains := s.buf.drains.filter (fun x => x.1 ≠ p) } }

def execPortStopClear (port : Fin 1024) (s : State) : Host.Outcome State Fault Refusal := .next (s.gatedWrite (fun s => s.portStopClear port))

/-- drain_us has passed since the stop: what remains is flushed. -/
def State.stopDrainEnd (s : State) (p : Nat) : State :=
  match s.buf.drains.find? (fun x => x.1 = p) with
  | some x =>
    if x.2 + s.get (BUF_PORT_CFG2.drain_us p) * clkPerUs ≤ s.clk then
      ({ s with buf := { s.buf with drains := s.buf.drains.filter (fun x => x.1 ≠ p) } }).flushPort p
    else s
  | none => s

def execStopDrainEnd (port : Fin 1024) (s : State) : Host.Outcome State Fault Refusal := .next (s.stopDrainEnd port)

/-! ### Changing limits (R328, R329) -/

def State.bufSnap (s : State) : BufSnap :=
  { sizes := (List.range 8).map (fun k => s.get (BUF_POOL_CFG.size k))
    codes := (List.range 8).map (fun k => s.get (BUF_POOL_CFG.code k))
    quotas := s.buf.quotaStaged, heads := s.buf.headStaged
    resv := s.get BUF_G_CFG.resv_cells, classPool := s.get BUF_G_CFG.class_pool }

/-- BUF_CTL.apply: the staged values are taken and the check runs. -/
def State.bufApply (s : State) : State :=
  if s.flag (esBusy BUF_ENABLE_STATUS.regOff) then s
  else
    let snap := s.bufSnap
    ({ s with buf := { s.buf with snap := some snap } }).startCheck BUF_ENABLE_STATUS.regOff .buffer []

def execBufApply (s : State) : Host.Outcome State Fault Refusal := .next (s.gatedWrite State.bufApply)

def totalCells : Nat := 1548288

def validCells (l : List (Nat × QuotaVal)) : Nat := sumNat (l.map (fun x => if x.2.valid then x.2.cells else 0))

/-- The first key, ascending, that fails. -/
def firstKey (l : List Nat) (bad : Nat → Bool) : Option Nat := minNat? (l.filter bad)

/-- A headroom record does not fit its port (0x0507). -/
def State.headPortBad (s : State) (k cells : Nat) : Bool :=
  match s.mapRec (k / 4) with
  | some r => if r.link = 2 then cells < 64 || 65535 < cells else !r.pfc
  | none => true

def someReason (r : Nat) (o : Option Nat) (f : Nat → Nat) : Bool × Nat × Nat :=
  match o with | some k => (true, r, f k) | none => (false, r, 0)

/-- The judgement of an apply (R329). -/
def State.bufReason (s : State) (b : BufSnap) : Option (Nat × Nat) :=
  let q (k : Nat) : QuotaVal := smGet quotaDefault b.quotas k
  let h (k : Nat) : QuotaVal := smGet quotaDefault b.heads k
  let granted (v : QuotaVal) : Nat := if v.valid then v.cells else 0
  let quotaPoolBad := firstKey (b.quotas.map (·.1)) (fun k => (q k).valid && nth b.sizes (q k).overflow = 0)
  let classBad := firstKey [0, 1, 2, 3] (fun c => nth b.sizes (bitsOf b.classPool (3 * c) 3) = 0)
  firstReason [
    (!s.imageActive, 0x501, 0),
    (totalCells < sumNat b.sizes + validCells b.quotas + validCells b.heads, 0x502, 0),
    someReason 0x503 (firstKey (List.range 8) (fun k => nth b.sizes k < s.get (BUF_POOL_STAT.used k))) id,
    someReason 0x504 (firstKey (List.range 8) (fun k => 12 ≤ nth b.codes k)) id,
    someReason 0x505 (firstKey (s.buf.quotaUsed.map (·.1)) (fun k => granted (q k) < s.quotaUsed k)) id,
    (match quotaPoolBad with
      | some k => (true, 0x506, k)
      | none => someReason 0x506 classBad (· + 16384)),
    someReason 0x507 (firstKey (b.heads.map (·.1)) (fun k => (h k).valid && s.headPortBad k (h k).cells)) (· / 4),
    someReason 0x508 (firstKey (s.buf.headUsed.map (·.1)) (fun k => granted (h k) < s.headUsed k)) (· / 4),
    (b.resv = 0 || 64 < b.resv, 0x509, 0)]

/-- An accepted apply: the values taken become active. -/
def State.bufAccepted (s : State) (b : BufSnap) : State :=
  let s := (List.range 8).foldl (fun s k => s.puts [(BUF_POOL_STAT.size_active k, nth b.sizes k),
    (BUF_POOL_STAT.code_active k, nth b.codes k)]) s
  let s := s.puts [(BUF_G_ACTIVE.resv_cells, b.resv), (BUF_G_ACTIVE.class_pool, b.classPool)]
  { s with buf := { s.buf with quotaActive := b.quotas, headActive := b.heads, snap := none } }

/-! ### The indirect interface (R309, R333) -/

/-- Begin an indirect command: busy until it completes; ignored while one runs. -/
def State.beginInd (s : State) (key : Nat) (busy : Fld) (write : Bool) (addr : Nat) (data : List Nat) : State :=
  if s.flag busy then s
  else
    let s := s.put busy 1
    { s with pk := { s.pk with ind := s.pk.ind ++ [⟨key, write, addr, data⟩] } }

def State.bufIndGo (s : State) (write : Bool) : State :=
  s.beginInd BUF_IND_CMD.regOff BUF_IND_CMD.busy write (s.raw BUF_IND_ADDR.regOff).toNat
    [(s.raw (BUF_IND_DATA.regOff 0)).toNat, (s.raw (BUF_IND_DATA.regOff 1)).toNat]

def execBufIndWrite (s : State) : Host.Outcome State Fault Refusal := .next (s.gatedWrite (fun s => s.bufIndGo true))

def execBufIndRead (s : State) : Host.Outcome State Fault Refusal := .next (s.gatedWrite (fun s => s.bufIndGo false))

/-- Items of a target of R333. -/
def bufTargetSize (t : Nat) : Nat :=
  match t with
  | 0 => 16384
  | 1 => 4096
  | 2 => 16704
  | 3 => 16704
  | 4 => 2 ^ 21
  | 5 => 16384
  | 6 => 262144
  | _ => 0

/-- The command is refused with 0x050A. -/
def bufIndBad (j : IndJob) : Bool :=
  let t := bitsOf j.addr 21 3
  let i := bitsOf j.addr 0 21
  let d := nth j.data 0
  bufTargetSize t ≤ i || (t = 4 && ptrInvalid i) || (j.write && (t = 3 || t = 4)) ||
  (j.write && t = 5 && 262144 < bitsOf d 0 18 + bitsOf d 18 11)

def quotaOf (d : Nat) : QuotaVal := ⟨bitsOf d 0 21, bitsOf d 21 3, bitAt d 24⟩

def headOf (d : Nat) : QuotaVal := ⟨bitsOf d 0 21, 0, bitAt d 21⟩

/-- A write's effect. -/
def State.bufIndWrite (s : State) (t i d : Nat) : State :=
  match t with
  | 0 => { s with buf := { s.buf with quotaStaged := smPut quotaDefault s.buf.quotaStaged i (quotaOf d) } }
  | 1 => { s with buf := { s.buf with headStaged := smPut quotaDefault s.buf.headStaged i (headOf d) } }
  | 2 => { s with buf := { s.buf with ecnThr := smPut natZero s.buf.ecnThr i (bitsOf d 0 21) } }
  | 5 => { s with buf := { s.buf with groups := smPut natZero s.buf.groups i (bitsOf d 0 30) } }
  | 6 => { s with buf := { s.buf with entries := smPut natZero s.buf.entries i (bitsOf d 0 32) } }
  | _ => s

/-- The data registers that a read fills. -/
def State.bufIndItem (s : State) (t i : Nat) : Nat × Nat :=
  match t with
  | 0 =>
    let q := smGet quotaDefault s.buf.quotaStaged i
    let a := s.quota i
    (q.cells + q.overflow * 2 ^ 21 + b2n q.valid * 2 ^ 24 + s.quotaUsed i * 2 ^ 25,
     a.cells + a.overflow * 2 ^ 21 + b2n a.valid * 2 ^ 24)
  | 1 =>
    let q := smGet quotaDefault s.buf.headStaged i
    let a := smGet quotaDefault s.buf.headActive i
    (q.cells + b2n q.valid * 2 ^ 21 + s.headUsed i * 2 ^ 22 + b2n (s.xoffOf i ≠ 0) * 2 ^ 43,
     a.cells + b2n a.valid * 2 ^ 21 + smGet natZero s.buf.headDrops i * 2 ^ 32)
  | 2 => (smGet natZero s.buf.ecnThr i, 0)
  | 3 => (s.depth i + s.qocc i * 2 ^ 21 + (s.queued i).length * 2 ^ 42,
          smGet natZero s.buf.queueMarked i + smGet natZero s.buf.queueDrops i * 2 ^ 32)
  | 4 => (s.cell i, 0)
  | 5 => (smGet natZero s.buf.groups i, 0)
  | 6 => (smGet natZero s.buf.entries i, 0)
  | _ => (0, 0)

/-- A buffer indirect command completes (R629). -/
def State.bufIndDone (s : State) (j : IndJob) : State :=
  let bad := bufIndBad j
  let t := bitsOf j.addr 21 3
  let i := bitsOf j.addr 0 21
  let s := if bad then s
    else if j.write then s.bufIndWrite t i (nth j.data 0)
    else
      let (a, b) := s.bufIndItem t i
      (s.setRaw (BUF_IND_DATA.regOff 0) (BitVec.ofNat 64 a)).setRaw (BUF_IND_DATA.regOff 1) (BitVec.ofNat 64 b)
  s.puts [(BUF_IND_CMD.refused, b2n bad), (BUF_IND_CMD.reason, if bad then 0x50A else 0), (BUF_IND_CMD.busy, 0)]

/-! ### Registers computed when read (R331, R334, R336) -/

def State.chargedCells (s : State) : Nat :=
  sumNat ((List.range 8).map (fun k => s.get (BUF_POOL_STAT.used k))) + sumNat (s.buf.quotaUsed.map (·.2)) +
  sumNat (s.buf.headUsed.map (·.2))

def State.bufStatus (s : State) : Nat :=
  (totalCells - s.chargedCells - s.buf.bad.length) % 2 ^ 21 +
  (1048576 - (s.pk.pkts.filter (fun p => p.admitted && p.charge ≠ .none)).length) * 2 ^ 21 +
  (2097152 - s.pk.copies.length) * 2 ^ 42

def State.ringFill (s : State) (g : Nat) : Nat :=
  s.subring g + sumNat ((List.range 32).map (fun p => s.cached p g)) * 2 ^ 16 + groupCells g * 2 ^ 32

def State.cacheFill (s : State) (p : Nat) : Nat := sumNat ((List.range 32).map (fun g => s.cached p g))

end Sys2Proof.Machine
end

