-- ==== Sys2Proof/Machine/Time.lean ====
section
/-! DEFINITION. Device time, the servo, fabric time, pulse outputs and capture inputs (13_time.md). -/

namespace Sys2Proof.Machine

/-! ### The count (R486) -/

/-- The frequency word, signed. -/
def State.freq (s : State) : Int := signed 32 (s.get TIME_FREQ.freq)

def State.integ (s : State) : Int := signed 32 (s.get TIME_FREQ.integ)

/-- Quarter units that one TCLK cycle adds: 5 x (2^40 + freq). -/
def State.quarters (s : State) : Nat := (5 * ((2 ^ 40 : Int) + s.freq)).toNat

/-- One TCLK cycle of device time: the whole part is added and the quarters are carried (R486). -/
def State.tickTime (s : State) : State :=
  let q := s.time.quarter + s.quarters
  { s with time := { s.time with total := (s.time.total + q / 4) % timeModulus, quarter := q % 4 } }

/-! ### Set and step (R488, R494, R500) -/

def State.pulse (s : State) (k : Nat) : Option Pulse := smGet (fun _ => none) s.time.pulses k

def State.setPulse (s : State) (k : Nat) (p : Option Pulse) : State :=
  { s with time := { s.time with pulses := smPut (fun _ => none) s.time.pulses k p } }

/-- A pulse output's compare: the target in full nanoseconds has been reached by the sign of the 48-bit difference of
wrap times (R31). -/
def timeReached (now target : Nat) : Bool := wrapReached (now % 2 ^ 48) (target % 2 ^ 48)

/-- The first grid edge start + i x period later than `now` (R500); the start itself while it lies ahead. -/
def gridAfter (start period now : Nat) : Nat :=
  if now < start && !timeReached now start then start
  else now + ((period : Int) - ((now : Int) - (start : Int)) % (period : Int)).toNat

/-- A pulse output after device time changed to `new` nanoseconds (R500): a one-shot whose start the change has passed
emits its pulse at once. -/
def pulseStepped (new : Nat) (p : Pulse) : Pulse :=
  if p.high then p
  else if p.mode = 2 then { p with next := gridAfter p.start p.period new }
  else if !p.fired && timeReached new p.next then { p with next := new }
  else p

/-- Device time takes a new value: waiting samples are discarded, outputs continue under
R500, and tide gates follow it under R357 (R488, R494). -/
def State.setTime (s : State) (total : Nat) : State :=
  let n := s.time.samples.length
  let t := total % timeModulus
  let new := t / nsUnits
  let s := s.bump TIME_STAT.samples_ignored n
  let s := { s with time := { s.time with
    total := t, samples := [], stepped := true
    pulses := s.time.pulses.map (fun (x : Nat × Option Pulse) => (x.1, x.2.map (pulseStepped new))) } }
  s.gatesStepped

/-- Add `x` in 2^-16 ns to device time. -/
def State.stepTime (s : State) (x : Int) : State :=
  s.setTime ((((s.time.total : Int) + x * 2 ^ 24) % (timeModulus : Int)).toNat)

def execTimeSet (s : State) : Host.Outcome State Fault Refusal :=
  .next (s.startCheck TIME_ENABLE_STATUS.regOff .timeSet
    [s.get TIME_SET0.sec, s.get TIME_SET0.frac, s.get TIME_SET1.ns])

def execTimeStep (s : State) : Host.Outcome State Fault Refusal :=
  .next (s.startCheck TIME_ENABLE_STATUS.regOff .timeStep [s.get TIME_STEP.step])

/-- Reading TIME_NOW0 latches seconds, nanoseconds and fraction together (R487). -/
def State.latchNow (s : State) : State :=
  s.puts [(TIME_NOW0.sec, fullSec s.nowNs), (TIME_NOW0.frac, s.now16), (TIME_NOW1.ns, fullNano s.nowNs)]

def execTimeNowRead (s : State) : Host.Outcome State Fault Refusal :=
  let t := s.latchNow
  .next { t with readVal := t.raw TIME_NOW0.regOff }

/-! ### The servo (R493, R494) -/

def execServoEnable (s : State) : Host.Outcome State Fault Refusal :=
  .next (s.startCheck TIME_ENABLE_STATUS.regOff .servo [])

/-- servo_dis: samples that wait are discarded (R494). -/
def State.servoDisable (s : State) : State :=
  let s := s.bump TIME_STAT.samples_ignored s.time.samples.length
  let s := { s with time := { s.time with samples := [] } }
  let s := s.put TIME_STATUS.servo_en 0
  if s.flag TIME_STATUS.fab_en then s else s.put TIME_STATUS.source 0

def execServoDisable (s : State) : Host.Outcome State Fault Refusal :=
  .next s.servoDisable

/-- The source is fabric: FABRIC (2). FABRIC_SOURCE takes host samples (R497). -/
def State.fabricDriven (s : State) : Bool := s.get TIME_STATUS.source = 2

/-- A write to TIME_OFFSET: at most 4 host samples wait (R494). -/
def State.hostSample (s : State) (data : Word) : State :=
  if s.flag TIME_STATUS.servo_en && !s.fabricDriven && s.time.samples.length < 4 then
    { s with time := { s.time with samples := s.time.samples ++ [signed 64 data.toNat] } }
  else s.bump TIME_STAT.samples_ignored 1

def execHostOffsetSample (data : Word) (s : State) : Host.Outcome State Fault Refusal :=
  .next (s.hostSample data)

/-- The bound of max_ppm in 2^-40 (R493). -/
def State.ppmBound (s : State) : Int := ((s.get TIME_SERVO_CFG.max_ppm * 2 ^ 40 / 10 ^ 6 : Nat) : Int)

/-- One sample `x` in 2^-16 ns with interval `t` in ns (R493). Divisions truncate toward zero. -/
def State.servoApply (s : State) (x : Int) (t : Nat) : State :=
  let s := (s.bump TIME_STAT.samples 1).put TIME_LAST_OFS.offset (toBits 64 x)
  let thr := s.get TIME_SERVO_THR.step_thr_ns
  if thr ≠ 0 && thr * 2 ^ 16 < x.natAbs then
    let s := (s.stepTime x).bump TIME_STAT.steps 1
    { (s.put TIME_STATUS.locked 0) with time := { (s.put TIME_STATUS.locked 0).time with lockRun := 0 } }
  else
    let b := s.ppmBound
    let xi := x * 2 ^ 24
    let integ := clampInt (-b) b (s.integ + xi.tdiv ((t * 2 ^ s.get TIME_SERVO_CFG.ki_shift : Nat) : Int))
    let freq := clampInt (-b) b (integ + xi.tdiv ((t * 2 ^ s.get TIME_SERVO_CFG.kp_shift : Nat) : Int))
    let s := s.puts [(TIME_FREQ.integ, toBits 32 integ), (TIME_FREQ.freq, toBits 32 freq)]
    if x.natAbs ≤ s.get TIME_SERVO_THR.lock_thr_ns * 2 ^ 16 then
      let run := min (s.time.lockRun + 1) 255
      let s := { s with time := { s.time with lockRun := run } }
      if s.get TIME_SERVO_THR.lock_count ≤ run then s.put TIME_STATUS.locked 1 else s
    else
      let s := if s.flag TIME_STATUS.locked then s.bump TIME_STAT.lock_losses 1 else s
      let s := { s with time := { s.time with lockRun := 0 } }
      s.put TIME_STATUS.locked 0

/-- The waiting sample is applied: a fabric sample of the present parent, or the oldest host sample (R493, R494). -/
def State.servoSample (s : State) : State :=
  if !s.flag TIME_STATUS.servo_en then s
  else if s.fabricDriven then
    match s.time.fab with
    | some f =>
      let s := { s with time := { s.time with fab := none } }
      if s.flag TIME_STATUS.parent_valid && s.get TIME_STATUS.parent = f.port then
        s.servoApply f.offset (s.get TIME_FAB_CFG.interval_us * 1000)
      else s
    | none => s
  else
    match s.time.samples with
    | x :: rest =>
      ({ s with time := { s.time with samples := rest } }).servoApply x
        (s.get TIME_SERVO_CFG.sample_ms * 1000000)
    | [] => s

def execServoSample (s : State) : Host.Outcome State Fault Refusal :=
  .next s.servoSample

/-! ### Fabric time (R496-R498) -/

def execFabTimeEnable (s : State) : Host.Outcome State Fault Refusal :=
  .next (s.startCheck TIME_ENABLE_STATUS.regOff .fabTime [])

/-- fab_dis: no parent, no time links; the source is host or free again. -/
def State.fabDisable (s : State) : State :=
  let s := s.puts [(TIME_STATUS.fab_en, 0), (TIME_STATUS.holdover, 0), (TIME_STATUS.distance, 15),
    (TIME_STATUS.parent_valid, 0), (TIME_STATUS.parent, 0),
    (TIME_STATUS.source, s.get TIME_STATUS.servo_en)]
  { s with time := { s.time with links := [], fab := none } }

def execFabTimeDisable (s : State) : Host.Outcome State Fault Refusal :=
  .next s.fabDisable

/-- Candidate order of R497: (src_prio, src_chip, distance, port), self at distance -1 (here 0, others + 1). -/
def candKey (l : TimeLink) : Nat :=
  ((l.srcPrio * 1024 + l.srcChip) * 32 + (l.distance + 1)) * 1024 + l.port

/-- Candidates C: source_valid, distance below 14 and not our child. -/
def timeCandidates (links : List TimeLink) : List TimeLink :=
  links.filter (fun l => l.sourceValid && decide (l.distance < 14) && !l.parentFlag)

def bestLink (l : List TimeLink) : Option TimeLink :=
  l.foldl (fun b x => match b with
    | none => some x
    | some y => if candKey x < candKey y then some x else some y) none

/-- Own candidate key, as (prio, own chip, distance -1). -/
def State.selfKey (s : State) : Nat :=
  (s.get TIME_FAB_CFG.prio * 1024 + s.get PL_FAB_CFG.chip_id) * 32 * 1024

/-- A new parent: lock_run restarts (R497). -/
def State.takeParent (s : State) (l : TimeLink) : State :=
  let same := s.flag TIME_STATUS.parent_valid && s.get TIME_STATUS.parent = l.port
  let s := if same then s else { s with time := { s.time with lockRun := 0, fab := none } }
  s.puts [(TIME_STATUS.source, 2), (TIME_STATUS.parent, l.port), (TIME_STATUS.parent_valid, 1),
    (TIME_STATUS.distance, l.distance + 1), (TIME_STATUS.holdover, 0)]

/-- Choose the source (R497). In holdover, freq stays at integ and locked clears. -/
def State.fabSelect (s : State) : State :=
  let best := bestLink (timeCandidates s.time.links)
  let self := s.flag TIME_FAB_CFG.source
  match best with
  | none =>
    if self then
      s.puts [(TIME_STATUS.source, 3), (TIME_STATUS.distance, 0), (TIME_STATUS.parent_valid, 0),
        (TIME_STATUS.holdover, 0)]
    else
      let s := s.puts [(TIME_STATUS.parent_valid, 0), (TIME_STATUS.distance, 15), (TIME_STATUS.holdover, 1),
        (TIME_STATUS.locked, 0), (TIME_FREQ.freq, s.get TIME_FREQ.integ)]
      { s with time := { s.time with fab := none } }
  | some l =>
    if self && s.selfKey < candKey l then
      s.puts [(TIME_STATUS.source, 3), (TIME_STATUS.distance, 0), (TIME_STATUS.parent_valid, 0),
        (TIME_STATUS.holdover, 0)]
    else s.takeParent l

def State.linkOf (s : State) (p : Nat) : Option TimeLink := s.time.links.find? (fun l => l.port = p)

def State.setLink (s : State) (l : TimeLink) : State :=
  { s with time := { s.time with links := s.time.links.filter (fun x => x.port ≠ l.port) ++ [l] } }

/-- Full time in 2^-16 ns as 12 bytes: seconds (6), nanoseconds (4), fraction (2) (R496). -/
def fullBytes (t : Nat) : List Byte :=
  beBytes 6 (fullSec (t / 65536)) ++ beBytes 4 (fullNano (t / 65536)) ++ beBytes 2 (t % 65536)

/-- Wrap-time form: nanoseconds (6), fraction (2). -/
def wrapBytes (t : Nat) : List Byte := beBytes 6 (t / 65536 % 2 ^ 48) ++ beBytes 2 (t % 65536)

/-- A timestamp at port `p`: device time plus the port's adjustment in 0.25 ns units (R489). -/
def State.stamp (s : State) (adj : Nat) : Nat := ((s.now16 : Int) + signed 16 adj * 2 ^ 14).toNat

/-- The source this chip offers: chip, priority, validity (R496). -/
def State.ownSource (s : State) : Bool × Nat × Nat :=
  if s.get TIME_STATUS.source = 3 then (true, s.get PL_FAB_CFG.chip_id, s.get TIME_FAB_CFG.prio)
  else if s.get TIME_STATUS.source = 2 && s.flag TIME_STATUS.parent_valid then
    match s.linkOf (s.get TIME_STATUS.parent) with
    | some l => (true, l.srcChip, l.srcPrio)
    | none => (false, 0, 0)
  else (false, 0, 0)

/-- The TIME item sent on port `p` (R496). -/
def State.timeItem (s : State) (p : Nat) : List Byte :=
  let (valid, chip, prio) := s.ownSource
  let parent := s.flag TIME_STATUS.parent_valid && s.get TIME_STATUS.parent = p
  let flags := b2n valid + 2 * b2n parent + 4 * s.get TIME_STATUS.locked
  let seq := smGet (fun _ => 0) s.time.sent p % 256
  let echo := s.linkOf p
  let (eSeq, eTx, eRx) := match echo with | some l => (l.seq, l.txTs, l.rxTs) | none => (0, 0, 0)
  beBytes 1 3 ++ beBytes 1 3 ++ beBytes 1 flags ++ beBytes 1 (if valid then s.get TIME_STATUS.distance else 15) ++
    beBytes 2 (s.get PL_FAB_CFG.domain_id) ++ beBytes 2 chip ++ beBytes 1 prio ++ beBytes 1 seq ++
    beBytes 1 eSeq ++ beBytes 1 0 ++ fullBytes (s.stamp (s.get (TIME_PORT.tx_adj p))) ++
    wrapBytes eTx ++ wrapBytes eRx ++ beBytes 8 0

/-- Every interval_us a Ristlink port in UP or KEEPALIVE sends one item while fabric time is enabled. -/
def State.timeItemSend (s : State) (p : Nat) : State :=
  if s.flag TIME_STATUS.fab_en && s.isRistlink p && (s.portState p = 4 || s.portState p = 6) then
    let it := s.timeItem p
    let n := smGet (fun _ => 0) s.time.sent p
    let s := { s with time := { s.time with sent := smPut (fun _ => 0) s.time.sent p (n + 1) } }
    s.sendStream p false it
  else s

def execTimeItemSend (port : Fin 1024) (s : State) : Host.Outcome State Fault Refusal :=
  .next (s.timeItemSend port)

/-- The signed difference of two times in 2^-16 ns, of wrap form (R498). -/
def wrapDiff16 (a b : Nat) : Int := signed 64 (toBits 64 ((a : Int) - (b : Int)))

/-- The item names one of the last 255 items sent on the port (R498). -/
def State.echoKnown (s : State) (p seq : Nat) : Bool :=
  let n := smGet (fun _ => 0) s.time.sent p
  (List.range (min n 255)).any (fun i => (n - 1 - i) % 256 = seq)

/-- An accepted item from the parent: the fabric sample of R498. Times t1, t2 are in wrap form. -/
def State.fabSample (s : State) (p t1 t2 t3 t4 echo : Nat) : State :=
  let w := 2 ^ 64
  if (max t3 t4) - (min t3 t4) > 1000000000 * 65536 then
    let base : Int := ((t3 * 2 ^ 24 : Nat) : Int)
    let d : Int := match s.time.lastDelay with | some d => d | none => 0
    (s.setTime ((base + d * 2 ^ 24).toNat)).bump TIME_STAT.steps 1
  else if !s.echoKnown p echo then s
  else
    let offset := (wrapDiff16 t2 t1 - wrapDiff16 (t4 % w) (t3 % w)).tdiv 2
    let delay := (wrapDiff16 (t4 % w) t1 - wrapDiff16 (t3 % w) t2).tdiv 2
    let s := s.puts [(TIME_LAST_OFS.offset, toBits 64 offset), (TIME_LAST_DELAY.delay, toBits 48 delay)]
    { s with time := { s.time with lastDelay := some delay, fab := some ⟨p, offset⟩ } }

/-- A TIME item received on Ristlink port `p` (R496-R498). -/
def State.timeItemReceive (s : State) (p : Nat) (b : List Byte) : State :=
  if !(s.flag TIME_STATUS.fab_en && s.isRistlink p) then s
  else if beAt b 4 2 ≠ s.get PL_FAB_CFG.domain_id then s.bump TIME_STAT.bad_items 1
  else
    let t4 := s.stamp (s.get (TIME_PORT.rx_adj p))
    let t3 := (beAt b 12 6 * 1000000000 + beAt b 18 4) * 65536 + beAt b 22 2
    let flags := beAt b 2 1
    let l : TimeLink :=
      { port := p, sourceValid := bitAt flags 0, parentFlag := bitAt flags 1, distance := beAt b 3 1 % 16
        srcChip := beAt b 6 2 % 1024, srcPrio := beAt b 8 1, seq := beAt b 9 1, txTs := t3, rxTs := t4 }
    let s := (s.setLink l).fabSelect
    if s.fabricDriven && s.flag TIME_STATUS.parent_valid && s.get TIME_STATUS.parent = p then
      s.fabSample p (beAt b 24 8) (beAt b 32 8) t3 t4 (beAt b 10 1)
    else s

def execTimeItemReceive (port : Fin 1024) (bytes : List Byte) (s : State) :
    Host.Outcome State Fault Refusal :=
  .next (s.timeItemReceive port bytes)

/-- A time link goes timeout intervals without an accepted item (R497). -/
def State.timeLinkTimeout (s : State) (p : Nat) : State :=
  if (s.linkOf p).isNone then s
  else
    ({ s with time := { s.time with links := s.time.links.filter (fun x => x.port ≠ p) } }).fabSelect

def execTimeLinkTimeout (port : Fin 1024) (s : State) : Host.Outcome State Fault Refusal :=
  .next (s.timeLinkTimeout port)

/-! ### Pulse outputs (R499, R500) -/

/-- TIME_PO_CTLk.arm: the write's settings are taken and the check starts (R502). -/
def State.poArm (s : State) (k : Nat) (data : Word) : State :=
  let d := data.toNat
  let s := s.puts [(TIME_PO_CTL.mode k, bitsOf d 0 2), (TIME_PO_CTL.polarity k, bitsOf d 2 1),
    (TIME_PO_CTL.width_ns k, bitsOf d 32 32)]
  s.startCheck TIME_ENABLE_STATUS.regOff (.pulseArm k)
    [bitsOf d 0 2, bitsOf d 2 1, bitsOf d 32 32, s.get (TIME_PO_START.start k), s.get (TIME_PO_PERIOD.period k)]

def execPoArm (k : Fin 4) (data : Word) (s : State) : Host.Outcome State Fault Refusal :=
  .next (s.poArm k data)

/-- Drive TPOk. -/
def State.driveTpo (s : State) (k : Nat) (high : Bool) : State :=
  ({ s with pin := { s.pin with tpo := setBits s.pin.tpo k 1 (b2n high) } }).send (.pulse k high s.wrapNow)

/-- The output is off: the pin rests at its inactive level and armed falls. -/
def State.poOff (s : State) (k : Nat) : State := (s.setPulse k none).put (TIME_PO_CTL.armed k) 0

/-- disarm stops the output after any pulse in progress (R499). -/
def State.poDisarm (s : State) (k : Nat) : State :=
  match s.pulse k with
  | none => s
  | some p => if p.high then s.setPulse k (some { p with stopping := true }) else s.poOff k

def execPoDisarm (k : Fin 4) (s : State) : Host.Outcome State Fault Refusal :=
  .next (s.poDisarm k)

/-- An armed output's next edge is reached (R499). -/
def State.pulseEdge (s : State) (k : Nat) : State :=
  match s.pulse k with
  | none => s
  | some p =>
    if !timeReached s.nowNs p.next then s
    else if !p.high then
      (s.setPulse k (some { p with high := true, fired := true, next := p.next + p.width })).driveTpo k (!p.polarity)
    else
      let s := s.driveTpo k p.polarity
      if p.mode = 1 || p.stopping then s.poOff k
      else s.setPulse k (some { p with high := false, next := gridAfter p.start p.period s.nowNs })

def execPulseEdge (k : Fin 4) (s : State) : Host.Outcome State Fault Refusal :=
  .next (s.pulseEdge k)

/-! ### Capture inputs (R501, R492) -/

def State.capOverflow (s : State) (k : Nat) : State := s.put (TIME_CAP1.overflow k) 1

/-- Write a CAPTURE or PTP event to the time event ring (R492). -/
def State.timeEvent (s : State) (w : List Word) : State :=
  if s.flag TIME_EVT_CFG.event_en then s.event (s.get TIME_EVT_CFG.event_ring) w else s

/-- Device time in steps of 0.25 ns (R487), in 2^-16 ns. -/
def State.quarterNow (s : State) : Nat := s.now16 / 2 ^ 14 * 2 ^ 14

/-- A selected edge is captured. -/
def State.capture (s : State) (k : Nat) : State :=
  let t := s.quarterNow
  let s := if smGet (fun _ => false) s.time.capUnread k then s.capOverflow k else s
  let s := s.puts [(TIME_CAP0.sec k, fullSec (t / 65536)), (TIME_CAP0.frac k, t % 65536),
    (TIME_CAP1.ns k, fullNano (t / 65536)), (TIME_CAP1.count k, s.get (TIME_CAP1.count k) + 1)]
  let s := { s with time := { s.time with
    capLast := smPut (fun _ => none) s.time.capLast k (some t)
    capUnread := smPut (fun _ => false) s.time.capUnread k true } }
  if s.flag (TIME_CAP_CTL.event_en k) then
    s.timeEvent (record (0x32 + k * 2 ^ 8 + s.get (TIME_CAP1.count k) * 2 ^ 32)
      (fullSec (t / 65536) + t % 65536 * 2 ^ 48) (fullNano (t / 65536)) 0)
  else s

/-- An edge at TPIk (R501). -/
def State.captureEdge (s : State) (k : Nat) (falling : Bool) : State :=
  let s := { s with pin := { s.pin with tpi := setBits s.pin.tpi k 1 (b2n (!falling)) } }
  if !s.flag (TIME_CAP_CTL.en k) || falling != s.flag (TIME_CAP_CTL.falling k) then s
  else
    match smGet (fun _ => none) s.time.capLast k with
    | some last =>
      if last ≤ s.quarterNow && s.quarterNow - last < 100 * 65536 then s.capOverflow k else s.capture k
    | none => s.capture k

def execCaptureEdge (k : Fin 4) (falling : Bool) (s : State) : Host.Outcome State Fault Refusal :=
  .next (s.captureEdge k falling)

/-! ### Checks (R502) -/

/-- Refusal of servo_en. -/
def State.servoReason (s : State) : Option (Nat × Nat) :=
  firstReason [
    (s.flag TIME_STATUS.servo_en, 0x701, 0),
    (32 < s.get TIME_SERVO_CFG.kp_shift || 32 < s.get TIME_SERVO_CFG.ki_shift ||
      s.get TIME_SERVO_CFG.sample_ms = 0 || s.get TIME_SERVO_CFG.max_ppm = 0 ||
      500 < s.get TIME_SERVO_CFG.max_ppm, 0x702, 0)]

/-- Refusal of fab_en. -/
def State.fabReason (s : State) : Option (Nat × Nat) :=
  firstReason [
    (s.flag TIME_STATUS.fab_en, 0x701, 0),
    (s.get PL_FAB_CFG.domain_id = 0 || s.get TIME_FAB_CFG.interval_us < 125 ||
      s.get TIME_FAB_CFG.timeout < 4, 0x703, 0)]

/-- Refusal of arm with captured mode, width, start and period. -/
def State.armReason (s : State) (k mode width start period : Nat) : Option (Nat × Nat) :=
  firstReason [
    (mode = 0 || mode = 3 || (s.pulse k).isSome, 0x704, k),
    (wrapDiff s.wrapNow start > -1000, 0x705, k),
    (width = 0 || (mode = 2 && (period < 100 || period ≤ width)), 0x706, k)]

/-- Accepted servo_en: host samples drive the servo unless the fabric does (R493). -/
def State.servoAccepted (s : State) : State :=
  let s := s.put TIME_STATUS.servo_en 1
  if s.flag TIME_STATUS.fab_en then s else s.put TIME_STATUS.source 1

def State.fabAccepted (s : State) : State := s.put TIME_STATUS.fab_en 1

/-- An accepted arm: the output waits for its start (R499). -/
def State.armAccepted (s : State) (k mode pol width start period : Nat) : State :=
  let ahead := (-(wrapDiff s.wrapNow start)).toNat
  let p : Pulse :=
    { mode := mode, polarity := pol = 1, width := width, start := s.nowNs + ahead, period := period
      next := s.nowNs + ahead, high := false, stopping := false, fired := false }
  (s.setPulse k (some p)).put (TIME_PO_CTL.armed k) 1

end Sys2Proof.Machine
end

