-- ==== Sys2Proof/Machine/Ptp.lean ====
section
/-! DEFINITION. IEEE 1588 event messages at Ethernet ports (13_time.md R490-R492). -/

namespace Sys2Proof.Machine

/-- Where a PTP message starts and its transport: 0 Annex E, 1 Annex C, 2 Annex D. -/
structure PtpPlace where
  off : Nat
  l3 : Nat
  transport : Nat
  deriving DecidableEq, Repr

/-- The offset of the EtherType after zero or one 802.1Q tag. -/
def etherTypeAt (l : List Byte) : Nat := if beAt l 12 2 = 0x8100 then 16 else 12

/-- The transport of a frame that may carry PTP. -/
def ptpTransport (l : List Byte) : Option PtpPlace :=
  let e := etherTypeAt l
  let n := e + 2
  if beAt l e 2 = 0x88F7 then some ⟨n, n, 0⟩
  else if beAt l e 2 = 0x0800 && beAt l n 1 = 0x45 && beAt l (n + 9) 1 = 17 && beAt l (n + 22) 2 = 319 then some ⟨n + 28, n, 1⟩
  else if beAt l e 2 = 0x86DD && beAt l (n + 6) 1 = 17 && beAt l (n + 42) 2 = 319 then some ⟨n + 48, n, 2⟩
  else none

/-- The frame is a PTP event message at port `p` (R490). -/
def State.ptpEvent (s : State) (p : Nat) (l : List Byte) : Option PtpPlace :=
  match ptpTransport l with
  | some x =>
    let on := if x.transport = 0 then s.flag (TIME_PORT.l2 p) else if x.transport = 1 then s.flag (TIME_PORT.ipv4 p)
      else s.flag (TIME_PORT.ipv6 p)
    if on && !s.isRistlink p && beAt l (x.off + 1) 1 % 16 = 2 && beAt l x.off 1 % 16 ≤ 3 then some x else none
  | none => none

/-- A PTP_RX or PTP_TX record at time `t` in 2^-16 ns (R492). -/
def ptpRecord (code port t : Nat) (l : List Byte) (x : PtpPlace) : List Word :=
  let m := x.off
  record (code + beAt l m 1 % 16 * 2 ^ 8 + beAt l (m + 4) 1 * 2 ^ 12 + port * 2 ^ 20 + beAt l (m + 30) 2 * 2 ^ 32)
    (fullSec (t / 65536) + t % 65536 * 2 ^ 48) (fullNano (t / 65536) + beAt l (m + 28) 2 * 2 ^ 32) (leAt l (m + 20) 8)

/-- A received event message with rx_en. -/
def State.ptpRx (s : State) (p t : Nat) (l : List Byte) : State :=
  match s.ptpEvent p l with
  | some x => if s.flag (TIME_PORT.rx_en p) then s.timeEvent (ptpRecord 0x30 p t l x) else s
  | none => s

/-- Add to the correctionField. -/
def addCorrection (l : List Byte) (m v : Nat) : List Byte :=
  patchBytes l (m + 8) (beBytes 8 ((beAt l (m + 8) 8 + v) % 2 ^ 64))

/-- The frame with its FCS computed again. -/
def refcs (l : List Byte) : List Byte := withFcs (l.take (l.length - 4))

/-- A departing event message at time `dep`: one-step Sync and transparent clock changes, then a PTP_TX event
(R491). `residence` is departure less arrival in 2^-16 ns. -/
def State.ptpTx (s : State) (p dep residence : Nat) (l : List Byte) : State × List Byte :=
  match s.ptpEvent p l with
  | none => (s, l)
  | some x =>
    let m := x.off
    let one := s.flag (TIME_PORT.one_step p) && beAt l m 1 % 16 = 0 && !bitAt (beAt l (m + 6) 1) 1
    let tc := s.flag (TIME_PORT.tc_en p)
    let (s, l) :=
      if !one && !tc then (s, l)
      else if x.transport = 2 then (s.bump TIME_STAT.ptp_skipped 1, l)
      else
        let l := if one then
            addCorrection (patchBytes l (m + 34) (beBytes 6 (fullSec (dep / 65536)) ++ beBytes 4 (fullNano (dep / 65536)))) m (dep % 65536)
          else l
        let l := if tc then addCorrection l m residence else l
        let l := if x.transport = 1 then patchBytes l (x.l3 + 26) (beBytes 2 0) else l
        (s, refcs l)
    (if s.flag (TIME_PORT.tx_en p) then s.timeEvent (ptpRecord 0x31 p dep l x) else s, l)

end Sys2Proof.Machine
end

