-- ==== Sys2Proof/Machine/Parser.lean ====
section
/-! DEFINITION. Frames arriving at the I/O sections and the parser: intake, the graph walk, outcomes, payload
patterns and the first writes of the metadata record (01_architecture.md R46, R57; 04_parser_classification.md). -/

namespace Sys2Proof.Machine

/-! ### Lane-macro counters (R440, R443) -/

/-- BAR0 offset of the block of lane `l`'s macro. -/
def lmBase (l : Nat) : Nat :=
  0x1000000 * (1 + l / 128) + 0x40000 * (l / 32) + 0x1000 * (l / 8 % 4)

def State.lanePerf (s : State) (port code n : Nat) : State :=
  s.perf (lmBase (s.laneOf port)) code { port := some port, pipe := some (s.pipeOf port) } n

/-- The fabric link of a port. -/
def State.linkOfPort (s : State) (port : Nat) : Option Nat :=
  (List.range 128).find? (fun n => s.flag (PL_LINK.valid n) && s.get (PL_LINK.port n) = port)

/-- A discard that R276 counts: the port's, and its link's where a valid link names the port. -/
def State.badItem (s : State) (port : Nat) : State :=
  let s := match s.linkOfPort port with
    | some n => s.bump (PL_LINK.bad_items n) 1
    | none => s
  s.bump (PORT_RX3.rl_hdr_err (s.laneOf port)) 1

/-! ### Arrival (R46, R57, R272, R275, R411, R431, R433) -/

def crc8 (l : List Byte) : Nat := crcL 8 0x07 0 l

/-- The fabric header (R272) as a 96-bit number. -/
def fabHeader (l : List Byte) : Nat := ofBe (l.take 12)

def fabHeaderOk (l : List Byte) : Bool :=
  let h := fabHeader l
  bitsOf h 92 4 = 1 && bitsOf h 88 4 ≤ 1 && crc8 (l.take 11) = bitsOf h 0 8

/-- bclass of an arriving frame (R169; a Ristlink frame's credit class is its header's, R272). -/
def State.arrivalClass (s : State) (ristlink : Bool) (l : List Byte) (hdr : List Byte) : Nat :=
  if ristlink then bitsOf (fabHeader hdr) 50 2
  else
    let tag := beAt l 12 2
    let p := if tag = 0x8100 || tag = 0x88A8 then beAt l 14 2 / 2 ^ 13 else 0
    bitsOf (s.get PRS_G_CFG.bclass_map) (2 * p) 2

def fcsOk (l : List Byte) : Bool := withFcs (l.take (l.length - 4)) = l

def fifoDefault : Nat → List RxFrame := fun _ => []

def State.fifo (s : State) (sec : Nat) : List RxFrame := smGet fifoDefault s.pk.fifo sec

def State.setFifo (s : State) (sec : Nat) (l : List RxFrame) : State :=
  { s with pk := { s.pk with fifo := smPut fifoDefault s.pk.fifo sec l } }

/-- A received frame is complete: it is counted, and found errored by its FCS, length or PCS (R411). -/
def State.countRx (s : State) (port : Nat) (l : List Byte) (err : Bool) : State × Bool :=
  let lane := s.laneOf port
  let long := s.get (PORT_CFG.max_frame lane) < l.length
  let bad := err || long || !fcsOk l
  let s := ((s.bump (PORT_RX0.rx_frames lane) 1).bump (PORT_RX1.rx_bytes lane) l.length).lanePerf port 0x40 1
  let s := s.lanePerf port 0x41 l.length
  let s := if bad then s.lanePerf port 0x47 1 else s
  let s := if long then s.bump (PORT_RX2.len_err lane) 1
    else if bad then s.bump (PORT_RX2.fcs_err lane) 1 else s
  (s, bad)

/-- Cut at max_frame + 1 bytes (R411). -/
def State.cutFrame (s : State) (port : Nat) (l : List Byte) : List Byte :=
  l.take (s.get (PORT_CFG.max_frame (s.laneOf port)) + 1)

/-- The link passes frames: UP, or draining towards DISABLED with its link still up (R438). -/
def State.linkPasses (s : State) (port : Nat) : Bool := s.portState port = 4 || (s.portState port = 7 && (s.port port).linked)

/-! ### Received PFC and PAUSE (R360) -/

/-- Priority that queue `q` of a port is mapped to, when enabled (R360). -/
def State.pfcPriority (s : State) (port q : Nat) : Option Nat :=
  let e := bitsOf (s.get (SCHED_PFC_MAP.map port)) (4 * q) 4
  if bitAt e 3 then some (e % 8) else none

def State.pauseEnd (s : State) (port prio : Nat) : Nat := smGet natZero s.sch.pause (port * 8 + prio)

/-- A received PFC frame holds the queue. -/
def State.pfcHeld (s : State) (port q : Nat) : Bool :=
  match s.pfcPriority port q with
  | some i => decide (s.clk < s.pauseEnd port i) && !s.isRistlink port
  | none => false

/-- SCHED_PORT_STAT.paused follows the timers and the map. -/
def State.showPaused (s : State) (port : Nat) : State :=
  s.put (SCHED_PORT_STAT.paused port)
    (sumNat ((List.range 16).map (fun q => if s.pfcHeld port q then 2 ^ q else 0)))

/-- Clocks that `n` quanta of 512 bit times last at the port's speed (800 MHz, R10). -/
def State.quantaClocks (s : State) (port n : Nat) : Nat := ceilDiv (n * 2048) (5 * max 1 (s.portRate port))

def isPfc (b : List Byte) : Bool := beAt b 0 6 = 0x0180C2000001 && beAt b 12 2 = 0x8808 && beAt b 14 2 = 0x0101

def isPause (b : List Byte) : Bool := beAt b 12 2 = 0x8808 && beAt b 14 2 = 1

/-- A MAC control frame that the I/O section consumes; other opcodes are frames like any other. -/
def isControl (b : List Byte) : Bool := isPfc b || isPause b

/-- A good PFC frame loads the timers of its enabled priorities; a PAUSE frame pauses nothing. -/
def State.controlFrame (s : State) (port : Nat) (b : List Byte) : State :=
  if isPfc b then
    let en := beAt b 16 2
    let s := (List.range 8).foldl (fun s i =>
      if bitAt en i then
        let n := beAt b (18 + 2 * i) 2
        let e := if n = 0 then 0 else s.clk + s.quantaClocks port n
        { s with sch := { s.sch with pause := smPut natZero s.sch.pause (port * 8 + i) e } }
      else s) s
    (s.showPaused port).bump (SCHED_PIPE_STAT0.pfc_rx (s.pipeOf port)) 1
  else s.bump SCHED_STAT.pause_discards 1

/-- The checks that any received frame meets: a port that passes frames, an image, no standby. -/
def State.rxControl (s : State) (port : Nat) (b : List Byte) : State × Bool :=
  let lane := s.laneOf port
  if !s.linkPasses port || s.isRistlink port then (s, false)
  else if s.pwrState ≠ 0 then (s.bump (PORT_RX3.brine_discards lane) 1, false)
  else if !s.imageActive then (s.bump (PORT_RX2.no_image lane) 1, false)
  else
    let (s, bad) := s.countRx port b false
    (s, !bad)

def State.pfcReceive (s : State) (port : Nat) (b : List Byte) : State :=
  if !isPfc b then s
  else
    let (s, ok) := s.rxControl port b
    if ok then s.controlFrame port b else s

def execPfcReceive (port : Fin 1024) (bytes : List Byte) (s : State) : Host.Outcome State Fault Refusal :=
  .next (s.pfcReceive port bytes)

def State.pauseReceive (s : State) (port : Nat) (b : List Byte) : State :=
  if !isPause b then s
  else
    let (s, ok) := s.rxControl port b
    if ok then s.controlFrame port b else s

def execPauseReceive (port : Fin 1024) (bytes : List Byte) (s : State) : Host.Outcome State Fault Refusal :=
  .next (s.pauseReceive port bytes)

/-- Put a checked frame in its section's FIFO, or drop it as an overrun (R46). -/
def State.enqueueRx (s : State) (sec : Nat) (f : RxFrame) : State :=
  if !f.lossless && 98304 ≤ s.fifoFill sec then s.bump (PORT_RX2.overrun (s.laneOf f.port)) 1
  else (s.setFifo sec (s.fifo sec ++ [f])).fifoGrown sec (s.fifoFill sec)

/-- The last byte of a frame of the port is still to come. -/
def State.rxOpen (s : State) (port : Nat) : Bool :=
  (s.fifo (s.pipeOf port)).any (fun f => f.port = port && !f.whole) ||
  s.pk.pkts.any (fun p => p.port = port && !p.whole && !p.w.injected)

/-- A frame arrives. Of a Ristlink frame the first 12 bytes are its fabric header, the last 8 its trailer. -/
def State.frameReceive (s : State) (port : Nat) (bytes : List Byte) (whole err : Bool) : State :=
  let lane := s.laneOf port
  let rl := s.isRistlink port
  let hdr := if rl then bytes.take 12 ++ (if whole then bytes.drop (bytes.length - 8) else []) else []
  let body := if rl then (bytes.drop 12).take (bytes.length - 12 - (if whole then 8 else 0)) else bytes
  if s.portState port = 6 || ((s.linkPasses port) && s.pwrState ≠ 0) then s.bump (PORT_RX3.brine_discards lane) 1
  else if !s.linkPasses port || s.rxOpen port then s
  else if !s.imageActive then s.bump (PORT_RX2.no_image lane) 1
  else if rl && !fabHeaderOk hdr then s.badItem port
  else if rl && bitsOf (fabHeader hdr) 68 10 ≠ s.get PL_FAB_CFG.chip_id &&
      s.get PL_FAB_CFG.hop_limit ≤ bitsOf (fabHeader hdr) 34 4 then s.bump PL_STAT.hop_drops 1
  else
    let cls := s.arrivalClass rl body hdr
    let f : RxFrame := { port := port, bytes := s.cutFrame port body, whole := whole, err := err, cls := cls
                         lossless := s.isLossless port cls, rx := s.stamp (s.get (TIME_PORT.rx_adj port)), hdr := hdr }
    if !whole then s.enqueueRx (s.pipeOf port) f
    else if body.length < 64 then
      ((s.bump (PORT_RX0.rx_frames lane) 1).bump (PORT_RX1.rx_bytes lane) body.length).bump (PORT_RX2.len_err lane) 1
    else
      let (s, bad) := s.countRx port body err
      if bad then s
      else if !rl && isControl body then s.controlFrame port body
      else (s.ptpRx port f.rx body).enqueueRx (s.pipeOf port) f

def execFrameReceive (port : Fin 1024) (bytes : List Byte) (whole err : Bool) (s : State) :
    Host.Outcome State Fault Refusal :=
  .next (s.frameReceive port bytes whole err)

/-! ### Wire fields and extractions (R155-R157) -/

/-- `w` bits of the frame from bit `off`, first bit most significant. -/
def wireBits (l : List Byte) (off w : Nat) : Nat :=
  let b0 := off / 8
  let b1 := (off + w + 7) / 8
  ofBe (slice l b0 (b1 - b0)) / 2 ^ (8 * b1 - off - w) % 2 ^ w

/-- Store `v` at a metadata bit address, continuing upward through the words. -/
def putSpan (md : List Nat) (dst width v : Nat) : List Nat :=
  let word := bitsOf dst 5 7
  let n := (bitsOf dst 0 5 + width + 31) / 32
  let big := sumNat ((List.range n).map (fun i => nth md (word + i) * 2 ^ (32 * i)))
  let big := setBits big (bitsOf dst 0 5) width v
  (List.range n).foldl (fun md i => setAt md (word + i) (bitsOf big (32 * i) 32)) md

def applyExtractions (l : List Byte) (pos : Nat) (n : PNode) (md : List Nat) : List Nat :=
  n.extr.foldl (fun md e => putSpan md e.dst e.width (wireBits l (8 * pos + e.src) e.width)) md

/-- Bytes of a node that its own fields need (R159). -/
def neededBytes (n : PNode) : Nat :=
  let sel := if n.selWidth = 0 then 0 else ceilDiv (n.selOff + n.selWidth) 8
  let len := if n.hdrLen = 0 then n.lenOff + ceilDiv n.lenWidth 8 else 0
  n.extr.foldl (fun a e => max a (ceilDiv (e.src + e.width) 8)) (max sel len)

def headerLen (l : List Byte) (pos : Nat) (n : PNode) : Nat :=
  if n.hdrLen ≠ 0 then n.hdrLen
  else beAt l (pos + n.lenOff) (ceilDiv n.lenWidth 8) % 2 ^ n.lenWidth * n.lenScale + n.lenAdd

def nextNode (l : List Byte) (pos : Nat) (n : PNode) : Option Nat :=
  let sel := if n.selWidth = 0 then 0 else wireBits l (8 * pos + n.selOff) n.selWidth
  (n.trans.find? (fun t => sel &&& t.mask = t.value &&& t.mask)).map (·.next)

/-! ### The walk (R155-R162) -/

structure Parsed where
  md : List Nat
  status : Nat
  pos : Nat
  node : Nat
  visits : Nat
  deriving DecidableEq, Repr

/-- What the walk reads: the bytes, the frame's length where it is held whole, the depth limit, the nodes and those
whose checksum is verified. -/
structure WalkIn where
  bytes : List Byte
  held : Option Nat
  depth : Nat
  nodes : List PNode
  ipv4 : List Nat
  deriving DecidableEq, Repr

/-- The precedence of R161. -/
def finalStatus (code : Nat) (csum : Bool) : Nat := if 2 ≤ code then code else if csum then 6 else code

/-- A header of `n` bytes at `pos` runs past the frame or the depth. -/
def tooFar (i : WalkIn) (pos n : Nat) : Option Nat :=
  if (match i.held with | some len => decide (len < pos + n) | none => false) then some 2
  else if i.depth < pos + n then some 3 else none

/-- `fuel` visits are left; a walk that would make one more ends with TOO_MANY_NODES. -/
def parseWalk (i : WalkIn) : Nat → Nat → Nat → Nat → Bool → List Nat → Parsed
  | 0, node, pos, visits, csum, md => ⟨md, finalStatus 4 csum, pos, node, visits⟩
  | fuel + 1, node, pos, visits, csum, md =>
    let v := visits + 1
    match i.nodes.find? (fun n => n.id = node) with
    | none => ⟨md, finalStatus 1 csum, pos, node, v⟩
    | some n =>
      match tooFar i pos (neededBytes n) with
      | some c => ⟨md, finalStatus c csum, pos, node, v⟩
      | none =>
        let len := headerLen i.bytes pos n
        if len < neededBytes n then ⟨md, finalStatus 5 csum, pos, node, v⟩
        else
          match tooFar i pos len with
          | some c => ⟨md, finalStatus c csum, pos, node, v⟩
          | none =>
            let csum := csum || (i.ipv4.contains node && onesSum (slice i.bytes pos len) ≠ 65535)
            let md := applyExtractions i.bytes pos n md
            match nextNode i.bytes pos n with
            | none => ⟨md, finalStatus 1 csum, pos + len, node, v⟩
            | some t =>
              if t = 0xFFFF then ⟨md, finalStatus 0 csum, pos + len, node, v⟩
              else parseWalk i fuel t (pos + len) v csum md

/-! ### Payload patterns (R165, R166) -/

def patKey (bank set entry : Nat) : Nat := (bank * 8 + set) * 33 + entry

def State.pat (s : State) (k : Nat) : Nat := smGet (fun _ => 0) s.pk.pats k

/-- A pattern (16 value bytes, then 16 mask bytes) matches at `pos` inside a window that ends before `stop`. -/
def patMatches (l : List Byte) (stop pos pat : Nat) : Bool :=
  let value := leBytes 16 pat
  let mask := leBytes 16 (pat / 2 ^ 128)
  let used := (List.range 16).filter (fun j => mask.getD j 0 ≠ 0)
  !used.isEmpty && used.all (fun j => decide (pos + j < stop) &&
    (l.getD (pos + j) 0 &&& mask.getD j 0) = (value.getD j 0 &&& mask.getD j 0))

/-- The result byte of set `k` (R166). -/
def State.setResult (s : State) (bank k : Nat) (l : List Byte) (parseEnd depth : Nat) : Nat :=
  let d := s.pat (patKey bank k 32)
  let start := (if bitAt d 2 then parseEnd else 0) + bitsOf d 3 10
  let stop := min (min (start + bitsOf d 13 8 + 1) depth) l.length
  let places := if bitAt d 1 then [start] else (List.range (stop - start)).map (start + ·)
  let hit := (List.range 32).find? (fun i => bitAt (bitsOf d 32 32) i &&
    places.any (fun p => patMatches l stop p (s.pat (patKey bank k i))))
  if !bitAt d 0 then 0 else match hit with | some i => 0x80 + i | none => 0

/-- Count hits and write the result words. -/
def State.payload (s : State) (p bank : Nat) (l : List Byte) (parseEnd depth : Nat) (md : List Nat) : State × List Nat :=
  let r := (List.range 8).map (fun k => s.setResult bank k l parseEnd depth)
  let s := (List.range 8).foldl (fun s k => if 0x80 ≤ nth r k then s.bump (PRS_CNT_PAY.hits p k) 1 else s) s
  let w := s.get PRS_PAT_CTL.pay_word
  let v := sumNat ((List.range 8).map (fun k => nth r k * 2 ^ (8 * k)))
  if s.flag PRS_PAT_CTL.pay_en && 40 ≤ w && w ≤ 126 then
    (s, setAt (setAt md w (v % 2 ^ 32)) (w + 1) (v / 2 ^ 32))
  else (s, md)

/-! ### Entry (R37, R112, R151-R153, R158-R164, R169-R173, R371, R396) -/

/-- Intake depth (R151). -/
def State.intakeDepth (s : State) : Nat := if s.flag PRS_G_CFG.intake_1k then 1024 else 512

/-- Header fields of R370 words 9 to 11. -/
def fabWords (md : List Nat) (h : Nat) : List Nat :=
  let md := setAt md 9 (bitsOf h 78 10 + bitsOf h 68 10 * 2 ^ 10 + bitsOf h 56 12 * 2 ^ 20)
  let md := setAt md 10 (bitsOf h 52 4 + bitsOf h 50 2 * 2 ^ 4 + bitsOf h 49 1 * 2 ^ 6 + bitsOf h 48 1 * 2 ^ 7 +
    bitsOf h 38 10 * 2 ^ 8 + bitsOf h 34 4 * 2 ^ 18)
  mdPut md 11 0 16 (bitsOf h 16 16)

/-- Trailer fields of R370 words 10 to 13. -/
def trailerWords (md : List Nat) (t : Nat) : List Nat :=
  let md := mdPut (mdPut md 10 22 4 (bitsOf t 44 4)) 10 26 2 (bitsOf t 32 2)
  mdPut (setAt (mdPut md 11 16 16 (bitsOf t 48 16)) 12 (bitsOf t 0 32)) 13 0 10 (bitsOf t 34 10)

def ofTrailer (hdr : List Byte) : Nat := ofBe (hdr.drop 12)

/-- The length field: 0 until the last byte is held (R370). -/
def lengthField (whole : Bool) (l : List Byte) : Nat := if whole then min l.length 16383 else 0

/-- The record at a first entry, before the walk: `w2` holds the single bits of word 2. -/
def firstRecord (port ver tenant bd cls len w2 rx : Nat) (hdr : List Byte) (whole : Bool) : List Nat :=
  let md := List.replicate 128 0
  let md := setAt md 0 (port + ver % 16 * 2 ^ 10 + tenant * 2 ^ 14 + cls * 2 ^ 26 + b2n (!hdr.isEmpty) * 2 ^ 31)
  let md := setAt (setAt (setAt md 1 bd) 2 (len * 2 ^ 6 + w2)) 3 (rx % 2 ^ 32)
  if hdr.isEmpty then md
  else
    let md := fabWords md (fabHeader hdr)
    if whole then trailerWords md (ofTrailer hdr) else md

/-- What the walk found, in the record (R164). -/
def parsedRecord (p : Parsed) : List Nat :=
  mdPut (mdPut (mdPut (mdPut p.md 0 28 3 p.status) 1 14 10 p.pos) 1 24 8 p.node) 2 0 6 p.visits

/-- PRS_ERR_ACTION for the outcome (R163): the metadata, and whether the packet was dropped or punted. -/
def State.errAction (s : State) (status : Nat) (md : List Nat) : List Nat × Bool :=
  let a := bitsOf (s.get PRS_ERR_ACTION.action) (2 * status - 2) 2
  if status = 0 || status = 7 || a = 0 then (md, false)
  else
    let md := mdPut md 24 15 1 1
    if a = 2 then (mdPut (mdPut md 34 0 2 2) 32 16 8 (s.get PRS_ERR_ACTION.host_queue), true)
    else (mdPut md 34 0 2 1, true)

/-- Counters of a completed walk (R177). -/
def State.countWalk (s : State) (p port : Nat) (r : Parsed) (acted : Bool) : State :=
  let s := s.bump (PRS_CNT_PKT.packets p) 1
  if r.status = 0 || r.status = 7 then s
  else
    let s := s.bump (PRS_CNT_ERR.seen p r.status) 1
    let s := if acted then s.bump (PRS_CNT_ERR.acted p r.status) 1 else s
    s.puts [(PRS_LAST_ERR.code p, r.status), (PRS_LAST_ERR.node p, r.node), (PRS_LAST_ERR.offset p, r.pos),
      (PRS_LAST_ERR.port p, port)]

/-- Parse packet `p`, whose metadata stand as at the start of the walk, and let it into stage 0. -/
def State.parse (s : State) (p : Pkt) (heldWhole : Bool) : State :=
  let depth := s.intakeDepth
  let ipv4 := (List.range 4).filterMap (fun i =>
    if bitAt (s.get PRS_IPV4_NODES.valid) i then some (bitsOf (s.get PRS_IPV4_NODES.node) (8 * i) 8) else none)
  let i : WalkIn :=
    { bytes := p.bytes, held := if heldWhole then some p.bytes.length else none, depth := min 512 depth
      nodes := match s.img.active with | some g => g.nodes | none => [], ipv4 := ipv4 }
  let r := parseWalk i 32 0 0 0 false p.w.md
  let (s, md) := s.payload p.w.pipe p.bank p.bytes r.pos depth (parsedRecord r)
  let (md, acted) := s.errAction r.status md
  let s := s.countWalk p.w.pipe (mdIngress md) r acted
  let w := { p.w with md := md }
  let b := perfBlock p.w.pipe 32
  let w := (w.note b 2 1).note b 3 (mdGet md 2 6 14)
  s.setPkt { p with w := if acted && mdDisposition md = 1 then w.note b 7 1 else w }

/-- Tracer tagging at a first entry (R396): by the pipe's random source, or as the header says. -/
def State.tracerTag (s : State) (p : Nat) (fabTracer : Bool) : State × Bool :=
  if !s.mtr.postOn then (s, false)
  else
    let follow := s.flag TRC_CFG.follow && fabTracer
    if s.flag TRC_CFG.enable then
      let (w, s) := s.draw
      let tag := follow || w.toNat % 2 ^ s.get TRC_CFG.shift = 0
      (if tag then s.bump (TEL_PIPE_STAT1.tracers p) 1 else s, tag)
    else (if follow then s.bump (TEL_PIPE_STAT1.tracers p) 1 else s, follow)

/-- A packet at its first entry into pipe `p`'s parser. -/
def State.newPkt (s : State) (p port : Nat) (bytes : List Byte) (whole err : Bool) (rx : Nat) (hdr : List Byte)
    (md : List Nat) : Pkt :=
  { id := s.pk.nextPkt
    w := { pipe := p, stage := 0, port := port, fn := none, first := true, injected := false, rq := 0, md := md
           look := [], times := [] }
    port := port, bytes := bytes, whole := whole, err := false, rxErr := err, exported := false, fromFifo := true
    crossed := 0, via := 2, bank := s.get PRS_PAT_CTL.active_bank, ver := s.version, force := 0, rx := rx, policed := false
    admitted := false, pd := 0, copies := 0, gone := [], charge := .none, charged := 0, reserved := 0, cells := []
    last := false, ended := false, inject := none, hdr := hdr, fabDst := none, pending := [] }

/-- The packet takes its rule version and joins those in flight. -/
def State.admitPkt (s : State) (p : Pkt) : State :=
  let s := s.addVersion p.ver 1
  { s with pk := { s.pk with pkts := s.pk.pkts ++ [p], nextPkt := s.pk.nextPkt + 1 } }

/-- The first frame for the lossless or for the lossy queue of the section's channel that holds its intake depth and
has no earlier frame of its port in that queue before it. A MAC control frame stays in the section (R360). -/
def readyIn (lossless : Bool) (depth : Nat) : List RxFrame → List Nat → Option RxFrame
  | [], _ => none
  | f :: t, ports =>
    if f.lossless ≠ lossless then readyIn lossless depth t ports
    else if !ports.contains f.port && (f.whole || depth ≤ f.bytes.length) && !(f.hdr.isEmpty && isControl f.bytes) then
      some f
    else readyIn lossless depth t (ports ++ [f.port])

/-- The frame of section `sec` whose bytes cross to the core die next: lossless before lossy, each against the credits
of its queue (R55, R547). -/
def State.readyFrame (s : State) (sec : Nat) : Option RxFrame :=
  let get (lossless : Bool) : Option RxFrame :=
    if s.chReady sec false (chData lossless) then readyIn lossless s.intakeDepth (s.fifo sec) [] else none
  match get true with
  | some f => some f
  | none => get false

/-- Remove the first frame equal to `f`. -/
def removeFrame (f : RxFrame) : List RxFrame → List RxFrame
  | [] => []
  | g :: t => if g = f then t else g :: removeFrame f t

/-- A frame of the receive FIFO enters: its intake depth crosses the channel in cells of 256 bytes. -/
def State.enterFrame (s : State) (p : Nat) : State :=
  match s.readyFrame p, s.imageActive with
  | some f, true =>
    match s.mapRec f.port with
    | none => s.setFifo p (removeFrame f (s.fifo p))
    | some r =>
      let depth := min f.bytes.length s.intakeDepth
      let s := s.setFifo p (removeFrame f (s.fifo p))
      let s := s.chCross p false (chData f.lossless) (.cell f.port f.lossless) (ceilDiv depth 256)
      let (s, tracer) := s.tracerTag p (!f.hdr.isEmpty && bitAt (fabHeader f.hdr) 49)
      let cls := s.arrivalClass false f.bytes []
      let md := firstRecord f.port s.version r.tenant r.bd cls (lengthField f.whole f.bytes) (b2n tracer * 2 ^ 25)
        (f.rx / 2 ^ 16) f.hdr f.whole
      let q := { s.newPkt p f.port f.bytes f.whole f.err f.rx f.hdr md with crossed := depth, via := chData f.lossless }
      (s.admitPkt q).parse q (f.whole && decide (f.bytes.length ≤ s.intakeDepth))
  | _, _ => s

/-- An injected packet of pipe `p` enters: the oldest of each ring in ring order (R465); its entry completes DONE with
the packet's rx_ts (R464). The exporter's frames come the same way (R395). -/
def State.enterInject (s : State) (p : Nat) : State :=
  match s.hif.inject.find? (fun i => i.pipe = p &&
      (s.hif.inject.find? (fun j => j.ring = i.ring)).all (fun j => j = i)), s.imageActive with
  | some i, true =>
    let s := { s with hif := { s.hif with inject := s.hif.inject.filter (fun j => j ≠ i) } }
    let (s, tracer) := if i.exported then (s, false) else s.tracerTag p false
    let w2 := b2n tracer * 2 ^ 25 + b2n i.post * 2 ^ 26 + 2 ^ 27 + b2n i.exported * 2 ^ 30
    let rx := s.wrapNow
    let md := firstRecord 0 s.version i.tenant i.bd i.bclass (min i.bytes.length 16383) w2 rx [] true
    let q := s.newPkt p 0 i.bytes true false s.now16 [] md
    let fn := if i.exported then none else some (s.ringFunc i.ring)
    let q := { q with w := { q.w with fn := fn, injected := true }, exported := i.exported, fromFifo := false }
    let s := (s.admitPkt q).parse q true
    if i.exported then s
    else s.finishEntry i.ring i.index (fun w => completed w 0 [(1, rx % 2 ^ 32 * 2 ^ 32)])
  | _, _ => s

/-- The head packet of recirculation queue `i` of pipe `p`, once its last cell is written or a stall has ended it. -/
def State.recircHead (s : State) (p i : Nat) : Option (Copy × Pkt) :=
  (s.head (16640 + 2 * p + i)).bind (fun c => (s.pkt c.pkt).bind (fun q => if q.last || q.ended then some (c, q) else none))

/-- It is queue `i`'s turn: while both queues of the pipe wait they alternate (R362). -/
def State.recircTurn (s : State) (p i : Nat) : Bool :=
  (s.recircHead p (1 - i)).isNone || decide (smGet (fun _ => 2) s.pk.recircLast p ≠ i)

/-- The head packet of recirculation queue `i` of pipe `p` re-enters (R42, R112, R152, R362): its cells are read, with
the errors that `ecc` names, and it keeps its version, bank and metadata, but for word 27, which reads 0 in ingress
stages (R111). With a quarantined cell it is dropped (R297). -/
def State.enterRecirc (s : State) (p i : Nat) (ecc : List (Nat × Bool)) : State :=
  match s.recircHead p i, s.recircTurn p i with
  | some (c, q), true =>
    let s : State := { s with pk := { s.pk with recircLast := smPut (fun _ => 2) s.pk.recircLast p i } }
    if q.ended then s.discardCopy c
    else
      let s := s.readErrors q ecc
      if s.holdsBad q then s.discardCopy c
      else
        let s := (s.presentRest c).dropCopy c.id
        match s.pkt c.pkt with
        | some q =>
          let s := s.trimCharge q q.charged
          let md := setAt (mdPut q.w.md 24 16 1 0) 27 0
          let q := { q with
            w := { q.w with pipe := p, stage := 0, first := false, md := md, look := [], times := [] }
            fromFifo := false, admitted := false, pd := 0, copies := 0, gone := [], charge := .none, charged := 0
            reserved := 0, cells := [], last := false, force := 0 }
          ((s.setPkt q).parse q true).xoffSweep p
        | none => s
  | _, _ => s

/-- A packet enters pipe `p`'s parser: from the FIFO (0), an injection (1) or recirculation queue 0 or 1 (2, 3), whose
cells show the errors `ecc` as they are read. -/
def State.parserEntry (s : State) (p source : Nat) (ecc : List (Nat × Bool)) : State :=
  if !s.slotsRun p then s
  else if source = 0 then s.enterFrame p
  else if source = 1 then s.enterInject p
  else s.enterRecirc p (source - 2) ecc

def execParserEntry (pipe : Fin 32) (source : Fin 4 × CellErrors) (s : State) : Host.Outcome State Fault Refusal :=
  .next (s.parserEntry pipe source.1 source.2)

/-! ### The pattern memory (R167, R168, R176) -/

/-- Packets in flight use pattern bank `b`. -/
def State.bankBusy (s : State) (b : Nat) : Bool := s.pk.pkts.any (fun p => p.bank = b && p.ver ≠ 0)

/-- PRS_PAT_CTL.flip (R167). -/
def State.patFlip (s : State) : State := s.put PRS_PAT_CTL.active_bank (1 - s.get PRS_PAT_CTL.active_bank)

def execPatFlip (s : State) : Host.Outcome State Fault Refusal := .next (s.gatedWrite State.patFlip)

/-- The command may be performed: a defined entry and, for a write, the inactive bank with no packet using it. -/
def State.patAllowed (s : State) (write : Bool) : Bool :=
  let b := s.get PRS_PAT_ADDR.bank
  s.get PRS_PAT_ADDR.entry ≤ 32 && !(write && (b = s.get PRS_PAT_CTL.active_bank || s.bankBusy b))

def State.patGo (s : State) (write : Bool) : State :=
  s.beginInd PRS_PAT_CMD.regOff PRS_PAT_CMD.busy write (s.raw PRS_PAT_ADDR.regOff).toNat
    (b2n (s.patAllowed write) :: (List.range 4).map (fun i => (s.raw (PRS_PAT_DATA.regOff i)).toNat))

def execPatWrite (s : State) : Host.Outcome State Fault Refusal := .next (s.gatedWrite (fun s => s.patGo true))

def execPatRead (s : State) : Host.Outcome State Fault Refusal := .next (s.gatedWrite (fun s => s.patGo false))

/-- A pattern as held: 256 bits of a pattern, the defined bits of a set descriptor. -/
def patValue (entry : Nat) (d : List Nat) : Nat :=
  if entry = 32 then bitsOf (nth d 0) 0 21 + bitsOf (nth d 0) 32 32 * 2 ^ 32
  else sumNat ((List.range 4).map (fun i => nth d i * 2 ^ (64 * i)))

/-- A pattern command completes (R629). -/
def State.patDone (s : State) (j : IndJob) : State :=
  let ok := nth j.data 0 = 1
  let entry := bitsOf j.addr 0 6
  let k := patKey (bitsOf j.addr 9 1) (bitsOf j.addr 6 3) entry
  let s : State := if !ok then s
    else if j.write then { s with pk := { s.pk with pats := smPut (fun _ => 0) s.pk.pats k (patValue entry (j.data.drop 1)) } }
    else (List.range 4).foldl (fun s i => s.setRaw (PRS_PAT_DATA.regOff i) (BitVec.ofNat 64 (bitsOf (s.pat k) (64 * i) 64))) s
  s.puts [(PRS_PAT_CMD.refused, b2n (!ok)), (PRS_PAT_CMD.busy, 0)]

end Sys2Proof.Machine
end

