-- ==== Sys2Proof/Machine/Placement.lean ====
section
/-! DEFINITION. Path placement and the fabric domain (07_placement_fabric.md): groups, flowlets, the choice of a
member, the congestion map, beacons and credits. -/

namespace Sys2Proof.Machine

/-! ### Groups and members (R248-R250) -/

def State.plGroup (s : State) (g : Nat) : Nat := smGet natZero s.pl.groups g

def State.plMember (s : State) (i : Nat) : Nat := smGet natZero s.pl.members i

def grBase (r : Nat) : Nat := bitsOf r 0 18

def grCount (r : Nat) : Nat := bitsOf r 18 9

def grMode (r : Nat) : Nat := bitsOf r 27 2

def grDst (r : Nat) : Nat := bitsOf r 29 10

def grGap (r : Nat) : Nat := bitsOf r 39 16

def grSlack (r : Nat) : Nat := bitsOf r 55 4

def grGen (r : Nat) : Nat := bitsOf r 59 2

def grValid (r : Nat) : Bool := bitAt r 61

def mbPort (m : Nat) : Nat := bitsOf m 0 10

def mbWeight (m : Nat) : Nat := bitsOf m 10 8

def mbUp (m : Nat) : Bool := bitAt m 18

/-- Groups whose record has valid == 1. -/
def State.validGroups (s : State) : List (Nat × Nat) := s.pl.groups.filter (fun x => grValid x.2)

/-! ### Links, levels and the map (R259, R262, R263) -/

def State.fabLive (s : State) (f : Nat) : Bool := s.flag (PL_LINK.valid f) && s.flag (PL_LINK.neighbor_live f)

def State.mapByte (s : State) (d f : Nat) : Nat := smGet natZero s.pl.map (d * 128 + f)

def mapLevel (b : Nat) : Nat := bitsOf b 0 4

def mapThrottle (b : Nat) : Nat := bitsOf b 4 2

def mapReach (b : Nat) : Bool := bitAt b 6

def State.level (s : State) (depth : Nat) : Nat := min 15 (depth / 2 ^ s.get PL_STEER_CFG.level_shift)

def State.snapDepth (s : State) (q : Nat) : Nat := smGet natZero s.pl.levels q

def State.qlevel (s : State) (port q : Nat) : Nat := s.level (s.snapDepth (queueOf port q))

def State.portLevel (s : State) (port : Nat) : Nat :=
  s.level (sumNat ((List.range 16).map (fun q => s.snapDepth (queueOf port q))))

/-- The snapshot of queue depths, ports up and slow pipes that new flowlets choose by (R259, R281). -/
def State.levelSnapshot (s : State) : State :=
  let qs := ((s.pk.copies.map (·.queue)).filter isPortQueue).eraseDups
  let levels := qs.foldl (fun m q => smPut natZero m q (s.depth q)) []
  let ports : List PortRec := match s.img.active with | some i => i.ports | none => []
  let up := (ports.filter (fun r => s.portUp r.port)).map (fun r => r.port)
  { s with pl := { s.pl with
    levels := levels, upPorts := up, slowPipes := (List.range 32).filter (fun p => 2 ≤ s.get (PWR_PIPE_STAT.ratio p)) } }

def execLevelSnapshot (s : State) : Host.Outcome State Fault Refusal :=
  .next (if s.gated then s else s.levelSnapshot)

/-! ### Placing a packet (R251-R261) -/

/-- The destination chip that a group's mode gives the packet. -/
def groupDst (r : Nat) (md : List Nat) : Nat := if grMode r = 1 then grDst r else mdGet md 9 10 10

/-- Member `k` of the group is usable for the packet (R251). -/
def State.usable (s : State) (r k : Nat) (md : List Nat) : Bool :=
  let m := s.plMember (grBase r + k)
  mbUp m && s.pl.upPorts.contains (mbPort m) &&
  (grMode r = 0 || (match s.linkOfPort (mbPort m) with
    | some f => s.fabLive f && mapReach (s.mapByte (groupDst r md) f)
    | none => false))

/-- The flow hash of R253. -/
def State.flowHash (s : State) (g : Nat) (md : List Nat) : Nat :=
  let words := (List.range (s.get PL_HASH_CFG.count_m1 + 1)).map (fun i => leBytes 4 (nth md (s.get PL_HASH_CFG.first_word + i)))
  crcR 0x82F63B78 (s.get PL_HASH_CFG.seed) (leBytes 2 g ++ words.flatten) ^^^ 0xFFFFFFFF

def State.penalty (s : State) (t : Nat) : Nat :=
  if t = 0 then 0 else if t = 1 then s.get PL_STEER_CFG.pen_t1
  else if t = 2 then s.get PL_STEER_CFG.pen_t2 else s.get PL_STEER_CFG.pen_t3

/-- The score of a usable member (R260). -/
def State.score (s : State) (r k : Nat) (md : List Nat) : Nat :=
  let port := mbPort (s.plMember (grBase r + k))
  let q := s.qlevel port (mdGet md 32 10 4)
  let v := if grMode r = 0 then q else
    match s.linkOfPort port with
    | some f =>
      let b := s.mapByte (groupDst r md) f
      max q (mapLevel b) + s.penalty (max (s.get (PL_LINK.neighbor_throttle f)) (mapThrottle b))
    | none => q
  min 63 (v + if s.pl.slowPipes.contains (s.pipeOf port) then s.get PL_STEER_CFG.pipe_penalty else 0)

/-- The first member whose running weight sum exceeds `r`. -/
def pickWeighted (r : Nat) : List (Nat × Nat) → Nat → Option Nat
  | [], _ => none
  | (k, w) :: t, run => if r < run + w then some k else pickWeighted r t (run + w)

/-- The choice of a new flowlet (R260). -/
def State.choose (s : State) (r h : Nat) (md : List Nat) : Option Nat :=
  let use := (List.range (grCount r)).filter (fun k => s.usable r k md)
  let heavy := use.filter (fun k => mbWeight (s.plMember (grBase r + k)) ≠ 0)
  let u := if heavy.isEmpty then use.map (fun k => (k, 1)) else heavy.map (fun k => (k, mbWeight (s.plMember (grBase r + k))))
  match minNat? (u.map (fun x => s.score r x.1 md)) with
  | none => none
  | some best =>
    let c := u.filter (fun x => s.score r x.1 md ≤ best + grSlack r)
    pickWeighted (bitsOf h 16 16 * sumNat (c.map (·.2)) / 2 ^ 16) c 0

/-- The static choice (R261). -/
def State.staticChoice (s : State) (r h : Nat) (md : List Nat) : Option Nat :=
  let n := grCount r
  ((List.range n).map (fun i => (bitsOf h 16 16 % n + i) % n)).find? (fun k => s.usable r k md)

/-- A flowlet entry (R254). -/
def flValid (e : Nat) : Bool := bitAt e 0

def flGroup (e : Nat) : Nat := bitsOf e 1 14

def flMember (e : Nat) : Nat := bitsOf e 15 8

def flTag (e : Nat) : Nat := bitsOf e 23 15

def flSeen (e : Nat) : Nat := bitsOf e 38 24

def flGen (e : Nat) : Nat := bitsOf e 62 2

def flEntry (g m tag seen gen : Nat) : Nat :=
  1 + g * 2 + m * 2 ^ 15 + tag * 2 ^ 23 + seen * 2 ^ 38 + gen * 2 ^ 62

def State.flowlet (s : State) (k : Nat) : Nat := smGet natZero s.pl.flowlets k

def State.setFlowlet (s : State) (k v : Nat) : State :=
  { s with pl := { s.pl with flowlets := smPut natZero s.pl.flowlets k v } }

/-- Wrap time [28:5]. -/
def State.flowNow (s : State) : Nat := s.wrapNow / 32 % 2 ^ 24

def State.flowIdle (s : State) (e : Nat) : Nat := (s.flowNow + 2 ^ 24 - flSeen e) % 2 ^ 24

/-- No member: the packet is dropped and counted (R255, R281). -/
def State.noMember (s : State) (k : Walk) : State × List Nat :=
  let s := (s.bump PL_STAT.no_member 1).bump (PL_PIPE_STAT2.no_member k.pipe) 1
  (s.perf (perfBlock k.pipe 35) 7 k.attr 1, mdPut k.md 34 0 2 1)

/-- The record and word 32 of a placed packet. -/
def placedWords (md : List Nat) (g h m port : Nat) : List Nat :=
  let md := mdPut (mdPut (mdPut md 32 0 10 port) 7 21 8 m) 7 29 1 1
  mdPut (mdPut md 8 0 16 (h % 2 ^ 16)) 8 16 14 g

/-- A placed packet's effects: entry refreshed as `e`, the record written. -/
def State.placed (s : State) (k : Walk) (g r h m key e : Nat) : State × List Nat :=
  (s.setFlowlet key (setBits e 38 24 s.flowNow), placedWords k.md g h m (mbPort (s.plMember (grBase r + m))))

/-- Count a new flowlet, failover or regroup (R258). -/
def State.countChoice (s : State) (k : Walk) (r e : Nat) (same : Bool) : State :=
  let s := s.perf (perfBlock k.pipe 35) 0x0A k.attr 1
  if same && s.flowIdle e < grGap r then
    if flGen e ≠ grGen r then s.bump (PL_PIPE_STAT1.regroups k.pipe) 1 else s.bump (PL_PIPE_STAT1.failovers k.pipe) 1
  else s.bump (PL_PIPE_STAT0.new_flowlets k.pipe) 1

/-- Place the packet of `k` in group `g` (R255). -/
def State.place (s : State) (k : Walk) (g : Nat) : State × List Nat :=
  let r := s.plGroup g
  let s := (s.perf (perfBlock k.pipe 35) 2 k.attr 1).perf (perfBlock k.pipe 35) 3 k.attr (mdGet k.md 2 6 14)
  if !s.flag PL_FAB_STATUS.enabled || !grValid r || (grMode r = 2 && !bitAt (nth k.md 0) 31) then s.noMember k
  else
    let h := s.flowHash g k.md
    let key := k.pipe * 2 ^ 17 + h % 2 ^ 17
    let e := s.flowlet key
    let idle := s.flowIdle e
    let same := flValid e && decide (flGroup e = g)
    let s := if same && decide (idle < grGap r) && flTag e ≠ h / 2 ^ 17 then
      s.bump (PL_PIPE_STAT0.collisions k.pipe) 1 else s
    if same && decide (flGen e = grGen r) && decide (idle < grGap r) && s.usable r (flMember e) k.md then
      s.placed k g r h (flMember e) key e
    else if flValid e && !same && decide (idle < max (grGap r) (grGap (s.plGroup (flGroup e)))) then
      match s.staticChoice r h k.md with
      | some m => (s.bump (PL_PIPE_STAT2.static_choices k.pipe) 1).placed k g r h m key e
      | none => s.noMember k
    else
      match s.choose r h k.md with
      | some m => (s.countChoice k r e same).placed k g r h m key (flEntry g m (h / 2 ^ 17) 0 (grGen r))
      | none => s.noMember k

/-- The sweep visits entry `i` of pipe `p` (R257). -/
def State.flowletSweep (s : State) (p i : Nat) : State :=
  let key := p * 2 ^ 17 + i % 2 ^ 17
  let e := s.flowlet key
  let r := s.plGroup (flGroup e)
  if flValid e && !s.gated && (!grValid r || decide (grGap r ≤ s.flowIdle e)) then s.setFlowlet key (setBits e 0 1 0) else s

def execFlowletSweep (pipe : Fin 32) (index : Nat) (s : State) : Host.Outcome State Fault Refusal :=
  .next (s.flowletSweep pipe index)

/-! ### Beacons (R264-R268) -/

def State.ownChip (s : State) : Nat := s.get PL_FAB_CFG.chip_id

/-- The neighbour of link `f` becomes live or stops being live; a link no longer live reaches nothing (R267). -/
def State.setLive (s : State) (f : Nat) (b : Bool) : State :=
  let was := s.flag (PL_LINK.neighbor_live f)
  let n := s.get PL_FAB_STATUS.links_live
  let s := s.putFlag (PL_LINK.neighbor_live f) b
  let s := s.put PL_FAB_STATUS.links_live (if b && !was then n + 1 else if !b && was then n - 1 else n)
  if b then s
  else { s with pl := { s.pl with map := s.pl.map.filterMap (fun x =>
    if x.1 % 128 = f then (if setBits x.2 6 1 0 = 0 then none else some (x.1, setBits x.2 6 1 0)) else some x) } }

/-- A beacon entry (R265). -/
def State.beaconEntry (s : State) (d out : Nat) : Nat :=
  let own := s.get PL_FAB_STATUS.own_throttle
  let entry (level throttle : Nat) : Nat := level + throttle * 2 ^ 4 + 2 ^ 6
  if d = s.ownChip then entry 0 own
  else
    let l := (List.range 128).filter (fun f => f ≠ out && s.fabLive f && mapReach (s.mapByte d f) &&
      (s.flag (PL_LINK.role out) || s.flag (PL_LINK.role f)))
    let lev (f : Nat) : Nat := max (s.portLevel (s.get (PL_LINK.port f))) (mapLevel (s.mapByte d f))
    let best := l.foldl (fun b f => match b with
      | none => some f
      | some x => if lev f < lev x then some f else some x) none
    match best with
    | some f => entry (lev f) (max (s.get (PL_LINK.neighbor_throttle f)) (mapThrottle (s.mapByte d f)))
    | none => 0

/-- The next beacon of link `f` (R264). -/
def State.beacon (s : State) (f : Nat) : List Byte :=
  let block := smGet natZero s.pl.block f
  let h := 1 * 2 ^ 120 + 5 * 2 ^ 112 + s.get PL_FAB_CFG.domain_id * 2 ^ 96 + s.ownChip * 2 ^ 86 +
    s.get PL_FAB_STATUS.own_throttle * 2 ^ 84 + block * 2 ^ 80 + smGet natZero s.pl.sweep f % 256 * 2 ^ 72 + f * 2 ^ 65 +
    s.get PL_FAB_STATUS.own_reasons * 2 ^ 60
  beBytes 16 h ++ (List.range 64).map (fun j => BitVec.ofNat 8 (s.beaconEntry (64 * block + j) f))

/-- Placement runs: from its enable until the image state is EMPTY (R92, R282), but not in Brine. -/
def State.fabEnabled (s : State) : Bool := s.flag PL_FAB_STATUS.enabled && !s.gated

/-- TCLK cycles of `n` ns, rounded up (R10). -/
def clkOfNs (n : Nat) : Nat := ceilDiv (n * clkPerUs) 1000

/-- Link `f` sends its next block: the sweep number steps at block 0, and a sweep is counted once its last block is
sent (R264, R285; the first sweep's number is a DESIGN CHOICE, notes/assumptions/84.md). -/
def State.sendBlock (s : State) (f : Nat) : State :=
  let b := smGet natZero s.pl.block f
  let s : State := if b = 0 then
      { s with pl := { s.pl with sweep := smPut natZero s.pl.sweep f ((smGet natZero s.pl.sweep f + 1) % 256) } }
    else s
  let s := s.sendStream (s.get (PL_LINK.port f)) false (s.beacon f)
  let s : State := { s with pl := { s.pl with block := smPut natZero s.pl.block f ((b + 1) % 16) } }
  if b = 15 then s.bumpWrap PL_FAB_STATUS.sweeps 1 else s

/-- The beacon interval of link `f` has passed: the next block is sent (R265). -/
def State.beaconSend (s : State) (f : Nat) : State :=
  if s.fabEnabled && s.flag (PL_LINK.valid f) && s.portUp (s.get (PL_LINK.port f)) && smGet natZero s.pl.sent f ≤ s.clk then
    ({ s with pl := { s.pl with
      sent := smPut natZero s.pl.sent f (s.clk + clkOfNs (s.get PL_BEACON_CFG.interval_ns)) } }).sendBlock f
  else s

def execBeaconSend (link : Fin 128) (s : State) : Host.Outcome State Fault Refusal := .next (s.beaconSend link)

/-- Write the block's entries of link `f`, all but the device's own (R266). -/
def State.writeBlock (s : State) (f block : Nat) (b : List Byte) : State :=
  (List.range 64).foldl (fun s j =>
    let d := 64 * block + j
    if d = s.ownChip then s
    else { s with pl := { s.pl with map := smPut natZero s.pl.map (d * 128 + f) ((b.getD (16 + j) 0).toNat % 128) } }) s

/-- A beacon arrives on a Ristlink port (R266, R276, R281). -/
def State.beaconReceive (s : State) (port : Nat) (b : List Byte) : State :=
  if !s.isRistlink port || !s.portUp port then s
  else
    let s := s.lanePerf port 0x4A 1
    match s.linkOfPort port with
    | none => s
    | some f =>
      let src := bitsOf (beAt b 0 16) 86 10
      if !s.fabEnabled then s
      else if beAt b 2 2 ≠ s.get PL_FAB_CFG.domain_id then s.badItem port
      else if src = s.ownChip then
        ((s.put (PL_LINK.dup_chip f) 1).setLive f false).raise (1536 + f) 2 (port + src * 2 ^ 10)
      else
        let s := s.puts [(PL_LINK.neighbor_chip f, src), (PL_LINK.neighbor_throttle f, bitsOf (beAt b 0 16) 84 2),
          (PL_LINK.neighbor_reasons f, bitsOf (beAt b 0 16) 60 4)]
        let s := { s with pl := { s.pl with heard := smPut natZero s.pl.heard f s.clk } }
        let s := s.writeBlock f (bitsOf (beAt b 0 16) 80 4) b
        if s.flag (PL_LINK.dup_chip f) then s else s.setLive f true

def execBeaconReceive (port : Fin 1024) (bytes : List Byte) (s : State) : Host.Outcome State Fault Refusal :=
  .next (s.beaconReceive port bytes)

/-- `timeout` intervals have passed without an accepted beacon (R267). -/
def State.neighborTimeout (s : State) (f : Nat) : State :=
  if s.flag (PL_LINK.neighbor_live f) &&
      smGet natZero s.pl.heard f + clkOfNs (s.get PL_BEACON_CFG.timeout * s.get PL_BEACON_CFG.interval_ns) ≤ s.clk then
    s.setLive f false
  else s

def execNeighborTimeout (link : Fin 128) (s : State) : Host.Outcome State Fault Refusal :=
  .next (s.neighborTimeout link)

/-! ### Credits (R277-R279, R323) -/

/-- A CREDIT item arrives: absolute counts, or returns that are added (R279). -/
def State.creditReceive (s : State) (port : Nat) (b : List Byte) : State :=
  if !s.isRistlink port || !s.portUp port then s
  else
    let s := s.lanePerf port 0x4A 1
    let init := bitAt (beAt b 2 1) 0
    (List.range 4).foldl (fun s c =>
      let n := beAt b (4 + 2 * c) 2
      let x := s.credit (port * 4 + c)
      s.setCredit (port * 4 + c) (if init then { x with avail := n, init := n, heard := true } else { x with avail := min 65535 (x.avail + n) })) s

def execCreditReceive (port : Fin 1024) (bytes : List Byte) (s : State) : Host.Outcome State Fault Refusal :=
  .next (s.creditReceive port bytes)

/-- A CREDIT item (R278). -/
def creditItem (init : Bool) (counts : List Nat) : List Byte :=
  beBytes 1 2 ++ beBytes 1 1 ++ beBytes 1 (b2n init) ++ beBytes 1 0 ++
  ((List.range 4).map (fun c => beBytes 2 (nth counts c))).flatten ++ beBytes 4 0

/-- Send the init item that a link-up owes, else the returns owed, unless the FIFO withholds them (R279). -/
def State.creditSend (s : State) (port : Nat) : State :=
  if !s.fabEnabled || !s.isRistlink port || !s.portUp port then s
  else if s.pl.initOwed.contains port then
    let counts := (List.range 4).map (fun c => if s.isLossless port c then (s.headroom port c).cells else 0)
    ({ s with pl := { s.pl with initOwed := s.pl.initOwed.filter (fun p => p ≠ port) } }).sendStream port
      false (creditItem true counts)
  else
    let counts := (List.range 4).map (fun c => min 65535 (s.credit (port * 4 + c)).owed)
    if counts.all (fun n => n = 0) || 98304 < s.fifoFill (s.pipeOf port) then s
    else
      let s := (List.range 4).foldl (fun s c =>
        let x := s.credit (port * 4 + c)
        s.setCredit (port * 4 + c) { x with owed := x.owed - nth counts c }) s
      s.sendStream port false (creditItem false counts)

def execCreditReturnSend (port : Fin 1024) (s : State) : Host.Outcome State Fault Refusal :=
  .next (s.creditSend port)

/-- Credits of a Ristlink port at link up (R279 steps 1 and 2). -/
def State.creditStart (s : State) (port : Nat) : State :=
  let s := (List.range 4).foldl (fun s c => s.setCredit (port * 4 + c) {}) s
  { s with pl := { s.pl with initOwed := s.pl.initOwed.filter (fun p => p ≠ port) ++ [port] } }

/-! ### Enable, disable and the indirect interface (R252, R282, R283, R285) -/

def State.plEnable (s : State) : State := s.startCheck PL_ENABLE_STATUS.regOff .placement []

def execPlEnable (s : State) : Host.Outcome State Fault Refusal := .next (s.gatedWrite State.plEnable)

/-- Member `i`'s port fails 0x0607, or 0x0608 for a group of mode 1 or 2. -/
def State.memberReason (s : State) (mode i : Nat) : Option Nat :=
  let port := mbPort (s.plMember i)
  if (s.mapRec port).isNone then some 0x607
  else if (mode = 1 || mode = 2) && (s.linkOfPort port).isNone then some 0x608
  else none

/-- The reason for which one record is refused, with reason order 0x0604 to 0x0608. -/
def State.groupReason (s : State) (r : Nat) : Option Nat :=
  if !grValid r then none
  else if grCount r = 0 || 256 < grCount r || 262144 < grBase r + grCount r then some 0x604
  else if grMode r = 3 || (grMode r = 1 && grDst r = s.ownChip) then some 0x605
  else if grGap r = 0 then some 0x606
  else
    let l := (List.range (grCount r)).filterMap (fun k => s.memberReason (grMode r) (grBase r + k))
    minNat? l

/-- A link names no Ristlink port of the map, or a port that another names. -/
def State.linkBad (s : State) (n : Nat) : Bool :=
  let port := s.get (PL_LINK.port n)
  s.flag (PL_LINK.valid n) && ((match s.mapRec port with | some r => r.link ≠ 2 | none => true) ||
    (List.range 128).any (fun m => m ≠ n && s.flag (PL_LINK.valid m) && s.get (PL_LINK.port m) = port))

/-- The first group, ascending, refused with reason `x`. -/
def State.groupWith (s : State) (x : Nat) : Bool × Nat × Nat :=
  someReason x (firstKey (s.validGroups.map (·.1)) (fun g => s.groupReason (s.plGroup g) = some x)) id

/-- The placement check (R283). -/
def State.plReason (s : State) : Option (Nat × Nat) :=
  let iv := s.get PL_BEACON_CFG.interval_ns
  firstReason [
    (!s.imageActive, 0x601, 0),
    (s.get PL_FAB_CFG.domain_id = 0, 0x602, 0),
    someReason 0x603 (firstKey (List.range 128) s.linkBad) id,
    s.groupWith 0x604, s.groupWith 0x605, s.groupWith 0x606, s.groupWith 0x607, s.groupWith 0x608,
    (iv < 250 || 16000 < iv || s.get PL_BEACON_CFG.timeout < 4, 0x609, 0),
    (s.get PL_FAB_CFG.hop_limit = 0, 0x60A, 0),
    (127 < s.get PL_HASH_CFG.first_word + s.get PL_HASH_CFG.count_m1, 0x60B, 0),
    (s.flag PL_FAB_STATUS.enabled, 0x60D, 0)]

/-- The map as at a fresh start; beacons resume at block 0 (R271, R282). A neighbour stays live until its own time is
over (R267). -/
def State.clearMap (s : State) : State := { s with pl := { s.pl with map := [], block := [], sent := [] } }

/-- An accepted enable (R282). -/
def State.plAccepted (s : State) : State :=
  let s := s.clearMap
  ({ s with pl := { s.pl with flowlets := [] } }).put PL_FAB_STATUS.enabled 1

/-- PL_CTL.disable (R282, R281). -/
def State.plDisable (s : State) : State :=
  if !s.flag PL_FAB_STATUS.enabled then s
  else
    let s := (List.range 128).foldl (fun s f => s.put (PL_LINK.dup_chip f) 0) s
    ({ s with pl := { s.pl with flowlets := [] } }).put PL_FAB_STATUS.enabled 0

def execPlDisable (s : State) : Host.Outcome State Fault Refusal := .next (s.gatedWrite State.plDisable)

def State.plIndGo (s : State) (write : Bool) : State :=
  s.beginInd PL_IND_CMD.regOff PL_IND_CMD.busy write (s.raw PL_IND_ADDR.regOff).toNat [(s.raw PL_IND_DATA.regOff).toNat]

def execPlIndWrite (s : State) : Host.Outcome State Fault Refusal := .next (s.gatedWrite (fun s => s.plIndGo true))

def execPlIndRead (s : State) : Host.Outcome State Fault Refusal := .next (s.gatedWrite (fun s => s.plIndGo false))

/-- A record as it will stand: gen kept, or stepped when base or count changes (R252). -/
def newGroup (old d : Nat) : Nat :=
  let gen := if bitsOf d 0 27 ≠ bitsOf old 0 27 then (grGen old + 1) % 4 else grGen old
  setBits (setBits d 59 2 gen) 62 2 0

/-- The valid groups of mode 1 or 2 that use member `i`. -/
def State.fabricUser (s : State) (i : Nat) : Bool :=
  s.validGroups.any (fun x => (grMode x.2 = 1 || grMode x.2 = 2) && grBase x.2 ≤ i && i < grBase x.2 + grCount x.2)

/-- What refuses an indirect command (R283). -/
def State.plIndReason (s : State) (j : IndJob) : Nat :=
  let i := bitsOf j.addr 0 18
  let t := bitsOf j.addr 23 3
  let d := nth j.data 0
  let limit := if t = 0 then 16384 else if t = 1 then 262144 else 131072
  if 4 ≤ t || (j.write && (t = 2 || t = 3)) || limit ≤ i then 0x60C
  else if j.write && s.flag PL_FAB_STATUS.enabled then
    if t = 0 then (s.groupReason d).getD 0
    else
      let s := { s with pl := { s.pl with members := smPut natZero s.pl.members i (bitsOf d 0 19) } }
      (s.memberReason (if s.fabricUser i then 1 else 0) i).getD 0
  else 0

def State.plIndItem (s : State) (t i pipe : Nat) : Nat :=
  if t = 0 then s.plGroup i else if t = 1 then s.plMember i
  else if t = 2 then smGet natZero s.pl.map i else s.flowlet (pipe * 2 ^ 17 + i)

/-- A placement indirect command completes (R629). -/
def State.plIndDone (s : State) (j : IndJob) : State :=
  let r := s.plIndReason j
  let i := bitsOf j.addr 0 18
  let t := bitsOf j.addr 23 3
  let d := nth j.data 0
  let s := if r ≠ 0 then s
    else if !j.write then s.setRaw PL_IND_DATA.regOff (BitVec.ofNat 64 (s.plIndItem t i (bitsOf j.addr 18 5)))
    else if t = 0 then { s with pl := { s.pl with groups := smPut natZero s.pl.groups i (newGroup (s.plGroup i) d) } }
    else { s with pl := { s.pl with members := smPut natZero s.pl.members i (bitsOf d 0 19) } }
  s.puts [(PL_IND_CMD.refused, b2n (r ≠ 0)), (PL_IND_CMD.reason, r), (PL_IND_CMD.busy, 0)]

/-- Available credits of the link's port as PL_LINK_CRED shows them (R286). -/
def State.linkCredits (s : State) (n : Nat) : Nat :=
  let port := s.get (PL_LINK.port n)
  if s.flag (PL_LINK.valid n) then
    sumNat ((List.range 4).map (fun c => (s.credit (port * 4 + c)).avail * 2 ^ (16 * c)))
  else 0

end Sys2Proof.Machine
end

