-- ==== Sys2Proof/Machine/Sched.lean ====
section
/-! DEFINITION. The port schedulers: eligibility, the choice of a departure, the starvation guard, received PFC, gate
takeovers and the indirect interface (09_scheduling_shaping.md R337-R367). -/

namespace Sys2Proof.Machine

/-! ### Eligibility (R341) -/

/-- Cells of credit that a frame needs: of a frame whose length is not yet known, those of the longest (R277, R279;
DEDUCED, notes/assumptions/85.md). -/
def frameCredits (p : Pkt) : Nat := if p.whole then ceilDiv p.bytes.length 256 else 64

/-- The frame is lossless on a Ristlink port and so sent only against credit. -/
def State.credited (s : State) (port : Nat) (p : Pkt) : Bool := s.isRistlink port && s.isLossless port (mdClass p.w.md)

/-- The frame needs more credits than its class's init count since link up: it can never obtain them (R279). -/
def State.neverCredit (s : State) (port : Nat) (p : Pkt) : Bool :=
  let c := s.credit (port * 4 + mdClass p.w.md)
  s.credited port p && c.heard && decide (c.init < ceilDiv p.bytes.length 256)

/-- A lossless frame of a Ristlink port waits for credit; one that never can have it does not wait (R279). -/
def State.waitsCredit (s : State) (port : Nat) (p : Pkt) : Bool :=
  s.credited port p && decide ((s.credit (port * 4 + mdClass p.w.md)).avail < frameCredits p) && !s.neverCredit port p

/-- Bytes of the frames that the scheduler has chosen from queue `q` of a port and that have not left. -/
def State.holding (s : State) (port q : Nat) : Nat :=
  sumNat ((s.pk.copies.filter (fun c => c.queue = queueOf port q && c.at' ≠ .queued)).map (fun c =>
    match s.pkt c.pkt with | some p => p.bytes.length | none => 0))

/-- The queue's holding buffer has room for a frame: it is empty, or holds less than its capacity, which the spec does
not give (R341; notes/assumptions/86.md). -/
def State.holdRoom (s : State) (port q : Nat) (p : Pkt) : Bool :=
  s.holding port q = 0 || decide (s.holding port q + p.bytes.length ≤ 16383 + Config.holdOver)

/-- The head copy may start: written whole, ended by a stall, or in cut-through (R43). -/
def copyReady (p : Pkt) (c : Copy) : Bool := p.last || p.ended || (c.cut && !p.cells.isEmpty)

def State.queueEligible (s : State) (port q : Nat) : Bool :=
  let x := s.schQueue (queueOf port q)
  match s.head (queueOf port q) with
  | none => false
  | some c =>
    match s.pkt c.pkt with
    | none => false
    | some p =>
      copyReady p c && hasCredit (s.profile x.profile) x.bucket s.clk &&
      s.gateOpen port q ((s.wrapNow + s.get SCHED_G_CFG.lead_ns) % 2 ^ 48) && !s.pfcHeld port q &&
      !s.waitsCredit port p && s.holdRoom port q p

/-- A child is eligible; `fuel` bounds the nesting. -/
def State.childEligible (s : State) (port : Nat) : Nat → Nat → Bool
  | 0, _ => false
  | fuel + 1, key =>
    if key < 16 then s.queueEligible port key
    else
      let x := s.schNode (port * 64 + (key - 16))
      hasCredit (s.profile x.profile) x.bucket s.clk &&
      (s.children port (key - 16)).any (fun c => s.childEligible port fuel c)

def State.eligible (s : State) (port n : Nat) : List Nat :=
  (s.children port n).filter (s.childEligible port depthFuel)

def State.rootEligible (s : State) (port : Nat) : Bool :=
  hasCredit (s.rootProfile port) (s.schRoot port).bucket s.clk && !(s.eligible port 0xFF).isEmpty

/-! ### Child state by key -/

def State.setCur (s : State) (port n key : Nat) : State :=
  if n = 0xFF then s.setSchRoot port { s.schRoot port with cur := some key }
  else s.setSchNode (port * 64 + n) { s.schNode (port * 64 + n) with cur := some key }

/-- The earliest of admission times, by their wrap order (R31). -/
def earliestOf (l : List Nat) : Option Nat :=
  l.foldl (fun b x => match b with
    | none => some x
    | some y => if wrapBefore x y then some x else some y) none

/-- The earliest head admission of an eligible promoted queue at or beneath a child. -/
def State.promotedHead (s : State) (port : Nat) : Nat → Nat → Option Nat
  | 0, _ => none
  | fuel + 1, key =>
    if key < 16 then
      if (s.schQueue (queueOf port key)).promoted && s.queueEligible port key then
        (s.head (queueOf port key)).map (·.admitAt)
      else none
    else earliestOf (((s.eligible port (key - 16))).filterMap (fun c => s.promotedHead port fuel c))

/-! ### The choice (R342) -/

/-- Members after the current child, then the others, both ascending. -/
def turnOrder (e : List Nat) (cur : Option Nat) : List Nat :=
  match cur with
  | none => e
  | some c => e.filter (fun k => c < k) ++ e.filter (fun k => k ≤ c)

/-- Rounds that suffice for some member to reach a positive deficit. -/
def State.turnRounds (s : State) (port : Nat) (e : List Nat) : Nat :=
  e.foldl (fun a k => max a ((-(s.child port k).deficit).toNat / (max 1 (s.child port k).quantum) + 2)) 1

/-- One pass of turn() over the members in order. -/
def State.turnPass (s : State) (port n : Nat) : List Nat → State × Option Nat
  | [] => (s, none)
  | k :: t =>
    let x := s.child port k
    let x := { x with quantum := x.later.getD x.quantum, later := none }
    let d := min x.deficit 0 + (x.quantum : Int)
    let s := s.setChild port k { x with deficit := d }
    if 0 < d then (s.setCur port n k, some k) else s.turnPass port n t

def State.turn (s : State) (port n : Nat) (order : List Nat) : Nat → State × Option Nat
  | 0 => (s, none)
  | fuel + 1 =>
    match s.turnPass port n order with
    | (s, some k) => (s, some k)
    | (s, none) => s.turn port n order fuel

/-- The child that node `n` gives its departure to. -/
def State.pickChild (s : State) (port n : Nat) : State × Option Nat :=
  let e := s.eligible port n
  let p := e.filterMap (fun k => (s.promotedHead port depthFuel k).map (fun a => (a, k)))
  match p with
  | x :: t => (s, some (t.foldl (fun b y => if wrapBefore y.1 b.1 then y else b) x).2)
  | [] =>
    match (e.filter (fun k => (s.child port k).quantum = 0)).getLast? with
    | some k => (s, some k)
    | none =>
      match s.curOf port n with
      | some c =>
        if e.contains c && decide (0 < (s.child port c).deficit) then (s, some c)
        else s.turn port n (turnOrder e (some c)) (s.turnRounds port e)
      | none => s.turn port n (turnOrder e none) (s.turnRounds port e)

/-- pick(): the chosen queue and the keys on the path to it. -/
def State.pick (s : State) (port : Nat) : Nat → Nat → List Nat → State × Option (Nat × List Nat)
  | 0, _, _ => (s, none)
  | fuel + 1, n, path =>
    match s.pickChild port n with
    | (s, none) => (s, none)
    | (s, some k) => if k < 16 then (s, some (k, path ++ [k])) else s.pick port fuel (k - 16) (path ++ [k])

/-- Debit the children on the path (R342). -/
def State.debitPath (s : State) (port n : Nat) : List Nat → State
  | [] =>
    let r := s.schRoot port
    s.setSchRoot port { r with bucket := debitBucket (s.rootProfile port) r.bucket s.clk n }
  | k :: t =>
    let x := s.child port k
    let s := s.setChild port k { x with
      deficit := if x.quantum ≠ 0 then x.deficit - (n : Int) else x.deficit
      bucket := debitBucket (s.profile x.profile) x.bucket s.clk n
      promoLeft := if x.promoted then x.promoLeft - (n : Int) else x.promoLeft }
    s.debitPath port n t

/-- The charge of a departure (R340). -/
def State.schedCharge (s : State) (port : Nat) (p : Pkt) : Nat :=
  (if p.whole || p.ended then p.bytes.length else s.get BUF_G_ACTIVE.resv_cells * 256) +
  s.get (SCHED_PORT_CFG.ovh_bytes port)

/-! ### A decision and the way to stage 20 (R113, R124, R342, R371) -/

/-- The copy's metadata at its entry to stage 20: its index and copy_data, and words 4 and 6 of the record. -/
def State.egressWords (s : State) (p : Pkt) (c : Copy) : List Nat :=
  let md := setAt p.w.md 27 (c.idx + c.data * 2 ^ 16)
  let port := if isPortQueue c.queue then c.queue / 16 else 0
  let q := if isPortQueue c.queue then c.queue % 16 else 0
  let md := setAt md 4 (port + q * 2 ^ 10 + c.idx * 2 ^ 14)
  let md := setAt md 6 (s.wrapNow % 2 ^ 32)
  mdPut md 2 23 1 (b2n c.ecn)

/-- Copy `c` leaves its queue for stage 20 of its port's pipe and stands behind those chosen before it. -/
def State.sendToStages (s : State) (port : Nat) (p : Pkt) (c : Copy) : State :=
  let md := setAt (s.egressWords p c) 7 (nth c.w.md 7)
  let w : Walk := { pipe := s.pipeOf port, stage := 20, port := port, fn := p.w.fn, first := p.w.first
                    injected := p.w.injected, rq := 0, md := md, look := p.w.look, times := [] }
  let a : PerfAttr := { p.w.attr with port := some port, pipe := some (s.pipeOf port) }
  let b := perfBlock (s.pipeOf port) 37
  let c := { c with at' := .stages, w := { w with notes := [⟨b, 2, a, 1⟩, ⟨b, 3, a, p.bytes.length⟩] } }
  { s with pk := { s.pk with copies := s.pk.copies.filter (fun d => d.id ≠ c.id) ++ [c] } }

/-- One scheduler decision of a port (R342, R345); the port leaves LPI (R410). -/
def State.schedDecide (s : State) (port : Nat) : State :=
  if s.gated || !s.linkPasses port || !s.rootEligible port then s
  else
    match s.pick port depthFuel 0xFF [] with
    | (s, some (q, path)) =>
      match s.head (queueOf port q) with
      | some c =>
        match s.pkt c.pkt with
        | some p =>
          let s := (s.debitPath port (s.schedCharge port p) path).sendToStages port p c
          (s.put (PORT_STATUS.lpi_tx (s.laneOf port)) 0).settleSched port
        | none => s
      | none => s
    | (s, none) => s

def execSchedDecide (port : Fin 1024) (s : State) : Host.Outcome State Fault Refusal := .next (s.schedDecide port)

/-! ### Starvation guard (R358, R359) -/

def State.starveCheck (s : State) (k : Nat) : State :=
  let x := s.schQueue k
  match s.head k with
  | some c =>
    if x.starve ≠ 0 && !x.promoted && s.flag SCHED_G_CFG.promo_en && decide (((x.starve * 1000 : Nat) : Int) < wrapDiff s.wrapNow c.admitAt) then
      let s := s.setSchQueue k { x with promoted := true, promoLeft := if x.quantum = 0 then 1 else (x.quantum : Int) }
      (s.setPromoted (k / 16) (k % 16) true).bump (SCHED_PIPE_STAT0.promotions (s.pipeOf (k / 16))) 1
    else s
  | none => s

def execStarvationCheck (s : State) : Host.Outcome State Fault Refusal :=
  .next (if s.gated then s else (s.sch.queues.map (·.1)).foldl State.starveCheck s)

/-! ### Pause timers (R360) -/

/-- A pause timer that has run out releases its queues. -/
def State.pauseExpire (s : State) (port i : Nat) : State :=
  if s.pauseEnd port i ≠ 0 && decide (s.pauseEnd port i ≤ s.clk) then
    ({ s with sch := { s.sch with pause := smPut natZero s.sch.pause (port * 8 + i) 0 } }).showPaused port
  else s

def execPauseTimerExpire (port : Fin 1024) (priority : Fin 8) (s : State) : Host.Outcome State Fault Refusal :=
  .next (s.pauseExpire port priority)

/-! ### Gate lists (R353, R355-R357, R364) -/

def execGateEntryChange (port : Fin 1024) (s : State) : Host.Outcome State Fault Refusal :=
  .next (if (s.gateList port).isSome && !s.gated then s.showGates port else s)

/-- SCHED_GATE_CTL.go: the values are taken and the check runs. -/
def State.gateGo (s : State) : State :=
  s.startCheck SCHED_ENABLE_STATUS.regOff .gate
    [s.get SCHED_GATE_CTL.port, s.get SCHED_GATE_CTL.bank, s.get SCHED_GATE_CTL.len_m1,
     s.get SCHED_GATE_CTL.open_all, s.get SCHED_GATE_TIME.base]

def execGateTakeoverGo (s : State) : Host.Outcome State Fault Refusal := .next (s.gatedWrite State.gateGo)

def gateOfArgs (a : List Nat) : GateList :=
  { bank := nth a 1, len := nth a 2 + 1, base := nth a 4, openAll := nth a 3 = 1 }

/-- The takeover check (R364), on the values taken at go. -/
def State.gateReason (s : State) (a : List Nat) : Option (Nat × Nat) :=
  let port := nth a 0
  let l := gateOfArgs a
  firstReason [
    (!s.imageActive, 0x401, 0),
    ((s.mapRec port).isNone || s.isRistlink port, 0x402, port),
    ((s.gatePend port).isSome, 0x403, port),
    (wrapDiff l.base s.wrapNow < 1000, 0x404, port),
    (match s.gateList port with | some r => decide (r.bank = l.bank) | none => false, 0x405, port),
    (!l.openAll && (s.listEntries port l).any (fun e => gateLen e < 32), 0x406, port)]

def State.gateAccepted (s : State) (a : List Nat) : State :=
  let port := nth a 0
  ({ s with sch := { s.sch with pend := smPut noList s.sch.pend port (some (gateOfArgs a)) } }).put
    (SCHED_PORT_STAT.pending port) 1

def execGateTakeover (port : Fin 1024) (s : State) : Host.Outcome State Fault Refusal := .next (s.gateTakeover port)

/-- Every list stops and every pending takeover is cancelled (R356). -/
def State.stopGates (s : State) : State :=
  let ports := (s.sch.lists.map (·.1)) ++ (s.sch.pend.map (·.1))
  let s := { s with sch := { s.sch with lists := [], pend := [] } }
  ports.foldl (fun s p => (s.showGates p).put (SCHED_PORT_STAT.pending p) 0) s

/-! ### The indirect interface (R365, R367) -/

def State.schedIndGo (s : State) (write : Bool) : State :=
  s.beginInd SCHED_IND_CMD.regOff SCHED_IND_CMD.busy write (s.raw SCHED_IND_ADDR.regOff).toNat
    [(s.raw (SCHED_IND_DATA.regOff 0)).toNat, (s.raw (SCHED_IND_DATA.regOff 1)).toNat]

def execSchedIndWrite (s : State) : Host.Outcome State Fault Refusal := .next (s.gatedWrite (fun s => s.schedIndGo true))

def execSchedIndRead (s : State) : Host.Outcome State Fault Refusal := .next (s.gatedWrite (fun s => s.schedIndGo false))

/-- The gate bank that an entry index names is running or pending. -/
def State.gateBankBusy (s : State) (i : Nat) : Bool :=
  let uses (l : Option GateList) : Bool := match l with | some l => decide (l.bank = i / 256 % 2) && !l.openAll | none => false
  uses (s.gateList (i / 512)) || uses (s.gatePend (i / 512))

/-- What refuses an indirect command. -/
def State.schedIndReason (s : State) (j : IndJob) : Nat :=
  let i := bitsOf j.addr 0 20
  let t := bitsOf j.addr 20 3
  let d := nth j.data 0
  let limit := if t = 0 then 1024 else if t = 1 then 65536 else if t = 2 then 16384 else if t = 3 then 16384 else 524288
  if 5 ≤ t || limit ≤ i then 0x410
  else if (t = 1 || t = 2) && !s.imageActive then 0x416
  else if (t = 1 && !(s.schNode i).declared) || (t = 2 && !(s.schQueue i).declared) then 0x410
  else if !j.write then 0
  else if t = 0 then
    (if i = 0 || 3200000 < profRate d || (profRate d ≠ 0 && (profBurst d < 16384 || 16777215 < profBurst d)) then 0x411 else 0)
  else if t = 1 || t = 2 then (if quantumBad (bitsOf d 0 32) then 0x412 else 0)
  else if t = 3 then (if 2 ≤ polAction d then 0x414 else 0)
  else if s.gateBankBusy i || gateLen d < 32 then 0x415 else 0

/-- Every bucket that names profile `n` follows its change (R346). -/
def State.writeProfile (s : State) (n d : Nat) : State :=
  let old := s.profile n
  let fix (x : SNode) : SNode := if x.profile = n then { x with bucket := rebucket old d x.bucket s.clk } else x
  let all : List PortRec := match s.img.active with | some g => g.ports | none => []
  let ports := (all.map (fun r => r.port)).filter (fun p => s.get (SCHED_PORT_CFG.profile p) = n)
  let pols := (s.sch.policers.filter (fun x => polProfile x.2 = n)).map (·.1)
  let s := { s with sch := { s.sch with
    nodes := s.sch.nodes.map (fun (x : Nat × SNode) => (x.1, fix x.2))
    queues := s.sch.queues.map (fun (x : Nat × SNode) => (x.1, fix x.2)) } }
  let s := ports.foldl (fun s p => s.setSchRoot p { s.schRoot p with bucket := rebucket old d (s.schRoot p).bucket s.clk }) s
  let s := pols.foldl (fun s i => s.rebucketPolicer i old d) s
  { s with sch := { s.sch with profiles := smPut natZero s.sch.profiles n d } }

/-- Quantum and profile of a child change; its bucket moves with the profile, and a quantum written during its turn
waits for its next turn (R363). -/
def State.retune (s : State) (port key d : Nat) : SNode :=
  let x := s.child port key
  let n := bitsOf d 32 10
  { x with
    quantum := if s.inTurn port key then x.quantum else bitsOf d 0 32
    later := if s.inTurn port key then some (bitsOf d 0 32) else none
    profile := n
    bucket := if n = x.profile then x.bucket else rebucket (s.profile x.profile) (s.profile n) x.bucket s.clk }

def State.schedIndWrite (s : State) (t i d : Nat) : State :=
  match t with
  | 0 => s.writeProfile i (setBits (bitsOf d 0 48) 22 2 0)
  | 1 => s.setSchNode i (s.retune (i / 64) (16 + i % 64) d)
  | 2 => s.setSchQueue i { s.retune (i / 16) (i % 16) d with starve := bitsOf d 42 16 }
  | 3 =>
    let old := s.policer i
    let s := s.rebucketPolicer i (s.profile (polProfile old)) (s.profile (polProfile d))
    { s with sch := { s.sch with policers := smPut natZero s.sch.policers i (bitsOf d 0 12) } }
  | _ => { s with sch := { s.sch with gates := smPut natZero s.sch.gates i (bitsOf d 0 40) } }

/-- Credit in whole bytes as a signed 32-bit number; 0 when unshaped (R367). -/
def creditShown (d : Nat) (b : Option Bucket) (clk : Nat) : Nat :=
  if shaped d then toBits 32 (bucketCredit d b clk / (creditUnit : Int)) else 0

def State.nodeShown (s : State) (x : SNode) : Nat :=
  toBits 32 x.deficit + creditShown (s.profile x.profile) x.bucket s.clk * 2 ^ 32

def State.schedIndItem (s : State) (t i pipe : Nat) : Nat × Nat :=
  match t with
  | 0 => (s.profile i, 0)
  | 1 =>
    let x := s.schNode i
    (x.later.getD x.quantum + x.profile * 2 ^ 32 + x.parent * 2 ^ 48 + b2n x.declared * 2 ^ 56, s.nodeShown x)
  | 2 =>
    let x := s.schQueue i
    (x.later.getD x.quantum + x.profile * 2 ^ 32 + x.starve * 2 ^ 42 + x.parent % 64 * 2 ^ 58, s.nodeShown x)
  | 3 =>
    let d := s.policer i
    (d, creditShown (s.profile (polProfile d)) (s.polBucket pipe i) s.clk + smGet natZero s.sch.polExceed i * 2 ^ 32)
  | _ => (smGet natZero s.sch.gates i, 0)

/-- A scheduler indirect command completes (R629). -/
def State.schedIndDone (s : State) (j : IndJob) : State :=
  let r := s.schedIndReason j
  let i := bitsOf j.addr 0 20
  let t := bitsOf j.addr 20 3
  let s := if r ≠ 0 then s
    else if j.write then s.schedIndWrite t i (nth j.data 0)
    else
      let (a, b) := s.schedIndItem t i (bitsOf j.addr 23 5)
      (s.setRaw (SCHED_IND_DATA.regOff 0) (BitVec.ofNat 64 a)).setRaw (SCHED_IND_DATA.regOff 1) (BitVec.ofNat 64 b)
  s.puts [(SCHED_IND_CMD.refused, b2n (r ≠ 0)), (SCHED_IND_CMD.reason, r), (SCHED_IND_CMD.busy, 0)]

/-! ### Image activation and disable -/

/-- The image's tree: every node, queue and port bucket starts full (R337, R346). -/
def State.schedActivate (s : State) (g : Image) : State :=
  let nodes := g.queues.foldl (fun m r => r.nodes.foldl (fun m x => smPut snDefault m (r.port * 64 + x.node)
    { declared := true, parent := x.parent, quantum := x.quantum, profile := x.shaper }) m) []
  let queues := g.queues.foldl (fun m r => r.queues.foldl (fun m x => smPut snDefault m (queueOf r.port x.queue)
    { declared := true, parent := x.node, quantum := x.quantum, profile := x.shaper, starve := x.starve }) m) []
  { s with sch := { s.sch with nodes := nodes, queues := queues, roots := [], polBuckets := [] } }

/-- The tree goes at image disable; profiles, policers and gate entries stay (R348, R356). -/
def State.schedClear (s : State) : State :=
  let ports := (s.sch.queues.map (fun x => x.1 / 16)).eraseDups
  let s := s.stopGates
  let s := { s with sch := { s.sch with nodes := [], queues := [], roots := [], polBuckets := [] } }
  ports.foldl (fun s p => s.put (SCHED_PORT_STAT.promoted p) 0) s

end Sys2Proof.Machine
end

