-- ==== Sys2Proof/Machine/Postcard.lean ====
section
/-! DEFINITION. Postcards and tracers: records, the rate limit, the exporter's FIFO and its frames
(10_telemetry_metering.md R393-R397, R399). -/

namespace Sys2Proof.Machine

/-- The 64 bytes of a slot: record words 0 to 15 in network order (R395). -/
def recordBytes (md : List Nat) : List Byte := ((List.range 16).map (fun i => beBytes 4 (nth md i))).flatten

/-- A trace value: the time since `base` (wrap ns [31:0]) in 0.25 ns, saturating (R397). -/
def traceValue (t base : Nat) : Nat := min 65535 ((t % 2 ^ 34 + 2 ^ 34 - base * 4) % 2 ^ 34)

/-- The trace block of stage entry times: ingress less rx_ts, egress less depart_ts. -/
def traceBlock (md : List Nat) (ingress egress : List Nat) : List Byte :=
  let v (i : Nat) : Nat :=
    if i < 20 then (match ingress[i]? with | some t => traceValue t (nth md 3) | none => 0)
    else (match egress[i - 20]? with | some t => traceValue t (nth md 6) | none => 0)
  ((List.range 32).map (fun i => leBytes 2 (v i))).flatten

/-- Postcard tokens in 1/800: POST_CFG.rate_per_us of these units come each clock (R394). -/
def State.postTokens (s : State) (p : Nat) : Nat :=
  let top := s.get POST_CFG.burst * 800
  match smGet (fun _ => (none : Option (Nat × Nat))) s.mtr.tokens p with
  | none => top
  | some (n, at') => min top (n + s.get POST_CFG.rate_per_us * (s.clk - at'))

def State.takeTokens (s : State) (p n : Nat) : State :=
  let left := s.postTokens p - n * 800
  { s with mtr := { s.mtr with tokens := smPut (fun _ => none) s.mtr.tokens p (some (left, s.clk)) } }

def itemSlots (i : PostItem) : Nat := i.bytes.length / 64

def State.fifoSlots (s : State) : Nat := sumNat (s.mtr.posts.map itemSlots)

/-- The record of a packet not admitted, or of a copy at the end of stage 31 (R393, R394). -/
def State.postcard (s : State) (k : Walk) (ingress egress : List Nat) : State :=
  let b := perfBlock k.pipe 38
  let s := (s.perf b 2 k.attr 1).perf b 3 k.attr (mdGet k.md 2 6 14)
  let tracer := bitAt (nth k.md 2) 25
  if !s.mtr.postOn || bitAt (nth k.md 2) 30 || !(tracer || bitAt (nth k.md 2) 26) then s
  else
    let n := if tracer then 2 else 1
    if s.postTokens k.pipe < n * 800 then s.bump (TEL_PIPE_STAT0.rate_drops k.pipe) 1
    else
      let s := s.takeTokens k.pipe n
      if 4096 < s.fifoSlots + n then s.bump POST_STAT.fifo_drops 1
      else
        let md := if tracer then mdPut k.md 2 29 1 1 else k.md
        let bytes := recordBytes md ++ (if tracer then traceBlock md ingress egress else [])
        let s := { s with mtr := { s.mtr with posts := s.mtr.posts ++ [(⟨bytes, s.clk⟩ : PostItem)] } }
        (s.bump (TEL_PIPE_STAT0.postcards k.pipe) 1).perf b 0x0D k.attr 1

/-! ### The exporter (R395) -/

/-- The items of the next frame: as many as fit in `room` slots; a first item always goes. -/
def fitItems (room : Nat) : List PostItem → List PostItem
  | [] => []
  | i :: t => if itemSlots i ≤ room then i :: fitItems (room - itemSlots i) t else []

def State.nextItems (s : State) : List PostItem :=
  match fitItems (s.get POST_CFG.max_slots) s.mtr.posts with
  | [] => s.mtr.posts.take 1
  | l => l

/-- The frame is due: full, followed by a record that would not fit, or flush_us after its first slot. -/
def State.frameDue (s : State) : Bool :=
  let l := s.nextItems
  match s.mtr.posts with
  | [] => false
  | i :: _ => s.get POST_CFG.max_slots ≤ sumNat (l.map itemSlots) || l.length < s.mtr.posts.length ||
      i.at' + s.get POST_CFG.flush_us * clkPerUs ≤ s.clk

/-- Template bytes. -/
def State.template (s : State) : List Byte :=
  (((List.range 16).map (fun j => leBytes 8 (s.raw (POST_TMPL.regOff j)).toNat)).flatten).take (s.get POST_TMPL_CFG.hdr_len)

/-- The template patches of a frame of `n` bytes without FCS. -/
def State.patchFrame (s : State) (l : List Byte) : List Byte :=
  let n := l.length
  let put (l : List Byte) (en : Bool) (off sub : Nat) : List Byte :=
    if en then patchBytes l off (beBytes 2 ((n + 65536 - sub) % 65536)) else l
  let l := put l (s.flag POST_TMPL_CFG.lenA_en) (s.get POST_TMPL_CFG.lenA_off) (s.get POST_TMPL_CFG.lenA_sub)
  let l := put l (s.flag POST_TMPL_CFG.lenB_en) (s.get POST_TMPL_CFG.lenB_off) (s.get POST_TMPL_CFG.lenB_sub)
  if s.flag POST_TMPL_CFG.csum_en then
    let h := s.get POST_TMPL_CFG.csum_hdr
    let l := patchBytes l (h + 10) (beBytes 2 0)
    patchBytes l (h + 10) (beBytes 2 (inetChecksum (slice l h 20)))
  else l

/-- The export header (R395). -/
def State.exportHeader (s : State) (slots : Nat) : List Byte :=
  beBytes 2 1 ++ beBytes 1 slots ++ beBytes 1 0 ++ beBytes 4 (s.mtr.postSeq % 2 ^ 32) ++ beBytes 2 s.ownChip ++ beBytes 6 s.wrapNow

/-- Send the exporter's frame: it waits for the parser of POST_CFG.inj_pipe as an injected packet. -/
def State.postSend (s : State) : State :=
  if !s.frameDue then s
  else
    let l := s.nextItems
    let body := s.patchFrame (s.template ++ s.exportHeader (sumNat (l.map itemSlots)) ++ (l.map (·.bytes)).flatten)
    let item : Inject :=
      { ring := 1024, index := 0, pipe := s.get POST_CFG.inj_pipe, tenant := 0, bd := s.get POST_CFG.bd
        bclass := s.get POST_CFG.bclass, post := false, exported := true, bytes := withFcs body }
    let s := { s with
      hif := { s.hif with inject := s.hif.inject ++ [item] }
      mtr := { s.mtr with posts := s.mtr.posts.drop l.length, postSeq := s.mtr.postSeq + 1 } }
    s.bump POST_STAT.frames 1

def execPostcardFrameSend (s : State) : Host.Outcome State Fault Refusal := .next s.postSend

/-! ### Enable and flow reads (R399, R400, R403) -/

def State.postEnable (s : State) : State := s.startCheck POST_ENABLE_STATUS.regOff .postcards []

def execPostEnable (s : State) : Host.Outcome State Fault Refusal := .next (s.gatedWrite State.postEnable)

/-- A patch's field, the two bytes that it writes, ends beyond the template (0x0911). -/
def State.templateBad (s : State) : Bool :=
  let n := s.get POST_TMPL_CFG.hdr_len
  n < 14 || 128 < n || (s.flag POST_TMPL_CFG.lenA_en && n < s.get POST_TMPL_CFG.lenA_off + 2) ||
  (s.flag POST_TMPL_CFG.lenB_en && n < s.get POST_TMPL_CFG.lenB_off + 2) ||
  (s.flag POST_TMPL_CFG.csum_en && n < s.get POST_TMPL_CFG.csum_hdr + 12)

def State.postReason (s : State) : Option (Nat × Nat) :=
  firstReason [
    (!s.imageActive, 0x910, 0),
    (s.templateBad, 0x911, 0),
    (s.get POST_CFG.max_slots = 0 || 22 < s.get POST_CFG.max_slots, 0x912, 0),
    (s.flag TRC_CFG.enable && (s.get TRC_CFG.shift < 8 || 30 < s.get TRC_CFG.shift), 0x913, 0),
    (s.mtr.postOn, 0x914, 0)]

/-- Every pipe's bucket starts full. -/
def State.postAccepted (s : State) : State := { s with mtr := { s.mtr with postOn := true, tokens := [] } }

def State.postDisable (s : State) : State := { s with mtr := { s.mtr with postOn := false } }

def execPostDisable (s : State) : Host.Outcome State Fault Refusal := .next (s.gatedWrite State.postDisable)

/-- FLOW_IND_CMD.read (R403). -/
def State.flowGo (s : State) : State :=
  s.beginInd FLOW_IND_CMD.regOff FLOW_IND_CMD.busy false (s.raw FLOW_IND_ADDR.regOff).toNat []

def execFlowRead (s : State) : Host.Outcome State Fault Refusal := .next (s.gatedWrite State.flowGo)

def State.flowIndDone (s : State) (j : IndJob) : State :=
  let v := s.flow (flowKey (bitsOf j.addr 17 5) (bitsOf j.addr 0 17))
  (s.setRaw FLOW_IND_DATA.regOff (BitVec.ofNat 64 v)).put FLOW_IND_CMD.busy 0

/-! ### Every indirect interface (R629) -/

/-- The running indirect command of register `key` completes: its effect is in place as busy falls. -/
def State.indDone (s : State) (key : Nat) : State :=
  match s.pk.ind.find? (fun j => j.key = key) with
  | none => s
  | some j =>
    let s := { s with pk := { s.pk with ind := s.pk.ind.filter (fun x => x.key ≠ key) } }
    if key = PRS_PAT_CMD.regOff then s.patDone j
    else if key = PL_IND_CMD.regOff then s.plIndDone j
    else if key = BUF_IND_CMD.regOff then s.bufIndDone j
    else if key = SCHED_IND_CMD.regOff then s.schedIndDone j
    else s.flowIndDone j

/-- The interface: 0 PRS_PAT, 1 PL, 2 BUF, 3 SCHED, 4 FLOW. -/
def execIndirectCmdComplete (unit : Fin 5) (s : State) : Host.Outcome State Fault Refusal :=
  .next (s.indDone (match unit with
    | 0 => PRS_PAT_CMD.regOff
    | 1 => PL_IND_CMD.regOff
    | 2 => BUF_IND_CMD.regOff
    | 3 => SCHED_IND_CMD.regOff
    | 4 => FLOW_IND_CMD.regOff))

end Sys2Proof.Machine
end

