-- ==== Sys2Proof/Machine/Admission.lean ====
section
/-! DEFINITION. Admission at the end of stage 19: the learning screen's result, placement, policing, replication and
the charge (08_shared_buffer.md R308-R317; 06 R236, R237; 09 R350; 10 R371-R373). -/

namespace Sys2Proof.Machine

/-! ### Replication (R308, R310, R237) -/

/-- A copy as formed: its queue of R303, index and copy_data, and whether replication formed it. -/
structure CopyReq where
  queue : Nat
  idx : Nat
  data : Nat
  mcast : Bool
  deriving DecidableEq, Repr

/-- Number the copies in list order. -/
def numbered (l : List (Nat × Nat)) : List CopyReq := l.mapIdx (fun i x => ⟨x.1, i, x.2, true⟩)

/-- Copies of a flood: one for each port of the bd, the ingress port left out. -/
def State.floodCopies (s : State) (md : List Nat) : List CopyReq :=
  let ports := (s.domainPorts 1 (mdBd md)).getD []
  numbered ((ports.filter (fun p => p ≠ mdIngress md)).map (fun p => (queueOf p (mdGet md 32 10 4), 0)))

/-- Copies of replication group `g` (R310). -/
def State.groupCopies (s : State) (g : Nat) (md : List Nat) : List CopyReq :=
  let r := smGet natZero s.buf.groups g
  if !bitAt r 29 then []
  else
    let es := (List.range (bitsOf r 18 11)).map (fun i => smGet natZero s.buf.entries (bitsOf r 0 18 + i))
    numbered ((es.filter (fun e => !(bitAt e 15 && bitsOf e 0 10 = mdIngress md) && (s.mapRec (bitsOf e 0 10)).isSome)).map
      (fun e => (queueOf (bitsOf e 0 10) (if bitAt e 14 then bitsOf e 10 4 else mdGet md 32 10 4), bitsOf e 16 16)))

def State.copiesFor (s : State) (md : List Nat) (flood : Bool) : List CopyReq :=
  if mdDisposition md = 1 then []
  else if mdDisposition md = 2 then [⟨16384 + mdGet md 32 16 8, 0, 0, false⟩]
  else if flood then s.floodCopies md
  else if bitAt (nth md 34) 2 then s.groupCopies (mdGet md 34 4 14) md
  else [⟨queueOf (mdGet md 32 0 10) (mdGet md 32 10 4), 0, 0, false⟩]

/-! ### Stopped or down queues (R314, R467) -/

/-- Host queue `h` is served: its map is valid and names an enabled PUNT ring. -/
def State.hostQueueOn (s : State) (h : Nat) : Bool :=
  let r := s.get (HIF_HQ_MAP.ring h)
  s.flag (HIF_HQ_MAP.valid h) && s.ringEnabled r && !s.flag (RING_CTL.disabling (s.slot r)) && s.ringKind r = 3

def State.queueOpen (s : State) (q : Nat) : Bool :=
  if isPortQueue q then
    (s.mapRec (q / 16)).isSome && !s.flag (BUF_PORT_CFG.stop (q / 16)) && s.portUp (q / 16) && s.pipeRuns (s.pipeOf (q / 16))
  else if isHostQueue q then s.hostQueueOn (q - 16384)
  else s.pipeRuns ((q - 16640) / 2)

/-! ### The charge (R312-R314) -/

/-- The dynamic threshold holds (R313). -/
def dtOk (code size used occ n : Nat) : Bool :=
  let free := size - used
  if code = 0 then true
  else if code ≤ 6 then occ + n ≤ free / 2 ^ (7 - code)
  else if code = 7 then occ + n ≤ free
  else occ + n ≤ free * 2 ^ (code - 7)

/-- The decision of R314: its status, the charge, the copies admitted, and the pool it looked at. -/
structure Verdict where
  status : Nat
  charge : Charge
  copies : List CopyReq
  pool : Nat
  head : Nat
  deriving DecidableEq, Repr

/-- Cells charged at admission (R312). -/
def State.cellCount (s : State) (p : Pkt) : Nat :=
  if p.whole then ceilDiv p.bytes.length 256 else s.get BUF_G_ACTIVE.resv_cells

def State.descriptorsFree (s : State) (copies : Nat) : Bool :=
  (s.pk.pkts.filter (fun p => p.admitted && p.charge ≠ .none)).length < 1048576 && s.pk.copies.length + copies ≤ 2097152

/-- The decision of R314 for a packet whose disposition is not drop. `Q` are the copies not stopped or down. -/
def State.verdictOf (s : State) (p : Pkt) (q : List CopyReq) (n : Nat) : Verdict :=
  let pair := pairOf p.w.md
  let c := mdClass p.w.md
  let hk := mdIngress p.w.md * 4 + c
  let qr := s.quota pair
  let hr : QuotaVal := if p.w.injected then {} else s.headroom (mdIngress p.w.md) c
  let pool := if qr.valid then qr.overflow else bitsOf (s.get BUF_G_ACTIVE.class_pool) (3 * c) 3
  let used := s.get (BUF_POOL_STAT.used pool)
  let size := s.get (BUF_POOL_STAT.size_active pool)
  let room := decide (used + n ≤ size)
  let a := q.filter (fun x => dtOk (s.get (BUF_POOL_STAT.code_active pool)) size used (s.qocc x.queue) n)
  if q.isEmpty then ⟨7, .none, [], pool, hk⟩
  else if !s.descriptorsFree q.length then ⟨5, .none, [], pool, hk⟩
  else if qr.valid && s.quotaUsed pair + n ≤ qr.cells then ⟨0, .quota pair, q, pool, hk⟩
  else if room && a.length = q.length then ⟨1, .pool pool, q, pool, hk⟩
  else if !hr.valid && room && !a.isEmpty then ⟨1, .pool pool, a, pool, hk⟩
  else if hr.valid && s.headUsed hk + n ≤ hr.cells then ⟨2, .headroom hk, q, pool, hk⟩
  else if hr.valid then ⟨4, .none, [], pool, hk⟩
  else ⟨3, .none, [], pool, hk⟩

/-- Counters of the outcome (R316). -/
def State.countStatus (s : State) (pipe status : Nat) : State :=
  if status ≤ 2 then s.bump (BUF_PIPE_STAT0.admitted pipe) 1
  else if status = 3 then s.bump (BUF_PIPE_STAT1.pool_drops pipe) 1
  else if status = 4 then s.bump (BUF_PIPE_STAT1.hdrm_drops pipe) 1
  else if status = 5 then s.bump (BUF_PIPE_STAT2.desc_drops pipe) 1
  else if status = 7 then s.bump (BUF_PIPE_STAT2.stop_drops pipe) 1
  else s

/-- Copies refused: their queues' drops, and the pool's (R314). -/
def State.countRefused (s : State) (v : Verdict) (l : List CopyReq) : State :=
  l.foldl (fun s c => let s := s.countQueueDrop c.queue
                      if v.status = 4 then s else s.bump (BUF_POOL_DROP.drops v.pool) 1) s

/-- Enqueue one admitted copy with its CE mark and queue depth (R317, R371). -/
def State.enqueueCopy (s : State) (p : Pkt) (n : Nat) (c : CopyReq) : State :=
  let d := s.depth c.queue
  let thr := smGet natZero s.buf.ecnThr c.queue
  let md := mdPut p.w.md 7 0 21 d
  let x : Copy :=
    { id := s.pk.nextCopy, pkt := p.id, queue := c.queue, seg := p.w.pipe, idx := c.idx, data := c.data
      ecn := decide (thr ≠ 0 ∧ thr < d + n), admitAt := s.wrapNow, read := 0
      pooled := (match p.charge with | .pool _ => true | _ => false), cut := false, at' := .queued
      w := { p.w with md := md }, mcast := c.mcast, guarded := false, wire := none }
  { s with pk := { s.pk with copies := s.pk.copies ++ [x], nextCopy := s.pk.nextCopy + 1 } }

/-- The descriptor that a packet takes: the lowest free one (R304; DESIGN CHOICE, notes/assumptions/64.md). -/
def State.freePd (s : State) : Nat :=
  let used := (s.pk.pkts.filter (fun p => p.admitted && p.charge ≠ .none)).map (·.pd)
  ((List.range (used.length + 1)).find? (fun n => !used.contains n)).getD 0

/-- Carry out the verdict for packet `p`: charge and enqueue, or let it go. `final` is false for a pass that ends in
recirculation, which updates no meter and no performance counter unless it is dropped here (R372). -/
def State.carryOut (s : State) (p : Pkt) (q : List CopyReq) (n : Nat) (v : Verdict) (final : Bool) : State :=
  let dropped := decide (3 ≤ v.status)
  let md := mdPut p.w.md 2 20 3 v.status
  let md := if dropped then md else setAt md 5 (s.wrapNow % 2 ^ 32)
  let pair := pairOf md
  let flow := flowKey p.w.pipe (s.flowHash 0 md % 2 ^ 17)
  let counts := final || dropped
  let len := if p.whole then some p.bytes.length else none
  let notes := p.w.notes
  let p := { p with
    w := { p.w with md := md, notes := [] }, admitted := true, charge := v.charge
    pd := if dropped then 0 else s.freePd, copies := v.copies.length, gone := []
    charged := if dropped then 0 else n, reserved := if dropped then 0 else n
    fromFifo := p.fromFifo && !dropped
    pending := if counts && !p.whole then p.pending ++ pendingOf pair flow dropped else p.pending }
  let s := (s.setPkt p).countStatus p.w.pipe v.status
  let b := perfBlock p.w.pipe 36
  let a := p.w.attr
  let own : List PerfNote := [⟨b, 2, a, 1⟩, ⟨b, 3, a, mdGet md 2 6 14⟩] ++
    (if dropped && v.status ≠ 6 then [⟨b, 7, a, 1⟩] else [])
  let s := if counts then (s.countNotes (notes ++ own)).meterDecision p.w.pipe pair flow len dropped else s
  if dropped then
    let s := if v.status = 3 || v.status = 4 then s.countRefused v q else s
    let s := if v.status = 4 then
      { s with buf := { s.buf with headDrops := smPut natZero s.buf.headDrops v.head (satAdd 32 (smGet natZero s.buf.headDrops v.head) 1) } }
      else s
    (if counts then s.postcard p.w p.w.times [] else s).settle p.id
  else
    let s : State := { s with buf := { s.buf with
      packets := smPut natZero s.buf.packets p.w.pipe (s.packetCount p.w.pipe + 1) } }
    let s := s.charge v.charge n
    let s := v.copies.foldl (fun s c => s.enqueueCopy p n c) s
    s.countRefused v (q.filter (fun c => !v.copies.contains c))

/-- Admit packet `p`, whose disposition stands in its metadata, with the copies formed. A pass that asks for
recirculation recirculates whatever its disposition, which only its last pass acts on (R125 over R113 and R308; DESIGN
CHOICE, notes/assumptions/78.md). -/
def State.admitForm (s : State) (p : Pkt) (l : List CopyReq) (final : Bool) : State :=
  let n := s.cellCount p
  let q := l.filter (fun c => s.queueOpen c.queue)
  if mdDisposition p.w.md = 1 && final then s.carryOut p [] n ⟨6, .none, [], 0, 0⟩ final
  else s.carryOut p q n (s.verdictOf p q n) final

/-- A pass that ends in recirculation: one copy to a recirculation queue of the target pipe (R125, R126). -/
def State.admitRecirc (s : State) (p : Pkt) : State :=
  let target := mdGet p.w.md 24 17 5
  s.admitForm p [⟨16640 + 2 * target + p.w.rq, 0, 0, false⟩] false

/-! ### The end of stage 19 -/

/-- Placement, unless another rule gives the copies (R255, R308). -/
def State.placePacket (s : State) (p : Pkt) (flood : Bool) : State × Pkt :=
  let md := p.w.md
  if mdDisposition md = 0 && !flood && !bitAt (nth md 34) 2 && bitAt (nth md 33) 14 then
    let g := mdGet md 33 0 14
    let r := s.plGroup g
    let (s, md') := s.place p.w g
    let dst := if mdDisposition md' = 0 && grMode r ≠ 0 then some (groupDst r md) else none
    (s, { p with w := { p.w with md := md' }, fabDst := dst })
  else (s, { p with fabDst := none })

/-- Policing of a packet not marked drop and not policed before (R350). -/
def State.policePacket (s : State) (p : Pkt) : State × Pkt :=
  let md := p.w.md
  if mdDisposition md = 1 || p.policed then (s, p)
  else
    let i := mdTenant md * 4 + nth md (s.get SCHED_G_CFG.pol_word) % 4
    let len := if p.whole then p.bytes.length else s.get BUF_G_ACTIVE.resv_cells * 256
    let (s, v) := s.police p.w.pipe i len
    let p := { p with policed := true }
    if v = 1 then (s, { p with w := { p.w with md := mdPut md 34 0 2 1 } })
    else if v = 2 then (s, { p with w := { p.w with md := mdPut md 2 24 1 1 } })
    else (s, p)

/-- A packet reaches the end of stage 19. -/
def State.admission (s : State) (id : Nat) : State :=
  match s.pkt id with
  | none => s
  | some p =>
    if p.admitted || p.w.stage ≠ 20 || !s.slotsRun p.w.pipe then s
    else
      let p := if p.force = 1 then { p with w := { p.w with md := mdPut p.w.md 34 0 2 1 } } else p
      if mdRecirc p.w.md then s.admitRecirc p
      else
        let flood := decide (p.force = 2)
        let (s, p) := s.placePacket p flood
        let (s, p) := s.policePacket p
        s.admitForm p (s.copiesFor p.w.md flood) true

def execAdmission (id : Nat) (s : State) : Host.Outcome State Fault Refusal := .next (s.admission id)

end Sys2Proof.Machine
end

