-- ==== Sys2Proof/Machine/Boot.lean ====
section
/-! DEFINITION. Cold and warm reset and PCIe link training (17_startup.md R580-R588; 15_faults.md R538, R539). -/

namespace Sys2Proof.Machine

/-! ### Cold reset (R580-R583) -/

/-- The device as a cold reset begins: phase SUPPLY, nothing loaded. What the host queued, what was sent, the free
values drawn, the clock, input pins and the fuses of slot 2 are not the device's registers, and stay. -/
def State.coldStart (s : State) : State :=
  { State.reset with
    pending := s.pending, regs := [], clk := s.clk, free := s.free, readVal := s.readVal, out := s.out
    cip := { slots := [], fuse2 := s.cip.fuse2 }
    pin := { perst := s.pin.perst, trst := s.pin.trst, tpi := s.pin.tpi } }

/-- VDD_AUX enters its range. -/
def execPowerOn (s : State) : Host.Outcome State Fault Refusal := .next s.coldStart

/-- A rail leaves its range: the cold reset begins again, whatever runs (R587). -/
def execRailFault (s : State) : Host.Outcome State Fault Refusal := .next s.coldStart

/-- READY: device time is 0 (R486). -/
def State.reachReady (s : State) : State :=
  ({ s with time := { s.time with total := 0, quarter := 0 } }).put PKG_BOOT_STATUS.phase 4

/-- Draw MTR_NONCE. -/
def State.drawNonce (s : State) : State := { s with mtr := { s.mtr with nonce := s.free }, free := s.free + 1 }

/-- FUSE ends: straps are sampled and fuses loaded. With STRAP_TEST the device stays in SUPPLY (R581). -/
def State.fuseDone (s : State) (ok : Bool) (smba : Nat) (test : Bool) : State :=
  let s := { s with
    boot := { s.boot with smba := smba, test := test }
    cip := { s.cip with slots := fuseSlots s.cip.fuse2 } }
  (s.putFlag PKG_BOOT_STATUS.fuse_ok ok).put PKG_BOOT_STATUS.phase (if test then 0 else 2)

/-- SELFTEST ends: `areas` bits are buffer, cell state, sequencers and I/O dies (R582). -/
def State.selftestDone (s : State) (pipes areas repairs ms : Nat) : State :=
  let s := s.puts [(PKG_BOOT_STATUS.selftest_done, 1),
    (PKG_BOOT_STATUS.selftest_fail, b2n (pipes % 2 ^ 32 ≠ 0 || areas % 16 ≠ 0)), (PKG_BOOT_STATUS.selftest_ms, ms),
    (PKG_SELFTEST.pipe_fail, pipes), (PKG_SELFTEST.buffer, areas), (PKG_SELFTEST.cell_state, areas / 2),
    (PKG_SELFTEST.sequencers, areas / 4), (PKG_SELFTEST.io_dies, areas / 8),
    (PKG_SELFTEST.repairs, min repairs 65535)]
  s.drawNonce.reachReady

/-! ### Warm reset (R585-R587, R538, R539) -/

/-- What a register keeps across a warm reset: the fault history and status, pending bits and counts (R586), and
PKG_BOOT_STATUS but for its phase, since its fields tell of the last cold reset and of the warm resets after it (R588);
any other register, PKG_SELFTEST among them, returns to its reset value (R18). CLK_STATUS is such a register: root_lock
and ref_present read 1 again after a warm reset that is taken while the lock or the reference is lost (DESIGN CHOICE,
notes/assumptions/67.md). -/
def keptReg (k v : Nat) : Nat :=
  if k = FLT_STATUS.regOff || k = FLT_HIST_PTR.regOff || k / 0x1000 = FLT_HIST.regOff 0 0 / 0x1000 then v
  else if k = PKG_BOOT_STATUS.regOff then setBits v 0 3 0
  else if FLT_SRC.regOff 0 ≤ k && k < FLT_SRC.regOff 2048 then
    setBits (setBits (regReset k).toNat 32 3 (bitsOf v 32 3)) 48 16 (bitsOf v 48 16)
  else (regReset k).toNat

def keepRegs (l : List (Nat × Word)) : List (Nat × Word) :=
  l.filterMap (fun x =>
    let v := BitVec.ofNat 64 (keptReg x.1 x.2.toNat)
    if v = regReset x.1 then none else some (x.1, v))

/-- A warm reset begins for `cause` (1 PERST_N, 2 the chip reset reaction, 3 PKG_RST_CTL). Until READY
PKG_BOOT_STATUS.phase reads its reset value 0. -/
def State.warmStart (s : State) (cause : Nat) : State :=
  let t : State := { State.reset with
    pending := s.pending, regs := keepRegs s.regs, clk := s.clk, free := s.free, readVal := s.readVal, out := s.out
    flt := { unread := s.flt.unread, seq := s.flt.seq, repeats := s.flt.repeats, lastCorr := s.flt.lastCorr }
    cip := { slots := fuseSlots s.cip.fuse2, fuse2 := s.cip.fuse2 }
    boot := { s.boot with warm := true, waits := false }
    pin := { s.pin with tpo := 0, stopped := (match s.pin.tap with
      | .extest | .extestPulse | .extestTrain | .clamp | .highz => true
      | .bypass | .idcode | .samplePreload => false) } }
  (t.drawNonce.bump PKG_BOOT_STATUS.warm_count 1).put PKG_BOOT_STATUS.last_reset cause

/-- A cause of a warm reset: none while one runs or before the cold reset is complete. -/
def State.warmReset (s : State) (cause : Nat) : State := if s.ready then s.warmStart cause else s

/-- PERST_N falls. -/
def State.perstAssert (s : State) : State :=
  if s.pin.perst then ({ s with pin := { s.pin with perst := false } }).warmReset 1 else s

def execPerstAssert (s : State) : Host.Outcome State Fault Refusal := .next s.perstAssert

/-- The warm reset ends: READY. -/
def State.warmEnd (s : State) : State := ({ s with boot := { s.boot with warm := false, waits := false } }).reachReady

/-- The warm reset's work is done; it ends once PERST_N is not asserted (R587). -/
def State.warmDone (s : State) : State :=
  if s.pin.perst then s.warmEnd
  else { s with boot := { s.boot with waits := true } }

/-- PERST_N rises. -/
def State.perstRelease (s : State) : State :=
  let s := { s with pin := { s.pin with perst := true } }
  if s.boot.warm && s.boot.waits then s.warmEnd else s

def execPerstRelease (s : State) : Host.Outcome State Fault Refusal := .next s.perstRelease

/-- A phase ends with what it found, when it is the one that runs. -/
def State.phaseDone (s : State) : PhaseInfo → State
  | .supply =>
    if !s.boot.warm && s.get PKG_BOOT_STATUS.phase = 0 && !s.boot.test then s.put PKG_BOOT_STATUS.phase 1 else s
  | .fuse ok smba test =>
    if !s.boot.warm && s.get PKG_BOOT_STATUS.phase = 1 then s.fuseDone ok smba test else s
  | .clock => if !s.boot.warm && s.get PKG_BOOT_STATUS.phase = 2 then s.put PKG_BOOT_STATUS.phase 3 else s
  | .selftest pipes areas repairs ms =>
    if !s.boot.warm && s.get PKG_BOOT_STATUS.phase = 3 then s.selftestDone pipes areas repairs ms else s
  | .warm => if s.boot.warm then s.warmDone else s

def execResetPhaseDone (info : PhaseInfo) (s : State) : Host.Outcome State Fault Refusal := .next (s.phaseDone info)

/-- reset_delay_us after the first chip reset reaction (R538). -/
def State.chipReset (s : State) : State :=
  match s.flt.chipAt with
  | some t => if t ≤ s.clk then s.warmReset 2 else s
  | none => s

def execChipResetStart (s : State) : Host.Outcome State Fault Refusal := .next s.chipReset

/-- A write of PKG_RST_CTL: warm with code 0xA5 in the same write. -/
def execPkgWarmReset (data : Word) (s : State) : Host.Outcome State Fault Refusal :=
  .next (if bitAt data.toNat 0 && bitsOf data.toNat 8 8 = 0xA5 then s.warmReset 3 else s)

/-! ### PCIe (R584) -/

/-- The link trains at a speed code of HIF_STATUS with 1, 2, 4 or 8 lanes, once READY with PERST_N released. -/
def State.linkTrain (s : State) (speed lanes : Nat) : State :=
  if s.ready && s.pin.perst && speed ≠ 0 && (lanes = 1 || lanes = 2 || lanes = 4 || lanes = 8) then
    s.puts [(HIF_STATUS.link_speed, speed), (HIF_STATUS.link_width, lanes)]
  else s

def execPcieLinkTrain (speed : Fin 6) (lanes : Fin 64) (s : State) : Host.Outcome State Fault Refusal :=
  .next (s.linkTrain speed lanes)

end Sys2Proof.Machine
end

