-- ==== Sys2Proof/Machine/Power.lean ====
section
/-! DEFINITION. The power unit (14_power_thermal.md) and the voltage interface (18_package_pins.md R600, R601):
load phases, the cap controller, thermal and droop reasons, ratio moves, apply, and the Brine requests. -/

namespace Sys2Proof.Machine

/-- Fused Fmax of pipe `p` in MHz, 1,600 to 1,850 (R508). -/
def fmaxMhz (p : Nat) : Nat := 1600 + Config.fmaxOver p % 251

/-- Bits of the throttle reasons in the order of R264, R517. -/
def reasonBit (s : State) (i : Nat) : Bool := bitAt (s.get PWR_STATUS.reasons) i

def State.setReason (s : State) (i : Nat) (b : Bool) : State :=
  s.put PWR_STATUS.reasons (setBits (s.get PWR_STATUS.reasons) i 1 (b2n b))

def State.ratio (s : State) (p : Nat) : Nat := s.get (PWR_PIPE_STAT.ratio p)

def State.nominal (s : State) (p : Nat) : Nat := nth s.pwr.active.nominal p

def State.maxRatio (s : State) (p : Nat) : Nat := nth s.pwr.active.maxRatio p

/-- Throttle level from the steps above nominal of the most throttled pipe (R509). -/
def levelOf (steps : Nat) (brineEntry : Bool) : Nat :=
  if brineEntry then 3
  else if steps = 0 then 0
  else if steps ≤ 2 then 1
  else if steps ≤ 4 then 2
  else 3

def State.mostThrottled (s : State) : Nat :=
  (List.range 32).foldl (fun m p => max m (s.ratio p - s.nominal p)) 0

/-- The effective cap in W (R510). -/
def State.effectiveCap (s : State) : Nat :=
  min s.pwr.active.cap (min (s.get PWR_EXT_LIMIT.host_cap_w) (s.get PWR_EXT_LIMIT.bmc_cap_w))

/-- An external limit is the least term of R510 (R517). -/
def State.externalLeast (s : State) : Bool :=
  min (s.get PWR_EXT_LIMIT.host_cap_w) (s.get PWR_EXT_LIMIT.bmc_cap_w) < s.pwr.active.cap

/-- Level and reasons as last reported. -/
def State.throttleBits (s : State) : Nat := bitsOf (s.raw PWR_STATUS.regOff).toNat 2 6

/-- Level, cap and external reasons recomputed, and shown for the next beacon (R509, R517, R520). -/
def State.reportRegs (s : State) : State :=
  let cap := s.pwr.capReason || s.pwr.fastIdle
  let a := s.put PWR_STATUS.level (levelOf s.mostThrottled (s.pwrState = 1))
  let b := a.setReason 3 cap
  let c := b.setReason 0 (cap && b.externalLeast)
  c.puts [(PL_FAB_STATUS.own_throttle, c.get PWR_STATUS.level), (PL_FAB_STATUS.own_reasons, c.get PWR_STATUS.reasons)]

/-- Report the throttle state; a change since state `was` makes an event due (R520, R522). -/
def State.report (s was : State) : State :=
  let u := s.reportRegs
  if u.throttleBits = was.throttleBits || !u.flag PWR_EVT_CFG.event_en then u
  else { u with pwr := { u.pwr with evtDue := some u.wrapNow } }

/-- Write the THROTTLE event that a change made due, at most one every 100 µs (R522). -/
def State.throttleEvent (s : State) : State :=
  let early := match s.pwr.evtLast with | some c => decide (s.clk < c + 100 * clkPerUs) | none => false
  match s.pwr.evtDue with
  | none => s
  | some t =>
    if early || !s.flag PWR_EVT_CFG.event_en then s
    else
      let w0 := 0x38 + s.get PWR_STATUS.level * 2 ^ 8 + s.get PWR_STATUS.reasons * 2 ^ 10 +
        s.get PWR_STATUS.cap_unmet * 2 ^ 14
      let w2 := s.get PWR_STATUS.power_w + s.get PWR_STATUS.temp_c * 2 ^ 16
      let s := { s with pwr := { s.pwr with evtDue := none, evtLast := some s.clk } }
      s.event (s.get PWR_EVT_CFG.event_ring) (record w0 t w2 0)

def execThrottleEvent (s : State) : Host.Outcome State Fault Refusal := .next s.throttleEvent

/-- Count 1 µs of every set reason and of any throttle level (R521); once in 800 TCLK cycles. -/
def State.throttleTick (s : State) : State :=
  let add (s : State) (r : Nat) (b : Bool) : State := if b then s.bump (PWR_THR_ACC.us r) 1 else s
  let s := add (add (add (add s 0 (reasonBit s 0)) 1 (reasonBit s 1)) 2 (reasonBit s 2)) 3 (reasonBit s 3)
  add s 4 (s.get PWR_STATUS.level ≥ 1)

/-! ### Load phases (R511) -/

/-- The fraction of slots used, in units of 2^-16. -/
def slotFraction (used total : Nat) : Nat := if total = 0 then 0 else min used total * 65536 / total

/-- Sixteen times the mean over the last 16 windows, the latest first. -/
def windowSum (l : List Nat) : Nat := sumNat (l.take 16)

/-- IDLE 0, LIGHT 1, STEADY 2, RISING 3: `a` against the mean sum16 / 16, all in 2^-16. -/
def loadPhase (a sum16 : Nat) : Nat :=
  if a < 2048 then 0
  else if 16 * a + 65536 ≤ sum16 then 1
  else if sum16 + 65536 ≤ 16 * a then 3
  else 2

def State.loadPipe (s : State) (p used total : Nat) : State :=
  let a := slotFraction used total
  let l := (a :: smGet (fun _ => []) s.pwr.windows p).take 16
  let s := { s with pwr := { s.pwr with windows := smPut (fun _ => []) s.pwr.windows p l } }
  s.puts [(PWR_PIPE_STAT.phase p, loadPhase a (windowSum l)), (PWR_PIPE_STAT.activity p, a * 255 / 65536)]

/-- Every 10 µs window: used and total slots of each pipe (R511). -/
def State.loadWindow (s : State) (used total : List Nat) : State :=
  (List.range 32).foldl (fun s p => s.loadPipe p (nth used p) (nth total p)) s

def execLoadWindow (used total : List Nat) (s : State) : Host.Outcome State Fault Refusal :=
  .next (s.loadWindow used total)

/-! ### The cap controller (R512-R514) -/

/-- Latest activity of pipe `p` in 2^-16. -/
def State.activity (s : State) (p : Nat) : Nat := (smGet (fun _ => []) s.pwr.windows p).headD 0

/-- Predicted power in mW of pipe `p` at ratio code `r` (R512); its learned terms are free values. -/
def State.powerModel (s : State) (p r : Nat) : Nat :=
  Config.leakage s.pwr.modelEpoch p r + s.activity p * Config.dynamic s.pwr.modelEpoch p r / 65536

def State.modelSum (s : State) (t : List Nat) : Nat :=
  sumNat ((List.range 32).map (fun p => s.powerModel p (nth t p)))

/-- The key of R512: phase rank, steps above nominal, activity, pipe. -/
def State.shedKey (s : State) (t : List Nat) (p : Nat) : Nat :=
  ((s.get (PWR_PIPE_STAT.phase p) * 8 + (nth t p - s.nominal p)) * 131072 + s.activity p) * 32 + p

/-- The pipe that takes the next step, if any may. -/
def State.shedPipe (s : State) (t : List Nat) : Option Nat :=
  ((List.range 32).filter (fun p => nth t p < s.maxRatio p)).foldl (fun b p => match b with
    | none => some p
    | some q => if s.shedKey t p < s.shedKey t q then some p else some q) none

/-- Targets stepped until the model fits the budget `b`; the flag says that it cannot (R512). -/
def State.shed (s : State) (b : Int) : Nat → List Nat → List Nat × Bool
  | 0, t => (t, false)
  | n + 1, t =>
    if ((s.modelSum t : Nat) : Int) ≤ b then (t, false)
    else
      match s.shedPipe t with
      | none => (t, true)
      | some p => s.shed b n (setAt t p (nth t p + 1))

/-- One step of pipe `p` from ratio `r` toward `t`, and one further toward max while thermal is set (R508, R512). -/
def nextRatio (r t mx : Nat) (thermal : Bool) : Nat :=
  let r1 := if r < t then r + 1 else if t < r then r - 1 else r
  if thermal && r1 < mx then r1 + 1 else r1

/-- An evaluation (R512). `mean100` and `core` are the 100 µs means in mW. -/
def State.capEvaluate (s : State) (mean100 core : Nat) : State :=
  let was := s
  let s := match s.pwr.staged with
    | some a => { s with pwr := { s.pwr with active := a, staged := none } }
    | none => s
  let s := s.put PWR_STATUS.power_w (mean100 / 1000)
  let s := { s with pwr := { s.pwr with modelEpoch := s.pwr.modelEpoch + 1, corePower := core } }
  let now := (List.range 32).map s.ratio
  let b : Int := ((s.effectiveCap * 1000 : Nat) : Int) - ((mean100 : Int) - ((s.modelSum now : Nat) : Int))
  let (t, unmet) := s.shed b 225 s.pwr.active.nominal
  let unmetWas := s.flag PWR_STATUS.cap_unmet
  let s := s.putFlag PWR_STATUS.cap_unmet unmet
  let s := if unmet && !unmetWas then s.raise 1704 1 (mean100 / 1000 % 2048 + s.effectiveCap * 2 ^ 11) else s
  let moves := (List.range 32).filterMap (fun p =>
    let r := nextRatio (s.ratio p) (nth t p) (s.maxRatio p) (reasonBit s 2)
    if r = s.ratio p then none else some (p * 8 + r))
  let above := (List.range 32).any (fun p => s.nominal p < nth t p)
  let s := { s with pwr := { s.pwr with
    targets := t, moves := moves, capReason := above
    fastIdle := s.pwr.fastIdle && moves.isEmpty, floor := s.pwr.floor && reasonBit s 2 } }
  s.report was

def execCapEvaluate (mean100 core : Nat) (s : State) : Host.Outcome State Fault Refusal :=
  .next (s.capEvaluate mean100 core)

/-- A 10 µs mean (mW) above the effective cap by more than 5 % inserts idle slots (R513, R517). -/
def State.capFastCheck (s : State) (mean10 : Nat) : State :=
  if s.effectiveCap * 1000 * 105 < mean10 * 100 then
    ({ s with pwr := { s.pwr with fastIdle := true } }).report s
  else s

def execCapFastCheck (mean10 : Nat) (s : State) : Host.Outcome State Fault Refusal :=
  .next (s.capFastCheck mean10)

/-! ### The core rail and ratio moves (R507, R516, R600, R601) -/

/-- The rail voltage that pipe `p` needs at ratio code `r`, 650 to 800 mV (R507). -/
def railNeed (p r : Nat) : Nat := 650 + Config.railTable p r % 151

/-- The rail target for the ratios in use. -/
def State.railTarget (s : State) : Nat :=
  (List.range 32).foldl (fun m p => max m (railNeed p (s.ratio p))) 650

/-- A voltage write with commit (R600). -/
def State.avsWrite (s : State) (mv : Nat) : State :=
  let s := s.puts [(PKG_AVS_STATUS.target_mv, mv), (PWR_STATUS.core_mv, mv)]
  ({ s with pwr := { s.pwr with railWait := true, attempts := 1 } }).send (.avs mv)

/-- Ask for a rail target unless it is the last commanded one. -/
def State.railTo (s : State) (mv : Nat) : State :=
  if s.get PKG_AVS_STATUS.target_mv = mv then s else s.avsWrite mv

/-- A voltage read returns `mv`: the write is confirmed within 5 mV, or the attempt failed (R601). -/
def State.avsConfirm (s : State) (mv : Nat) : State :=
  let t := s.get PKG_AVS_STATUS.target_mv
  if !s.pwr.railWait then s
  else if mv ≤ t + 5 && t ≤ mv + 5 then
    ({ s with pwr := { s.pwr with railWait := false, attempts := 0 } }).put PKG_AVS_STATUS.confirmed_mv t
  else
    let s := s.bump PKG_AVS_STATUS.retries 1
    if s.pwr.attempts ≥ 3 then s.put PKG_AVS_STATUS.fail 1 else s

def execAvsConfirm (mv : Nat) (s : State) : Host.Outcome State Fault Refusal := .next (s.avsConfirm mv)

/-- The retry interval passes and the write is attempted again (R601). -/
def State.avsRetry (s : State) : State :=
  if s.pwr.railWait then
    ({ s with pwr := { s.pwr with attempts := s.pwr.attempts + 1 } }).send (.avs (s.get PKG_AVS_STATUS.target_mv))
  else s

def execAvsRetryTimer (s : State) : Host.Outcome State Fault Refusal := .next s.avsRetry

/-- The ratio of pipe `p` changes and the rail follows (R50, R507). -/
def State.setRatio (s : State) (p r : Nat) : State :=
  let t := s.put (PWR_PIPE_STAT.ratio p) r
  (t.railTo t.railTarget).report s

/-- One pending move, at most one each µs; a rising clock waits for its rail (R507, R516, R601). -/
def State.ratioMove (s : State) : State :=
  match s.pwr.moves with
  | [] => s
  | m :: rest =>
    let p := m / 8
    let r := m % 8
    let drop : State := { s with pwr := { s.pwr with moves := rest } }
    if r < s.ratio p then
      if (r = 0 && fmaxMhz p < 1830) || r < s.nominal p then drop
      else if s.get PKG_AVS_STATUS.confirmed_mv < railNeed p r then
        if s.flag PKG_AVS_STATUS.fail then drop else s.railTo (max s.railTarget (railNeed p r))
      else drop.setRatio p r
    else drop.setRatio p r

def execRatioMove (s : State) : Host.Outcome State Fault Refusal := .next s.ratioMove

/-! ### Thermal, droop and activity (R515-R519) -/

def State.setTemp (s : State) (t : Nat) : State := s.put PWR_STATUS.temp_c t

/-- The hottest sensor reads `t` °C: at throttle_c the thermal reason is set (R517). -/
def State.thermalThrottle (s : State) (t : Nat) : State :=
  let u := s.setTemp t
  if s.pwr.active.throttleC ≤ t then (u.setReason 2 true).report s else u

def execThermalThrottle (temp : Fin 256) (s : State) : Host.Outcome State Fault Refusal :=
  .next (s.thermalThrottle temp)

/-- At release_c or below the thermal reason clears (R517). -/
def State.thermalRelease (s : State) (t : Nat) : State :=
  let u := s.setTemp t
  if t ≤ s.pwr.active.releaseC then (u.setReason 2 false).report s else u

def execThermalRelease (temp : Fin 256) (s : State) : Host.Outcome State Fault Refusal :=
  .next (s.thermalRelease temp)

/-- A sensor reaches trip_c: every pipe to max_ratio and its activity floor at once, and a FATAL fault on source
1,705. Pipes gated in Brine stay as they are (R508, R518, R529). -/
def State.thermalTrip (s : State) (sensor t : Nat) : State :=
  if t < s.pwr.active.tripC then s.setTemp t
  else
    let u := (s.setTemp t).setReason 2 true
    let u := if s.pwrState = 2 then u
      else
        let v := (List.range 32).foldl (fun v p => v.put (PWR_PIPE_STAT.ratio p) (s.maxRatio p)) u
        { v with pwr := { v.pwr with moves := [], floor := true } }
    (u.report s).raise 1705 3 (t + sensor * 2 ^ 8)

def execThermalTrip (sensor temp : Fin 256) (s : State) : Host.Outcome State Fault Refusal :=
  .next (s.thermalTrip sensor temp)

/-- A droop detector fires: idle slots in every pipe, counted, and the droop reason (R517, R519). -/
def State.droopFire (s : State) : State :=
  let u := (s.bump PWR_STAT.droop_events 1).setReason 1 true
  ({ u with pwr := { u.pwr with droopIdle := true } }).report s

def execDroopFire (s : State) : Host.Outcome State Fault Refusal := .next s.droopFire

/-- 1 µs has passed since the last firing (R517, R519). -/
def State.droopRelease (s : State) : State :=
  let u := s.setReason 1 false
  ({ u with pwr := { u.pwr with droopIdle := false } }).report s

def execDroopRelease (s : State) : Host.Outcome State Fault Refusal := .next s.droopRelease

/-- One 1 µs window of the slope limits: `demand` is the core power in mW that the load asks for (R515). -/
def State.rampWindow (s : State) (demand : Nat) : State :=
  let p := s.pwr.corePower
  let up := s.pwr.active.upSlope * 250
  let down := s.pwr.active.downSlope * 250
  let pw := s.pwr
  if p + up < demand then { s with pwr := { pw with rampIdle := true, dummy := false, corePower := p + up } }
  else if demand + down < p then { s with pwr := { pw with rampIdle := false, dummy := true, corePower := p - down } }
  else { s with pwr := { pw with rampIdle := false, dummy := false, corePower := demand } }

def execActivityRampWindow (demand : Nat) (s : State) : Host.Outcome State Fault Refusal :=
  .next (s.rampWindow demand)

/-! ### Apply and Brine requests (R523-R528) -/

def execPwrApply (s : State) : Host.Outcome State Fault Refusal :=
  .next (s.startCheck PWR_ENABLE_STATUS.regOff .power [])

def execBrineEnter (s : State) : Host.Outcome State Fault Refusal :=
  .next (s.startCheck PWR_ENABLE_STATUS.regOff .brineEnter [])

def execBrineExit (s : State) : Host.Outcome State Fault Refusal :=
  .next (s.startCheck PWR_ENABLE_STATUS.regOff .brineExit [])

/-- The staged values of R528 as the registers hold them. -/
def State.stagedPower (s : State) : PwrActive :=
  { cap := s.get PWR_CAP_CFG.cap_w, upSlope := s.get PWR_CAP_CFG.up_slope, downSlope := s.get PWR_CAP_CFG.down_slope
    brineDrain := s.get PWR_CAP_CFG.brine_drain_us
    throttleC := s.get PWR_THERM_CFG.throttle_c, releaseC := s.get PWR_THERM_CFG.release_c
    tripC := s.get PWR_THERM_CFG.trip_c
    nominal := (List.range 32).map (fun p => s.get (PWR_PIPE_CFG.nominal p))
    maxRatio := (List.range 32).map (fun p => s.get (PWR_PIPE_CFG.max_ratio p)) }

/-- The lowest pipe that meets a condition. -/
def firstPipe (f : Nat → Bool) : Option Nat := (List.range 32).find? f

/-- The check of an apply (R527). -/
def State.applyReason (s : State) : Option (Nat × Nat) :=
  let a := s.stagedPower
  let fast := firstPipe (fun p => (nth a.nominal p = 0 || nth a.maxRatio p = 0) && fmaxMhz p < 1830)
  let order := firstPipe (fun p => nth a.maxRatio p < nth a.nominal p)
  firstReason [
    (fast.isSome, 0x801, fast.getD 0),
    (order.isSome, 0x802, order.getD 0),
    (a.cap < 700 || 1450 < a.cap, 0x803, 0),
    (a.upSlope = 0 || a.downSlope = 0, 0x804, 0),
    (a.throttleC ≤ a.releaseC || a.tripC ≤ a.throttleC || 125 < a.tripC, 0x805, 0),
    (s.pwrState ≠ 0, 0x806, 0)]

/-- The check of brine_enter (R527). -/
def State.brineEnterReason (s : State) : Option (Nat × Nat) :=
  let st := s.get STRUCT_STATUS.state
  firstReason [
    (s.pwrState ≠ 0, 0x806, 0),
    (st = 1 || st = 2 || st = 4 || s.img.patchPhase ≠ 0 || s.pwr.staged.isSome, 0x807, 0)]

/-- The check of brine_exit (R527); one written during BRINE_ENTRY is held (R526). -/
def State.brineExitReason (s : State) : Option (Nat × Nat) :=
  firstReason [(s.pwrState = 0 || s.pwrState = 3, 0x808, 0)]

def State.applyAccepted (s : State) : State :=
  { s with pwr := { s.pwr with staged := some s.stagedPower } }

/-- Brine entry begins: BRINE_ENTRY, throttle level 3 (R523 step 1). -/
def State.brineEntered (s : State) : State :=
  let u := (s.put PWR_STATUS.state 1).bump PWR_STAT.brine_entries 1
  u.report s

/-- Brine ends: held while entry runs, else the exit begins (R525, R526). -/
def State.brineLeave (s : State) : State :=
  if s.pwrState = 1 then { s with pwr := { s.pwr with held := true } }
  else if s.pwrState = 2 then s.put PWR_STATUS.state 3
  else s

/-- Device time reaches PWR_WAKE_TIME.time with wake_en == 1 (R525). -/
def State.brineWakeTime (s : State) : State :=
  if s.flag PWR_WAKE_TIME.wake_en && s.pwrState = 2 && wrapReached s.wrapNow (s.get PWR_WAKE_TIME.time) then
    s.brineLeave
  else s

def execBrineWakeTime (s : State) : Host.Outcome State Fault Refusal := .next s.brineWakeTime

end Sys2Proof.Machine
end

