-- ==== Sys2Proof/Machine/Aes.lean ====
section
/-! DEFINITION. AES-128 and AES-256 (FIPS 197) and GCM (NIST SP 800-38D), the functions of the cipher engine
(16_cipher_engine.md R558). Blocks are lists of 16 byte values. -/

namespace Sys2Proof.Machine

/-- The substitution box of FIPS 197. -/
def sboxTable : List Nat :=
  [0x63, 0x7c, 0x77, 0x7b, 0xf2, 0x6b, 0x6f, 0xc5, 0x30, 0x1, 0x67, 0x2b, 0xfe, 0xd7, 0xab, 0x76] ++
  [0xca, 0x82, 0xc9, 0x7d, 0xfa, 0x59, 0x47, 0xf0, 0xad, 0xd4, 0xa2, 0xaf, 0x9c, 0xa4, 0x72, 0xc0] ++
  [0xb7, 0xfd, 0x93, 0x26, 0x36, 0x3f, 0xf7, 0xcc, 0x34, 0xa5, 0xe5, 0xf1, 0x71, 0xd8, 0x31, 0x15] ++
  [0x4, 0xc7, 0x23, 0xc3, 0x18, 0x96, 0x5, 0x9a, 0x7, 0x12, 0x80, 0xe2, 0xeb, 0x27, 0xb2, 0x75] ++
  [0x9, 0x83, 0x2c, 0x1a, 0x1b, 0x6e, 0x5a, 0xa0, 0x52, 0x3b, 0xd6, 0xb3, 0x29, 0xe3, 0x2f, 0x84] ++
  [0x53, 0xd1, 0x0, 0xed, 0x20, 0xfc, 0xb1, 0x5b, 0x6a, 0xcb, 0xbe, 0x39, 0x4a, 0x4c, 0x58, 0xcf] ++
  [0xd0, 0xef, 0xaa, 0xfb, 0x43, 0x4d, 0x33, 0x85, 0x45, 0xf9, 0x2, 0x7f, 0x50, 0x3c, 0x9f, 0xa8] ++
  [0x51, 0xa3, 0x40, 0x8f, 0x92, 0x9d, 0x38, 0xf5, 0xbc, 0xb6, 0xda, 0x21, 0x10, 0xff, 0xf3, 0xd2] ++
  [0xcd, 0xc, 0x13, 0xec, 0x5f, 0x97, 0x44, 0x17, 0xc4, 0xa7, 0x7e, 0x3d, 0x64, 0x5d, 0x19, 0x73] ++
  [0x60, 0x81, 0x4f, 0xdc, 0x22, 0x2a, 0x90, 0x88, 0x46, 0xee, 0xb8, 0x14, 0xde, 0x5e, 0xb, 0xdb] ++
  [0xe0, 0x32, 0x3a, 0xa, 0x49, 0x6, 0x24, 0x5c, 0xc2, 0xd3, 0xac, 0x62, 0x91, 0x95, 0xe4, 0x79] ++
  [0xe7, 0xc8, 0x37, 0x6d, 0x8d, 0xd5, 0x4e, 0xa9, 0x6c, 0x56, 0xf4, 0xea, 0x65, 0x7a, 0xae, 0x8] ++
  [0xba, 0x78, 0x25, 0x2e, 0x1c, 0xa6, 0xb4, 0xc6, 0xe8, 0xdd, 0x74, 0x1f, 0x4b, 0xbd, 0x8b, 0x8a] ++
  [0x70, 0x3e, 0xb5, 0x66, 0x48, 0x3, 0xf6, 0xe, 0x61, 0x35, 0x57, 0xb9, 0x86, 0xc1, 0x1d, 0x9e] ++
  [0xe1, 0xf8, 0x98, 0x11, 0x69, 0xd9, 0x8e, 0x94, 0x9b, 0x1e, 0x87, 0xe9, 0xce, 0x55, 0x28, 0xdf] ++
  [0x8c, 0xa1, 0x89, 0xd, 0xbf, 0xe6, 0x42, 0x68, 0x41, 0x99, 0x2d, 0xf, 0xb0, 0x54, 0xbb, 0x16]

def sbox (x : Nat) : Nat := sboxTable.getD x 0

/-- Multiplication by x in the AES field. -/
def xtime (a : Nat) : Nat := if a ≥ 128 then (a * 2 % 256) ^^^ 0x1B else a * 2

def xorL (a b : List Nat) : List Nat := List.zipWith (· ^^^ ·) a b

/-- Bytes of column-major state after ShiftRows: row r moves left by r columns. -/
def shiftRows (b : List Nat) : List Nat :=
  (List.range 16).map (fun i => nth b ((i + 4 * (i % 4)) % 16))

def mixColumn (a b c d : Nat) : List Nat :=
  let t := a ^^^ b ^^^ c ^^^ d
  [a ^^^ t ^^^ xtime (a ^^^ b), b ^^^ t ^^^ xtime (b ^^^ c), c ^^^ t ^^^ xtime (c ^^^ d), d ^^^ t ^^^ xtime (d ^^^ a)]

def mixColumns (s : List Nat) : List Nat :=
  ((List.range 4).map (fun c => mixColumn (nth s (4 * c)) (nth s (4 * c + 1)) (nth s (4 * c + 2)) (nth s (4 * c + 3)))).flatten

/-- Key expansion, one 4-byte word at a time; `acc` holds the words so far, the latest first. -/
def expandKey (nk : Nat) : Nat → Nat → Nat → List (List Nat) → List (List Nat)
  | 0, _, _, acc => acc.reverse
  | n + 1, i, rc, acc =>
    let prev := acc.headD []
    let back := acc.getD (nk - 1) []
    let sub := prev.map sbox
    if i % nk = 0 then
      let rot := (prev.drop 1 ++ prev.take 1).map sbox
      let w := xorL back (xorL rot [rc, 0, 0, 0])
      expandKey nk n (i + 1) (xtime rc) (w :: acc)
    else if nk = 8 && i % 8 = 4 then expandKey nk n (i + 1) rc (xorL back sub :: acc)
    else expandKey nk n (i + 1) rc (xorL back prev :: acc)

def chunk4 : Nat → List Nat → List (List Nat)
  | 0, _ => []
  | n + 1, l => l.take 4 :: chunk4 n (l.drop 4)

/-- Round keys of a 16- or 32-byte key: 11 or 15 blocks. -/
def roundKeys (key : List Nat) : List (List Nat) :=
  let nk := key.length / 4
  let rounds := nk + 6
  let first := chunk4 nk key
  let words := expandKey nk (4 * (rounds + 1) - nk) nk 1 first.reverse
  (List.range (rounds + 1)).map (fun r => ((words.drop (4 * r)).take 4).flatten)

def aesRounds : List (List Nat) → List Nat → List Nat
  | [], s => s
  | [k], s => xorL (shiftRows (s.map sbox)) k
  | k :: t, s => aesRounds t (xorL (mixColumns (shiftRows (s.map sbox))) k)

/-- AES encryption of one block. -/
def aesBlock (keys : List (List Nat)) (b : List Nat) : List Nat :=
  match keys with
  | [] => b
  | k :: t => aesRounds t (xorL b k)

def natsOf (l : List Byte) : List Nat := l.map (·.toNat)

def bytesOf (l : List Nat) : List Byte := l.map (BitVec.ofNat 8)

/-- A block as the 128-bit number of GCM, first byte most significant. -/
def blockNum (l : List Nat) : Nat := l.foldl (fun a b => a * 256 + b) 0

def numBlock (v : Nat) : List Nat := natsOf (beBytes 16 v)

/-- Multiplication in GF(2^128) of SP 800-38D, bit by bit from the most significant bit of x. -/
def ghashMul (x : Nat) : Nat → Nat → Nat → Nat
  | 0, z, _ => z
  | n + 1, z, v =>
    let z := if bitAt x n then z ^^^ v else z
    let v := if v % 2 = 1 then (v / 2) ^^^ (0xE1 * 2 ^ 120) else v / 2
    ghashMul x n z v

def gmul (x y : Nat) : Nat := ghashMul x 128 0 y

def ghashStep (h acc : Nat) (block : List Nat) : Nat := gmul (acc ^^^ blockNum block) h

/-- Sixteen-byte blocks, the last padded with 0. -/
def blocks16 : Nat → List Nat → List (List Nat)
  | 0, _ => []
  | n + 1, l => (l.take 16 ++ List.replicate (16 - (l.take 16).length) 0) :: blocks16 n (l.drop 16)

def padBlocks (l : List Nat) : List (List Nat) := blocks16 ((l.length + 15) / 16) l

def ghashAll (h acc : Nat) (bl : List (List Nat)) : Nat := bl.foldl (ghashStep h) acc

/-- The hash subkey. -/
def gcmH (keys : List (List Nat)) : Nat := blockNum (aesBlock keys (List.replicate 16 0))

/-- Counter block number `n` for a 96-bit initialisation vector. -/
def counterBlock (iv : List Nat) (n : Nat) : List Nat := iv ++ natsOf (beBytes 4 n)

/-- Key stream over text, counters from 2. -/
def ctrFrom (keys : List (List Nat)) (iv : List Nat) : Nat → List (List Nat) → List (List Nat)
  | _, [] => []
  | n, b :: t => List.zipWith (· ^^^ ·) b (aesBlock keys (counterBlock iv n)) :: ctrFrom keys iv (n + 1) t

def gcmCrypt (keys : List (List Nat)) (iv text : List Nat) : List Nat :=
  ((ctrFrom keys iv 2 (padBlocks text)).flatten).take text.length

/-- The GCM tag over associated data and ciphertext. -/
def gcmTag (keys : List (List Nat)) (iv aad ct : List Nat) : List Nat :=
  let h := gcmH keys
  let acc := ghashAll h (ghashAll h 0 (padBlocks aad)) (padBlocks ct)
  let acc := gmul (acc ^^^ (aad.length * 8 * 2 ^ 64 + ct.length * 8)) h
  List.zipWith (· ^^^ ·) (numBlock acc) (aesBlock keys (counterBlock iv 1))

/-- The check value of a key (R565): bytes 0 to 3 of the encryption of 16 bytes 0xFF. -/
def keyCheck (key : List Byte) : List Byte :=
  bytesOf ((aesBlock (roundKeys (natsOf key)) (List.replicate 16 0xFF)).take 4)

/-- Open a GCM object: the plaintext when the tag matches. -/
def gcmOpen (key iv aad ct tag : List Byte) : Option (List Byte) :=
  let keys := roundKeys (natsOf key)
  if bytesOf (gcmTag keys (natsOf iv) (natsOf aad) (natsOf ct)) = tag then
    some (bytesOf (gcmCrypt keys (natsOf iv) (natsOf ct)))
  else none

end Sys2Proof.Machine
end

