-- ==== Sys2Proof/Machine/Cipher.lean ====
section
/-! DEFINITION. The cipher engine's lock, key slots and host sessions (16_cipher_engine.md). -/

namespace Sys2Proof.Machine

/-! ### Slots and registers -/

def noSlot : Nat → KeySlot := fun _ => {}

def State.keySlot (s : State) (i : Nat) : KeySlot := smGet noSlot s.cip.slots i

def State.setKeySlot (s : State) (i : Nat) (k : KeySlot) : State :=
  { s with cip := { s.cip with slots := smPut noSlot s.cip.slots i k } }

/-- The AES key bytes of a slot: 16 or 32. -/
def slotBytes (k : KeySlot) : List Byte := slice k.key 0 (if k.aes256 then 32 else 16)

/-- CIPHER_LOCK.owner: 0 none, 1 host, 2 image loader, 3 harvester. -/
def State.lockOwner (s : State) : Nat := s.get CIPHER_LOCK.owner

/-- The registers of R566 set to 0. -/
def State.clearCipherRegs (s : State) : State :=
  [CIPHER_IV0.regOff, CIPHER_IV1.regOff, CIPHER_DIN.regOff 0, CIPHER_DIN.regOff 1, CIPHER_DOUT.regOff 0,
   CIPHER_DOUT.regOff 1, CIPHER_TAG.regOff 0, CIPHER_TAG.regOff 1, CIPHER_KEY.regOff 0, CIPHER_KEY.regOff 1,
   CIPHER_KEY.regOff 2, CIPHER_KEY.regOff 3].foldl (fun s k => s.setRaw k 0) s

def State.cipState (s : State) : Nat := s.get CIPHER_STATUS.state

/-- A host session is open: SETUP, READY, BUSY or DONE. -/
def State.sessionOpen (s : State) : Bool := 1 ≤ s.cipState && s.cipState ≤ 4

/-- Leave the session in state `st`, its registers cleared (R566). -/
def State.endSession (s : State) (st : Nat) : State :=
  let s := { s with cip := { s.cip with running := false, block := none, finishing := false } }
  (s.clearCipherRegs).puts [(CIPHER_STATUS.state, st), (CIPHER_STATUS.in_ready, 0), (CIPHER_STATUS.out_valid, 0)]

/-- A 16-byte or 8-byte register value as bytes, byte 0 in [7:0]. -/
def State.regBytes (s : State) (k n : Nat) : List Byte := leBytes n (s.raw k).toNat

def State.ivBytes (s : State) : List Byte :=
  s.regBytes CIPHER_IV0.regOff 8 ++ s.regBytes CIPHER_IV1.regOff 4

def State.tagBytes (s : State) : List Byte :=
  s.regBytes (CIPHER_TAG.regOff 0) 8 ++ s.regBytes (CIPHER_TAG.regOff 1) 8

def State.keyBytes (s : State) : List Byte :=
  ((List.range 4).map (fun i => s.regBytes (CIPHER_KEY.regOff i) 8)).flatten

def natBytes (l : List Byte) : List Nat := l.map (·.toNat)

/-! ### The lock (R567, R568) -/

/-- A user other than the host waits. -/
def State.othersWait (s : State) : Bool := s.cip.waitLoader || s.cip.waitHarvester

/-- CIPHER_LOCK.waiting while the host holds the lock. -/
def State.showWaiting (s : State) : State := s.putFlag CIPHER_LOCK.waiting (s.lockOwner = 1 && s.othersWait)

def State.lockReq (s : State) : State :=
  if s.lockOwner = 1 then s else { s with cip := { s.cip with waitHost := true } }

def execCipherLockReq (s : State) : Host.Outcome State Fault Refusal := .next s.lockReq

/-- The image loader asks for the lock. -/
def State.loaderWaits (s : State) : State :=
  let since := if s.othersWait then s.cip.waitSince else s.clk
  ({ s with cip := { s.cip with waitLoader := true, waitSince := since } }).showWaiting

/-- The harvester asks for the lock. -/
def State.harvesterWaits (s : State) : State :=
  if s.cip.waitHarvester || s.lockOwner = 3 then s
  else
    let since := if s.othersWait then s.cip.waitSince else s.clk
    ({ s with cip := { s.cip with waitHarvester := true, waitSince := since } }).showWaiting

/-- The engine is free. -/
def State.freeLock (s : State) : State := (s.put CIPHER_LOCK.owner 0).showWaiting

/-- Host release: the session, if any, ends and the registers are cleared (R566, R567). -/
def State.lockRelease (s : State) : State :=
  let s := { s with cip := { s.cip with waitHost := false } }
  if s.lockOwner = 1 then ((if s.sessionOpen then s.endSession 0 else s).clearCipherRegs).freeLock else s

def execCipherLockRelease (s : State) : Host.Outcome State Fault Refusal := .next s.lockRelease

/-- Grant the free lock: image loader, harvester, host software (R567). -/
def State.lockGrant (s : State) : State :=
  if s.lockOwner ≠ 0 then s
  else
    let c := s.cip
    if c.waitLoader then ({ s with cip := { c with waitLoader := false } }).put CIPHER_LOCK.owner 2
    else if c.waitHarvester then ({ s with cip := { c with waitHarvester := false } }).put CIPHER_LOCK.owner 3
    else if c.waitHost then ({ s with cip := { c with waitHost := false } }).put CIPHER_LOCK.owner 1
    else s

def execCipherLockGrant (s : State) : Host.Outcome State Fault Refusal := .next s.lockGrant

/-- hold_ms passes with another user waiting: the host's session is abandoned and the lock granted (R568). -/
def State.lockRevoke (s : State) : State :=
  if s.lockOwner = 1 && s.othersWait then
    let s := if s.sessionOpen then s.endSession 0 else s.clearCipherRegs
    let s := (s.put CIPHER_LOCK.revoked 1).bump CIPHER_STAT.revocations 1
    s.freeLock.lockGrant
  else s

def execCipherLockRevoke (s : State) : Host.Outcome State Fault Refusal := .next s.lockRevoke

/-! ### Session commands (R569, R574) -/

def cipherKey : Nat := CIPHER_ENABLE_STATUS.regOff

def execCipherStart (s : State) : Host.Outcome State Fault Refusal := .next (s.startCheck cipherKey .cipherStart [])

def execCipherPushAad (s : State) : Host.Outcome State Fault Refusal :=
  .next (s.startCheck cipherKey .cipherAad [(s.raw (CIPHER_DIN.regOff 0)).toNat, (s.raw (CIPHER_DIN.regOff 1)).toNat])

def execCipherPushText (s : State) : Host.Outcome State Fault Refusal :=
  .next (s.startCheck cipherKey .cipherText [(s.raw (CIPHER_DIN.regOff 0)).toNat, (s.raw (CIPHER_DIN.regOff 1)).toNat])

def execCipherFinish (s : State) : Host.Outcome State Fault Refusal := .next (s.startCheck cipherKey .cipherFinish [])

def execCipherAbandon (s : State) : Host.Outcome State Fault Refusal := .next (s.startCheck cipherKey .cipherAbandon [])

def aadBlocks (c : CipherSt) : Nat := (c.aadLen + 15) / 16

def textBlocks (c : CipherSt) : Nat := (c.textLen + 15) / 16

/-- start: 0x0B01, 0x0B02, 0x0B03, 0x0B05. -/
def State.startReason (s : State) : Option (Nat × Nat) :=
  let slot := s.get CIPHER_CFG.slot
  firstReason [
    (s.lockOwner ≠ 1, 0xB01, slot),
    (!(s.keySlot slot).valid, 0xB02, slot),
    (slot < 3, 0xB03, slot),
    (s.sessionOpen, 0xB05, slot)]

/-- push_aad and push_text. -/
def State.pushReason (s : State) (text : Bool) : Option (Nat × Nat) :=
  let c := s.cip
  let beyond := if text then textBlocks c ≤ c.textDone || c.aadDone < aadBlocks c
    else c.textDone ≠ 0 || aadBlocks c ≤ c.aadDone
  firstReason [
    (s.lockOwner ≠ 1, 0xB01, c.slot),
    (s.sessionOpen && beyond, 0xB04, c.slot),
    (s.cipState ≠ 2 || !s.flag CIPHER_STATUS.in_ready, 0xB05, c.slot)]

def State.finishReason (s : State) : Option (Nat × Nat) :=
  let c := s.cip
  firstReason [
    (s.lockOwner ≠ 1, 0xB01, c.slot),
    (s.sessionOpen && (c.aadDone < aadBlocks c || c.textDone < textBlocks c), 0xB04, c.slot),
    (s.cipState ≠ 2, 0xB05, c.slot)]

def State.abandonReason (s : State) : Option (Nat × Nat) :=
  firstReason [(s.lockOwner ≠ 1, 0xB01, s.cip.slot), (!s.sessionOpen, 0xB05, s.cip.slot)]

/-- An accepted start takes the configuration, IV, lengths and expected tag; state SETUP. -/
def State.startAccepted (s : State) : State :=
  let s := { s with cip := { s.cip with
    running := true, slot := s.get CIPHER_CFG.slot, decrypt := s.flag CIPHER_CFG.decrypt
    aadLen := s.get CIPHER_LEN.aad_len, textLen := s.get CIPHER_LEN.text_len
    iv := s.ivBytes, expect := s.tagBytes, ghash := 0, aadDone := 0, textDone := 0
    block := none, finishing := false } }
  s.puts [(CIPHER_STATUS.state, 1), (CIPHER_STATUS.in_ready, 0), (CIPHER_STATUS.out_valid, 0),
    (CIPHER_STATUS.tag_ok, 0), (CIPHER_STATUS.tag_fail, 0), (CIPHER_STATUS.blocks, 0)]

/-- An accepted push: the engine works on the block. -/
def State.pushAccepted (s : State) (text : Bool) (d0 d1 : Nat) : State :=
  let b : CipherBlock := ⟨text, leBytes 8 d0 ++ leBytes 8 d1⟩
  let s := { s with cip := { s.cip with block := some b } }
  s.puts [(CIPHER_STATUS.state, 3), (CIPHER_STATUS.in_ready, 0), (CIPHER_STATUS.out_valid, 0),
    (CIPHER_STATUS.blocks, s.get CIPHER_STATUS.blocks + 1)]

def State.finishAccepted (s : State) : State :=
  let s := { s with cip := { s.cip with finishing := true } }
  s.puts [(CIPHER_STATUS.state, 3), (CIPHER_STATUS.in_ready, 0), (CIPHER_STATUS.out_valid, 0)]

/-- Key schedule and hash subkey ready: READY (R559). -/
def State.setupDone (s : State) : State :=
  if s.cipState = 1 then s.puts [(CIPHER_STATUS.state, 2), (CIPHER_STATUS.in_ready, 1)] else s

def execCipherSetupDone (s : State) : Host.Outcome State Fault Refusal := .next s.setupDone

def State.sessionKeys (s : State) : List (List Nat) := roundKeys (natBytes (slotBytes (s.keySlot s.cip.slot)))

/-- Bytes from `n` on set to 0 (R570). -/
def zeroFrom (n : Nat) (l : List Nat) : List Nat := l.take n ++ List.replicate (l.length - n) 0

/-- Valid bytes of text block `i`. -/
def validBytes (len i : Nat) : Nat := min 16 (len - 16 * i)

/-- Output block of a text block and the ciphertext that is hashed (R570). -/
def State.textBlock (s : State) (b : List Nat) : List Nat × List Nat :=
  let c := s.cip
  let n := validBytes c.textLen c.textDone
  let ks := aesBlock s.sessionKeys (counterBlock (natBytes c.iv) (c.textDone + 2))
  let out := zeroFrom n (xorL b ks)
  (out, if c.decrypt then zeroFrom n b else out)

/-- The engine finishes one block (R559, R569). -/
def State.blockDone (s : State) : State :=
  match s.cip.block with
  | none => s
  | some b =>
    let h := gcmH s.sessionKeys
    let c := s.cip
    if b.text then
      let (out, hashed) := s.textBlock (natBytes b.bytes)
      let s := { s with cip := { c with
        block := none, ghash := ghashStep h c.ghash hashed, textDone := c.textDone + 1 } }
      let s := s.setRaw (CIPHER_DOUT.regOff 0) (BitVec.ofNat 64 (ofLe (bytesOf (out.take 8))))
      let s := s.setRaw (CIPHER_DOUT.regOff 1) (BitVec.ofNat 64 (ofLe (bytesOf (out.drop 8))))
      s.puts [(CIPHER_STATUS.state, 2), (CIPHER_STATUS.in_ready, 1), (CIPHER_STATUS.out_valid, 1)]
    else
      let bytes := zeroFrom (validBytes c.aadLen c.aadDone) (natBytes b.bytes)
      let s := { s with cip := { c with
        block := none, ghash := ghashStep h c.ghash bytes, aadDone := c.aadDone + 1 } }
      s.puts [(CIPHER_STATUS.state, 2), (CIPHER_STATUS.in_ready, 1)]

def execCipherBlockDone (s : State) : Host.Outcome State Fault Refusal := .next s.blockDone

/-- The tag of the session's hashed blocks and true lengths. -/
def State.sessionTag (s : State) : List Byte :=
  let keys := s.sessionKeys
  let c := s.cip
  let acc := gmul (c.ghash ^^^ (c.aadLen * 8 * 2 ^ 64 + c.textLen * 8)) (gcmH keys)
  bytesOf (xorL (numBlock acc) (aesBlock keys (counterBlock (natBytes c.iv) 1)))

/-- The tag is produced or checked: DONE (R569). -/
def State.sessionDone (s : State) : State :=
  if !s.cip.finishing then s
  else
    let tag := s.sessionTag
    let s := { s with cip := { s.cip with finishing := false, running := false } }
    let s := (s.put CIPHER_STATUS.state 4).bump CIPHER_STAT.sessions 1
    if s.cip.decrypt then
      if tag = s.cip.expect then s.put CIPHER_STATUS.tag_ok 1
      else (s.put CIPHER_STATUS.tag_fail 1).bump CIPHER_STAT.tag_fails 1
    else
      (s.setRaw (CIPHER_TAG.regOff 0) (BitVec.ofNat 64 (ofLe (tag.take 8)))).setRaw (CIPHER_TAG.regOff 1)
        (BitVec.ofNat 64 (ofLe (tag.drop 8)))

def execCipherFinishDone (s : State) : Host.Outcome State Fault Refusal := .next s.sessionDone

/-! ### Key commands (R562-R566) -/

/-- The captured arguments of a key command: slot, len, wrapped, lock, IV, tag and key as numbers. -/
def State.keyArgs (s : State) (d : Nat) : List Nat :=
  [bitsOf d 0 3, bitsOf d 3 1, bitsOf d 4 1, bitsOf d 5 1, ofLe s.ivBytes, ofLe s.tagBytes, ofLe s.keyBytes]

/-- A write of CIPHER_KEY_CTL stores its RW fields and starts the key command's check. -/
def State.keyCommand (s : State) (op : CheckOp) (data : Word) : State :=
  let d := data.toNat
  let s := s.puts [(CIPHER_KEY_CTL.slot, bitsOf d 0 3), (CIPHER_KEY_CTL.len, bitsOf d 3 1),
    (CIPHER_KEY_CTL.wrapped, bitsOf d 4 1), (CIPHER_KEY_CTL.lock, bitsOf d 5 1)]
  s.startCheck cipherKey op (s.keyArgs d)

def execKeyLoad (data : Word) (s : State) : Host.Outcome State Fault Refusal := .next (s.keyCommand .keyLoad data)

def execKeyClear (data : Word) (s : State) : Host.Outcome State Fault Refusal := .next (s.keyCommand .keyClear data)

def execKeyProvision (data : Word) (s : State) : Host.Outcome State Fault Refusal :=
  .next (s.keyCommand .keyProvision data)

/-- The slot serves the running operation, or meters under an enabled harvester (R574, 0x0B0A). -/
def State.slotBusy (s : State) (slot : Nat) : Bool :=
  (s.cip.running && s.cip.slot = slot) || (s.lockOwner = 3 && s.get MTR_CFG.key_slot = slot) ||
  (s.flag MTR_STATUS.enabled && s.get MTR_CFG.key_slot = slot)

/-- The key of a captured load: plain, or unwrapped under slot 0 with associated data slot, len (R563). -/
def State.loadedKey (s : State) (a : List Nat) : Option (List Byte) :=
  let n := if nth a 1 = 1 then 32 else 16
  let key := leBytes n (nth a 6)
  if nth a 2 = 1 then
    gcmOpen (slotBytes (s.keySlot 0)) (leBytes 12 (nth a 4)) [BitVec.ofNat 8 (nth a 0), BitVec.ofNat 8 (nth a 1)] key
      (leBytes 16 (nth a 5))
  else some key

def State.loadReason (s : State) (a : List Nat) : Option (Nat × Nat) :=
  let slot := nth a 0
  let wrapped := nth a 2 = 1
  firstReason [
    (wrapped && s.lockOwner ≠ 1, 0xB01, slot),
    (wrapped && !(s.keySlot 0).valid, 0xB02, slot),
    (slot < 3 || (s.keySlot slot).locked, 0xB06, slot),
    ((s.loadedKey a).isNone, 0xB07, slot),
    (s.slotBusy slot, 0xB0A, slot)]

def State.loadAccepted (s : State) (a : List Nat) : State :=
  match s.loadedKey a with
  | some key => s.setKeySlot (nth a 0) { valid := true, aes256 := nth a 1 = 1, locked := nth a 3 = 1, key := key }
  | none => s

def State.clearReason (s : State) (a : List Nat) : Option (Nat × Nat) :=
  let slot := nth a 0
  firstReason [(slot < 3 || (s.keySlot slot).locked, 0xB06, slot), (s.slotBusy slot, 0xB0A, slot)]

def State.clearAccepted (s : State) (a : List Nat) : State := s.setKeySlot (nth a 0) {}

/-- Provisioning is refused once done or failed, unless the image state is EMPTY, or for another slot (R564). -/
def State.provisionReason (s : State) (a : List Nat) : Option (Nat × Nat) :=
  firstReason [(nth a 0 ≠ 2 || s.cip.fuse2.isSome || s.get STRUCT_STATUS.state ≠ 0, 0xB08, nth a 0)]

/-- Slot 2 fuses are programmed, read back and checked (R564, R573). The check ends here. -/
def State.provisionDone (s : State) : State :=
  match s.cip.provisioning, s.checks.find? (fun c => c.op = .keyProvision) with
  | true, some c =>
    let a := c.args
    let key := leBytes (if nth a 1 = 1 then 32 else 16) (nth a 6)
    let good := keyCheck key = leBytes 4 (nth a 5)
    let k : KeySlot :=
      if good then { valid := true, aes256 := nth a 1 = 1, key := key } else { failed := true }
    let s := { s with cip := { s.cip with provisioning := false, fuse2 := some k } }
    let s := (s.setKeySlot 2 k).clearCipherRegs
    if good then s.endCheck cipherKey 0 0
    else (s.raise 1700 2 (2 * 4 + 2 ^ 8)).endCheck cipherKey 0xB09 2
  | _, _ => s

def execKeyProvisionDone (s : State) : Host.Outcome State Fault Refusal := .next s.provisionDone

end Sys2Proof.Machine
end

