-- ==== Sys2Proof/Machine/Transmit.lean ====
section
/-! DEFINITION. Stage passages, the end of stage 31, departures, cell reads, stomped frames and PFC frames sent
(01_architecture.md R43, R44; 03 R113, R125; 07 R272-R280; 08 R295, R302, R318, R321; 11 R412). -/

namespace Sys2Proof.Machine

/-! ### Stages and the end of stage 31 (R109, R113, R125, R393) -/

/-- A copy that recirculates from stages 20 to 31 is a packet of its own from then on, with the copy's metadata and
the rule version of its packet. It asks for cells of its own in the recirculation queue. -/
def State.egressRecirc (s : State) (p : Pkt) (c : Copy) : State :=
  let id := s.pk.nextPkt
  let q : Pkt := { p with
    id := id, w := { c.w with stage := 20, look := [] }, fromFifo := false, admitted := false, pd := 0, copies := 0
    gone := [], charge := .none, charged := 0, reserved := 0, cells := [], last := false, ended := false, force := 0
    pending := [] }
  ((s.admitPkt q).removeCopy c).admitRecirc q

/-- Copy `c` has passed stage 31: it recirculates whatever its disposition (notes/assumptions/78.md), is discarded, or
waits at its deparser. -/
def State.egressEnd (s : State) (c : Copy) : State :=
  match s.pkt c.pkt with
  | none => s
  | some p =>
    if mdRecirc c.w.md then s.egressRecirc p c
    else
      let s := (s.countNotes c.w.notes).postcard c.w p.w.times c.w.times
      let c := { c with w := { c.w with notes := [] } }
      if mdDisposition c.w.md = 1 then s.discardCopy c else s.setCopy { c with at' := .held }

/-- A packet (or, with `isCopy`, a copy) passes its next stage. -/
def State.stageExecute (s : State) (isCopy : Bool) (id ecc : Nat) (err : List (Nat × Nat)) (slotErr : List Nat) : State :=
  if isCopy then
    match s.copy id with
    | some c =>
      if c.at' = .stages && c.w.stage < 32 && s.slotsRun c.w.pipe then
        let (s, k, _) := s.stageStep c.w ecc err slotErr
        let c := { c with w := k }
        let s := s.setCopy c
        if k.stage = 32 then s.egressEnd c else s
      else s
    | none => s
  else
    match s.pkt id with
    | some p =>
      if p.w.stage < 20 && !p.admitted && s.slotsRun p.w.pipe then
        let (s, k, f) := s.stageStep p.w ecc err slotErr
        s.setPkt { p with w := k, force := joinForce p.force f }
      else s
    | none => s

def execStageExecute (isCopy : Bool) (id : Nat) (ecc : Fin 3) (err : List (Nat × Nat)) (slotErr : List Nat) (s : State) :
    Host.Outcome State Fault Refusal :=
  .next (s.stageExecute isCopy id ecc err slotErr)

/-! ### Rewrites at departure -/

/-- RFC 1624: a checksum after one 16-bit word changes from `m` to `m'`. -/
def checksumUpdate (hc m m' : Nat) : Nat :=
  let a := (65535 - hc) + (65535 - m) + m'
  let a := a % 65536 + a / 65536
  65535 - (a % 65536 + a / 65536)

/-- The ECN field of the header named by `w`, the metadata word of R318. -/
def ecnField (w : Nat) (l : List Byte) : Nat :=
  let b := beAt l (bitsOf w 0 10 + 1) 1
  if bitAt w 14 then bitsOf b 4 2 else bitsOf b 0 2

/-- Set that ECN field to CE. -/
def ecnMark (w : Nat) (l : List Byte) : List Byte :=
  let off := bitsOf w 0 10
  let m := beAt l off 2
  if bitAt w 14 then patchBytes l off (beBytes 2 (setBits m 4 2 3))
  else
    let m' := setBits m 0 2 3
    patchBytes (patchBytes l off (beBytes 2 m')) (off + 10) (beBytes 2 (checksumUpdate (beAt l (off + 10) 2) m m'))

/-- The ECN rewrite of a departing copy (R318). -/
def State.ecnStep (s : State) (c : Copy) (l : List Byte) : State × List Byte :=
  let w := nth c.w.md (s.get BUF_G_CFG.ecn_off_word)
  if !(s.flag BUF_G_CFG.ecn_en && c.ecn && bitAt w 15) || ecnField w l = 0 then (s, l)
  else
    let n := satAdd 32 (smGet natZero s.buf.queueMarked c.queue) 1
    let s : State := { s with buf := { s.buf with queueMarked := smPut natZero s.buf.queueMarked c.queue n } }
    let s := s.meterMarked c.w.pipe (pairOf c.w.md)
    (s.perf (perfBlock c.w.pipe 33) 9 c.w.attr 1, if ecnField w l = 3 then l else ecnMark w l)

/-- Highest queue level on the path, this chip's included, and where it was seen (R273, R274). -/
def State.pathLevel (s : State) (md : List Nat) : Nat × Nat :=
  let own := s.level (mdGet md 7 0 21)
  if mdGet md 0 31 1 = 1 && own ≤ mdGet md 10 22 4 then (mdGet md 10 22 4, mdGet md 13 0 10) else (own, s.ownChip)

/-- The Hop-by-Hop Options header that carries the IOAM trace (R280, RFC 9197, RFC 9486). -/
def State.ioamHeader (s : State) (next hop dep level src : Nat) : List Byte :=
  beBytes 1 next ++ beBytes 1 3 ++
  beBytes 4 0x31160001 ++
  beBytes 2 (s.get PL_IOAM_CFG.namespace_id) ++ beBytes 2 (3 * 2 ^ 11) ++ beBytes 4 0x8A000000 ++
  beBytes 1 hop ++ beBytes 3 s.ownChip ++ beBytes 4 ((dep + 2 ^ 32 - src) % 2 ^ 32) ++ beBytes 4 level ++
  beBytes 6 0x010400000000

/-- IOAM is enabled for the copy's tenant. -/
def State.ioamOn (s : State) (c : Copy) : Bool :=
  let t := mdTenant c.w.md
  s.flag PL_IOAM_CFG.enable && bitAt (s.get (PL_IOAM_TEN.tenant (t / 64))) (t % 64)

/-- The copy's frame meets every condition of the insertion. -/
def State.ioamFits (s : State) (port : Nat) (c : Copy) (whole : Bool) (l : List Byte) : Bool :=
  let n := etherTypeAt l + 2
  let len := if whole then l.length else n + 44 + beAt l (n + 4) 2
  s.ioamOn c && !s.isRistlink port && mdGet c.w.md 0 31 1 = 1 && beAt l (n - 2) 2 = 0x86DD && beAt l (n + 6) 1 ≠ 0 &&
  len + 32 ≤ s.get PL_IOAM_CFG.max_frame

/-- The IOAM insertion at departure time `dep` in ns; a frame of an enabled tenant without it is counted (R280). -/
def State.ioamStep (s : State) (port : Nat) (c : Copy) (whole : Bool) (dep : Nat) (l : List Byte) : State × List Byte :=
  let n := etherTypeAt l + 2
  if s.ioamFits port c whole l then
    let opt := s.ioamHeader (beAt l (n + 6) 1) (beAt l (n + 7) 1) dep (s.pathLevel c.w.md).1 (nth c.w.md 12)
    let h := patchBytes (patchBytes l (n + 4) (beBytes 2 (beAt l (n + 4) 2 + 32))) (n + 6) (beBytes 1 0)
    (s, h.take (n + 40) ++ opt ++ h.drop (n + 40))
  else (if s.ioamOn c then s.bump PL_STAT.ioam_skipped 1 else s, l)

/-- The fabric header of a departure on a Ristlink port (R272, R274). -/
def State.fabricHead (s : State) (port : Nat) (p : Pkt) (c : Copy) : List Byte :=
  let md := c.w.md
  let fab := mdGet md 0 31 1 = 1
  let neighbor := match s.linkOfPort port with | some n => s.get (PL_LINK.neighbor_chip n) | none => 0
  let dst := match p.fabDst with | some d => d | none => if fab then mdGet md 9 10 10 else neighbor
  let kept (own received : Nat) : Nat := if fab then received else own
  let h := 2 ^ 92 + b2n c.mcast * 2 ^ 88 + kept s.ownChip (mdGet md 9 0 10) * 2 ^ 78 + dst * 2 ^ 68 +
    kept (mdTenant md) (mdGet md 9 20 12) * 2 ^ 56 + c.queue % 16 * 2 ^ 52 + mdClass md * 2 ^ 50 +
    kept (mdGet md 2 25 1) (mdGet md 10 6 1) * 2 ^ 49 + mdGet md 10 7 1 * 2 ^ 48 + mdGet md 10 8 10 * 2 ^ 38 +
    kept 1 ((mdGet md 10 18 4 + 1) % 16) * 2 ^ 34 + kept (mdGet md 8 0 16) (mdGet md 11 0 16) * 2 ^ 16
  let b := (beBytes 12 h).take 11
  b ++ beBytes 1 (crc8 b)

/-- The telemetry trailer of a frame that departed at throttle level `own` (R273, R274). -/
def State.fabricTail (s : State) (own : Nat) (c : Copy) : List Byte :=
  let md := c.w.md
  let fab := mdGet md 0 31 1 = 1
  let sojourn := (nth md 6 + 2 ^ 32 - nth md 5) % 2 ^ 32 / 64
  let (level, chip) := s.pathLevel md
  beBytes 8 (satAdd 16 sojourn (mdGet md 11 16 16) * 2 ^ 48 + level * 2 ^ 44 + chip * 2 ^ 34 +
    max own (mdGet md 10 26 2) * 2 ^ 32 + (if fab then nth md 12 else nth md 3))

/-- Departure less arrival in 2^-16 ns (R491). -/
def residence (p : Pkt) (c : Copy) (dep : Nat) : Nat :=
  if mdGet c.w.md 0 31 1 = 1 then (dep + 2 ^ 48 - nth c.w.md 12 * 65536) % 2 ^ 48 else dep - p.rx

/-- A frame as it leaves: its fabric header, its body without FCS, how many bytes rewrites have added, whether they
changed any, and its trailer. -/
structure Rewrite where
  head : List Byte
  body : List Byte
  grown : Nat
  edited : Bool
  tail : List Byte
  deriving DecidableEq, Repr

/-- The frame that a copy with wire record `w` puts on the wire, from the bytes now known, and what the rewrites count.
The device's settings are those at the time this is asked: with the whole frame held, at its first bit, else at its end
(notes/assumptions/43.md). -/
def State.wireOf (s : State) (port : Nat) (p : Pkt) (c : Copy) (w : Wire) : State × Rewrite :=
  let l := if p.whole then p.bytes else p.bytes ++ [0, 0, 0, 0]
  let (s, m) := s.ecnStep c l
  let rl := s.isRistlink port
  let (s, m) := s.ioamStep port c p.whole (w.dep / 65536 % 2 ^ 32) m
  let (s, m) := if rl then (s, m) else s.ptpTx port w.dep (residence p c w.dep) m
  let body := m.take (m.length - 4)
  (s, { head := if rl then s.fabricHead port p c else [], body := body, grown := m.length - l.length
        edited := decide (body ≠ l.take (l.length - 4)), tail := if rl then s.fabricTail w.throttle c else [] })

/-- The whole frame of R411 as it leaves, FCS included. -/
def wireFrame (r : Rewrite) (p : Pkt) : List Byte := if r.edited then withFcs r.body else p.bytes

/-- A frame ended before its end: what its cells held so far, with an inverted FCS (R44). -/
def stompedFrame (r : Rewrite) (c : Copy) : List Byte :=
  let b := r.body.take (256 * c.read + r.grown)
  b ++ leBytes 4 (2 ^ 32 - 1 - crc32 b)

/-- Credits debited for a length not yet known come back once it is (notes/assumptions/85.md). -/
def State.refund (s : State) (port : Nat) (p : Pkt) (w : Wire) (len : Nat) : State :=
  let k := port * 4 + mdClass p.w.md
  if w.late && s.credited port p then
    s.setCredit k { s.credit k with avail := (s.credit k).avail + (w.debit - ceilDiv len 256) }
  else s

/-- Count a frame that has left. -/
def State.countTx (s : State) (port : Nat) (c : Copy) (late : Bool) (len : Nat) : State :=
  let lane := s.laneOf port
  let s := (s.bump (PORT_TX0.tx_frames lane) 1).bump (PORT_TX1.tx_bytes lane) len
  let s := (s.lanePerf port 0x42 1).lanePerf port 0x43 len
  if late then s.meterSent c.w.pipe (pairOf c.w.md) 0 len else s

/-- A frame leaves: on a Ristlink port in its stream. -/
def State.sendFrame (s : State) (port : Nat) (b : List Byte) : State :=
  if s.isRistlink port then s.sendStream port true b else s.send (.frame port b)

/-- A copy on the wire whose cells are all read ends its frame. -/
def State.tryFinish (s : State) (id : Nat) : State :=
  match s.copy id with
  | some c =>
    match s.pkt c.pkt, c.wire with
    | some p, some w =>
      if p.last && c.read = p.cells.length then
        let port := c.queue / 16
        let (t, r) := s.wireOf port p c w
        let s := if w.late then t else s
        let l := wireFrame r p
        (((s.refund port p w l.length).sendFrame port (r.head ++ l ++ r.tail)).countTx port c w.late l.length).removeCopy c
      else s
    | _, _ => s
  | none => s

/-- A copy on the wire is stomped (R44). -/
def State.stompCopy (s : State) (c : Copy) : State :=
  match s.pkt c.pkt, c.wire with
  | some p, some w =>
    let port := c.queue / 16
    let (t, r) := s.wireOf port p c w
    let s := if w.late then t else s
    let l := stompedFrame r c
    let s := ((s.refund port p w l.length).sendFrame port (r.head ++ l ++ r.tail)).countTx port c w.late l.length
    (s.bump (PORT_TX2.stomped (s.laneOf port)) 1).removeCopy c
  | _, _ => s

/-- Every copy of the packet that is on the wire is stomped. -/
def State.stompPkt (s : State) (id : Nat) : State :=
  (s.pk.copies.filter (fun c => c.pkt = id && c.wire.isSome)).foldl (fun s c => match s.copy c.id with
    | some d => s.stompCopy d
    | none => s) s

/-! ### The first bit of a frame (R353, R354, R360, R279, R373) -/

/-- Copies of a queue that its holding buffer holds, oldest decision first. -/
def State.heldCopies (s : State) (q : Nat) : List Copy := s.pk.copies.filter (fun c => c.queue = q && c.at' = .held)

/-- The first held copy of a queue in the order of the scheduler's choices. -/
def State.nextHeld (s : State) (q : Nat) : Option Copy := (s.heldCopies q).head?

/-- An earlier choice of the queue is still in stages 20 to 31. -/
def State.overtakes (s : State) (c : Copy) : Bool :=
  (s.pk.copies.takeWhile (fun d => d.id ≠ c.id)).any (fun d => d.queue = c.queue && d.at' = .stages)

/-- The port's transmitter is between frames. -/
def State.txFree (s : State) (port : Nat) : Bool :=
  s.pk.copies.all (fun c => !(c.wire.isSome && isPortQueue c.queue && c.queue / 16 = port))

/-- ns that `n` bytes take at the port's speed, in 2^-8 ns. -/
def State.wireTime (s : State) (port n : Nat) : Nat := ceilDiv (n * 8 * 256) (max 1 (s.portRate port))

/-- The guard lets a frame of `len` bytes start (R353). -/
def State.guardOk (s : State) (port q len : Nat) : Bool :=
  !s.flag (SCHED_PORT_CFG.guard_en port) ||
  (match s.closesIn port q with
    | some n => decide (s.wireTime port (len + s.get (SCHED_PORT_CFG.ovh_bytes port)) ≤ n * 256)
    | none => true)

/-- The departing length that is known at the first bit: the frame's, or the cells that admission assumes, and what
IOAM inserts. -/
def State.departLen (s : State) (port : Nat) (p : Pkt) (c : Copy) : Nat :=
  (if p.whole then p.bytes.length else max p.bytes.length (s.get BUF_G_ACTIVE.resv_cells * 256)) +
  (if s.ioamFits port c p.whole (if p.whole then p.bytes else p.bytes ++ [0, 0, 0, 0]) then 32 else 0)

/-- A copy that does not depart, counted in errored_discards of its port (R279, R412). -/
def State.discardErrored (s : State) (port : Nat) (c : Copy) : State :=
  (s.bump (PORT_TX2.errored_discards (s.laneOf port)) 1).discardCopy c

/-- The first bit of copy `c` leaves. -/
def State.startFrame (s : State) (port : Nat) (p : Pkt) (c : Copy) : State :=
  let w : Wire :=
    { dep := s.stamp (s.get (TIME_PORT.tx_adj port)), throttle := s.get PL_FAB_STATUS.own_throttle
      debit := frameCredits p, late := !p.whole }
  let len := if p.whole then s.departLen port p c else 0
  let s := if w.late then s else (s.wireOf port p c w).1
  let k := port * 4 + mdClass p.w.md
  let s := if s.credited port p then
      s.setCredit k { s.credit k with avail := (s.credit k).avail - frameCredits p } else s
  let s := s.meterSent c.w.pipe (pairOf c.w.md) 1 len
  let b := perfBlock c.w.pipe 33
  let s := (s.perf b 2 c.w.attr 1).perf b 3 c.w.attr (mdGet c.w.md 2 6 14)
  (s.setCopy { c with at' := .sending, wire := some w }).tryFinish c.id

/-- Classes about which the port owes a PFC frame. -/
def State.pfcOwed (s : State) (port : Nat) : Nat := smGet natZero s.buf.pfcSet port ||| smGet natZero s.buf.pfcClear port

/-- A PFC frame that the port owes is the next frame sent (R322). -/
def State.pfcFirst (s : State) (port : Nat) : Bool := s.pfcOwed port ≠ 0 && !s.isRistlink port

/-- The next held frame of a queue starts when gate, guard, PFC and credit allow. -/
def State.txStart (s : State) (port q : Nat) : State :=
  match s.nextHeld (queueOf port q) with
  | none => s
  | some c =>
    match s.pkt c.pkt with
    | none => s
    | some p =>
      if s.gated || s.pin.stopped || !s.channelRuns (s.pipeOf port) || !s.linkPasses port || !s.txFree port ||
          s.overtakes c || s.pfcFirst port || !s.gateOpen port q s.wrapNow || s.pfcHeld port q then s
      else if p.err then s.discardErrored port c
      else if s.isRistlink port && !s.flag PL_FAB_STATUS.enabled then
        (s.bump PL_STAT.not_enabled 1).discardCopy c
      else if s.waitsCredit port p then s
      else if s.neverCredit port p then s.discardErrored port c
      else if !s.guardOk port q (s.departLen port p c) then
        if c.guarded then s
        else (s.setCopy { c with guarded := true }).bump (SCHED_PIPE_STAT1.guard_holds (s.pipeOf port)) 1
      else s.startFrame port p c

def execTxStart (port : Fin 1024) (queue : Fin 16) (s : State) : Host.Outcome State Fault Refusal :=
  .next (s.txStart port queue)

/-! ### Reading cells (R295, R297) -/

/-- A copy that its egress pipe has chosen reads its next cell, which crosses the channel to the I/O die (R55), and
presents its reference, as `ref` gives it where the copy's own is corrupted (pointer, owner, epoch). `ecc`: 1 a
corrected state word, 2 a double-bit error. A copy that reaches a quarantined cell is dropped (R297). -/
def State.cellRead (s : State) (id : Nat) (ref : Option (Nat × Nat × Nat)) (ecc : Nat) : State :=
  match s.copy id with
  | none => s
  | some c =>
    match s.pkt c.pkt with
    | none => s
    | some p =>
      match p.cells[c.read]? with
      | none => s
      | some (ptr, e) =>
        let port := c.queue / 16
        let lossless := s.isLossless port (mdClass c.w.md)
        if c.at' = .queued || !isPortQueue c.queue || !s.slotsRun c.w.pipe || !s.chReady c.w.pipe true (chData lossless) then s
        else if ecc = 2 || s.buf.bad.contains ptr then
          let s := if ecc = 2 then s.quarantine ptr else s
          if c.wire.isSome then s.stompCopy c else s.discardCopy c
        else
          let s := if ecc = 1 then s.raise (1664 + ptrGroup ptr) 1 ptr else s
          let s := (s.chCross c.w.pipe true (chData lossless) (.cell port lossless) 1).setCopy { c with read := c.read + 1 }
          let (q, owner, epoch) := ref.getD (ptr, p.w.pipe, e)
          (s.freeRef q owner epoch (s.copyPipe c)).tryFinish id

def execCellRead (copy : Nat) (ref : Option (Nat × Nat × Nat)) (ecc : Fin 3) (s : State) :
    Host.Outcome State Fault Refusal :=
  .next (s.cellRead copy ref ecc)

/-! ### The last byte (R164, R371, R373, R412) -/

/-- Write length and trailer fields into a record. -/
def lateWords (l hdr : List Byte) (md : List Nat) : List Nat :=
  let md := mdPut md 2 6 14 (lengthField true l)
  if hdr.length ≤ 12 then md else trailerWords md (ofTrailer hdr)

/-- The rest of a frame that waits in the FIFO; a MAC control frame is consumed there (R360). -/
def State.completeWaiting (s : State) (f : RxFrame) (l hdr : List Byte) (err : Bool) : State :=
  let sec := s.pipeOf f.port
  let was := s.fifoFill sec
  let g := { f with bytes := l, whole := true, hdr := hdr }
  let keep (good : Bool) : List RxFrame := (s.fifo sec).filterMap (fun x => if x = f then (if good then some g else none) else some x)
  if l.length < 64 then
    let lane := s.laneOf f.port
    let s := s.setFifo sec (keep false)
    ((s.bump (PORT_RX0.rx_frames lane) 1).bump (PORT_RX1.rx_bytes lane) l.length).bump (PORT_RX2.len_err lane) 1
  else
    let (t, bad) := s.countRx f.port l err
    if bad then t.setFifo sec (keep false)
    else if hdr.isEmpty && isControl l then (t.setFifo sec (keep false)).controlFrame f.port l
    else ((t.ptpRx f.port f.rx l).setFifo sec (keep true)).fifoGrown sec was

/-- The rest of a packet that entered before its last byte: length, trailer, waiting byte counts, errors. -/
def State.completePkt (s : State) (p : Pkt) (l hdr : List Byte) (bad : Bool) : State :=
  let s := s.meterLate p.w.pipe (min l.length 16383) p.pending
  let was := s.fifoFill p.w.pipe
  let s := s.setPkt { p with
    bytes := l, whole := true, err := p.err || bad, hdr := hdr, pending := []
    w := { p.w with md := lateWords l hdr p.w.md } }
  let s := { s with pk := { s.pk with copies := s.pk.copies.map (fun (c : Copy) =>
    if c.pkt = p.id then { c with w := { c.w with md := lateWords l hdr c.w.md } } else c) } }
  let s := s.fifoGrown p.w.pipe was
  ((if bad then s.stompPkt p.id else s).settle p.id).xoffSweep p.w.pipe

/-- The I/O section of `port` comes to hold the last byte of the frame being received: `rest` are the bytes since
it was last known, a Ristlink trailer included; `err` says that its PCS marked a block errored. -/
def State.lastByteHeld (s : State) (port : Nat) (rest : List Byte) (err : Bool) : State :=
  let rl := s.isRistlink port
  let n := if rl then rest.length - 8 else rest.length
  let tail := if rl then rest.drop n else []
  match (s.fifo (s.pipeOf port)).find? (fun f => f.port = port && !f.whole) with
  | some f => s.completeWaiting f (s.cutFrame port (f.bytes ++ rest.take n)) (f.hdr ++ tail) (err || f.err)
  | none =>
    let ps := s.pk.pkts.filter (fun p => p.port = port && !p.whole && !p.w.injected)
    match ps with
    | [] => s
    | p :: _ =>
      let l := s.cutFrame port (p.bytes ++ rest.take n)
      let (s, bad) := s.countRx port l (err || p.rxErr)
      let s := if bad then s else s.ptpRx port p.rx l
      ps.foldl (fun s p => match s.pkt p.id with
        | some p => s.completePkt p l (p.hdr ++ tail) bad
        | none => s) s

def execLastByteHeld (port : Fin 1024) (rest : List Byte) (err : Bool) (s : State) : Host.Outcome State Fault Refusal :=
  .next (s.lastByteHeld port rest err)

/-- A stall of 10 µs ends the packet that pipe `p` is writing as an errored frame (R302). -/
def State.stallEnd (s : State) (pipe : Nat) : State :=
  match s.pk.pkts.find? (fun p => p.w.pipe = pipe && p.admitted && !p.last && !p.ended && (nextCell p).isSome) with
  | some p =>
    if s.noPointers then
      let p := { p with ended := true, err := true, fromFifo := false }
      let s := (s.setPkt p).bump (BUF_PIPE_STAT4.stall_ends pipe) 1
      ((s.trimCharge p (p.reserved - p.cells.length)).stompPkt p.id).xoffSweep pipe
    else s
  | none => s

def execWriteStallEnd (pipe : Fin 32) (s : State) : Host.Outcome State Fault Refusal := .next (s.stallEnd pipe)

/-! ### PFC frames sent (R319-R322) -/

/-- The priorities of a class at a port. -/
def State.classPrios (s : State) (port c : Nat) : Nat := bitsOf (s.get (BUF_PORT_CFG.prio port)) (8 * c) 8

/-- Priorities claimed by the classes of a mask. -/
def State.maskPrios (s : State) (port mask : Nat) : Nat :=
  (List.range 4).foldl (fun v c => if bitAt mask c then v ||| s.classPrios port c else v) 0

def State.xoffMask (s : State) (port : Nat) : Nat := s.get (BUF_PORT_CFG2.xoff port)

/-- A PFC frame about the classes of `mask`; a priority of a class in XOFF carries pause_quanta (R321). -/
def State.pfcFrame (s : State) (port mask : Nat) : List Byte :=
  let on := s.maskPrios port (s.xoffMask port)
  let en := s.maskPrios port mask
  let time (i : Nat) : Nat := if bitAt en i && bitAt on i then s.get (BUF_PORT_CFG.pause_quanta port) else 0
  let b := beBytes 6 0x0180C2000001 ++ beBytes 6 (s.get (PORT_MAC.mac (s.laneOf port))) ++ beBytes 2 0x8808 ++
    beBytes 2 0x0101 ++ beBytes 2 en ++ ((List.range 8).map (fun i => beBytes 2 (time i))).flatten
  withFcs (b ++ List.replicate (60 - b.length) 0)

/-- Send it; classes in XOFF have then had their XOFF frame, and may clear. -/
def State.sendPfc (s : State) (port mask : Nat) : State :=
  let l := s.pfcFrame port mask
  let lane := s.laneOf port
  let s := s.send (.frame port l)
  let s := (s.bump (PORT_TX0.tx_frames lane) 1).bump (PORT_TX1.tx_bytes lane) l.length
  let s := (s.lanePerf port 0x42 1).lanePerf port 0x43 l.length
  let s := { s with buf := { s.buf with pfcSet := smPut natZero s.buf.pfcSet port 0, pfcClear := smPut natZero s.buf.pfcClear port 0 } }
  (List.range 4).foldl (fun s c =>
    let k := port * 4 + c
    (if s.xoffOf k = 1 then s.setXoff k 2 else s).xoffTry k) s

/-- A pending PFC frame is sent at a gap between frames. -/
def State.pfcSend (s : State) (port : Nat) : State :=
  let mask := s.pfcOwed port
  if mask = 0 || s.isRistlink port || !s.linkPasses port || !s.txFree port then s else s.sendPfc port mask

def execPfcFrameSend (port : Fin 1024) (s : State) : Host.Outcome State Fault Refusal := .next (s.pfcSend port)

/-- refresh_us has passed for a port in XOFF: the XOFF frame is repeated. -/
def State.pfcRefresh (s : State) (port : Nat) : State :=
  let mask := s.xoffMask port
  if mask = 0 || s.get (BUF_PORT_CFG2.refresh_us port) = 0 || s.isRistlink port || !s.linkPasses port || !s.txFree port then s
  else s.sendPfc port (mask ||| smGet natZero s.buf.pfcClear port)

def execPfcRefresh (port : Fin 1024) (s : State) : Host.Outcome State Fault Refusal := .next (s.pfcRefresh port)

end Sys2Proof.Machine
end

