-- ==== Sys2Proof/Machine/Punt.lean ====
section
/-! DEFINITION. Punting: copies of host queues written into PUNT entries (12_host_interface_rings.md R467-R469). -/

namespace Sys2Proof.Machine

/-- The refusal of a PUNT entry, if any (R468, R480). -/
def puntReason (w : List Word) : Option (Nat × Nat) :=
  let len := bitsOf (wordAt w 3) 0 32
  firstReason [
    (bitsOf (wordAt w 0) 0 32 ≠ 0 || bitsOf (wordAt w 0) 48 11 ≠ 0 || wordAt w 1 ≠ 0 || bitsOf (wordAt w 3) 32 32 ≠ 0 ||
      wordAt w 4 ≠ 0 || wordAt w 5 ≠ 0 || wordAt w 6 ≠ 0 || wordAt w 7 ≠ 0, 0x321, 0),
    (wordAt w 2 % 64 ≠ 0 || len < 256 || 65536 < len, 0x322, 0)]

/-- Host queues that ring `r` serves and that hold a copy ready to be written: its last cell is written, or it was
found errored. -/
def State.puntQueues (s : State) (r : Nat) : List Nat :=
  (List.range 256).filter (fun h => s.hostQueueOn h && s.get (HIF_HQ_MAP.ring h) = r &&
    (match s.head (16384 + h) with
      | some c => (match s.pkt c.pkt with | some p => p.last || p.ended | none => false)
      | none => false))

/-- The queue whose turn it is, round robin after the last one served. -/
def State.puntTurn (s : State) (r : Nat) : Option Nat :=
  let l := s.puntQueues r
  (rotation 256 (s.ring r).lastHq).find? (fun h => l.contains h)

/-- Record words 0 to 15 as host memory holds them (R9, R468). -/
def hostRecord (md : List Nat) : List Byte := ((List.range 16).map (fun i => leBytes 4 (nth md i))).flatten

/-- What is written to the buffer: the record when punt_meta is set, then the frame without FCS. -/
def puntBytes (metaOn : Bool) (md : List Nat) (p : Pkt) : List Byte :=
  (if metaOn then hostRecord md else []) ++ p.bytes.take (p.bytes.length - 4)

/-- Words 0, 1 and 4 to 7 of a completed PUNT entry. -/
def puntWords (w : List Word) (low count : Nat) (md : List Nat) : List (Nat × Nat) :=
  (0, wordAt w 0 / 2 ^ 32 * 2 ^ 32 + low) :: (1, count * 2 ^ 32) ::
    (List.range 4).map (fun j => (4 + j, nth md (2 * j) + nth md (2 * j + 1) * 2 ^ 32))

/-- Write copy `c` of host queue `h` into the available entry `w` of ring `r`. -/
def State.puntCopy (s : State) (r h : Nat) (w : List Word) (p : Pkt) (c : Copy) : State :=
  let f := s.ringFunc r
  let md := s.egressWords p c
  let md := setAt md 7 (nth c.w.md 7)
  let l := puntBytes (s.flag (RING_CFG.punt_meta (s.slot r))) md p
  let n := min l.length (bitsOf (wordAt w 3) 0 32)
  let cut := decide (n < l.length)
  let low := (p.bytes.length - 4) % 2 ^ 14 + h * 2 ^ 14 + b2n cut * 2 ^ 22
  let s := (s.writeHost f (wordAt w 2) (l.take n)).perf hifBlock 0x63 { func := some f } n
  let s := s.setRing r { s.ring r with lastHq := h }
  (s.fillEntry r (if cut then 4 else 0) (puntWords w low n md)).removeCopy c

/-- No entry is available and none can become so without a doorbell: with punt_drop the copy is lost (R469). -/
def State.puntLost (s : State) (r h : Nat) (c : Copy) : State :=
  let x := s.ring r
  if s.flag (RING_CFG.punt_drop (s.slot r)) && !(x.scanning && s.mayTake r) then
    let s := (s.setRing r { x with lostCount := x.lostCount + 1, lastHq := h }).bump (RING_STAT.lost r) 1
    let s := s.perf hifBlock 0x66 { func := some (s.ringFunc r) } 1
    s.discardCopy c
  else s

/-- The copy that is due on ring `r`, whose cells show the errors `ecc` as they are read; with a quarantined cell it is
dropped (R297). -/
def State.puntWrite (s : State) (r : Nat) (ecc : List (Nat × Bool)) : State :=
  if s.gated then s
  else
    match s.puntTurn r with
    | none => s
    | some h =>
      match s.head (16384 + h) with
      | none => s
      | some c =>
        match s.pkt c.pkt with
        | none => s
        | some p =>
          let f := s.ringFunc r
          if p.err then s.discardCopy c
          else if f ≠ 0 && mdTenant p.w.md ≠ s.get (HIF_VF.tenant f) then
            ((s.bump HIF_STAT.punt_tenant_drops 1).perf hifBlock 0x66 { func := some f } 1).discardCopy c
          else
            match s.headCopy r with
            | (s, none) => s.puntLost r h c
            | (s, some w) =>
              match puntReason w with
              | some (reason, _) => s.fillEntry r 2 [(1, reason)]
              | none =>
                let x := s.ring r
                if x.lostCount ≠ 0 then
                  let s := s.setRing r { x with lostCount := 0 }
                  s.fillEntry r 0 [(0, wordAt w 0 / 2 ^ 32 * 2 ^ 32 + 2 ^ 23), (1, x.lostCount * 2 ^ 32)]
                else
                  let s := s.readErrors p ecc
                  if s.holdsBad p then s.discardCopy c else s.puntCopy r h w p c

def execPuntWrite (r : Fin 1024 × CellErrors) (s : State) : Host.Outcome State Fault Refusal :=
  .next (s.puntWrite r.1 r.2)

end Sys2Proof.Machine
end

