-- ==== Sys2Proof/Machine/Harvest.lean ====
section
/-! DEFINITION. Harvest edges, meter batches and their delivery (10_telemetry_metering.md R380-R391, R398, R400;
16_cipher_engine.md R573). -/

namespace Sys2Proof.Machine

/-! ### Boundaries (R380, R382) -/

def State.intervalNs (s : State) : Nat := s.get MTR_CFG.interval_ms * 1000000

def State.phaseNs (s : State) : Nat := s.get MTR_CFG2.phase_ms * 1000000

/-- Boundaries at or before time `n` in ns, counted from an arbitrary zero. -/
def State.boundaryIndex (s : State) (n : Nat) : Int := Int.fdiv ((n : Int) - s.phaseNs) (s.intervalNs : Int)

/-- The first boundary later than `n`. -/
def State.nextBoundary (s : State) (n : Nat) : Nat := ((s.boundaryIndex n + 1) * s.intervalNs + s.phaseNs).toNat

/-- Boundaries in (a, b]. -/
def State.boundariesIn (s : State) (a b : Nat) : Nat := (s.boundaryIndex b - s.boundaryIndex a).toNat

/-! ### The edge (R382, R383) -/

/-- Blocks with a performance counter that has counted or been snapshot. -/
def State.perfBlocks (s : State) : List Nat :=
  ((s.regs.filter (fun (x : Nat × Word) => 504 ≤ x.1 / 8 % 512 &&
    (regDesc x.1 = PERF_CNT.desc || regDesc x.1 = PERF_SNAP.desc))).map (fun x => x.1 / 0x1000 * 0x1000)).eraseDups

/-- Copy a counter to its snapshot; harvest_clear zeroes it. -/
def State.snapCounter (s : State) (b k : Nat) : State :=
  let s := s.setRaw (PERF_SNAP.regOff b k) (s.raw (PERF_CNT.regOff b k))
  if s.flag (PERF_SEL.harvest_clear b k) then s.put (PERF_CNT.value b k) 0 else s

def State.snapAll (s : State) : State :=
  s.perfBlocks.foldl (fun s b => (List.range 4).foldl (fun s k => s.snapCounter b k) s) s

/-- Virtual functions that get a batch of this harvest: (n, ring, tenant) as they stand now (R389). -/
def State.meterVfs (s : State) : List (Nat × Nat × Nat) :=
  ((List.range 64).filter (fun n => n ≠ 0 && s.flag (MTR_VF.enable n))).map (fun n => (n, s.get (MTR_VF.ring n), s.get (HIF_VF.tenant n)))

/-- A harvest edge at the present time. -/
def State.harvest (s : State) (scheduled onDemand : Bool) : State :=
  let s := s.snapAll
  let t := s.time.total
  let s := s.puts [(MTR_LAST0.sec, fullSec s.nowNs), (MTR_LAST0.frac, s.now16 % 65536), (MTR_LAST1.ns, fullNano s.nowNs)]
  if s.flag MTR_STATUS.busy then s.bump MTR_STAT.merged 1
  else
    let s := (s.put MTR_STATUS.seq (s.get MTR_STATUS.seq + 1)).puts [(MTR_STATUS.busy, 1), (MTR_STATUS.stalled, 0)]
    let b := s.boundariesIn (s.mtr.lastEnd / nsUnits) s.nowNs
    let d : Delivery :=
      { seq := s.get MTR_STATUS.seq, start := s.mtr.lastEnd, stop := t, folded := b - b2n scheduled, onDemand := onDemand
        stepped := s.time.stepped, pair := 0, batch := 0, vfs := s.meterVfs, stalled := false, held := none, tries := 0
        waits := false }
    { s with
      mtr := { s.mtr with bank := 1 - s.mtr.bank, lastEnd := t, delivery := some d, vfs := d.vfs }
      time := { s.time with stepped := false } }

/-- Device time has reached the boundary, or an on-demand harvest is due. -/
def State.harvestEdge (s : State) : State :=
  let due := decide (s.mtr.nextAt ≤ s.nowNs)
  if s.gated || !s.flag MTR_STATUS.enabled || !(due || s.mtr.now) then s
  else
    let s := s.harvest due s.mtr.now
    let next := if due then s.nextBoundary s.nowNs else s.mtr.nextAt
    { s with mtr := { s.mtr with now := false, nextAt := next } }

def execHarvestEdge (s : State) : Host.Outcome State Fault Refusal := .next s.harvestEdge

/-- MTR_CTL.now; ignored while metering is disabled (R381). -/
def State.mtrNow (s : State) : State :=
  if s.flag MTR_STATUS.enabled then { s with mtr := { s.mtr with now := true } } else s

def execMtrNow (s : State) : Host.Outcome State Fault Refusal := .next s.mtrNow

/-! ### Enable and disable (R398, R400) -/

def State.mtrEnable (s : State) : State := s.startCheck MTR_ENABLE_STATUS.regOff .metering []

def execMtrEnable (s : State) : Host.Outcome State Fault Refusal := .next (s.gatedWrite State.mtrEnable)

def State.mtrReason (s : State) : Option (Nat × Nat) :=
  let i := s.get MTR_CFG.interval_ms
  let slot := s.get MTR_CFG.key_slot
  let r := s.get MTR_CFG.pf_ring
  let n := s.get MTR_CFG.batch_max
  firstReason [
    (!s.imageActive, 0x901, 0),
    (i < 1000 || 3600000 < i || i ≤ s.get MTR_CFG2.phase_ms, 0x902, 0),
    (slot = 1 || slot = 2, 0x903, 0),
    (!(s.keySlot slot).valid, 0x904, slot),
    (!s.ringEnabled r || s.ringFunc r ≠ 0 || s.ringKind r ≠ 5, 0x905, r),
    (n < 128 || 1024 < n, 0x906, 0),
    (s.flag MTR_STATUS.enabled, 0x907, 0)]

def State.mtrAccepted (s : State) : State :=
  let s := s.put MTR_STATUS.enabled 1
  { s with mtr := { s.mtr with nextAt := s.nextBoundary s.nowNs, now := false } }

/-- Harvests stop at once; a delivery under way goes on. -/
def State.mtrDisable (s : State) : State :=
  let s := s.put MTR_STATUS.enabled 0
  { s with mtr := { s.mtr with now := false, final := 0 } }

/-- The final harvest at an image disable (R398). Where a delivery still runs, the edge folds as R382 says and the final
harvest follows that delivery (DEDUCED, notes/assumptions/94.md). -/
def State.lastHarvest (s : State) : State :=
  if !s.flag MTR_STATUS.enabled then s
  else
    let owed := if s.flag MTR_STATUS.busy then 1 else 2
    let s := s.harvest false false
    { s with mtr := { s.mtr with final := owed } }

/-- A delivery has ended: an owed final harvest begins, and the end of the final one disables metering (R398). -/
def State.finalStep (s : State) : State :=
  if s.mtr.final = 2 then s.mtrDisable
  else if s.mtr.final = 1 then
    let s := s.harvest false false
    { s with mtr := { s.mtr with final := 2 } }
  else s

def execMtrDisable (s : State) : Host.Outcome State Fault Refusal := .next (s.gatedWrite State.mtrDisable)

/-! ### Records and batches (R384-R387) -/

/-- The frozen counts of a pair, summed over all pipes. -/
def State.frozen (s : State) (pair : Nat) : Meter :=
  (List.range 32).foldl (fun (a : Meter) p =>
    let m := s.meter (meterKey p (1 - s.mtr.bank) pair)
    { rxPkts := add64 a.rxPkts m.rxPkts, rxBytes := add64 a.rxBytes m.rxBytes, txPkts := add64 a.txPkts m.txPkts
      txBytes := add64 a.txBytes m.txBytes, dropPkts := add64 a.dropPkts m.dropPkts
      dropBytes := add64 a.dropBytes m.dropBytes, ecn := satAdd 32 a.ecn m.ecn, peak := max a.peak m.peak }) {}

def meterFull (m : Meter) : Bool :=
  [m.rxPkts, m.rxBytes, m.txPkts, m.txBytes, m.dropPkts, m.dropBytes].any (fun v => v = 2 ^ 64 - 1) || m.ecn = 2 ^ 32 - 1

/-- One record (R386). -/
def meterRecord (seq pair : Nat) (m : Meter) : List Byte :=
  ([pair / 4 + pair % 4 * 2 ^ 12 + b2n (meterFull m) * 2 ^ 16 + seq * 2 ^ 32, m.rxPkts, m.rxBytes, m.txPkts, m.txBytes,
    m.dropPkts, m.dropBytes, m.ecn + m.peak * 2 ^ 32].map (leBytes 8)).flatten

/-- The pair gives a record. -/
def State.pairShown (s : State) (pair : Nat) : Bool := s.flag MTR_CFG.emit_idle || s.frozen pair ≠ {}

/-- A full time in the header's form, from 2^-40 ns. -/
def headerTime (t : Nat) : List Byte :=
  let n := t / nsUnits
  leBytes 6 (fullSec n) ++ leBytes 4 (fullNano n) ++ leBytes 2 (t / 2 ^ 24 % 65536)

def State.bootNonce (s : State) : Nat := (Config.freeWord s.mtr.nonce).toNat % 2 ^ 48

/-- The header of a batch (R385). `start` and `stop` are in 2^-40 ns. -/
def State.batchHeader (s : State) (count batch fn seq flags start stop folded lost : Nat) : List Byte :=
  leBytes 4 0x4B4D4D52 ++ leBytes 2 0x0100 ++ leBytes 2 count ++ leBytes 8 Config.serialFuse ++ leBytes 6 s.bootNonce ++
  leBytes 1 batch ++ leBytes 1 fn ++ leBytes 4 seq ++ leBytes 2 (s.get PL_FAB_CFG.chip_id) ++
  leBytes 1 (s.get MTR_CFG.key_slot) ++ leBytes 1 flags ++ headerTime start ++ headerTime stop ++ leBytes 4 folded ++
  leBytes 4 lost

/-- Append the tag (R387). -/
def State.sealBatch (s : State) (batch fn seq : Nat) (l : List Byte) : List Byte :=
  let keys := roundKeys (natBytes (slotBytes (s.keySlot (s.get MTR_CFG.key_slot))))
  let iv := leBytes 6 s.bootNonce ++ leBytes 4 seq ++ leBytes 1 batch ++ leBytes 1 fn
  l ++ bytesOf (gcmTag keys (natsOf iv) (natsOf l) [])

/-- The batch of `pairs` of a harvest. -/
def State.makeBatch (s : State) (d : Delivery) (fn batch : Nat) (last : Bool) (pairs : List Nat) (next : Nat) : Batch :=
  let flags := b2n last + 2 * b2n d.onDemand + 8 * b2n d.stepped
  let l := s.batchHeader pairs.length batch fn d.seq flags d.start d.stop d.folded 0 ++
    (pairs.map (fun p => meterRecord d.seq p (s.frozen p))).flatten
  { bytes := s.sealBatch batch fn d.seq l, batch := batch, last := last, summary := false, nextPair := next }

/-- The next batch of the physical function, for a buffer of `n` records. -/
def State.pfBatch (s : State) (d : Delivery) (n : Nat) : Batch :=
  let pairs := (List.range 16384).filter (fun p => d.pair ≤ p && s.pairShown p)
  let take := pairs.take n
  let full := decide (take.length = n) && decide (take.getLast?.getD 0 < 16383)
  s.makeBatch d 0 d.batch (!full) take (if full then take.getLast?.getD 0 + 1 else 16384)

/-- The batch of virtual function `n` with tenant `t`. -/
def State.vfBatch (s : State) (d : Delivery) (n t : Nat) : Batch :=
  s.makeBatch d n 0 true (((List.range 4).map (fun c => 4 * t + c)).filter s.pairShown) 16384

/-- The summary of what virtual function `n` lost (R391). -/
def State.summaryBatch (s : State) (n : Nat) (x : VfLoss) : Batch :=
  let l := s.batchHeader 0 255 n x.seq 4 x.first x.last 0 x.count
  { bytes := s.sealBatch 255 n x.seq l, batch := 255, last := false, summary := true, nextPair := 16384 }

/-! ### Delivery (R384, R388-R391, R573) -/

def noLoss : Nat → Option VfLoss := fun _ => none

def noSum : Nat → Option Batch := fun _ => none

def State.setDelivery (s : State) (d : Delivery) : State := { s with mtr := { s.mtr with delivery := some d } }

/-- A batch of virtual function `n` is lost. -/
def State.vfLost (s : State) (d : Delivery) (n : Nat) : State :=
  let x : VfLoss := match smGet noLoss s.mtr.losses n with
    | some x => { x with count := x.count + 1, seq := d.seq, last := d.stop }
    | none => ⟨1, d.seq, d.stop, d.stop⟩
  let s := (s.bump (MTR_VF.lost n) 1).bump MTR_STAT.vf_lost 1
  { s with mtr := { s.mtr with losses := smPut noLoss s.mtr.losses n (some x)
                               delivery := some { d with vfs := d.vfs.filter (fun v => v.1 ≠ n), held := none, tries := 0 } } }

/-- Ring `r` is an enabled METER ring of function `f`. -/
def State.meterRing (s : State) (f r : Nat) : Bool := s.ringLive r && s.ringFunc r = f && s.ringKind r = 5

/-- The physical function's delivery stalls (R390). -/
def State.stallDelivery (s : State) (d : Delivery) : State :=
  (s.setDelivery { d with stalled := true }).put MTR_STATUS.stalled 1

/-- Write batch `b` into the entry at the head of ring `r`; a failed write keeps it for the next entry (R388). -/
def State.writeBatch (s : State) (r : Nat) (w : List Word) (seq : Nat) (b : Batch) (fails : Bool) : State × Bool :=
  let f := s.ringFunc r
  if fails then ((s.bump MTR_STAT.faults 1).fillEntry r 3 [(1, 0)], false)
  else
    let s := (s.writeHost f (wordAt w 2) b.bytes).perf hifBlock 0x63 { func := some f } b.bytes.length
    (s.fillEntry r 0 [(1, b.bytes.length * 2 ^ 32),
      (4, seq + b.batch * 2 ^ 32 + b2n b.last * 2 ^ 40 + b2n b.summary * 2 ^ 41)], true)

/-- The entry `w` cannot hold a batch (0x0920). -/
def meterBad (w : List Word) : Bool := wordAt w 2 % 64 ≠ 0 || bitsOf (wordAt w 3) 0 32 < 8272

/-- Records that the entry's buffer holds, at most batch_max. -/
def State.batchRoom (s : State) (w : List Word) : Nat := min (s.get MTR_CFG.batch_max) ((bitsOf (wordAt w 3) 0 32 - 80) / 64)

/-- The batch to write: the held one, or a new one made under the lock, which is then released; the harvester counts
the records that it builds (R379). None while the lock is awaited. -/
def State.getBatch (s : State) (held : Option Batch) (mk : State → Batch) : State × Option Batch :=
  match held with
  | some b => (s, some b)
  | none =>
    if s.lockOwner = 3 then
      let b := mk s
      (s.freeLock.perf (perfBlock 32 6) 0x0E {} ((b.bytes.length - 80) / 64), some b)
    else (s.harvesterWaits, none)

/-- One step of the physical function's part. -/
def State.deliverPf (s : State) (d : Delivery) (fails : Bool) : State :=
  let r := s.get MTR_CFG.pf_ring
  if d.waits then s
  else if !s.meterRing 0 r then s.stallDelivery d
  else
    match s.headCopy r with
    | (s, none) => if (s.ring r).scanning then s else s.stallDelivery d
    | (s, some w) =>
      if meterBad w then (s.bump MTR_STAT.refused 1).fillEntry r 2 [(1, 0x920)]
      else if !(s.keySlot (s.get MTR_CFG.key_slot)).valid && d.held.isNone then s.stallDelivery d
      else
        match s.getBatch d.held (fun s => s.pfBatch d (s.batchRoom w)) with
        | (s, none) => s
        | (s, some b) =>
          let (s, ok) := s.writeBatch r w d.seq b fails
          let s := s.put MTR_STATUS.stalled 0
          if ok then s.setDelivery { d with pair := b.nextPair, batch := d.batch + 1, held := none, tries := 0 }
          else s.setDelivery { d with held := some b }

/-- One step of virtual function `n`'s part. -/
def State.deliverVf (s : State) (d : Delivery) (n r t : Nat) (fails : Bool) : State :=
  if !s.meterRing n r then s.vfLost d n
  else
    match s.headCopy r with
    | (s, none) => if (s.ring r).scanning then s else s.vfLost d n
    | (s, some w) =>
      if meterBad w then (s.bump MTR_STAT.refused 1).fillEntry r 2 [(1, 0x920)]
      else if !(s.keySlot (s.get MTR_CFG.key_slot)).valid && d.held.isNone then s.vfLost d n
      else
        match s.getBatch d.held (fun s => s.vfBatch d n t) with
        | (s, none) => s
        | (s, some b) =>
          let (s, ok) := s.writeBatch r w d.seq b fails
          if !ok then s.setDelivery { d with held := some b }
          else s.setDelivery { d with held := none, tries := 0, vfs := d.vfs.filter (fun v => v.1 ≠ n) }

/-- The first virtual function that lost batches and has an entry for their summary, with its ring (R391). -/
def State.summaryDue (s : State) : Option (Nat × Nat) :=
  ((s.mtr.vfs.filter (fun v => s.meterRing v.1 v.2.1 && s.mayTake v.2.1 && !(s.ring v.2.1).copies.isEmpty &&
    ((smGet noSum s.mtr.sums v.1).isSome ||
      ((smGet noLoss s.mtr.losses v.1).isSome && (s.keySlot (s.get MTR_CFG.key_slot)).valid)))).map
    (fun v => (v.1, v.2.1))).head?

/-- Write the summary of what virtual function `n` lost into its ring; a failed write keeps it for the next entry. -/
def State.deliverSummary (s : State) (n r : Nat) (fails : Bool) : State :=
  match s.headCopy r with
  | (s, none) => s
  | (s, some w) =>
    if meterBad w then (s.bump MTR_STAT.refused 1).fillEntry r 2 [(1, 0x920)]
    else
      let loss := (smGet noLoss s.mtr.losses n).getD ⟨0, 0, 0, 0⟩
      let held := smGet noSum s.mtr.sums n
      match s.getBatch held (fun s => s.summaryBatch n loss) with
      | (s, none) => s
      | (s, some b) =>
        let s := if held.isSome then s
          else { s with mtr := { s.mtr with losses := smPut noLoss s.mtr.losses n none } }
        let (s, ok) := s.writeBatch r w (leAt b.bytes 24 4) b fails
        { s with mtr := { s.mtr with sums := smPut noSum s.mtr.sums n (if ok then none else some b) } }

/-- The harvester makes and writes the next batch, a summary first where one can be written; `fails` says that its host
memory write fails. -/
def State.batchSend (s : State) (fails : Bool) : State :=
  if !s.seqRuns 2 then s
  else
    match s.summaryDue, s.mtr.delivery with
    | some (n, r), _ => s.deliverSummary n r fails
    | none, none => s
    | none, some d =>
      if d.pair < 16384 then s.deliverPf d fails
      else match d.vfs with
        | (n, r, t) :: _ => s.deliverVf d n r t fails
        | [] => s

def execMeterBatchSend (fails : Bool) (s : State) : Host.Outcome State Fault Refusal := .next (s.batchSend fails)

/-- Every batch is written: frozen counts are zeroed, busy clears, HARVEST_DONE is written. -/
def State.harvestDone (s : State) : State :=
  match s.mtr.delivery with
  | none => s
  | some d =>
    if d.pair < 16384 || !d.vfs.isEmpty || !s.seqRuns 2 then s
    else
      let active (k : Nat) : Bool := k / 16384 % 2 = s.mtr.bank
      let s := { s with mtr := { s.mtr with delivery := none, meters := s.mtr.meters.filter (fun (x : Nat × Meter) => active x.1) } }
      let s := s.puts [(MTR_STATUS.busy, 0), (MTR_STATUS.stalled, 0)]
      (s.mtrEvent (record (0x10) (d.seq + d.batch * 2 ^ 32 + b2n d.stalled * 2 ^ 48) (d.stop / nsUnits % 2 ^ 48) 0)).finalStep

def execHarvestDone (s : State) : Host.Outcome State Fault Refusal := .next s.harvestDone

/-- The 1 ms wait of R573 is over. -/
def State.retryHarvest (s : State) : State :=
  match s.mtr.delivery with
  | some d => if d.waits then s.setDelivery { d with waits := false, tries := 2 } else s
  | none => s

def execHarvestRetryTimer (s : State) : Host.Outcome State Fault Refusal := .next s.retryHarvest

/-- A round-state parity mismatch while the harvester holds the engine: the batch is repeated (R573), a summary without
end. -/
def State.batchFault (s : State) : State :=
  match s.mtr.delivery with
  | none => s
  | some d =>
    if s.summaryDue.isSome then s
    else
    let d := { d with tries := d.tries + 1 }
    if d.tries < 3 then s.setDelivery d
    else if d.pair < 16384 then s.stallDelivery { d with waits := true }
    else match d.vfs with
      | (n, _, _) :: _ => s.vfLost d n
      | [] => s.setDelivery d

end Sys2Proof.Machine
end

