-- ==== Sys2Proof/Machine/Rs.lean ====
section
/-! DEFINITION. The Ristlink codeword, both ways: RS(544,528) over GF(2^10), the scrambler, the header, the line symbols
with their stuffing and the stream's elements (11_serial_lanes.md R421-R426). -/

namespace Sys2Proof.Machine

/-! ### GF(2^10), field polynomial x^10 + x^3 + 1 (R424) -/

/-- `i` bits of `b` remain, from the most significant one. -/
def gfLoop (a b : Nat) : Nat → Nat → Nat
  | 0, acc => acc
  | i + 1, acc =>
    let acc := acc * 2
    let acc := if 1024 ≤ acc then acc ^^^ 0x409 else acc
    gfLoop a b i (if bitAt b i then acc ^^^ a else acc)

def gfMul (a b : Nat) : Nat := gfLoop a b 10 0

/-- a ^ e; `i` bits of the exponent remain. -/
def gfPowLoop (a e : Nat) : Nat → Nat → Nat
  | 0, acc => acc
  | i + 1, acc =>
    let acc := gfMul acc acc
    gfPowLoop a e i (if bitAt e i then gfMul acc a else acc)

def gfPow (a e : Nat) : Nat := gfPowLoop a e 10 1

def gfInv (a : Nat) : Nat := gfPow a 1022

/-- α ^ e. -/
def gfExp (e : Nat) : Nat := gfPow 2 (e % 1023)

/-! ### Polynomials, lowest coefficient first -/

def polyAdd : List Nat → List Nat → List Nat
  | [], b => b
  | a, [] => a
  | x :: a, y :: b => (x ^^^ y) :: polyAdd a b

def polyScale (k : Nat) (l : List Nat) : List Nat := l.map (gfMul k)

def polyEval (x : Nat) (l : List Nat) : Nat := l.foldr (fun c acc => gfMul acc x ^^^ c) 0

/-- Product modulo x^16. -/
def polyMul16 (a b : List Nat) : List Nat :=
  (List.range 16).map (fun n => (List.range (n + 1)).foldl (fun v i => v ^^^ gfMul (nth a i) (nth b (n - i))) 0)

/-- The formal derivative. -/
def polyDeriv (l : List Nat) : List Nat := (List.range (l.length - 1)).map (fun i => if i % 2 = 0 then nth l (i + 1) else 0)

/-! ### Decoding (R424) -/

/-- Syndromes S_0 to S_15; the first symbol of the codeword has the highest power. -/
def syndromes (w : List Nat) : List Nat :=
  (List.range 16).map (fun j => let x := gfExp j; w.foldl (fun acc c => gfMul acc x ^^^ c) 0)

structure BmState where
  c : List Nat
  b : List Nat
  len : Nat
  m : Nat
  d : Nat
  deriving DecidableEq, Repr

/-- One step of Berlekamp-Massey at syndrome `n`. -/
def bmStep (syn : List Nat) (x : BmState) (n : Nat) : BmState :=
  let d := (List.range (x.len + 1)).foldl (fun v i => if i ≤ n then v ^^^ gfMul (nth x.c i) (nth syn (n - i)) else v) 0
  if d = 0 then { x with m := x.m + 1 }
  else
    let c := polyAdd x.c (List.replicate x.m 0 ++ polyScale (gfMul d (gfInv x.d)) x.b)
    if 2 * x.len ≤ n then { c := c, b := x.c, len := n + 1 - x.len, m := 1, d := d } else { x with c := c, m := x.m + 1 }

/-- The error locator and its length. -/
def locator (syn : List Nat) : BmState := (List.range 16).foldl (bmStep syn) ⟨[1], [1], 0, 1, 1⟩

/-- Powers of the positions in error. -/
def errorPowers (c : List Nat) : List Nat := (List.range 544).filter (fun i => polyEval (gfExp (1023 - i)) c = 0)

/-- The value of the error at power `i` (Forney, first root α^0). -/
def errorValue (syn c : List Nat) (i : Nat) : Nat :=
  let xi := gfExp (1023 - i)
  gfMul (gfExp i) (gfMul (polyEval xi (polyMul16 syn c)) (gfInv (polyEval xi (polyDeriv c))))

/-- The corrected codeword and the symbols corrected; none when more than 8 symbols are wrong. -/
def rsDecode (w : List Nat) : Option (List Nat × Nat) :=
  let syn := syndromes w
  if syn.all (fun s => s = 0) then some (w, 0)
  else
    let x := locator syn
    let ps := errorPowers x.c
    if 8 < x.len || ps.length ≠ x.len then none
    else
      let w' := ps.foldl (fun w i => w.set (543 - i) (nth w (543 - i) ^^^ errorValue syn x.c i)) w
      if (syndromes w').all (fun s => s = 0) then some (w', ps.length) else none

/-! ### Encoding (R424) -/

/-- The generator polynomial, highest coefficient first. -/
def rsGenerator : List Nat :=
  (List.range 16).foldl (fun g j => List.zipWith (fun a b => a ^^^ gfMul b (gfExp j)) (g ++ [0]) (0 :: g)) [1]

/-- One symbol enters the division by the generator `g`, which has lost its leading 1. -/
def rsStep (g rem : List Nat) (c : Nat) : List Nat :=
  let f := c ^^^ rem.headD 0
  List.zipWith (fun a b => a ^^^ gfMul f b) (rem.drop 1 ++ [0]) g

/-- The 16 parity symbols of a message. -/
def rsParity (m : List Nat) : List Nat := m.foldl (rsStep (rsGenerator.drop 1)) (List.replicate 16 0)

/-! ### Line symbols and stuffing (R415, R421, R425) -/

/-- Level of two bits, and the bits of a level: 00, 01, 11, 10 from lowest to highest. -/
def grayCode (x : Nat) : Nat := if x = 2 then 3 else if x = 3 then 2 else x % 4

/-- The line symbols of one ten-bit symbol: five PAM4 levels, or ten bits on an NRZ lane. -/
def symbolLevels (nrz : Bool) (c : Nat) : List Nat :=
  if nrz then (List.range 10).map (fun i => c / 2 ^ (9 - i) % 2)
  else (List.range 5).map (fun i => grayCode (c / 4 ^ (4 - i) % 4))

/-- The ten-bit symbol of five levels, or ten bits. -/
def levelsSymbol (nrz : Bool) (l : List Nat) : Nat :=
  l.foldl (fun a x => if nrz then 2 * a + x % 2 else 4 * a + grayCode (x % 4)) 0

/-- The symbol that stuffing inserts after a run of `x`. -/
def stuffSymbol (nrz : Bool) (x : Nat) : Nat := if nrz then 1 - x % 2 else if x < 2 then 3 else 0

/-- The run count after symbol `x`, which follows a run of `run` symbols `last`. -/
def runAfter (last run x : Nat) : Nat := if run ≠ 0 && x = last then run + 1 else 1

/-- Insert a stuff symbol after every 64th identical symbol. -/
def stuff (nrz : Bool) : List Nat → Nat → Nat → List Nat
  | [], _, _ => []
  | x :: t, last, run =>
    if runAfter last run x = 64 then x :: stuffSymbol nrz x :: stuff nrz t x 0 else x :: stuff nrz t x (runAfter last run x)

/-- Remove the stuff symbols by the same count; `skip` says that the next symbol is one. -/
def destuff (skip : Bool) : List Nat → Nat → Nat → List Nat
  | [], _, _ => []
  | x :: t, last, run =>
    if skip then destuff false t last 0
    else x :: destuff (runAfter last run x = 64) t x (if runAfter last run x = 64 then 0 else runAfter last run x)

/-- Cut a list into `n` pieces of `k`, zeros after its end. -/
def pieces (k : Nat) : Nat → List Nat → List (List Nat)
  | 0, _ => []
  | n + 1, l => (l ++ List.replicate (k - l.length) 0).take k :: pieces k n (l.drop k)

/-- The line symbols of a codeword. -/
def codewordLine (nrz : Bool) (w : List Nat) : List Nat := stuff nrz (w.flatMap (symbolLevels nrz)) 0 0

/-- The 544 symbols of a codeword's line symbols. -/
def lineCodeword (nrz : Bool) (l : List Nat) : List Nat :=
  (pieces (if nrz then 10 else 5) 544 (destuff false l 0 0)).map (levelsSymbol nrz)

/-! ### Header and chunk (R421-R423) -/

/-- The first 528 symbols as one number, first bit most significant. -/
def codewordBits (w : List Nat) : Nat := (w.take 528).foldl (fun a c => a * 1024 + c) 0

def syncOf (bits : Nat) : Nat := bitsOf bits 5264 16

/-- The 5,264 scrambled bits, descrambled with the 58 scrambled bits before them. -/
def descramble (hist bits : Nat) : Nat :=
  let x := bits % 2 ^ 5264
  let big := hist % 2 ^ 58 * 2 ^ 5264 + x
  x ^^^ (big / 2 ^ 39 % 2 ^ 5264) ^^^ (big / 2 ^ 58 % 2 ^ 5264)

/-- Scramble `n` groups of 28 bits of `x`, the highest group first, after the 58 bits of `hist`. -/
def scrambleLoop (x : Nat) : Nat → Nat → Nat → Nat
  | 0, _, acc => acc
  | n + 1, hist, acc =>
    let y := (x / 2 ^ (28 * n) % 2 ^ 28) ^^^ (hist / 2 ^ 11 % 2 ^ 28) ^^^ (hist / 2 ^ 30 % 2 ^ 28)
    scrambleLoop x n ((hist * 2 ^ 28 + y) % 2 ^ 58) (acc * 2 ^ 28 + y)

/-- The 5,264 bits of header and chunk, scrambled with 1 + x^39 + x^58 after the 58 bits sent before them. -/
def scramble (hist x : Nat) : Nat := scrambleLoop x 188 (hist % 2 ^ 58) 0

/-- The header's lower 112 bits (R422). -/
def rlHeader (lane seq state first : Nat) (ends : List Nat) : Nat :=
  lane % 8 * 2 ^ 109 + seq % 256 * 2 ^ 101 + state % 4 * 2 ^ 99 + first % 1024 * 2 ^ 89 + ends.length * 2 ^ 85 +
  sumNat ((List.range ends.length).map (fun i => nth ends i * 2 ^ (75 - 10 * i)))

/-- A codeword with header `h` and `chunk`, and the scrambler's last 58 bits. -/
def rlCodeword (hist h : Nat) (chunk : List Byte) : List Nat × Nat :=
  let y := scramble hist (h * 2 ^ 5152 + beAt chunk 0 644)
  let bits := 0xD2B4 * 2 ^ 5264 + y
  let m := (List.range 528).map (fun i => bits / 1024 ^ (527 - i) % 1024)
  (m ++ rsParity m, y % 2 ^ 58)

/-- Header fields of R422, and the 644-byte chunk. -/
structure RlWord where
  lane : Nat
  seq : Nat
  state : Nat
  first : Nat
  ends : List Nat
  ok : Bool
  chunk : List Byte
  deriving DecidableEq, Repr

def ascending : List Nat → Bool
  | a :: b :: t => a < b && ascending (b :: t)
  | _ => true

/-- Read a descrambled word (5,264 bits, the header's lower 112 first). -/
def rlWord (y : Nat) : RlWord :=
  let h := y / 2 ^ 5152
  let n := bitsOf h 85 4
  let ends := (List.range (min n 8)).map (fun i => bitsOf h (75 - 10 * i) 10)
  { lane := bitsOf h 109 3, seq := bitsOf h 101 8, state := bitsOf h 99 2, first := bitsOf h 89 10, ends := ends
    ok := n ≤ 8 && ascending ends, chunk := beBytes 644 (y % 2 ^ 5152) }

/-! ### Elements of the stream (R426) -/

/-- A chunk to send: its bytes, where its first element starts, where its frames end, and what remains of the stream,
of whose first element `part` bytes have been sent. -/
structure RlFill where
  chunk : List Byte
  first : Nat
  ends : List Nat
  rest : List (Bool × List Byte)
  part : Nat
  deriving DecidableEq, Repr

/-- Fill a chunk from `off` with the elements of the stream (true for a frame), then with idle bytes (R422, R426). -/
def rlFill : List (Bool × List Byte) → Nat → Nat → RlFill
  | [], off, _ =>
    { chunk := List.replicate (644 - off) 0, first := if off < 644 then off else 0x3FF, ends := [], rest := [], part := 0 }
  | (frame, b) :: t, off, part =>
    let left := b.length - part
    if left ≤ 644 - off then
      let r := rlFill t (off + left) 0
      { r with chunk := b.drop part ++ r.chunk, first := if part = 0 && left ≠ 0 then off else r.first
               ends := if frame && left ≠ 0 then (off + left - 1) :: r.ends else r.ends }
    else
      { chunk := (b.drop part).take (644 - off), first := if part = 0 && off < 644 then off else 0x3FF, ends := []
        rest := (frame, b) :: t, part := part + (644 - off) }

/-- What a chunk gave: whole elements (true for a frame), the bytes of one that goes on, and whether an item had
length 0. -/
structure RlOut where
  items : List (Bool × List Byte)
  part : List Byte
  bad : Bool
  deriving DecidableEq, Repr

/-- Read the chunk from `off`; `part` are the bytes of an element begun before it. `fuel` bounds the elements. -/
def rlElements (chunk : List Byte) (ends : List Nat) : Nat → Nat → List Byte → RlOut
  | 0, _, part => ⟨[], part, false⟩
  | fuel + 1, off, part =>
    let left := chunk.length - off
    if left = 0 then ⟨[], part, false⟩
    else
      let head := part ++ (chunk.drop off).take 2
      let kind := beAt head 0 1
      if kind = 0 then rlElements chunk ends fuel (off + 1) []
      else if kind ≤ 15 then
        if part.length + left < 2 then ⟨[], part ++ chunk.drop off, false⟩
        else
          let len := 16 * beAt head 1 1
          let need := len - part.length
          if len = 0 then ⟨[], [], true⟩
          else if need ≤ left then
            let r := rlElements chunk ends fuel (off + need) []
            { r with items := (false, part ++ (chunk.drop off).take need) :: r.items }
          else ⟨[], part ++ chunk.drop off, false⟩
      else
        match ends.find? (fun e => off ≤ e && e < chunk.length) with
        | some e =>
          let r := rlElements chunk ends fuel (e + 1) []
          { r with items := (true, part ++ (chunk.drop off).take (e + 1 - off)) :: r.items }
        | none => ⟨[], part ++ chunk.drop off, false⟩

end Sys2Proof.Machine
end

