-- ==== Sys2Proof/Machine/Lanes.lean ====
section
/-! DEFINITION. Lanes, training and the port states (11_serial_lanes.md R405-R420, R434-R439; 01_architecture.md
R51-R53). -/

namespace Sys2Proof.Machine

/-! ### Ports and lanes -/

def laneDefault : Nat → LaneSt := fun _ => {}

def State.lane (s : State) (l : Nat) : LaneSt := smGet laneDefault s.io.lanes l

def State.setLane (s : State) (l : Nat) (x : LaneSt) : State :=
  { s with io := { s.io with lanes := smPut laneDefault s.io.lanes l x } }

def lanesOf (r : PortRec) : List Nat := (List.range r.lanes).map (r.first + ·)

/-- The enabled port that owns lane `l`. -/
def State.portAt (s : State) (l : Nat) : Option PortRec :=
  (s.io.records.filterMap (·.2)).find? (fun r => r.first ≤ l && l < r.first + r.lanes)

/-- The port of the image's map, or an enabled one, whose registers lie at lane `l`. -/
def State.portRegs (s : State) (l : Nat) : Option PortRec :=
  match s.portAt l with
  | some r => if r.first = l then some r else none
  | none => match s.img.active with
    | some i => i.ports.find? (fun r => r.first = l)
    | none => none

/-- The enabled record of port `p`. -/
def State.onPort (s : State) (p : Nat) (f : PortRec → State) : State :=
  match s.enabledRec p with
  | some r => f r
  | none => s

def State.pstate (s : State) (r : PortRec) : Nat := s.get (PORT_STATUS.state r.first)

def State.setPstate (s : State) (r : PortRec) (v : Nat) : State := s.put (PORT_STATUS.state r.first) v

/-! ### Bands and lane rates (R405, R407, R408) -/

/-- 1 band A, 2 band B, 3 band C. -/
def bandOf (r : PortRec) : Nat :=
  if r.link = 2 then 3
  else if r.speed ≤ 2 || (r.speed = 3 && r.lanes = 2) || (r.speed = 4 && r.lanes = 4) then 2 else 1

/-- Lane rate kind: 0 for 10.3125 Gb/s, 1 for 25.78125, 2 for a PAM4 rate. -/
def rateKind (speed lanes : Nat) : Nat :=
  if speed = 1 then 0 else if speed = 2 || (speed = 3 && lanes = 2) || (speed = 4 && lanes = 4) then 1 else 2

/-- FEC settings that R408 allows. -/
def fecAllowed (kind fec : Nat) : Bool :=
  if kind = 0 then fec ≤ 1 else if kind = 1 then fec ≤ 2 else fec = 0 || fec = 3

/-- What a setting gives. -/
def fecOf (kind fec : Nat) : Nat :=
  if fec ≠ 0 then fec else if kind = 0 then 1 else if kind = 1 then 2 else 3

/-- The speed and lane count pairs of R74. -/
def speedPairs : List (Nat × Nat) :=
  [(1, 1), (2, 1), (3, 1), (3, 2), (4, 1), (4, 2), (4, 4), (5, 1), (5, 2), (5, 4), (6, 2), (6, 4), (6, 8), (7, 4), (7, 8), (8, 8)]

/-- Speeds that auto-negotiation may advertise at a port (R409). -/
def State.advertised (s : State) (r : PortRec) : List Nat :=
  (speedPairs.filter (fun x => x.2 = r.lanes && bandOf { r with speed := x.1 } = bandOf r &&
    bitAt (s.get (PORT_CFG.an_adv r.first)) (x.1 - 1))).map (·.1)

def macroOf (lane : Nat) : Nat := lane / 8

/-- Enabled ports of a macro. -/
def State.macroPorts (s : State) (m : Nat) : List PortRec :=
  (s.io.records.filterMap (·.2)).filter (fun r => macroOf r.first = m)

/-- The PLL of macro `m` locks or loses lock (R51, R52). -/
def State.setMacroLock (s : State) (m : Nat) (b : Bool) : State :=
  let f := CLK_LANE_LOCK.locked (m / 64)
  let was := s.flag (LM_STATUS.pll_lock m)
  let s := (s.putFlag (LM_STATUS.pll_lock m) b).put f (setBits (s.get f) (m % 64) 1 (b2n b))
  let n := s.get CLK_STATUS.lane_macros_locked
  s.put CLK_STATUS.lane_macros_locked (if b && !was then n + 1 else if !b && was then n - 1 else n)

/-- LM_STATUS follows the ports of the macro; the last disabled one releases the band and powers the PLL down. -/
def State.showMacro (s : State) (m : Nat) : State :=
  let n := (s.macroPorts m).length
  let s := s.put (LM_STATUS.ports_enabled m) n
  if n = 0 then (s.put (LM_STATUS.band m) 0).setMacroLock m false else s

/-! ### Training (R415, R416, R418, R429, R430, R432) -/

/-- Distance from a sample to the nearest nominal level, 0 to 32 in 1/64 of the level spacing: the levels stand at
multiples of 64, two on an NRZ lane and four on a PAM4 lane (R415). -/
def levelDistance (nrz : Bool) (x : Int) : Nat :=
  ((List.range (if nrz then 2 else 4)).map (fun k => (x - 64 * (k : Int)).natAbs)).foldl min 32

/-- The figure of merit of a window of 65,536 symbols, given as samples with their counts (R415). -/
def figure (nrz : Bool) (w : List (Int × Nat)) : Nat :=
  255 - min 255 (8 * sumNat (w.map (fun x => levelDistance nrz x.1 * x.2)) / 65536)

/-- The lanes of port `r` run NRZ: at a Ristlink keep-alive rate, or an Ethernet rate of 25.78125 Gb/s or less (R405,
R430). -/
def State.nrz (s : State) (r : PortRec) : Bool :=
  if r.link = 2 then (s.port r.port).rate = 2
  else rateKind (if s.get (PORT_STATUS.speed r.first) = 0 then r.speed else s.get (PORT_STATUS.speed r.first)) r.lanes ≤ 1

/-- The first greatest of a list and its place. -/
def greatest (l : List Nat) : Nat × Nat :=
  (l.zipIdx).foldl (fun (b : Nat × Nat) x => if b.1 < x.1 then x else b) (l.headD 0, 0)

/-- Own tap field by number: 0 c(-2), 1 c(-1), 2 c(1). -/
def tapField (l t : Nat) : Fld := if t = 0 then LANE_STATUS.tx_cm2 l else if t = 1 then LANE_STATUS.tx_cm1 l else LANE_STATUS.tx_c1 l

def presetField (l t : Nat) : Fld := if t = 0 then LANE_CFG.cm2 l else if t = 1 then LANE_CFG.cm1 l else LANE_CFG.c1 l

/-- Ranges of LANE_CFG. -/
def tapInRange (t : Nat) (v : Int) : Bool := if t = 0 then -8 ≤ v && v ≤ 8 else -24 ≤ v && v ≤ 0

/-- How far from 0 a tap may stand (R441). -/
def tapLimit (t : Nat) : Nat := if t = 0 then 8 else 24

/-- A training message on an Ethernet lane: request 1 step, 2 undo, 3 preset, 0 an acknowledgement, with its tap, its
number and, for an acknowledgement, whether the range ended it. -/
def trainWord (req tap seq : Nat) (limit : Bool) : Nat := req + tap * 4 + b2n limit * 16 + seq * 256

/-- The status that the lane's receiver has finished R416. -/
def trainReady : Nat := 2 ^ 16

/-- An Ethernet port uses link training (R418). -/
def State.trains (s : State) (r : PortRec) : Bool :=
  s.flag (PORT_CFG.lt_en r.first) && s.get (PORT_CFG.media r.first) ≠ 1

/-- Request `req` of tap `t` goes to the partner: in a training frame, or in the lane's next training codewords until it
is acknowledged (R418, R429). -/
def State.askPartner (s : State) (r : PortRec) (l t req : Nat) : State :=
  let x := s.lane l
  let q := (x.seq + 1) % 256
  if r.link = 2 then s.setLane l { x with seq := q, asks := x.asks ++ [(t, req, q)] }
  else (s.setLane l { x with seq := q }).send (.train l (trainWord req t q false))

/-- The transmitter of an Ethernet port begins or ends to send remote fault (R407; DEDUCED,
notes/assumptions/97.md). -/
def State.sendFault (s : State) (r : PortRec) (on : Bool) : State :=
  let x := s.port r.port
  if r.link ≠ 1 || x.fault = on then s else (s.setPort r.port { x with fault := on }).send (.fault r.port on)

/-- Start the sweep of a lane for the port's rate. The partner's taps are taken to stand at this lane's presets
(DESIGN CHOICE, notes/assumptions/50.md). -/
def State.startLane (s : State) (rate l : Nat) : State :=
  let x := s.lane l
  let s := if rate = 0 then
      (List.range 3).foldl (fun s t => s.put (tapField l t) (s.get (presetField l t))) (s.put (LANE_STATUS.fallback_used l) 0)
    else s
  let s := s.put (LANE_STATUS.low_margin l) 0
  let (lo, hi) :=
    if !s.flag (LANE_EQ.adapt_en l) then (s.get (LANE_EQ.ctle_init l), s.get (LANE_EQ.ctle_init l))
    else if 2 ≤ rate then (x.full - 2, min 31 (x.full + 2)) else (0, 31)
  let far := if rate = 0 then (List.range 3).map (fun t => (signed 6 (s.get (presetField l t))).natAbs) else x.far
  s.setLane l { x with phase := 1, lo := lo, hi := hi, tap := 0, steps := 0, partner := false, far := far, miss := 0
                       locked := false, hits := 0, bad := false, asks := [] }

/-- Every lane of the port starts to train (R416); a keep-alive link drops no stored codes. -/
def State.startTrain (s : State) (r : PortRec) : State :=
  (lanesOf r).foldl (fun s l => s.startLane (s.port r.port).rate l) ((s.sendFault r false).setPstate r 2)

/-- Training is over: the PCS transmits again. -/
def State.startAlign (s : State) (r : PortRec) : State := (s.sendFault r true).setPstate r 3

/-- An attempt that failed in AN, TRAIN or ALIGN (R414, R420). -/
def State.attemptFail (s : State) (r : PortRec) (cause : Nat) : State :=
  let s := (lanesOf r).foldl (fun s l => s.setLane l { s.lane l with phase := 0 }) s
  let x := s.port r.port
  let s := s.setPort r.port { x with rate := if x.rate = 3 then 0 else x.rate }
  (s.sendFault r (cause ≠ 6)).puts [(PORT_STATUS.state r.first, 5), (PORT_STATUS.down_cause r.first, cause)]

/-- Cause of a failed attempt: no signal on some lane, a Ristlink lane whose last codeword was uncorrectable or had an
invalid header, else no lock (R420; DESIGN CHOICE, notes/assumptions/50.md). -/
def State.failCause (s : State) (r : PortRec) : Nat :=
  if !(lanesOf r).all (fun l => s.flag (LANE_STATUS.signal l)) then 2
  else if (lanesOf r).any (fun l => (s.lane l).bad) then 5 else 3

/-- Begin an attempt: AN, TRAIN, or ALIGN behind pcs_loop (R414, R436). -/
def State.startAttempt (s : State) (r : PortRec) : State :=
  let s := s.setPort r.port { s.port r.port with eee := false }
  if s.flag (PORT_CFG.pcs_loop r.first) then s.setPstate r 3
  else if r.link = 1 && s.flag (PORT_CFG.an_en r.first) && s.get (PORT_CFG.media r.first) = 0 then
    ((s.sendFault r false).setPstate r 1).send (.abilities r.port (sumNat ((s.advertised r).map (fun c => 2 ^ (c - 1))))
      ((s.advertised r).any (fun c => rateKind c r.lanes = 1 && fecOf 1 (s.get (PORT_CFG.fec r.first)) = 2))
      (s.flag (PORT_CFG.eee_en r.first)))
  else s.startTrain r

/-- A lane has finished: OK lets the port leave TRAIN once every lane is OK; FAIL fails it. -/
def State.laneResult (s : State) (r : PortRec) (l : Nat) (ok : Bool) : State :=
  let s := s.setLane l { s.lane l with phase := if ok then 4 else 5 }
  if !ok then s.attemptFail r (s.failCause r)
  else
    let s := if r.link = 1 && s.trains r then s.send (.train l trainReady) else s
    if (lanesOf r).all (fun k => (s.lane k).phase = 4) && !(lanesOf r).any (fun k => s.get (LANE_CFG.loop k) = 2) then
      s.startAlign r
    else s

/-- grade() of R416. -/
def State.gradeLane (s : State) (r : PortRec) (l : Nat) : State :=
  let x := s.lane l
  if s.get (LANE_EQ.fom_min l) ≤ x.fom then (s.put (LANE_STATUS.low_margin l) 1).laneResult r l true
  else s.laneResult r l false

/-- The first tap from place `k` of the order c(1), c(-1), c(-2) that is within its range after one step. -/
def nextPlace (far : List Nat) (k : Nat) : Option Nat :=
  (List.range 3).find? (fun i => k ≤ i && nth far (2 - i) < tapLimit (2 - i))

/-- Ask the partner for a step of the current tap, or of the next one that has room for a step; without one the lane is
graded. -/
def State.askTap (s : State) (r : PortRec) (l : Nat) : State :=
  let x := s.lane l
  match nextPlace x.far x.tap with
  | none => s.gradeLane r l
  | some k =>
    let s := s.setLane l { x with phase := 2, tap := k, steps := if k = x.tap then x.steps else 0 }
    (s.put (LANE_STATUS.fallback_used l) 1).askPartner r l (2 - k) 1

/-- The partner's tap `t` has moved by a step, or back. -/
def State.moveFar (s : State) (l t : Nat) (up : Bool) : State :=
  let x := s.lane l
  s.setLane l { x with far := setAt x.far t (if up then nth x.far t + 1 else nth x.far t - 1) }

def State.nextTap (s : State) (r : PortRec) (l : Nat) : State :=
  let x := s.lane l
  (s.setLane l { x with tap := x.tap + 1, steps := 0 }).askTap r l

/-- The code that a sweep found is taken. -/
def State.takeCode (s : State) (l code fom : Nat) : State :=
  let x := s.lane l
  (s.setLane l { x with best := code, fom := fom }).puts [(LANE_STATUS.ctle l, code), (LANE_STATUS.fom l, fom)]

/-- The first sweep has ended. -/
def State.fullSweepDone (s : State) (r : PortRec) (l code fom : Nat) : State :=
  let s := s.takeCode l code fom
  let rate := (s.port r.port).rate
  if !s.flag (LANE_EQ.adapt_en l) then s.gradeLane r l
  else if s.get (LANE_EQ.fom_thr l) ≤ fom then s.laneResult r l true
  else if rate = 2 || (rate = 3 && s.get (LANE_EQ.fom_min l) ≤ fom) || !s.trains r then s.gradeLane r l
  else s.askTap r l

/-- The short sweep after a tap step has ended. -/
def State.shortSweepDone (s : State) (r : PortRec) (l code fom : Nat) : State :=
  let x := s.lane l
  if fom ≤ x.fom then ((s.askPartner r l (2 - x.tap) 2).moveFar l (2 - x.tap) false).nextTap r l
  else
    let s := s.takeCode l code fom
    let s := s.setLane l { s.lane l with steps := x.steps + 1 }
    if s.get (LANE_EQ.fom_thr l) ≤ fom then s.laneResult r l true
    else if x.steps + 1 < 16 then s.askTap r l else s.nextTap r l

/-- A lane's sweep ends with the windows of its codes, ascending. -/
def State.ctleSweepDone (s : State) (l : Nat) (windows : List (List (Int × Nat))) : State :=
  match s.portAt l with
  | none => s
  | some r =>
    let x := s.lane l
    if s.pstate r ≠ 2 || (x.phase ≠ 1 && x.phase ≠ 3) || windows.length ≠ x.hi + 1 - x.lo then s
    else
      let s := s.puts [(LANE_STATUS.signal l, 1), (LANE_STATUS.cdr_lock l, 1)]
      let (fom, i) := greatest (windows.map (figure (s.nrz r)))
      if x.phase = 1 then s.fullSweepDone r l (x.lo + i) fom else s.shortSweepDone r l (x.lo + i) fom

def execCtleSweepDone (lane : Fin 1024) (windows : List (List (Int × Nat))) (s : State) :
    Host.Outcome State Fault Refusal :=
  .next (s.ctleSweepDone lane windows)

/-- The partner has applied the tap step, or answered with its range's end. -/
def State.tapAnswer (s : State) (r : PortRec) (l : Nat) (applied : Bool) : State :=
  let x := s.lane l
  if s.pstate r ≠ 2 || x.phase ≠ 2 then s
  else if !applied then s.nextTap r l
  else (s.setLane l { x with phase := 3, lo := x.best - 2, hi := min 31 (x.best + 2) }).moveFar l (2 - x.tap) true

/-- The value of a tap after a request; a step from 0 of c(-2) goes the way of a free value. -/
def State.tapAfter (s : State) (t req : Nat) (v : Int) : State × Int :=
  let away : Int := if 0 < v then 1 else -1
  if req = 1 then
    if v = 0 && t = 0 then
      let (w, s) := s.draw
      (s, if w.toNat % 2 = 0 then 1 else -1)
    else (s, v + away)
  else (s, if v = 0 then 0 else v - away)

/-- Serve the partner's request on this lane's transmitter (R416), and say whether the range refused it. -/
def State.serveTap (s : State) (l t req : Nat) : State × Bool :=
  if req = 3 then ((List.range 3).foldl (fun s t => s.put (tapField l t) (s.get (presetField l t))) s, false)
  else
    let (s, v) := s.tapAfter t req (signed 6 (s.get (tapField l t)))
    if tapInRange t v then (s.put (tapField l t) (toBits 6 v), false) else (s, true)

/-- An Ethernet training frame: an answer to this lane's request, a request (tap; 1 step, 2 undo, 3 preset), ready. -/
def State.trainFrame (s : State) (l : Nat) (answer : Option Bool) (req : Option (Nat × Nat)) (ready : Bool) : State :=
  match s.portAt l with
  | none => s
  | some r =>
    if s.pstate r ≠ 2 || r.link ≠ 1 || !s.trains r then s
    else
      let s := s.setLane l { s.lane l with partner := ready }
      let s := match req with
        | some (t, q) =>
          if 1 ≤ q then
            let (s, limit) := s.serveTap l t q
            s.send (.train l (trainWord 0 t 0 limit))
          else s
        | none => s
      match answer with | some b => s.tapAnswer r l b | none => s

def execTrainFrameReceive (lane : Fin 1024) (answer : Option Bool) (req : Option (Fin 3 × Fin 4)) (ready : Bool)
    (s : State) : Host.Outcome State Fault Refusal :=
  .next (s.trainFrame lane answer (req.map (fun x => (x.1.val, x.2.val))) ready)

/-- 2 ms pass without an acknowledgement: the search of this tap ends. -/
def State.tapTimeout (s : State) (l : Nat) : State :=
  match s.portAt l with
  | some r =>
    if s.pstate r = 2 && (s.lane l).phase = 2 then (s.setLane l { s.lane l with asks := [] }).nextTap r l else s
  | none => s

def execTapAckTimeout (lane : Fin 1024) (s : State) : Host.Outcome State Fault Refusal := .next (s.tapTimeout lane)

/-- train_ms passes in TRAIN. -/
def State.trainTimeout (s : State) (p : Nat) : State :=
  s.onPort p (fun r => if s.pstate r = 2 && !(lanesOf r).any (fun k => s.get (LANE_CFG.loop k) = 2) then
    s.attemptFail r (s.failCause r) else s)

def execTrainTimeout (port : Fin 1024) (s : State) : Host.Outcome State Fault Refusal := .next (s.trainTimeout port)

/-- Codes ctle - 1 and ctle + 1 are measured in UP (R417). -/
def State.contAdapt (s : State) (l : Nat) (below above : List (Int × Nat)) : State :=
  match s.portAt l with
  | none => s
  | some r =>
    let c := s.get (LANE_STATUS.ctle l)
    let f := s.get (LANE_STATUS.fom l)
    if s.pstate r ≠ 4 || !s.flag (LANE_EQ.cont_en l) then s
    else
      let fb := if c = 0 then 0 else figure (s.nrz r) below
      let fa := if c = 31 then 0 else figure (s.nrz r) above
      if f + 4 ≤ fb && fa ≤ fb then s.takeCode l (c - 1) fb
      else if f + 4 ≤ fa then s.takeCode l (c + 1) fa
      else s

def execContAdapt (lane : Fin 1024) (below above : List (Int × Nat)) (s : State) : Host.Outcome State Fault Refusal :=
  .next (s.contAdapt lane below above)

/-! ### Auto-negotiation (R409) -/

/-- Clause 73 ends: the partner's speeds, whether it asks for RS-FEC at 25 Gb/s and offers EEE; none when it failed.
A FEC setting that R408 does not allow at the speed acts as 0 (DEDUCED, notes/assumptions/99.md). -/
def State.anComplete (s : State) (p : Nat) (partner : Option (Nat × Bool × Bool)) : State :=
  s.onPort p (fun r =>
    if s.pstate r ≠ 1 then s
    else
      match partner with
      | none => s.attemptFail r (s.failCause r)
      | some (speeds, fec, eee) =>
        match ((s.advertised r).filter (fun c => bitAt speeds (c - 1))).max? with
        | none => s.attemptFail r (s.failCause r)
        | some c =>
          let kind := rateKind c r.lanes
          let set := s.get (PORT_CFG.fec r.first)
          let own := fecOf kind (if fecAllowed kind set then set else 0)
          let f := if kind = 1 && fec then 2 else own
          let s := s.puts [(PORT_STATUS.speed r.first, c), (PORT_STATUS.fec_active r.first, f)]
          let s := s.setPort p { s.port p with eee := eee && s.flag (PORT_CFG.eee_en r.first) }
          s.startTrain r)

def execAnComplete (port : Fin 1024) (partner : Option (Fin 256 × Bool × Bool)) (s : State) :
    Host.Outcome State Fault Refusal :=
  .next (s.anComplete port (partner.map (fun x => (x.1.val, x.2.1, x.2.2))))

/-! ### Up and down (R413, R414, R419, R325) -/

/-- The port reaches UP, or KEEPALIVE at keep-alive rate. -/
def State.linkReady (s : State) (r : PortRec) : State :=
  let x := s.port r.port
  let l := r.first
  let low := (lanesOf r).any (fun k => s.flag (LANE_STATUS.low_margin k))
  let s := (lanesOf r).foldl (fun s k => s.setLane k { s.lane k with phase := 0, miss := 0 }) s
  let s := s.putFlag (PORT_STATUS.low_margin l) low
  if x.rate = 2 then
    (s.setPort r.port { x with linked := false, agreed := 0, told := 0, next := 0, chunks := [], part := [], stream := []
                               off := 0, sent := 0 }).setPstate r 6
  else
    let an := r.link = 1 && s.flag (PORT_CFG.an_en l) && s.get (PORT_CFG.media l) = 0 && !s.flag (PORT_CFG.pcs_loop l)
    let speed := if an then s.get (PORT_STATUS.speed l) else r.speed
    let fec := if an then s.get (PORT_STATUS.fec_active l)
      else if r.link = 2 then 0 else fecOf (rateKind r.speed r.lanes) (s.get (PORT_CFG.fec l))
    let eee := r.link = 1 && s.flag (PORT_CFG.eee_en l) && (!s.flag (PORT_CFG.an_en l) || x.eee)
    let s := s.setPort r.port { x with linked := true, rate := 0, agreed := 0, told := 0, next := 0, chunks := [], part := []
                                       stream := [], off := 0, sent := 0 }
    let s := s.sendFault r false
    let s := s.puts [(PORT_STATUS.state l, 4), (PORT_STATUS.up l, 1), (PORT_STATUS.speed l, speed),
      (PORT_STATUS.fec_active l, fec), (PORT_STATUS.eee_active l, b2n eee), (PORT_STATUS.lpi_tx l, 0), (PORT_STATUS.lpi_rx l, 0)]
    if r.link = 2 then s.creditStart r.port else s

/-- ALIGN completes; a Ristlink port whose received lane fields are not 0 to n - 1 fails with cause 3 (R427). It needs
every lane in lock (R428), and the partner sends state 0 only once it is ready on every lane (R429). -/
def State.alignComplete (s : State) (p : Nat) (fields : List Nat) : State :=
  s.onPort p (fun r =>
    if s.pstate r ≠ 3 then s
    else if r.link = 2 && !(decide (fields.length = r.lanes) && (List.range r.lanes).all (fun i => fields.contains i)) then
      s.attemptFail r 3
    else if r.link = 2 && !s.flag (PORT_CFG.pcs_loop r.first) && (lanesOf r).any (fun l => !((s.lane l).partner && (s.lane l).locked)) then s
    else s.linkReady r)

def execAlignComplete (port : Fin 1024) (fields : List (Fin 8)) (s : State) : Host.Outcome State Fault Refusal :=
  .next (s.alignComplete port (fields.map (·.val)))

def State.alignTimeout (s : State) (p : Nat) : State :=
  s.onPort p (fun r => if s.pstate r = 3 then s.attemptFail r (s.failCause r) else s)

def execAlignTimeout (port : Fin 1024) (s : State) : Host.Outcome State Fault Refusal := .next (s.alignTimeout port)

/-- retry_ms has passed in RETRY: a new attempt when auto_restart is set and the macro's PLL is locked. -/
def State.retryTimer (s : State) (p : Nat) : State :=
  s.onPort p (fun r =>
    if s.pstate r = 5 && s.flag (PORT_CFG.auto_restart r.first) && s.flag (LM_STATUS.pll_lock (macroOf r.first)) then
      s.startAttempt r
    else s)

def execRetryTimer (port : Fin 1024) (s : State) : Host.Outcome State Fault Refusal := .next (s.retryTimer port)

/-- What a link that goes down does to frames: an unfinished one is errored, queued copies and those chosen are
flushed, those on the wire end (R325). -/
def State.flushLink (s : State) (p : Nat) : State :=
  let s := if s.rxOpen p then s.lastByteHeld p [] true else s
  let mine (c : Copy) : Bool := isPortQueue c.queue && c.queue / 16 = p
  let s := (s.pk.copies.filter (fun c => mine c && c.wire.isSome)).foldl (fun s c => s.removeCopy c) s
  s.flushCopies (s.pk.copies.filter mine)

/-- A link that passed frames goes down: PORT_STATUS, flaps, injection, frames. -/
def State.linkLost (s : State) (r : PortRec) (cause : Nat) : State :=
  let l := r.first
  let s := s.setPort r.port { s.port r.port with linked := false, agreed := 0, told := 0, chunks := [], part := []
                                                 stream := [], off := 0 }
  let s := (s.puts [(PORT_STATUS.up l, 0), (PORT_STATUS.fec_active l, 0), (PORT_STATUS.eee_active l, 0),
    (PORT_STATUS.lpi_tx l, 0), (PORT_STATUS.lpi_rx l, 0), (PORT_STATUS.down_cause l, cause), (PORT_INJ.active l, 0)]).bump (PORT_STATUS.flaps l) 1
  s.flushLink r.port

/-- A port in UP goes down (R419). -/
def State.goDown (s : State) (r : PortRec) (cause : Nat) : State :=
  if s.pstate r ≠ 4 then s
  else
    let s := s.setPort r.port { s.port r.port with rate := 0 }
    ((s.sendFault r (cause ≠ 4 && cause ≠ 6)).linkLost r cause).setPstate r 5

/-- A lane loses signal. -/
def State.lossOfSignal (s : State) (l : Nat) : State :=
  let s := s.puts [(LANE_STATUS.signal l, 0), (LANE_STATUS.cdr_lock l, 0)]
  match s.portAt l with
  | some r =>
    if s.pstate r = 4 then s.goDown r 2
    else if s.pstate r = 6 then s.puts [(PORT_STATUS.state r.first, 5), (PORT_STATUS.down_cause r.first, 2)]
    else if s.pstate r = 7 && (s.port r.port).linked then s.linkLost r 2
    else s
  | none => s

def execLossOfSignal (lane : Fin 1024) (s : State) : Host.Outcome State Fault Refusal := .next (s.lossOfSignal lane)

/-- An Ethernet port's link is lost for `cause`, in UP or while it drains. -/
def State.ethernetLost (s : State) (p cause : Nat) : State :=
  s.onPort p (fun r =>
    if r.link ≠ 1 then s
    else if s.pstate r = 7 && (s.port p).linked then s.linkLost r cause
    else s.goDown r cause)

def execPcsLockLoss (port : Fin 1024) (s : State) : Host.Outcome State Fault Refusal := .next (s.ethernetLost port 3)

def execRemoteFault (port : Fin 1024) (s : State) : Host.Outcome State Fault Refusal := .next (s.ethernetLost port 4)

/-- PORT_CTL.retrain at lane `l`. -/
def State.portRetrain (s : State) (l : Nat) : State :=
  match s.portRegs l with
  | some r =>
    if (s.enabledRec r.port).isNone then s
    else if s.pstate r = 4 then s.goDown r 7
    else if s.pstate r = 5 && s.flag (LM_STATUS.pll_lock (macroOf l)) then s.startAttempt r
    else s
  | none => s

def execPortRetrain (lane : Fin 1024) (s : State) : Host.Outcome State Fault Refusal := .next (s.portRetrain lane)

/-! ### Enable and disable (R437-R439) -/

def execPortEnable (lane : Fin 1024) (s : State) : Host.Outcome State Fault Refusal :=
  .next (s.startCheck (PORT_ENABLE_STATUS.regOff lane) (.portEnable lane) [])

/-- The taps of lane `l` are out of range or sum to more than 32 (0x020B). -/
def State.tapsBad (s : State) (l : Nat) : Bool :=
  let v (t : Nat) : Int := signed 6 (s.get (presetField l t))
  !((List.range 3).all (fun t => tapInRange t (v t))) || 32 < (v 0).natAbs + (v 1).natAbs + (v 2).natAbs

def State.anBad (s : State) (r : PortRec) : Bool :=
  let l := r.first
  let media := s.get (PORT_CFG.media l)
  let an := s.flag (PORT_CFG.an_en l)
  ((an || s.flag (PORT_CFG.lt_en l)) && (media = 1 || media = 3)) || (an && (r.link = 2 || (s.advertised r).isEmpty))

/-- The enable check of the register set at lane `l`. -/
def State.portReason (s : State) (l : Nat) : Option (Nat × Nat) :=
  match s.portRegs l with
  | none => firstReason [(!s.imageActive, 0x201, 0), (true, 0x202, l)]
  | some r =>
    let m := macroOf l
    let band := s.get (LM_STATUS.band m)
    let mac := s.get (PORT_MAC.mac l)
    let frame := s.get (PORT_CFG.max_frame l)
    firstReason [
      (!s.imageActive, 0x201, 0),
      ((s.mapRec r.port).isNone, 0x202, l),
      (s.pstate r ≠ 0, 0x203, r.port),
      (band ≠ 0 && band ≠ bandOf r, 0x204, r.port),
      ((band ≠ 0 && !s.flag (LM_STATUS.pll_lock m)) || !s.flag CLK_STATUS.ref_present, 0x205, r.port),
      (r.link = 1 && !fecAllowed (rateKind r.speed r.lanes) (s.get (PORT_CFG.fec l)), 0x206, r.port),
      (s.anBad r, 0x207, r.port),
      (r.link = 2 && s.flag (PORT_CFG.eee_en l), 0x208, r.port),
      (frame < 1518 || 16383 < frame, 0x209, r.port),
      (r.link = 1 && (mac = 0 || bitAt mac 40), 0x20A, r.port),
      someReason 0x20B (firstKey (lanesOf r) s.tapsBad) id,
      someReason 0x20C (firstKey (lanesOf r) (fun k => s.flag (LANE_PRBS.gen_en k) || s.flag (LANE_PRBS.chk_en k) ||
        s.get (LANE_CFG.loop k) = 3)) id,
      (s.pwrState ≠ 0, 0x20D, 0)]

/-- The transmitters go to electrical idle and the port is DISABLED. -/
def State.portOff (s : State) (r : PortRec) : State :=
  let s := s.sendFault r false
  let s := if (s.port r.port).linked then s.linkLost r 1 else s.put (PORT_STATUS.down_cause r.first) 1
  let s := (List.range 4).foldl (fun s c => if s.xoffOf (r.port * 4 + c) = 0 then s else s.setXoff (r.port * 4 + c) 0) s
  let s := { s with
    buf := { s.buf with
      pfcSet := smPut natZero s.buf.pfcSet r.port 0, pfcClear := smPut natZero s.buf.pfcClear r.port 0
      drains := s.buf.drains.filter (fun (x : Nat × Nat) => x.1 ≠ r.port) }
    io := { s.io with
      records := smPut (fun _ => none) s.io.records r.port none
      lanes := s.io.lanes.filter (fun (x : Nat × LaneSt) => !(lanesOf r).contains x.1)
      ports := smPut portDefault s.io.ports r.port {} } }
  let s := (lanesOf r).foldl (fun s k => s.puts [(LANE_STATUS.signal k, 0), (LANE_STATUS.cdr_lock k, 0)]) s
  (s.puts [(PORT_STATUS.state r.first, 0), (PORT_STATUS.speed r.first, 0)]).showMacro (macroOf r.first)

/-- Copies of the port that have not left. -/
def State.portHolds (s : State) (p : Nat) : Bool := s.pk.copies.any (fun c => isPortQueue c.queue && c.queue / 16 = p)

/-- The queues are empty or drain_us has passed: the port goes down with cause 1. -/
def State.disableEnd (s : State) (p : Nat) : State :=
  s.onPort p (fun r =>
    let late := match s.buf.drains.find? (fun x => x.1 = p) with
      | some x => decide (x.2 + s.get (BUF_PORT_CFG2.drain_us p) * clkPerUs ≤ s.clk)
      | none => true
    if s.pstate r = 7 && (late || !s.portHolds p) then s.portOff r else s)

def execDisableDrainEnd (port : Fin 1024) (s : State) : Host.Outcome State Fault Refusal := .next (s.disableEnd port)

/-- Disable enabled port `r`. -/
def State.disablePort (s : State) (r : PortRec) : State :=
  if s.pstate r = 0 || s.pstate r = 7 then s
  else
    let s := (lanesOf r).foldl (fun s l => s.setLane l { s.lane l with phase := 0 }) s
    ((s.put (PORT_STATUS.up r.first) 0).setPstate r 7).portStop r.port

/-- PORT_CTL.disable at lane `l`; while the enable check runs it waits for the check's end (R438). -/
def State.portDisable (s : State) (l : Nat) : State :=
  match s.portRegs l with
  | none => s
  | some r =>
    if s.flag (esBusy (PORT_ENABLE_STATUS.regOff l)) then s.setPort r.port { s.port r.port with disable := true }
    else if (s.enabledRec r.port).isSome then s.disablePort r else s

def execPortDisable (lane : Fin 1024) (s : State) : Host.Outcome State Fault Refusal := .next (s.portDisable lane)

/-- What stands in the scrambler of a Ristlink lane before its first codeword is open: a free value (R423;
notes/assumptions/98.md). -/
def State.openScrambler (s : State) (l : Nat) : State :=
  let (w, s) := s.draw
  s.setLane l { s.lane l with txHist := w.toNat % 2 ^ 58 }

/-- An accepted enable: the macro's band, and the first attempt. -/
def State.portAccepted (s : State) (l : Nat) : State :=
  match s.portRegs l with
  | none => s
  | some r =>
    let m := macroOf l
    let s := if s.get (LM_STATUS.band m) = 0 then (s.put (LM_STATUS.band m) (bandOf r)).setMacroLock m true else s
    let was := s.port r.port
    let s := { s with io := { s.io with records := smPut (fun _ => none) s.io.records r.port (some r) } }
    let s := (s.setPort r.port {}).puts [(PORT_STATUS.down_cause l, 0), (LM_STATUS.ports_enabled m, (s.macroPorts m).length)]
    let s := if r.link = 2 then (lanesOf r).foldl (fun s k => s.openScrambler k) s else s
    let s := s.startAttempt r
    if was.disable then s.disablePort r else s

/-- A refused enable leaves the port DISABLED; a disable that waited has nothing to do. -/
def State.portRefused (s : State) (l : Nat) : State :=
  match s.portRegs l with
  | some r => s.setPort r.port { s.port r.port with disable := false }
  | none => s

/-! ### LPI (R410) -/

/-- Every queue of the port has stayed empty for lpi_idle_us. -/
def State.lpiEnter (s : State) (p : Nat) : State :=
  s.onPort p (fun r =>
    if s.pstate r = 4 && s.flag (PORT_STATUS.eee_active r.first) && !s.portHolds p then s.put (PORT_STATUS.lpi_tx r.first) 1
    else s)

def execLpiEnter (port : Fin 1024) (s : State) : Host.Outcome State Fault Refusal := .next (s.lpiEnter port)

/-- The partner enters or leaves LPI. -/
def State.partnerLpi (s : State) (p : Nat) (enter : Bool) : State :=
  s.onPort p (fun r =>
    if s.pstate r = 4 && s.flag (PORT_STATUS.eee_active r.first) then s.putFlag (PORT_STATUS.lpi_rx r.first) enter else s)

def execPartnerLpi (port : Fin 1024) (enter : Bool) (s : State) : Host.Outcome State Fault Refusal :=
  .next (s.partnerLpi port enter)

/-! ### Test features (R434, R435) -/

/-- LANE_PRBS.inj_once: one bit of a running generator flips. -/
def State.prbsFlip (s : State) (l : Nat) : State :=
  if s.flag (LANE_PRBS.gen_en l) && s.get (LANE_PRBS.gen_pat l) ≤ 9 then s.send (.flip l) else s

def execPrbsInjectOnce (lane : Fin 1024) (s : State) : Host.Outcome State Fault Refusal := .next (s.prbsFlip lane)

/-- PORT_INJ.go: one codeword is corrupted, or one in every `period` until stop. -/
def State.injectGo (s : State) (l : Nat) : State :=
  match s.portAt l with
  | some r =>
    if r.first ≠ l || s.pstate r ≠ 4 || s.get (PORT_INJ.symbols l) = 0 || s.get (PORT_STATUS.fec_active l) = 1 then s
    else if s.get (PORT_INJ.period l) = 0 then s.send (.corrupt r.port (s.get (PORT_INJ.symbols l)))
    else s.put (PORT_INJ.active l) 1
  | none => s

def execFecInjectGo (lane : Fin 1024) (s : State) : Host.Outcome State Fault Refusal := .next (s.injectGo lane)

def execFecInjectStop (lane : Fin 1024) (s : State) : Host.Outcome State Fault Refusal :=
  .next (s.put (PORT_INJ.active lane) 0)

/-- The pattern checker gains or loses lock, having counted `errors` wrong bits in `mbits` units of 2^20. -/
def State.checkerLock (s : State) (l : Nat) (locked : Bool) (errors mbits : Nat) : State :=
  if s.flag (LANE_PRBS.chk_en l) && s.get (LANE_PRBS.chk_pat l) ≤ 9 then
    let s := if s.flag (LANE_PRBS.chk_lock l) then
        (s.bump (LANE_PRBS_CNT.errors l) errors).bump (LANE_PRBS_CNT.mbits l) mbits else s
    s.putFlag (LANE_PRBS.chk_lock l) locked
  else s

def execPrbsCheckerLock (lane : Fin 1024) (locked : Bool) (errors mbits : Nat) (s : State) :
    Host.Outcome State Fault Refusal :=
  .next (s.checkerLock lane locked errors mbits)

/-! ### Clocks (R51-R53) -/

/-- The ports of a macro go down with cause 6. -/
def State.macroDown (s : State) (m : Nat) : State :=
  (s.macroPorts m).foldl (fun s r =>
    let st := s.pstate r
    if st = 4 then s.goDown r 6
    else if st = 6 then s.puts [(PORT_STATUS.state r.first, 5), (PORT_STATUS.down_cause r.first, 6)]
    else if 1 ≤ st && st ≤ 3 then s.attemptFail r 6
    else if st = 7 && (s.port r.port).linked then s.linkLost r 6
    else s) s

/-- A macro's PLL loses lock: its links go down with cause 6. -/
def State.macroLockLost (s : State) (m : Nat) : State :=
  if !s.flag (LM_STATUS.pll_lock m) then s
  else ((s.setMacroLock m false).raise (48 * (m / 4) + 36 + m % 4) 2 m).macroDown m

def execLanePllLockLoss (macroNo : Fin 128) (s : State) : Host.Outcome State Fault Refusal := .next (s.macroLockLost macroNo)

def execLanePllRelock (macroNo : Fin 128) (s : State) : Host.Outcome State Fault Refusal :=
  .next (if s.get (LM_STATUS.band macroNo) ≠ 0 && s.flag CLK_STATUS.ref_present then s.setMacroLock macroNo true else s)

def execRefClockLoss (s : State) : Host.Outcome State Fault Refusal :=
  .next (if s.flag CLK_STATUS.ref_present then s.puts [(CLK_STATUS.ref_present, 0), (CLK_STATUS.ref_lost, 1)] else s)

def execRefClockReturn (s : State) : Host.Outcome State Fault Refusal := .next (s.put CLK_STATUS.ref_present 1)

/-- The root PLL loses lock: a FATAL fault on source 1,696 (R53). -/
def execRootPllLockLoss (s : State) : Host.Outcome State Fault Refusal :=
  .next (if s.flag CLK_STATUS.root_lock then
    (s.puts [(CLK_STATUS.root_lock, 0), (CLK_STATUS.root_lock_lost, 1)]).raise 1696 3 (s.raw CLK_STATUS.regOff).toNat else s)

end Sys2Proof.Machine
end

