-- ==== Sys2Proof/Machine/Ristlink.lean ====
section
/-! DEFINITION. Ristlink ports: codewords received and sent, the stream's elements, keep-alive rate and the way back
(11_serial_lanes.md R421-R432, R439; 07_placement_fabric.md R263, R271). One codeword leaves for each that arrives
(notes/assumptions/95.md). -/

namespace Sys2Proof.Machine

/-! ### Keep-alive (R430-R432) -/

/-- A Ristlink port leaves UP for keep-alive rate, cause 8; full-rate codes are kept. -/
def State.toKeepAlive (s : State) (r : PortRec) : State :=
  let s := if s.pstate r = 4 then s.linkLost r 8 else s
  let s := (lanesOf r).foldl (fun s l => s.setLane l { s.lane l with full := s.get (LANE_STATUS.ctle l) }) s
  (s.setPort r.port { s.port r.port with rate := 2, linked := false }).startTrain r

/-- A port in UP begins to send state 1. -/
def State.askRateDown (s : State) (r : PortRec) : State :=
  s.setPort r.port { s.port r.port with rate := 1, since := s.clk, heard := false, agreed := 0, told := 0 }

/-- The final sweep on fabric link `f`: every block with throttle level 3 (R271). -/
def State.finalSweep (s : State) (f : Nat) : State :=
  if s.fabEnabled && s.flag (PL_LINK.valid f) && s.portUp (s.get (PL_LINK.port f)) then
    let s := { s with pl := { s.pl with block := smPut natZero s.pl.block f 0 } }
    (List.range 16).foldl (fun s _ => s.sendBlock f) s
  else s

/-- Brine entry: final sweeps, then Ristlink ports move to keep-alive rate; one in training trains for it (R439). -/
def State.brineLinks (s : State) : State :=
  let s := (List.range 128).foldl State.finalSweep s
  (s.io.records.filterMap (·.2)).foldl (fun s r =>
    if r.link ≠ 2 then s
    else if s.pstate r = 4 then s.askRateDown r
    else if s.pstate r = 2 || s.pstate r = 3 then s.toKeepAlive r
    else s) s

/-- 10 µs have passed since state 1 was first sent, and none was received. -/
def State.keepAliveTimeout (s : State) (p : Nat) : State :=
  s.onPort p (fun r =>
    let x := s.port p
    if r.link = 2 && s.pstate r = 4 && x.rate = 1 && !x.heard && x.since + 10 * clkPerUs ≤ s.clk then s.toKeepAlive r
    else s)

def execKeepaliveTimeout (port : Fin 1024) (s : State) : Host.Outcome State Fault Refusal := .next (s.keepAliveTimeout port)

/-- A codeword header's state in UP: the first state 1 makes this end ask for keep-alive rate too. -/
def State.hearDown (s : State) (r : PortRec) (st : Nat) : State :=
  if st ≠ 1 then s.setPort r.port { s.port r.port with agreed := 0 }
  else
    let s := if (s.port r.port).rate = 0 then s.askRateDown r else s
    let x := s.port r.port
    s.setPort r.port { x with heard := true, agreed := x.agreed + 1 }

/-- A codeword header's state in KEEPALIVE: state 2 asks for full rate. -/
def State.hearUp (s : State) (r : PortRec) (st : Nat) : State :=
  let x := s.port r.port
  s.setPort r.port { x with agreed := if st = 2 then x.agreed + 1 else 0 }

/-- The state in the headers of a port that does not train: in KEEPALIVE an end in Brine sends 1 and another 2. -/
def State.sentState (s : State) (r : PortRec) : Nat :=
  if s.pstate r = 6 then (if s.pwrState = 0 then 2 else 1) else if s.pstate r = 4 && (s.port r.port).rate = 1 then 1 else 0

/-- Both ends have sent the same request for 16 codewords in a row: the link moves to keep-alive rate with cause 8, or
back to full rate (R430, R432). -/
def State.rateAgreed (s : State) (r : PortRec) : State :=
  let x := s.port r.port
  if x.agreed < 16 || x.told < 16 then s
  else if s.pstate r = 4 && x.rate = 1 then s.toKeepAlive r
  else if s.pstate r = 6 && s.pwrState = 0 then (s.setPort r.port { x with rate := 3, agreed := 0, told := 0 }).startTrain r
  else s

/-! ### Codewords sent (R421-R425, R427, R429) -/

/-- A line symbol with the polarity of the lane (R441). -/
def polar (invert nrz : Bool) (l : List Nat) : List Nat :=
  if invert then l.map (fun x => if nrz then 1 - x % 2 else 3 - x % 4) else l

/-- Lane `l` sends a codeword with header state `st` and chunk number `seq`. -/
def State.sendCodeword (s : State) (r : PortRec) (l seq st : Nat) (f : RlFill) : State :=
  let x := s.lane l
  let nrz := s.nrz r
  let (w, hist) := rlCodeword x.txHist (rlHeader (l - r.first) seq st f.first f.ends) f.chunk
  let line := codewordLine nrz w
  ((s.setLane l { x with txHist := hist }).send (.codeword l (polar (s.flag (LANE_CFG.tx_invert l)) nrz line))).lanePerf
    r.port 0x49 (line.length - (if nrz then 5440 else 2720))

/-- The training block of lane `l`: its receiver is ready, the oldest request not acknowledged, the last request served
and the figure of merit. -/
def State.ownBlock (s : State) (l : Nat) : List Byte :=
  let x := s.lane l
  let (t, q, n) := x.asks.headD (0, 0, x.seq)
  beBytes 1 (b2n (x.phase = 4) * 128 + b2n (!x.asks.isEmpty) * 64) ++ beBytes 1 t ++ beBytes 1 q ++ beBytes 1 n ++
  beBytes 1 x.served ++ beBytes 1 (s.get (LANE_STATUS.fom l)) ++ List.replicate 10 0

/-- A training codeword: the training block, then idle bytes. -/
def State.sendTraining (s : State) (r : PortRec) (l : Nat) : State :=
  let x := s.lane l
  let b := s.ownBlock l
  let f : RlFill := { chunk := b ++ List.replicate 628 0, first := 16, ends := [], rest := [], part := 0 }
  (s.setLane l { x with sent := x.sent + 1 }).sendCodeword r l (x.sent * r.lanes + (l - r.first)) 3 f

/-- The port's next chunk leaves, on lane `sent` mod n. -/
def State.sendChunk (s : State) (r : PortRec) : State :=
  let x := s.port r.port
  let f := rlFill x.stream 0 x.off
  let st := s.sentState r
  let s := s.setPort r.port { x with stream := f.rest, off := f.part, sent := x.sent + 1
                                     told := if st = 0 then 0 else x.told + 1 }
  s.sendCodeword r (r.first + x.sent % r.lanes) x.sent st f

/-- The codeword that leaves as one arrives on lane `l`. -/
def State.answerCodeword (s : State) (r : PortRec) (l : Nat) : State :=
  let st := s.pstate r
  if st = 2 || st = 3 then s.sendTraining r l
  else if st = 4 || st = 6 || (st = 7 && (s.port r.port).linked) then (s.sendChunk r).rateAgreed r
  else s

/-- The link fails: in UP it goes down with `cause`, in KEEPALIVE it retries at keep-alive rate (R428, R431). -/
def State.rlFail (s : State) (r : PortRec) (cause : Nat) : State :=
  if s.pstate r = 4 then s.goDown r cause
  else if s.pstate r = 6 then s.puts [(PORT_STATUS.state r.first, 5), (PORT_STATUS.down_cause r.first, cause)]
  else if s.pstate r = 7 && (s.port r.port).linked then s.linkLost r cause
  else s

/-! ### The stream (R426, R427, R263) -/

/-- A control item by its kind; a reserved one is discarded and counted. -/
def State.controlItem (s : State) (p : Nat) (b : List Byte) : State :=
  let kind := beAt b 0 1
  if kind = 1 then s.beaconReceive p b
  else if kind = 2 then s.creditReceive p b
  else if kind = 3 then (s.lanePerf p 0x4A 1).timeItemReceive p b
  else (s.lanePerf p 0x4A 1).badItem p

def State.element (s : State) (p : Nat) (x : Bool × List Byte) : State :=
  if x.1 then s.frameReceive p x.2 true false else s.controlItem p x.2

/-- Deliver the elements of one chunk, from its first element where none goes on from the chunk before; an item of length
0 takes the link down with cause 5. -/
def State.deliverChunk (s : State) (r : PortRec) (first : Nat) (ends : List Nat) (chunk : List Byte) : State :=
  let x := s.port r.port
  let out := rlElements chunk ends 644 (if x.part.isEmpty then min first 644 else 0) x.part
  let s := s.setPort r.port { x with next := (x.next + 1) % 256, part := out.part }
  let s := out.items.foldl (fun s e => s.element r.port e) s
  if out.bad then s.rlFail r 5 else s

/-- Deliver chunks in the order of their numbers while the next one is at hand; `n` bounds the run. -/
def State.deliverChunks (s : State) (r : PortRec) : Nat → State
  | 0 => s
  | n + 1 =>
    let x := s.port r.port
    match x.chunks.find? (fun c => c.1 = x.next) with
    | some c =>
      if s.linkPasses r.port || s.pstate r = 6 then
        let s := s.setPort r.port { x with chunks := x.chunks.filter (fun d => d.1 ≠ c.1) }
        (s.deliverChunk r c.2.1 c.2.2.1 c.2.2.2).deliverChunks r n
      else s
    | none => s

/-- A chunk arrives on some lane. -/
def State.chunkIn (s : State) (r : PortRec) (w : RlWord) : State :=
  let x := s.port r.port
  let s := s.setPort r.port { x with chunks := x.chunks.filter (fun d => d.1 ≠ w.seq) ++ [(w.seq, w.first, w.ends, w.chunk)] }
  s.deliverChunks r (x.chunks.length + 1)

/-! ### Codewords received (R421-R425, R428, R429) -/

/-- The oldest request of lane `l` is acknowledged. -/
def State.acknowledged (s : State) (r : PortRec) (l n : Nat) : State :=
  let x := s.lane l
  match x.asks with
  | (_, q, k) :: t =>
    if k = n then
      let s := s.setLane l { x with asks := t }
      if q = 1 then s.tapAnswer r l true else s
    else s
  | [] => s

/-- The training block at the start of a chunk: ready, a request not served yet, an acknowledgement. -/
def State.trainBlock (s : State) (r : PortRec) (l : Nat) (b : List Byte) : State :=
  let b0 := beAt b 0 1
  let x := s.lane l
  let s := s.setLane l { x with partner := bitAt b0 7 }
  let req := beAt b 2 1
  let seq := beAt b 3 1
  let s := if bitAt b0 6 && seq ≠ x.served && 1 ≤ req && req ≤ 3 && beAt b 1 1 ≤ 2 then
      ((s.setLane l { s.lane l with served := seq }).serveTap l (beAt b 1 1) req).1
    else s
  s.acknowledged r l (beAt b 4 1)

/-- FEC counters of a codeword with `n` symbols corrected. -/
def State.countCodeword (s : State) (r : PortRec) (n : Nat) : State :=
  if n = 0 then s
  else
    let l := r.first
    let s := ((s.bump (PORT_FEC0.cw_corrected l) 1).bump (PORT_FEC1.sym_corrected l) n).put (PORT_FEC1.sym_max l)
      (max n (s.get (PORT_FEC1.sym_max l)))
    (s.lanePerf r.port 0x44 1).lanePerf r.port 0x46 n

/-- A decoded codeword on lane `l`. -/
def State.rlDecoded (s : State) (r : PortRec) (l : Nat) (w : RlWord) : State :=
  let st := s.pstate r
  if st = 2 || st = 3 then
    let s := s.setLane l { s.lane l with bad := !w.ok }
    if w.state = 3 && (s.lane l).locked then s.trainBlock r l w.chunk else s
  else if !w.ok then
    (s.bump (PORT_RX3.rl_hdr_err r.first) 1).rlFail r 5
  else
    let s := s.chunkIn r w
    if s.pstate r = 4 then s.hearDown r w.state else if s.pstate r = 6 then s.hearUp r w.state else s

/-- Lane `l` has looked for the sync field: four in a row lock it, and four misses lose the lock (R428). -/
def syncStep (x : LaneSt) (found : Bool) : LaneSt :=
  if found then { x with miss := 0, hits := min 4 (x.hits + 1), locked := x.locked || 3 ≤ x.hits }
  else { x with miss := if 3 ≤ x.miss then 0 else x.miss + 1, hits := 0, locked := x.locked && x.miss < 3 }

/-- What a codeword of 544 symbols does on lane `l`. -/
def State.codeword (s : State) (r : PortRec) (l : Nat) (w : List Nat) : State :=
  let x := s.lane l
  let found := decide (syncOf (codewordBits w) = 0xD2B4)
  let s := s.setLane l (syncStep x found)
  if !found && 3 ≤ x.miss then (s.bump (PORT_RX3.rl_sync_loss r.first) 1).rlFail r 3
  else
    match rsDecode w with
    | none =>
      let s := (s.setLane l { s.lane l with bad := true }).bump (PORT_FEC0.cw_uncorrectable r.first) 1
      (s.lanePerf r.port 0x45 1).rlFail r 5
    | some (w, n) =>
      let bits := codewordBits w
      let s := (s.setLane l { s.lane l with hist := bits % 2 ^ 58 }).countCodeword r n
      s.rlDecoded r l (rlWord (descramble x.hist bits))

/-- The line symbols of a codeword arrive on lane `l` of a Ristlink port, and one leaves. -/
def State.codewordIn (s : State) (l : Nat) (line : List Nat) : State :=
  match s.portAt l with
  | none => s
  | some r =>
    let st := s.pstate r
    if r.link ≠ 2 || !(st = 2 || st = 3 || st = 4 || st = 6 || st = 7) then s
    else
      let nrz := s.nrz r
      (s.codeword r l (lineCodeword nrz (polar (s.flag (LANE_CFG.rx_invert l)) nrz line))).answerCodeword r l

def execRlCodewordReceive (lane : Fin 1024) (line : List (Fin 4)) (s : State) : Host.Outcome State Fault Refusal :=
  .next (s.codewordIn lane (line.map (·.val)))

end Sys2Proof.Machine
end

