-- ==== Sys2Proof/Machine/Structure.lean ====
section
/-! DEFINITION. The structure image's life and the vendor patch (02_structure_image.md R83-R92, R98-R105;
03_action_microcode.md R145-R150): the loaders, activation, disable, and commits. -/

namespace Sys2Proof.Machine

/-! ### The image loader (R84-R88) -/

/-- STRUCT_ENABLE_STATUS. -/
def imageKey : Nat := STRUCT_ENABLE_STATUS.regOff

/-- The loader no longer waits for the lock or holds it. -/
def State.loaderEnds (s : State) : State :=
  let s := { s with cip := { s.cip with waitLoader := false } }
  if s.lockOwner = 2 then s.freeLock else s.showWaiting

/-- An enable is refused after it left EMPTY: staging is erased and the state is EMPTY again (R85, R86). -/
def State.imageRefused (s : State) (reason detail : Nat) : State :=
  let s := { s with img := { s.img with phase := 0, header := [], plain := [] } }
  ((s.put STRUCT_STATUS.state 0).loaderEnds).endCheck imageKey reason detail

/-- Steps 1 and 2: `ok` and `header` are what the read of the header returned. -/
def State.imageStartReason (s : State) (ok : Bool) (header : List Byte) : Option (Nat × Nat) :=
  let len := s.get STRUCT_IMG_LEN.len
  let st := s.get STRUCT_STATUS.state
  (firstReason [
    (st = 3 || st = 4, 0x101, 0),
    (len < 272 || 16777216 < len, 0x102, 0),
    (s.img.patchPhase ≠ 0, 0x107, 0),
    (!ok, 0x113, 0)]).orElse fun _ => (headerReject header len).orElse fun _ => firstReason [
      (leAt header 0x0B 1 ≠ 2, 0x110, 0),
      (!(s.keySlot 2).valid, 0x111, 0)]

/-- The device ignores the loaders' enables after a failed self-test (R582). -/
def State.loadersDead (s : State) : Bool := s.flag PKG_BOOT_STATUS.selftest_fail

/-- STRUCT_CTL.enable. -/
def State.imageEnable (s : State) (ok : Bool) (header : List Byte) : State :=
  let h := slice header 0 256
  if s.loadersDead || s.flag (esBusy imageKey) then s
  else
    let s := s.startCheck imageKey .image []
    match s.imageStartReason ok h with
    | some (r, d) => s.endCheck imageKey r d
    | none =>
      let s := { s with img := { s.img with phase := 1, header := h, plain := [] } }
      (s.put STRUCT_STATUS.state 1).loaderWaits

def execStructEnable (ok : Bool) (header : List Byte) (s : State) : Host.Outcome State Fault Refusal :=
  .next (s.imageEnable ok header)

/-- 100 ms have passed without the lock. -/
def State.imageLockTimeout (s : State) : State :=
  if s.img.phase = 1 && s.lockOwner ≠ 2 then s.imageRefused 0x112 0 else s

def execImageLockTimeout (s : State) : Host.Outcome State Fault Refusal := .next s.imageLockTimeout

/-- Step 3 ends: `ok`, `body` and `tag` are what the reads of body and tag returned. -/
def State.imageVerified (s : State) (ok : Bool) (body tag : List Byte) : State :=
  if !(s.img.phase = 1 && s.lockOwner = 2) then s
  else if !ok then s.imageRefused 0x113 0
  else
    let h := s.img.header
    match gcmOpen (slotBytes (s.keySlot 2)) (slice h 0x20 12) h (slice body 0 (leAt h 0x0C 4)) (slice tag 0 16) with
    | none => (s.bump CIPHER_STAT.tag_fails 1).imageRefused 0x114 0
    | some plain =>
      let s := { s with img := { s.img with phase := 3, plain := plain } }
      (s.put STRUCT_STATUS.state 2).loaderEnds

def execImageTagVerified (ok : Bool) (body tag : List Byte) (s : State) : Host.Outcome State Fault Refusal :=
  .next (s.imageVerified ok body tag)

/-! ### Activation (R87, R92) -/

/-- Vendor patch words at the top of stage `st`. -/
def State.patchWords (s : State) (st : Nat) : Nat :=
  match s.patchRec st with
  | some r => r.words.length
  | none => 0

/-- The record under which a port was enabled meets the new map. -/
def sameRecord (i : Image) (r : PortRec) : Bool :=
  i.ports.any (fun q => q.port = r.port && q.first = r.first && q.lanes = r.lanes && q.speed = r.speed && q.link = r.link)

/-- Ports that are not DISABLED and whose record is absent from the new map or differs from it are disabled, with cause 1,
before the state becomes ACTIVE. Their queues are empty, since nothing was forwarded with no image (R92, R438). -/
def State.disableChanged (s : State) (i : Image) : State :=
  s.io.records.foldl (fun s x => match x.2 with
    | some r => if sameRecord i r || s.pstate r = 0 then s else (s.disablePort r).portOff r
    | none => s) s

/-- Pools, quotas and headroom of the image, staged and active (R328). -/
def State.loadPools (s : State) (i : Image) : State :=
  let size (k : Nat) : Nat := match i.pools.find? (fun p => p.pool = k) with | some p => p.size | none => 0
  let code (k : Nat) : Nat := match i.pools.find? (fun p => p.pool = k) with | some p => p.code | none => 0
  let s := (List.range 8).foldl (fun s k => s.puts [
    (BUF_POOL_CFG.size k, size k), (BUF_POOL_CFG.code k, code k), (BUF_POOL_STAT.size_active k, size k),
    (BUF_POOL_STAT.code_active k, code k)]) s
  let quotas := i.quotas.foldl (fun m q => smPut quotaDefault m (q.tenant * 4 + q.cls) ⟨q.cells, q.overflow, true⟩) []
  let heads := i.heads.foldl (fun m h => smPut quotaDefault m (h.port * 4 + h.cls) ⟨h.cells, 0, true⟩) []
  let resv := s.get BUF_G_CFG.resv_cells
  let s := s.puts [(BUF_G_ACTIVE.resv_cells, if resv = 0 || 64 < resv then 37 else resv),
    (BUF_G_ACTIVE.class_pool, s.get BUF_G_CFG.class_pool)]
  { s with buf := { s.buf with quotaStaged := quotas, quotaActive := quotas, headStaged := heads, headActive := heads } }

/-- The image becomes ACTIVE at version 1. -/
def State.activate (s : State) (i : Image) : State :=
  let s := s.disableChanged i
  let s := { s with
    img := { s.img with phase := 0, header := [], plain := [], active := some i, live := [(⟨1, 0⟩ : LiveVer)]
                        tags := setAt (List.replicate 16 0) 1 1 }
    tbl := { s.tbl with entries := [], moves := [], learn := [], bad := [], nodes := [] }
    mtr := { s.mtr with lastEnd := s.time.total
                        meters := s.mtr.meters.filter (fun x => s.mtr.delivery.isSome && x.1 / 16384 % 2 ≠ s.mtr.bank) }
    time := { s.time with stepped := false }
    flt := { s.flt with stopped := [] } }
  let s := (s.loadPools i).schedActivate i
  (s.setRaw STRUCT_IMAGE_ID.regOff (BitVec.ofNat 64 i.imageId)).put STRUCT_STATUS.state 3

/-- Steps 4 and 5: the body is read and checked, and the image activates or the enable is refused. -/
def State.imageActivate (s : State) : State :=
  if s.img.phase ≠ 3 then s
  else
    match readImage s.img.header s.img.plain with
    | .error (r, d) => s.imageRefused r d
    | .ok i =>
      match imageReject i s.patchWords with
      | some (r, d) => s.imageRefused r d
      | none => (s.activate i).endCheck imageKey 0 0

def execImageActivate (s : State) : Host.Outcome State Fault Refusal := .next s.imageActivate

/-! ### Commits (R98-R105, R187) -/

/-- The ring number that stands for STRUCT_COMMIT in a commit. -/
def structCommit : Nat := 1024

/-- Commit `c` ends with a status (0 DONE, 1 ABORTED, 2 REFUSED), a reason and the version it made. -/
def State.endCommit (s : State) (c : CommitJob) (status reason : Nat) (made : Option Nat) : State :=
  let jobs := s.img.jobs.erase c
  let s := { s with img := { s.img with jobs := jobs } }
  let s := s.putFlag (STRUCT_GROUP_STATUS.busy c.group) (jobs.any (fun x => x.group = c.group))
  if c.ring = structCommit then
    let s := s.puts [(STRUCT_COMMIT.busy, 0), (STRUCT_COMMIT.pending, 0), (STRUCT_COMMIT.result, reason),
      (STRUCT_COMMIT.aborted, b2n (status = 1))]
    match made with
    | some v => s.put STRUCT_COMMIT.last_version v
    | none => s
  else
    let s := if status = 2 then s.bump TBL_CMD_STAT.refused 1 else s
    (s.perf (perfBlock 32 4) 0x0E { func := some (s.ringFunc c.ring) } 1).finishEntry c.ring c.index
      (fun w => completed w status [(1, reason + made.getD 0 * 2 ^ 32)])

/-- STRUCT_COMMIT.go, written with its group: covers the group's commands accepted so far (R100). While one is busy only
the group field is stored (R103). -/
def State.commitGo (s : State) (g : Nat) : State :=
  let s := s.put STRUCT_COMMIT.group g
  if s.flag STRUCT_COMMIT.busy then s
  else
    let s := s.puts [(STRUCT_COMMIT.busy, 1), (STRUCT_COMMIT.aborted, 0)]
    let covers := (s.tbl.jobs.filter (fun j => j.fn = g && !j.imm && !j.done && j.src ≠ learnSource)).map (·.id)
    let c : CommitJob := { group := g, ring := structCommit, index := 0, covers := covers, upTo := s.tbl.seq, waiting := false }
    let s := ({ s with img := { s.img with jobs := s.img.jobs ++ [c] } }).put (STRUCT_GROUP_STATUS.busy g) 1
    if s.imageActive then s else s.endCommit c 2 0x116 none

def execStructCommitGo (group : Fin 64) (s : State) : Host.Outcome State Fault Refusal := .next (s.commitGo group)

/-- An entry of the group as version tag `t` restamps it, when a command numbered below `n` staged it. -/
def restamped (g n t : Nat) (e : Entry) : Entry :=
  if e.group ≠ g || e.hidden || n ≤ e.stagedBy then e
  else if e.stagedAdd then { e with stagedAdd := false, addedTag := t, group := 0 }
  else if e.stagedDel then { e with stagedDel := false, deleted := true, deletedTag := t, group := 0 }
  else e

/-- Learned entries whose staged delete takes effect, one for all copies: their ports (R241). -/
def State.learnedDeletes (s : State) (g n : Nat) : List Nat :=
  (s.stagedUpTo g n).filterMap (fun x => match (s.tableEntries x.1).find? (fun y => y.2.seq = x.2) with
    | some y => if y.2.stagedDel && s.isLearned x.1 y.2 then some (bitsOf y.2.data 0 10) else none
    | none => none)

/-- The number after the current version's, in 32 bits (R97). -/
def State.nextVersion (s : State) : Nat := (s.version + 1) % 2 ^ 32

/-- Every entry that the commit's commands, those numbered below `n`, staged is restamped, and the version advances. What
a command accepted after the request staged belongs to the next commit (R100; DEDUCED, notes/assumptions/91.md). -/
def State.advanceVersion (s : State) (g n : Nat) : State :=
  let v := s.nextVersion
  let gone := s.learnedDeletes g n
  let s := { s with
    tbl := { s.tbl with entries := s.tbl.entries.map (fun (x : Nat × Option Entry) => (x.1, x.2.map (restamped g n (v % 16)))) }
    img := { s.img with live := s.img.live ++ [(⟨v, 0⟩ : LiveVer)], tags := setAt s.img.tags (v % 16) 1 } }
  let s := gone.foldl (fun s p => s.unlearn p) s
  ((s.showGroup g).put (STRUCT_GROUP_STATUS.last_version g) v).retireVersions

/-- Show that a commit waits for a version slot, or for its tag (R187). -/
def State.commitWaits (s : State) (c : CommitJob) (b : Bool) : State :=
  let jobs := s.img.jobs.map (fun (x : CommitJob) => if x = c then { x with waiting := b } else x)
  let s := { s with img := { s.img with jobs := jobs } }
  if c.ring = structCommit then s.putFlag STRUCT_COMMIT.pending b else s

/-- The oldest commit of group `g` goes on: it waits for its commands, for a version slot and for its tag, or ends. -/
def State.commitAdvance (s : State) (g : Nat) : State :=
  match s.img.jobs.find? (fun c => c.group = g) with
  | none => s
  | some c =>
    if !c.covers.isEmpty || !s.engineRuns || !s.imageActive then s
    else if (s.stagedUpTo g c.upTo).isEmpty then s.endCommit c 0 0 none
    else if 8 ≤ s.img.live.length || nth s.img.tags (s.nextVersion % 16) ≠ 0 then s.commitWaits c true
    else ((s.endCommit c 0 0 (some s.nextVersion)).advanceVersion g c.upTo).kick

def execCommitAdvance (group : Fin 64) (s : State) : Host.Outcome State Fault Refusal := .next (s.commitAdvance group)

/-- commit_wait_ms has passed for the oldest commit of group `g`, with eight versions live (R102). -/
def State.slotTimeout (s : State) (g : Nat) : State :=
  match s.img.jobs.find? (fun c => c.group = g) with
  | none => s
  | some c =>
    if c.waiting && 8 ≤ s.img.live.length && s.get STRUCT_VER_CFG.commit_wait_ms ≠ 0 then s.endCommit c 2 0x115 none else s

def execCommitSlotTimeout (group : Fin 64) (s : State) : Host.Outcome State Fault Refusal := .next (s.slotTimeout group)

/-! ### Disable (R89-R92, R327, R356, R398, R399) -/

/-- Frames that wait in the receive FIFOs are no-image discards (R57, R89; at once: DESIGN CHOICE,
notes/assumptions/87.md). -/
def State.dropWaiting (s : State) : State :=
  let s := s.pk.fifo.foldl (fun s x => x.2.foldl (fun s f => s.bump (PORT_RX2.no_image (s.laneOf f.port)) 1) s) s
  let secs := s.pk.fifo.map (·.1)
  let s := { s with pk := { s.pk with fifo := [] } }
  secs.foldl (fun s p => s.xoffSweep p) s

/-- STRUCT_CTL.disable: intake stops, and commits end without a version. -/
def State.imageDisable (s : State) : State :=
  if !s.imageActive then s
  else
    let s := (s.put STRUCT_STATUS.state 4).dropWaiting
    s.img.jobs.foldl (fun s c => s.endCommit c 1 0 none) s

def execStructDisable (s : State) : Host.Outcome State Fault Refusal := .next s.imageDisable

/-- The packet has not departed: it has not been admitted, or a copy of it remains. -/
def State.remains (s : State) (p : Pkt) : Bool := !p.admitted || s.pk.copies.any (fun c => c.pkt = p.id)

/-- A packet that was never admitted goes: only what is still to be known of its frame stays. -/
def State.letGo (s : State) (id : Nat) : State :=
  match s.pkt id with
  | some p =>
    if p.admitted then s
    else
      ((s.countNotes p.w.notes).setPkt { p with
        admitted := true, last := true, pending := [], w := { p.w with notes := [] } }).settle id
  | none => s

/-- Copy `c` goes: flushed from its queue, stomped on the wire, else discarded. -/
def State.endCopy (s : State) (c : Copy) : State :=
  if c.at' = .queued then s.flushCopy c
  else if c.wire.isSome then s.stompCopy c
  else s.discardCopy c

/-- End every copy of a list that still stands. -/
def State.endCopies (s : State) (l : List Copy) : State := l.foldl (fun s c => match s.copy c.id with
  | some d => s.endCopy d
  | none => s) s

/-- Every packet that remains is discarded. -/
def State.discardAll (s : State) : State :=
  let s := s.bump STRUCT_DISCARD_CNT.drain_discards (s.pk.pkts.filter s.remains).length
  let s := s.endCopies s.pk.copies
  s.pk.pkts.foldl (fun s p => s.letGo p.id) s

/-- The moves that commands wait for end, one after another, and the commands go on; `n` bounds the moves. -/
def State.completeJobs (s : State) : Nat → State
  | 0 => s
  | n + 1 =>
    match s.tbl.moves with
    | m :: _ => ((s.endMove m).kick).completeJobs n
    | [] => s

/-- Commands accepted before the disable complete as always (R90; DEDUCED, notes/assumptions/28.md); then the tables and
groups are cleared. -/
def State.endTables (s : State) : State :=
  let s := s.completeJobs (2 ^ 20)
  let s := { s with tbl := { s.tbl with
    jobs := s.tbl.jobs.filter (fun j => j.src ≠ learnSource), entries := [], moves := [], learn := [], bad := []
    discards := [], nodes := [] } }
  let s := (List.range 64).foldl (fun s g => s.setRaw (STRUCT_GROUP_STATUS.regOff g) 0) s
  let s := (List.range 1024).foldl (fun s p => if s.get (LRN_PORT.learned p) = 0 then s else (s.put (LRN_PORT.learned p) 0).portOver p) s
  let s := (List.range 256).foldl (fun s t => s.put (TBL_LRN_CFG.blocked_pipes t) 0) s
  s.regs.foldl (fun s (x : Nat × Word) => if regDesc x.1 = TBL_ERR.desc then s.setRaw x.1 (BitVec.ofNat 64 (setBits x.2.toNat 48 1 0)) else s) s

/-- Pools, quotas and headroom read 0, and so does every charge, those of cells that a refused reference left too
(R327). -/
def State.clearPools (s : State) : State :=
  let s := s.buf.headUsed.foldl (fun s x => s.unchargeCells (.headroom x.1) x.2) s
  let s := (List.range 8).foldl (fun s k => s.puts [(BUF_POOL_CFG.size k, 0), (BUF_POOL_CFG.code k, 0),
    (BUF_POOL_STAT.size_active k, 0), (BUF_POOL_STAT.code_active k, 0), (BUF_POOL_STAT.used k, 0)]) s
  let s := s.puts [(BUF_G_ACTIVE.resv_cells, 0), (BUF_G_ACTIVE.class_pool, 0)]
  { s with buf := { s.buf with quotaStaged := [], quotaActive := [], quotaUsed := [], headStaged := [], headActive := [] } }


/-- The drain ends: what remains is discarded, everything of the image is cleared and the state is EMPTY. -/
def State.drainEnd (s : State) : State :=
  if s.get STRUCT_STATUS.state ≠ 4 then s
  else
    let s := (s.discardAll.endTables.clearPools).plDisable.postDisable.schedClear
    let s := { s with img := { s.img with active := none, live := [], tags := List.replicate 16 0, jobs := [] } }
    let s := (s.setRaw STRUCT_IMAGE_ID.regOff 0).put STRUCT_STATUS.state 0
    s.lastHarvest

def execStructDrainEnd (s : State) : Host.Outcome State Fault Refusal := .next s.drainEnd

/-! ### Vendor patches (R145-R150) -/

/-- PATCH_ENABLE_STATUS. -/
def patchKey : Nat := PATCH_ENABLE_STATUS.regOff

/-- The control sequencer that a record targets. -/
def patchSeq (t : Nat) : Option Nat := if 0x40 ≤ t && t ≤ 0x42 then some (t - 0x40) else none

/-- A load fails: state NONE, staging erased, every store unchanged. -/
def State.patchRefused (s : State) (reason detail : Nat) : State :=
  let s := { s with img := { s.img with patchPhase := 0, patchHeader := [], patchPlain := [] } }
  let s := (List.range 3).foldl (fun s q => if s.get (SEQ_STATUS.state q) = 3 then s.put (SEQ_STATUS.state q) 1 else s) s
  ((s.put PATCH_STATUS.state 0).loaderEnds).endCheck patchKey reason detail

/-- Steps 1 and 2 before the lock. -/
def State.patchStartReason (s : State) (ok : Bool) (header : List Byte) : Option (Nat × Nat) :=
  let len := s.get PATCH_LEN.len
  firstReason [
    (s.img.patched, 0x180, 0),
    (s.get STRUCT_STATUS.state ≠ 0, 0x181, 0),
    (len < 80 || 1048576 < len, 0x182, 0),
    (!ok, 0x186, 0),
    (patchHeaderBad header len, 0x183, 0),
    (leAt header 0x0B 1 ≠ 1 || !(s.keySlot 1).valid, 0x184, 0)]

/-- PATCH_CTL.enable. -/
def State.patchEnable (s : State) (ok : Bool) (header : List Byte) : State :=
  let h := slice header 0 64
  if s.loadersDead || s.flag (esBusy patchKey) then s
  else
    let s := s.startCheck patchKey .patch []
    match s.patchStartReason ok h with
    | some (r, d) => s.endCheck patchKey r d
    | none =>
      let s := { s with img := { s.img with patchPhase := 1, patchHeader := h, patchPlain := [] } }
      (s.put PATCH_STATUS.state 1).loaderWaits

def execPatchEnable (ok : Bool) (header : List Byte) (s : State) : Host.Outcome State Fault Refusal :=
  .next (s.patchEnable ok header)

def State.patchLockTimeout (s : State) : State :=
  if s.img.patchPhase = 1 && s.lockOwner ≠ 2 then s.patchRefused 0x185 0 else s

def execPatchLockTimeout (s : State) : Host.Outcome State Fault Refusal := .next s.patchLockTimeout

/-- Steps 3 and 4, and the halt of the targeted sequencers. -/
def State.patchVerified (s : State) (ok : Bool) (body tag : List Byte) : State :=
  if !(s.img.patchPhase = 1 && s.lockOwner = 2) then s
  else if !ok then s.patchRefused 0x186 0
  else
    let h := s.img.patchHeader
    match gcmOpen (slotBytes (s.keySlot 1)) (slice h 0x20 12) h (slice body 0 (leAt h 0x0C 4)) (slice tag 0 16) with
    | none => (s.bump CIPHER_STAT.tag_fails 1).patchRefused 0x187 0
    | some plain =>
      let s := s.loaderEnds
      if leAt h 0x10 4 < Config.patchMinLevel % 2 ^ 32 then s.patchRefused 0x188 0
      else
        match patchRecords (leAt h 0x14 2) plain with
        | .error (r, d) => s.patchRefused r d
        | .ok rs =>
          let s := { s with img := { s.img with patchPhase := 2, patchPlain := plain } }
          (rs.filterMap (fun r => patchSeq r.target)).foldl (fun s q =>
            if s.get (SEQ_STATUS.state q) = 1 then s.put (SEQ_STATUS.state q) 3 else s) s

def execPatchTagVerified (ok : Bool) (body tag : List Byte) (s : State) : Host.Outcome State Fault Refusal :=
  .next (s.patchVerified ok body tag)

/-- CRC-32C over patched words as stored. -/
def wordsCrc (l : List Nat) : Nat := crc32c ((l.map mwBytes).flatten)

/-- Step 5: the words are written and the sequencers restart. -/
def State.patchDone (s : State) : State :=
  if s.img.patchPhase ≠ 2 then s
  else
    match patchRecords (leAt s.img.patchHeader 0x14 2) s.img.patchPlain with
    | .error (r, d) => s.patchRefused r d
    | .ok rs =>
      let level := leAt s.img.patchHeader 0x10 4
      let s := { s with img := { s.img with
        patchPhase := 0, patchHeader := [], patchPlain := [], patched := true, patch := rs } }
      let s := rs.foldl (fun s r => match patchSeq r.target with
        | some q =>
          let s := if s.get (SEQ_STATUS.state q) = 3 then s.put (SEQ_STATUS.state q) 1 else s
          s.puts [(SEQ_STATUS.patch_words q, r.words.length), (SEQ_STATUS.patch_crc q, wordsCrc r.words)]
        | none => s) s
      (s.puts [(PATCH_STATUS.state, 2), (PATCH_STATUS.level, level)]).endCheck patchKey 0 0

def execPatchLoadDone (s : State) : Host.Outcome State Fault Refusal := .next s.patchDone

/-- A round-state parity mismatch while the loader holds the engine (R573). -/
def State.loaderFault (s : State) : State :=
  if s.img.phase = 1 then s.imageRefused 0x1FF 0
  else if s.img.patchPhase = 1 then s.patchRefused 0x1FF 0
  else s.loaderEnds

end Sys2Proof.Machine
end

