-- ==== Sys2Proof/Machine/RingReset.lean ====
section
/-! DEFINITION. Abort and disable of rings, and the resets of functions (12_host_interface_rings.md R471-R478). -/

namespace Sys2Proof.Machine

/-! ### Abort (R471-R473) -/

/-- Entries of ring `r` that an abort catches: the waiting COMMIT of a CMD ring, and frames still to enter a parser. -/
def State.catchWork (s : State) (r : Nat) : State × Nat :=
  let commits := s.img.jobs.filter (fun c => c.ring = r && c.waiting)
  let frames := s.hif.inject.filter (fun i => i.ring = r)
  let s := { s with hif := { s.hif with inject := s.hif.inject.filter (fun i => i.ring ≠ r) } }
  let s := commits.foldl (fun s c => s.endCommit c 1 0 none) s
  let s := frames.foldl (fun s i => s.finishEntry i.ring i.index abortedEntry) s
  (s, commits.length + frames.length)

/-- Every prefetched copy is taken by the abort scan; `n` bounds the run. -/
def State.abortCopies (s : State) (r : Nat) : State :=
  let x := s.ring r
  s.setRing r { x with
    copies := [], take := x.take + x.copies.length
    taken := x.taken ++ x.copies.map (fun w => (⟨w, some (abortedEntry w)⟩ : Taken)) }

/-- The abort of ring `r` takes effect. A halted ring takes no entry (R477). -/
def State.startAbort (s : State) (r : Nat) : State :=
  let k := s.slot r
  if !s.ringEnabled r || s.flag (RING_ABORT.busy k) then s
  else
    let started := ((s.ring r).taken.filter (fun t => t.result.isNone)).length
    let (s, caught) := s.catchWork r
    let halted := s.flag (RING_CTL.halted k)
    let x := s.ring r
    let x := if halted then { x with copies := [] } else x
    let n := x.copies.length
    let s := s.setRing r { x with scanning := false, again := false, inval := false, aborting := true }
    let s := (s.abortCopies r).drain r
    let x := s.ring r
    let reads := !halted && s.linkUp && decide (scanPos x < x.complete + s.ringSize r)
    (s.setRing r { x with abortScan := reads }).puts [(RING_ABORT.busy k, 1), (RING_ABORT.aborted k, n),
      (RING_ABORT.caught k, caught), (RING_ABORT.finished k, started - caught)]

def execRingAbort (r : Fin 1024) (s : State) : Host.Outcome State Fault Refusal := .next (s.startAbort r)

/-! ### Resets of functions (R475, R476) -/

/-- The function is in reset. -/
def State.fnInReset (s : State) (f : Nat) : Bool := if f = 0 then s.hif.pfReset else s.flag (HIF_VF.in_reset f)

/-- The slot registers, the MSI-X table and the PBA of function `f` at their reset values. -/
def State.clearBar2 (s : State) (f : Nat) : State :=
  let mine (k : Nat) : Bool := bar2Base f ≤ k && k < bar2Base (f + 1)
  { s with
    regs := s.regs.filter (fun (x : Nat × Word) => !mine x.1)
    checks := s.checks.filter (fun c => !mine c.key)
    hif := { s.hif with
      msixPend := s.hif.msixPend.filter (fun (x : Nat × Bool) => x.1 / 2048 ≠ f)
      held := s.hif.held.filter (fun h => h.func ≠ f) } }

/-- The batch of virtual function `f` in the running delivery is lost (R391, R401). -/
def State.loseBatch (s : State) (f : Nat) : State :=
  match s.mtr.delivery with
  | some d => if d.vfs.any (fun v => v.1 = f) then s.vfLost d f else s
  | none => s

/-- The host interface's block reset ends with its PF reset (R540, R541). -/
def State.endRunning (s : State) (u : UnitId) : State :=
  let s := { s with flt := { s.flt with running := s.flt.running.filter (fun x => x ≠ u) } }
  if s.flt.requested = some u then
    ({ s with flt := { s.flt with requested := none } }).put FLT_RESET.busy 0
  else s

/-- Steps 3 to 5 of R475 once every ring of function `f` is disabled. -/
def State.finishReset (s : State) (f : Nat) : State :=
  if !s.fnInReset f || (List.range 1024).any (fun r => s.ringEnabled r && s.ringFunc r = f) then s
  else
    let s := (s.discardGroup f).loseBatch f
    let rings := (s.hif.rings.map (·.1)).filter (fun r => s.ringFunc r = f)
    let s := rings.foldl (fun s r => s.setRing r {}) s
    let s := s.clearBar2 f
    let s := if s.hif.flr.contains f then s.setFn f {} else s
    let s := { s with hif := { s.hif with flr := s.hif.flr.filter (fun x => x ≠ f) } }
    if f = 0 then ({ s with hif := { s.hif with pfReset := false } }).endRunning .host
    else s.put (HIF_VF.in_reset f) 0

/-! ### Disable (R474) -/

/-- Host queues that ring `r` served. -/
def State.queuesOfRing (s : State) (r : Nat) : List Nat :=
  (List.range 256).filter (fun h => s.flag (HIF_HQ_MAP.valid h) && s.get (HIF_HQ_MAP.ring h) = r)

/-- RING_CTL.disable: the abort, and the stop of the queues of a PUNT ring. -/
def State.ringDisable (s : State) (r : Nat) : State :=
  let k := s.slot r
  if !s.ringEnabled r || s.flag (RING_CTL.disabling k) then s
  else
    let s := (s.startAbort r).put (RING_CTL.disabling k) 1
    if s.ringKind r = 3 then (s.queuesOfRing r).foldl (fun s h => s.flushQueue (16384 + h)) s else s

/-- The ring is disabled once its abort is done. -/
def State.ringOff (s : State) (r : Nat) : State :=
  let k := s.slot r
  let f := s.ringFunc r
  let x := s.ring r
  let s := s.bump (RING_STAT.lost r) x.dueEvents.length
  let s := (s.setRing r { x with copies := [], dueEvents := [], scanning := false, again := false }).puts
    [(RING_CTL.enabled k, 0), (RING_CTL.disabling k, 0), (RING_CTL.halted k, 0)]
  let s := if s.ringKind r = 1 then s.discardGroup f else s
  let s := match s.mtr.delivery with
    | some d => if s.ringKind r = 5 && f = 0 && r = s.get MTR_CFG.pf_ring && d.pair < 16384 then s.stallDelivery d else s
    | none => s
  s.finishReset f

def execRingDisable (r : Fin 1024) (s : State) : Host.Outcome State Fault Refusal := .next (s.ringDisable r)

/-- The abort's last completion is written. -/
def State.abortDone (s : State) (r : Nat) : State :=
  let x := s.ring r
  if !x.aborting || x.abortScan || !x.taken.isEmpty then s
  else
    let s := (s.setRing r { x with aborting := false }).put (RING_ABORT.busy (s.slot r)) 0
    if s.flag (RING_CTL.disabling (s.slot r)) then s.ringOff r else s

def execRingAbortDone (r : Fin 1024) (s : State) : Host.Outcome State Fault Refusal := .next (s.abortDone r)

/-- Every enabled ring of function `f` is disabled, and the reset ends with the last of them. -/
def State.disableRings (s : State) (f : Nat) : State :=
  let rings := (List.range 1024).filter (fun r => s.ringEnabled r && s.ringFunc r = f)
  let s := rings.foldl (fun s r => s.ringDisable r) s
  s.finishReset f

/-- A reset of virtual function `n`; `flr` says that it is a Function Level Reset or the end of VF Enable. -/
def State.vfReset (s : State) (n : Nat) (flr : Bool) : State :=
  if n = 0 then s
  else
    let s := if flr then { s with hif := { s.hif with flr := n :: s.hif.flr.filter (fun x => x ≠ n) } } else s
    (s.put (HIF_VF.in_reset n) 1).disableRings n

def execVfReset (n : Fin 64) (flr : Bool) (s : State) : Host.Outcome State Fault Refusal := .next (s.vfReset n flr)

/-- A reset of the physical function: 0 a Function Level Reset, 1 a Hot Reset, 2 DL_Down, which also takes the link
down. -/
def State.pfReset (s : State) (cause : Nat) : State :=
  let s := if cause = 2 then s.puts [(HIF_STATUS.link_speed, 0), (HIF_STATUS.link_width, 0)] else s
  let s := (List.range 64).foldl (fun s n => s.vfReset n true) s
  let s := { s with hif := { s.hif with pfReset := true, vfEnable := false, numVfs := 0, vfMemSpace := false
                                        flr := 0 :: s.hif.flr.filter (fun x => x ≠ 0) } }
  (s.put HIF_STATUS.vfs_enabled 0).disableRings 0

def execPfReset (cause : Fin 3) (s : State) : Host.Outcome State Fault Refusal := .next (s.pfReset cause)

/-! ### Configuration requests (R444-R451, R475) -/

/-- VF Enable set, with NumVFs, or cleared: clearing resets every virtual function. -/
def State.setVfEnable (s : State) (on : Bool) (num : Nat) : State :=
  let s := ({ s with hif := { s.hif with vfEnable := on, numVfs := num } }).put HIF_STATUS.vfs_enabled (if on then num else 0)
  if on then s else (List.range 64).foldl (fun s n => s.vfReset n true) s

/-- AER status bits are cleared by writing 1; the First Error Pointer and Header Log stay. -/
def State.clearAer (s : State) (corr uncorr : Nat) : State :=
  { s with hif := { s.hif with
    aerCorr := s.hif.aerCorr &&& (2 ^ 32 - 1 - corr % 2 ^ 32), aerUncorr := s.hif.aerUncorr &&& (2 ^ 32 - 1 - uncorr % 2 ^ 32) } }

def State.configRequest (s : State) (f : Nat) : CfgItem → State
  | .read off => s.configRead f off
  | .memorySpace on => s.setFn f { s.fn f with memSpace := on }
  | .busMaster on => s.setFn f { s.fn f with busMaster := on }
  | .msixEnable on => (s.setFn f { s.fn f with msixEnable := on }).msixFlush f
  | .functionMask on => (s.setFn f { s.fn f with msixMask := on }).msixFlush f
  | .relaxedOrdering on => s.setFn f { s.fn f with relaxed := on }
  | .tenBitTag on => s.setFn f { s.fn f with tenBitTag := on }
  | .maxPayload c => s.setFn f { s.fn f with maxPayload := c }
  | .maxRead c => s.setFn f { s.fn f with maxRead := c }
  | .vfEnable on num => s.setVfEnable on num
  | .vfMemorySpace on => { s with hif := { s.hif with vfMemSpace := on } }
  | .clearAer corr uncorr => s.clearAer corr uncorr

def execConfigRequest (f : Fin 64) (item : CfgItem) (s : State) : Host.Outcome State Fault Refusal :=
  .next (s.configRequest f item)

end Sys2Proof.Machine
end

