-- ==== Sys2Proof/Machine/Faults.lean ====
section
/-! DEFINITION. Pipes that stop, block resets, die-to-die channels, injected faults and the cipher engine's faults
(15_faults.md R540-R557; 08_shared_buffer.md R326; 03_action_microcode.md R136; 16_cipher_engine.md R573). -/

namespace Sys2Proof.Machine

/-! ### A pipe stops or is reset (R326, R540) -/

/-- A packet whose last cell was not written is ended: copies on the wire are stomped, the others removed. -/
def State.endUnwritten (s : State) (id : Nat) : State :=
  match s.pkt id with
  | none => s
  | some p =>
    let s := s.setPkt { p with ended := true, err := true, fromFifo := false }
    let l := s.pk.copies.filter (fun c => c.pkt = id)
    let s := l.foldl (fun s c => match s.copy c.id with
      | some d => if d.wire.isSome then s.stompCopy d else s.discardCopy d
      | none => s) s
    s.settle id

/-- Queued copies of pipe `p`'s ports and of its recirculation queues. -/
def State.queuedAt (s : State) (p : Nat) : List Copy :=
  s.pk.copies.filter (fun c => c.at' = .queued &&
    ((isPortQueue c.queue && s.pipeOf (c.queue / 16) = p) || (isRecircQueue c.queue && (c.queue - 16640) / 2 = p)))

/-- What the buffer does when pipe `p` stops or its block reset takes effect. -/
def State.bufferStop (s : State) (p : Nat) : State :=
  let l := s.pk.pkts.filter (fun q => q.admitted && q.w.pipe = p && !q.last && !q.ended)
  let s := l.foldl (fun s q => s.endUnwritten q.id) s
  (s.flushCopies (s.queuedAt p)).returnCaches p

/-- The store word is rewritten; with no good copy anywhere the pipe stops, and the buffer acts (R136, R326). -/
def execCsRepair (pipe : Fin 32) (stage : Fin 32) (word : Fin 1024) (double : Bool) (bad : List Nat) (s : State) :
    Host.Outcome State Fault Refusal :=
  let t := s.csRepair pipe stage word double bad
  .next (if t.flt.stopped.length ≠ s.flt.stopped.length then t.bufferStop pipe else t)

/-- The block reset of pipe `p` takes effect. -/
def State.pipeReset (s : State) (p : Nat) : State :=
  let s := (s.pk.pkts.filter (fun q => !q.admitted && q.w.pipe = p)).foldl (fun s q => s.letGo q.id) s
  let s := s.endCopies (s.pk.copies.filter (fun c => c.at' = .stages && c.w.pipe = p))
  let s := (s.bufferStop p).setLearnQueue p []
  { s with pl := { s.pl with flowlets := s.pl.flowlets.filter (fun (x : Nat × Nat) => x.1 / 2 ^ 17 ≠ p) } }

/-! ### Channels (R545-R552) -/

/-- The packet's frame has crossed channel `c` toward the core die in part. -/
def crossing (c : Nat) (p : Pkt) : Bool :=
  p.fromFifo && p.w.pipe = c && !p.err && (!p.whole || decide (p.crossed < p.bytes.length))

/-- The copy's frame has begun to cross channel `c` toward the I/O die and has not crossed whole, or is not gone from
the wire. -/
def State.crossingOut (s : State) (c : Nat) (d : Copy) : Bool :=
  isPortQueue d.queue && s.pipeOf (d.queue / 16) = c && d.at' ≠ .queued && (0 < d.read || d.wire.isSome) &&
  (match s.pkt d.pkt with
    | some p => !(p.last && d.read = p.cells.length)
    | none => false)

/-- Frames partly across toward the core die are errored; those partly across toward the I/O die are stomped, or
discarded where they have not begun on the wire (R56, R549). -/
def State.channelFrames (s : State) (c : Nat) : State :=
  let s := (s.pk.pkts.filter (crossing c)).foldl (fun s q => match s.pkt q.id with
    | some p => ((s.setPkt { p with err := true }).bump (CH_STAT.discards c) 1).stompPkt p.id
    | none => s) s
  (s.pk.copies.filter (s.crossingOut c)).foldl (fun s x => match s.copy x.id with
    | some d =>
      let s := s.bump (CH_STAT.discards c) 1
      if d.wire.isSome then s.stompCopy d else s.discardCopy d
    | none => s) s

/-- The syndrome of a channel error (R544). -/
def channelSyndrome (toIo : Bool) (q kind : Nat) (x : ChQueue) : Nat :=
  b2n toIo + q * 2 + kind * 2 ^ 3 + x.writeA * 2 ^ 8 + x.writeB * 2 ^ 16 + x.readA * 2 ^ 24 + x.readB * 2 ^ 32

/-- What a reset of channel `c` that its queue `x` caused does: the 16th of a run is raised as FATAL with kind 3
(R552). -/
def State.channelReset (s : State) (c : Nat) (toIo : Bool) (q kind : Nat) (x : ChQueue) : State :=
  if !s.channelRuns c then s.raise (48 * c + 35) 2 (channelSyndrome toIo q kind x)
  else
    let s := s.startBlockReset (.channel c)
    match smGet noRun s.flt.chRuns c with
    | some r =>
      let esc := decide (16 ≤ r.count)
      let s := { s with flt := { s.flt with chRuns := smPut noRun s.flt.chRuns c (some { r with escalated := esc }) } }
      let s := s.raise (48 * c + 35) (if esc then 3 else 2) (channelSyndrome toIo q (if esc then 3 else kind) x)
      s.channelFrames c
    | none => s

/-- A queue of channel `c` is looked at (R548). Kind 0: its pointers, which read as given, are compared; 1: a word of a
cell shows `flips` bits in error, of which SECDED corrects one; 2: a credit is returned, an error where the count is
full. -/
def State.channelError (s : State) (c : Nat) (toIo : Bool) (q kind : Nat) (wa wb ra rb flips : Nat) : State :=
  let k := chKey c toIo q
  let x := s.chQueue k
  if kind = 0 then
    let x := { x with writeA := wa, writeB := wb, readA := ra, readB := rb }
    if wa = wb && ra = rb then s else (s.setChQueue k x).channelReset c toIo q 0 x
  else if kind = 1 && flips < 2 then s
  else if kind = 2 && x.credits < chSlots q then s.setChQueue k { x with credits := x.credits + 1 }
  else s.channelReset c toIo q kind x

def execChannelError (c : Fin 32) (toIo : Bool) (queue kind : Fin 3) (wa wb ra rb : Fin 128) (data check : Fin 3)
    (s : State) : Host.Outcome State Fault Refusal :=
  .next (s.channelError c toIo queue kind wa wb ra rb (data + check))

/-- Pointers are cleared and credits set to the full queue size. -/
def State.clearChannel (s : State) (c : Nat) : State :=
  { s with flt := { s.flt with channels := s.flt.channels.filter (fun (x : Nat × ChQueue) => x.1 / 6 ≠ c) } }

/-- The reset of channel `c` ends: sending resumes, unless it was escalated. -/
def State.channelDone (s : State) (c : Nat) : State :=
  if !s.resetting (.channel c) then s
  else
    let s := ((s.channelFrames c).clearChannel c).endRunning (.channel c)
    match smGet noRun s.flt.chRuns c with
    | some r => if r.escalated then s.put (CH_STAT.stopped c) 1 else s
    | none => s

def execChannelResetDone (c : Fin 32) (s : State) : Host.Outcome State Fault Refusal := .next (s.channelDone c)

/-- The stop of R552 ends, and with it the run of resets. -/
def State.channelRestart (s : State) (c : Nat) : State :=
  if s.flag (CH_STAT.stopped c) then
    ({ s with flt := { s.flt with chRuns := smPut noRun s.flt.chRuns c none } }).put (CH_STAT.stopped c) 0
  else s

def execChannelRestart (c : Fin 32) (s : State) : Host.Outcome State Fault Refusal := .next (s.channelRestart c)

/-! ### Block resets (R540, R541) -/

/-- FLT_RESET.go: a reset of the unit of the named source, if it has one and none of it runs. -/
def State.requestReset (s : State) (data : Word) : State :=
  let n := bitsOf data.toNat 0 11
  let s := s.put FLT_RESET.source n
  match (if sourceListed n then resetUnit n else none) with
  | none => s
  | some u =>
    if s.resetting u then s
    else
      let s := match u with | .pipe p => s.channelRestart p | .channel c => s.channelRestart c | _ => s
      ({ s with flt := { s.flt with requested := some u } }.put FLT_RESET.busy 1).startBlockReset u

def execBlockResetRequest (data : Word) (s : State) : Host.Outcome State Fault Refusal := .next (s.requestReset data)

/-- Table commands taken by the engine complete FAULT; learn requests are lost. -/
def State.engineReset (s : State) : State :=
  let learns := s.tbl.jobs.filter (fun j => j.src = learnSource && !j.done)
  let jobs := s.tbl.jobs.filter (fun j => j.src ≠ learnSource)
  let s := learns.foldl (fun s j => (s.withdraw j).unlearn j.flushPort) s
  let s := jobs.foldl (fun s j =>
    let s := if j.done then s else (s.withdraw j).uncover j.id
    let s := { s with tbl := { s.tbl with jobs := s.tbl.jobs.filter (fun x => x.id ≠ j.id) } }
    let s := s.perf (perfBlock 32 4) 0x0E { func := some j.fn } 1
    let j := { j with status := 3, result := 0, readback := none }
    if j.src = tblCmdSource then s.completeRegs j else s.completeRing j) s
  let s := { s with tbl := { s.tbl with jobs := [] } }
  (s.img.jobs.filter (fun c => c.ring ≠ structCommit)).foldl (fun s c => s.endCommit c 3 0 none) s

/-- The harvester delivers from the first batch not yet completed DONE; it gives the lock back. -/
def State.harvesterReset (s : State) : State :=
  let s := match s.mtr.delivery with
    | some d => s.setDelivery { d with held := none, tries := 0, waits := false }
    | none => s
  let s := { s with cip := { s.cip with waitHarvester := false } }
  if s.lockOwner = 3 then s.freeLock else s.showWaiting

def State.sequencerReset (s : State) (q : Nat) : State :=
  if q = 0 then s.engineReset else if q = 2 then s.harvesterReset else s

/-- What the reset of unit `u` does when it takes effect. -/
def State.unitReset (s : State) : UnitId → State
  | .pipe p => (((s.pipeReset p).channelFrames p).clearChannel p).endRunning (.channel p)
  | .channel c => s.channelDone c
  | .laneMacro m =>
    (s.macroDown m).setMacroLock m (s.get (LM_STATUS.band m) ≠ 0 && s.flag CLK_STATUS.ref_present)
  | .link f =>
    let s := (s.setLive f false).put (PL_LINK.dup_chip f) 0
    { s with pl := { s.pl with map := s.pl.map.filter (fun (x : Nat × Nat) => x.1 % 128 ≠ f) } }
  | .sequencer q => s.sequencerReset q
  | .host => s

/-- A block reset that runs is complete. The host interface's ends with the PF reset that it starts. -/
def State.blockResetDone (s : State) (u : UnitId) : State :=
  if !s.resetting u then s
  else if u = .host then (if s.hif.pfReset then s else s.pfReset 0)
  else (s.unitReset u).endRunning u

def execBlockResetDone (u : UnitId) (s : State) : Host.Outcome State Fault Refusal := .next (s.blockResetDone u)

/-! ### Injection and history (R543, R554) -/

/-- FLT_INJ.go: syndrome 0, injected; class 0 and reserved sources are ignored. -/
def State.faultInject (s : State) (data : Word) : State :=
  let n := bitsOf data.toNat 0 11
  let cls := bitsOf data.toNat 11 2
  let s := s.puts [(FLT_INJ.source, n), (FLT_INJ.cls, cls)]
  if cls = 0 then s else s.raiseWith n cls 0 true

def execFaultInject (data : Word) (s : State) : Host.Outcome State Fault Refusal := .next (s.faultInject data)

/-- The count of unread entries follows the host's read position. -/
def State.histRead (s : State) (data : Word) : State :=
  let r := bitsOf data.toNat 6 6
  let s := s.put FLT_HIST_PTR.read r
  { s with flt := { s.flt with unread := (s.get FLT_HIST_PTR.next + 64 - r) % 64 } }

def execHistReadUpdate (data : Word) (s : State) : Host.Outcome State Fault Refusal := .next (s.histRead data)

/-! ### The cipher engine (R573) -/

/-- The slot that the engine's user works under. -/
def State.engineSlot (s : State) : Nat :=
  let u := s.lockOwner
  if u = 1 then s.cip.slot
  else if u = 2 then (if s.img.patchPhase = 0 then 2 else 1)
  else if u = 3 then s.get MTR_CFG.key_slot
  else 0

/-- A parity mismatch in the round state abandons the operation and releases the lock. -/
def State.parityFault (s : State) : State :=
  let u := s.lockOwner
  let s := s.raise 1700 2 (u + s.engineSlot * 4 + 2 ^ 7)
  if u = 1 then (if s.sessionOpen then s.endSession 5 else s).freeLock
  else if u = 2 then s.loaderFault
  else if u = 3 then s.freeLock.batchFault
  else s

def State.cipherFault (s : State) : CipherFaultKind → State
  | .slotSingle i => s.raise 1700 1 (s.lockOwner + i.val * 4 + 2 ^ 5)
  | .slotDouble i =>
    let k := s.keySlot i
    (s.setKeySlot i { k with valid := false, locked := false }).raise 1700 2 (s.lockOwner + i.val * 4 + 2 ^ 6)
  | .roundParity => s.parityFault

def execCipherEngineFault (kind : CipherFaultKind) (s : State) : Host.Outcome State Fault Refusal :=
  .next (s.cipherFault kind)

/-! ### Brine (14_power_thermal.md R523-R526) -/

/-- A packet that Brine entry ends counts in its tenant's drop meters; one that was admitted counts by its copies. -/
def State.brineLet (s : State) (p : Pkt) : State := if p.admitted then s else (s.meterRemoved p).letGo p.id

/-- brine_drain_us has passed: what remains is flushed, and the gated units stop; an exit that was held begins. No rule
says when SEQ_STATUS.state reads HALT: a gated sequencer keeps its state (DESIGN CHOICE, notes/assumptions/90.md). -/
def State.brineDrainEnd (s : State) : State :=
  if s.pwrState ≠ 1 then s
  else
    let was := s
    let s := s.bump PWR_STAT.brine_discards (s.pk.pkts.filter s.remains).length
    let s := s.endCopies s.pk.copies
    let s := s.pk.pkts.foldl (fun s p => s.brineLet p) s
    let s := (s.put PWR_STATUS.state 2).report was
    if s.pwr.held then ({ s with pwr := { s.pwr with held := false } }).put PWR_STATUS.state 3 else s

def execBrineDrainEnd (s : State) : Host.Outcome State Fault Refusal := .next s.brineDrainEnd

/-- The state becomes RUN: sequencers have restarted, and placement starts again at block 0 with nothing learnt. -/
def State.brineExitDone (s : State) : State :=
  if s.pwrState ≠ 3 then s
  else
    let was := s
    let s := s.clearMap
    let s := { s with pl := { s.pl with flowlets := [] } }
    (s.put PWR_STATUS.state 0).report was

def execBrineExitDone (s : State) : Host.Outcome State Fault Refusal := .next s.brineExitDone

end Sys2Proof.Machine
end

