-- ==== Sys2Proof/Machine/Views.lean ====
section
/-! DEFINITION. What a read of a register returns: the stored value, or the value of a register that mirrors other
state (R4-R6, R97, R139, R144, R211, R212, R286, R331-R336, R454, R481, R484, R530, R554, R576, R588, R611, R620). -/

namespace Sys2Proof.Machine

/-- The number whose bits from `lo` on are `v`; the list gives (lo, v). -/
def packFields (l : List (Nat × Nat)) : Nat := sumNat (l.map (fun x => x.2 * 2 ^ x.1))

/-- The number whose bit i says whether `f i`, for i below `n`. -/
def packBits (n : Nat) (f : Nat → Bool) : Nat := sumNat ((List.range n).map (fun i => b2n (f i) * 2 ^ i))

/-- The element of an array of 64-bit registers at key `k`. -/
def arrIdx (base n k : Nat) : Option Nat := if base ≤ k && k < base + 8 * n then some ((k - base) / 8) else none

/-! ### Rules, tables and stores -/

/-- STRUCT_VERSION and STRUCT_VER_OLDEST (R97). -/
def State.verView (s : State) : Nat :=
  match s.img.live with
  | [] => 0
  | v :: _ => packFields [(0, s.version), (32, s.curTag), (36, v.version % 16), (40, s.img.live.length)]

def State.oldestView (s : State) : Nat :=
  match s.img.live with
  | [] => 0
  | v :: _ => packFields [(0, v.packets % 2 ^ 24), (32, v.version)]

/-- ACT_CFG of a stage, the same in every pipe (R139). -/
def State.actView (s : State) (st : Nat) : Nat :=
  match s.storeRec st with
  | some r => packFields [(0, b2n (s.compat st)), (16, r.trap % 1024), (26, r.trap / 2 ^ 15 % 2), (32, s.patchWords st),
      (48, r.words.length)]
  | none => packFields [(32, s.patchWords st)]

/-- ACT_CS_CRC; 0 with no word loaded. -/
def State.storeCrc (s : State) (st : Nat) : Nat :=
  let crc (l : List Nat) : Nat := if l.isEmpty then 0 else wordsCrc l
  packFields [(0, match s.storeRec st with | some r => crc r.words | none => 0),
    (32, match s.patchRec st with | some r => crc r.words | none => 0)]

/-- TBL_PL_STATUS (R211). -/
def State.placeView (s : State) : Nat :=
  packBits 16 (tagRetired s.img.tags) + min s.tbl.moves.length 255 * 2 ^ 16

/-- TBL_INFO of a declared table (R211). -/
def infoView (d : TblDecl) : Nat :=
  let width := if d.kind = 1 then (if emWords d = 4 then 2 else emWords d - 1)
    else if d.kind = 3 then (if countedBits d ≤ 80 then 0 else if countedBits d ≤ 160 then 1 else 2) else 0
  packFields [(0, d.kind), (2, d.scope), (4, width), (8, d.first), (13, d.last), (18, if d.kind = 2 then d.levels % 16 else 0), (24, d.flags % 2),
    (25, d.flags / 2 % 2), (32, d.capacity)]

/-- TBL_OCC of table `t` in pipe `p` (R212): positions, and entries, of which one in a move stands twice. -/
def State.occView (s : State) (p t : Nat) : Nat :=
  let l := s.pipeEntries p t
  let once := l.filter (fun x => !x.2.moveSrc)
  packFields [(0, l.length), (20, (once.filter (fun x => s.visibleNow x.2)).length),
    (40, (once.filter (·.2.stagedAdd)).length)]

/-- TBL_LRN_CFG: learn_en and age_en read 0 where the table does not allow them (R234, R242). -/
def State.lrnView (s : State) (t : Nat) : Nat :=
  setBits (setBits (s.raw (TBL_LRN_CFG.regOff t)).toNat 0 1 (b2n (s.learnOn t))) 3 1 (b2n (s.ageOn t))

/-! ### Faults and the package (R554, R588, R611, R620) -/

/-- Some listed source has the pending bit of class `cls`. -/
def State.anyPend (s : State) (cls : Nat) : Bool :=
  s.regs.any (fun x => decide (FLT_SRC.regOff 0 ≤ x.1 && x.1 < FLT_SRC.regOff 2048) && bitAt x.2.toNat (31 + cls))

def State.faultView (s : State) : Nat :=
  setBits (s.raw FLT_STATUS.regOff).toNat 0 3 (packFields [(0, b2n (s.anyPend 1)), (1, b2n (s.anyPend 2)), (2, b2n (s.anyPend 3))])

/-- FLT_PENDj: sources 64j to 64j + 63. -/
def State.pendView (s : State) (j : Nat) : Nat :=
  packBits 64 (fun i => bitsOf (s.raw (FLT_SRC.regOff (64 * j + i))).toNat 32 3 ≠ 0)

/-- SMBus and the open-drain pins work: from the end of CLOCK (R583). -/
def State.sideband (s : State) : Bool := s.boot.warm || 3 ≤ s.get PKG_BOOT_STATUS.phase

/-- PKG_PIN_STATUS: levels, FAULT_N and URGENT_N low before the end of CLOCK. -/
def State.pinView (s : State) : Nat :=
  packFields [(0, b2n s.pin.perst), (1, b2n (s.sideband && !s.flag FLT_STATUS.fault_pin)),
    (2, b2n (s.sideband && !s.flag FLT_STATUS.urgent_pend)), (3, b2n s.pin.trst), (4, s.pin.tpi % 16), (8, s.pin.tpo % 16)]

def State.portsUp (s : State) : Nat := ((s.io.records.filterMap (·.2)).filter (fun r => s.get (PORT_STATUS.state r.first) = 4)).length

/-- PKG_SUMMARY0: each field mirrors its source. -/
def State.summary0 (s : State) : Nat :=
  packFields [(0, s.get PKG_BOOT_STATUS.phase), (3, s.get STRUCT_STATUS.state), (6, s.get PATCH_STATUS.state),
    (8, s.get PWR_STATUS.state), (10, s.get PWR_STATUS.level), (12, b2n (s.anyPend 1)), (13, b2n (s.anyPend 2)),
    (14, b2n (s.anyPend 3)), (15, s.get TIME_STATUS.locked), (16, s.get PL_FAB_STATUS.enabled),
    (17, s.get MTR_STATUS.enabled), (18, s.get MTR_STATUS.stalled), (19, s.get PWR_STATUS.cap_unmet),
    (20, s.get PKG_BOOT_STATUS.selftest_fail), (32, s.portsUp), (48, s.get PL_FAB_STATUS.links_live)]

/-- PKG_SUMMARY1: pipes stopped or in block reset, and channels stopped. -/
def State.summary1 (s : State) : Nat :=
  packBits 32 (fun p => !s.pipeRuns p) + packBits 32 (fun c => s.flag (CH_STAT.stopped c)) * 2 ^ 32

/-! ### Keys, rings and vectors -/

/-- CIPHER_SLOTS (R576): a slot is in use by the operation that the engine runs or while metering is enabled under it. -/
def State.slotsView (s : State) : Nat :=
  packFields ((List.range 8).map (fun i =>
    let k := s.keySlot i
    (8 * i, packFields [(0, b2n k.valid), (1, b2n k.aes256), (2, b2n k.locked),
      (3, b2n ((s.lockOwner ≠ 0 && s.engineSlot = i && (s.lockOwner ≠ 1 || s.cip.running)) ||
        (s.flag MTR_STATUS.enabled && s.get MTR_CFG.key_slot = i))),
      (4, b2n k.failed)])))

/-- The check value of slot `i`: 0 where invalid (R565). -/
def State.checkValue (s : State) (i : Nat) : Nat :=
  let k := s.keySlot i
  if k.valid then ofLe (keyCheck (slotBytes k)) else 0

/-- The ring that a slot of function `f` belongs to (R454). -/
def State.ringAt (s : State) (f slot : Nat) : Option Nat :=
  if f = 0 then (if slot < 1024 && s.flag (RING_ASSIGN.valid slot) && s.ringFunc slot = 0 then some slot else none)
  else (List.range 1024).find? (fun r =>
    s.flag (RING_ASSIGN.valid r) && s.ringFunc r = f && s.get (RING_ASSIGN.slot r) = slot)

/-- RING_POS (R484). -/
def State.posView (s : State) (r : Nat) : Nat :=
  let x := s.ring r
  let n := s.ringSize r
  packFields [(0, x.take % n % 65536), (16, x.complete % n % 65536), (32, x.take - x.complete)]

/-- Word `j` of the pending bits of function `f` (R451). -/
def State.pbaView (s : State) (f j : Nat) : Nat :=
  packBits 64 (fun i => smGet (fun _ => false) s.hif.msixPend (pendKey f (64 * j + i)))

/-! ### Reading -/

/-- A BAR2 register of function `f` at `off`; a slot without a ring reads 0 (R447). -/
def State.bar2View (s : State) (f off : Nat) : Nat :=
  let k := bar2Base f + off
  if off < slotCount f * 64 then
    match s.ringAt f (off / 64) with
    | some r => if off % 64 = 0x38 then s.posView r else (s.raw k).toNat
    | none => 0
  else if msixPba f ≤ off && off < msixPba f + vectorCount f / 8 then s.pbaView f ((off - msixPba f) / 8)
  else (s.raw k).toNat

/-- A register of pipe `p` at offset `o` of its unit. -/
def State.pipeView (s : State) (p o : Nat) : Option Nat :=
  let st := o / 0x1000
  if st < 32 && o % 0x1000 = 0 then some (s.actView st)
  else if st < 32 && o % 0x1000 = 8 then some (s.storeCrc st)
  else if st = 34 && o % 16 = 0 then some (s.occView p (o % 0x1000 / 16))
  else if BUF_PIPE_STAT4.regOff p = p * 0x40000 + o then
    some (setBits (s.raw (BUF_PIPE_STAT4.regOff p)).toNat 0 12 (s.cacheFill p))
  else none

/-- Arrays of the shared unit whose elements mirror other state. -/
def State.arrayView (s : State) (k : Nat) : Option Nat :=
  (arrIdx (TBL_INFO.regOff 0) 256 k).map (fun t => match s.decl t with | some d => infoView d | none => 0) <|>
  (arrIdx (TBL_LRN_CFG.regOff 0) 256 k).map s.lrnView <|>
  (arrIdx (PL_LINK_CRED.regOff 0) 128 k).map s.linkCredits <|>
  (arrIdx (BUF_RING_FILL.regOff 0) 32 k).map s.ringFill <|>
  (arrIdx (BUF_PORT_CFG.regOff 0) 1024 k).map (fun p =>
    setBits (s.raw k).toNat 1 1 (b2n (s.flag (BUF_PORT_CFG.stop p) && s.portEmpty p))) <|>
  (arrIdx (PWR_PIPE_STAT.regOff 0) 32 k).map (fun p => setBits (s.raw k).toNat 4 11 (fmaxMhz p)) <|>
  (arrIdx (FLT_PEND.regOff 0) 32 k).map s.pendView <|>
  (arrIdx (CIPHER_KCV.regOff 0) 4 k).map (fun j => packFields [(0, s.checkValue (2 * j)), (32, s.checkValue (2 * j + 1))])

/-- Single registers that mirror other state. -/
def State.singleView (s : State) (k : Nat) : Option Nat :=
  let v := (s.raw k).toNat
  if k = STRUCT_VERSION.regOff then some s.verView
  else if k = STRUCT_VER_OLDEST.regOff then some s.oldestView
  else if k = PATCH_MIN_LEVEL.regOff then some (Config.patchMinLevel % 2 ^ 32)
  else if k = PRS_PAT_CTL.regOff then some (setBits v 2 2 (b2n (s.bankBusy 0) + 2 * b2n (s.bankBusy 1)))
  else if k = TBL_PL_STATUS.regOff then some s.placeView
  else if k = BUF_STATUS.regOff then some s.bufStatus
  else if k = BUF_RAKE_STAT.regOff then some (setBits v 48 16 s.buf.bad.length)
  else if k = MTR_NONCE.regOff then some s.bootNonce
  else if k = HIF_STATUS.regOff then some (setBits v 16 15 s.workInFlight)
  else if k = FLT_STATUS.regOff then some s.faultView
  else if k = CIPHER_SLOTS.regOff then some s.slotsView
  else if k = PKG_SERIAL.regOff then some Config.serial
  else if k = PKG_STRAPS.regOff then some (s.boot.smba % 8 + 8 * b2n s.boot.test)
  else if k = PKG_PIN_STATUS.regOff then some s.pinView
  else if k = PKG_SUMMARY0.regOff then some s.summary0
  else if k = PKG_SUMMARY1.regOff then some s.summary1
  else none

/-- Port registers at a lane that is no port's first lane read 0, but for PORT_ENABLE_STATUS, which reports the refusal
of R437 there (R440; notes/assumptions/12.md). -/
def State.laneView (s : State) (k : Nat) : Nat :=
  let l := (k / 0x40000 % 64) * 32 + (k / 0x1000 % 4) * 8 + (k / 8 % 512) / 32
  let j := k / 8 % 32
  if k / 8 % 512 < 256 && 16 ≤ j && j ≠ 17 && (s.portRegs l).isNone then 0 else (s.raw k).toNat

/-- What the register with key `k` holds for a reader. -/
def State.view (s : State) (k : Nat) : Nat :=
  if 0x10000000 ≤ k then s.bar2View ((k - 0x10000000) / 0x20000) ((k - 0x10000000) % 0x20000)
  else if k < 0x800000 then (match s.pipeView (k / 0x40000) (k % 0x40000) with | some v => v | none => (s.raw k).toNat)
  else if 0x1000000 ≤ k && k < 0x9000000 then s.laneView k
  else match s.singleView k with
    | some v => v
    | none => match s.arrayView k with
      | some v => v
      | none => (s.raw k).toNat

/-- The mask of all bits of the fields whose access type passes `f`. -/
def accMask (f : Acc → Bool) (l : List FDesc) : Nat :=
  l.foldl (fun a d => if f d.acc then a ||| (2 ^ d.w - 1) * 2 ^ d.lo else a) 0

/-- Bits of a register that the spec gives no value at a read: the word in execution, and reads outstanding. -/
def openBits (k : Nat) : Nat :=
  if k = SEQ_STATUS.regOff 0 || k = SEQ_STATUS.regOff 1 || k = SEQ_STATUS.regOff 2 then 2047 * 4
  else if k = HIF_STATUS.regOff then 1023 * 2 ^ 32
  else 0

/-- The whole register as a host read returns it: fields that read 0 (WO, W1S) and reserved bits are 0 (R16, R17),
and open bits are a free value. -/
def State.readReg (s : State) (k : Nat) : Nat × State :=
  let v := s.view k &&& accMask (fun a => a ≠ .wo && a ≠ .w1s) (regDesc k)
  if openBits k = 0 then (v, s)
  else
    let (w, t) := s.draw
    (v ||| (w.toNat &&& openBits k), t)

end Sys2Proof.Machine
end

