-- ==== Sys2Proof/Machine/Management.lean ====
section
/-! DEFINITION. The SMBus target and the test access port (18_package_pins.md R602-R607). -/

namespace Sys2Proof.Machine

/-! ### SMBus (R602-R605) -/

def State.smbNack (s : State) : State := (s.send (.smb none)).bump PKG_SMB_STAT.nacks 1

/-- A byte count of 8 and the item as one snapshot; RC fields are not cleared. -/
def State.smbAnswer (s : State) (k : Nat) : State :=
  let v := s.view k &&& accMask (fun a => a ≠ .wo && a ≠ .w1s) (regDesc k)
  (s.send (.smb (some (leBytes 1 8 ++ leBytes 8 v)))).bump PKG_SMB_STAT.transactions 1

/-- A Block Read of the register with key `k`. Before the end of CLOCK the address is not acknowledged; then the items
of codes 0 to 4 are read, and every other one from READY (R583, R604). -/
def State.smbRead (s : State) (early : Bool) (k : Nat) : State :=
  if !s.sideband then s
  else if early || s.ready then s.smbAnswer k
  else s.smbNack

def execSmbReadPkgId (s : State) : Host.Outcome State Fault Refusal := .next (s.smbRead true PKG_ID.regOff)

def execSmbReadPkgCaps (s : State) : Host.Outcome State Fault Refusal := .next (s.smbRead true PKG_CAPS.regOff)

def execSmbReadPkgSerial (s : State) : Host.Outcome State Fault Refusal := .next (s.smbRead true PKG_SERIAL.regOff)

def execSmbReadBootStatus (s : State) : Host.Outcome State Fault Refusal := .next (s.smbRead true PKG_BOOT_STATUS.regOff)

def execSmbReadFltStatus (s : State) : Host.Outcome State Fault Refusal := .next (s.smbRead true FLT_STATUS.regOff)

def execSmbReadPwrStatus (s : State) : Host.Outcome State Fault Refusal := .next (s.smbRead false PWR_STATUS.regOff)

def execSmbReadPwrExtLimit (s : State) : Host.Outcome State Fault Refusal := .next (s.smbRead false PWR_EXT_LIMIT.regOff)

def execSmbReadFltHistPtr (s : State) : Host.Outcome State Fault Refusal := .next (s.smbRead false FLT_HIST_PTR.regOff)

def execSmbReadClkStatus (s : State) : Host.Outcome State Fault Refusal := .next (s.smbRead false CLK_STATUS.regOff)

def execSmbReadAvsStatus (s : State) : Host.Outcome State Fault Refusal := .next (s.smbRead false PKG_AVS_STATUS.regOff)

def execSmbReadPinStatus (s : State) : Host.Outcome State Fault Refusal := .next (s.smbRead false PKG_PIN_STATUS.regOff)

def execSmbReadSmbStat (s : State) : Host.Outcome State Fault Refusal := .next (s.smbRead false PKG_SMB_STAT.regOff)

def execSmbReadSelftest (s : State) : Host.Outcome State Fault Refusal := .next (s.smbRead false PKG_SELFTEST.regOff)

def execSmbReadStraps (s : State) : Host.Outcome State Fault Refusal := .next (s.smbRead false PKG_STRAPS.regOff)

/-- A write that the target acknowledged: discarded on a bad PEC, else it counts and takes effect. -/
def State.smbWrite (s : State) (pecOk : Bool) (f : State → State) : State :=
  if pecOk then f (s.bump PKG_SMB_STAT.transactions 1) else s.bump PKG_SMB_STAT.pec_errors 1

/-- Write Word 0x20: bmc_cap_w in W, 700 to 1,450. -/
def State.smbCap (s : State) (watts : Nat) (pecOk : Bool) : State :=
  if !s.sideband then s
  else if !s.ready || watts < 700 || 1450 < watts then s.smbNack
  else s.smbWrite pecOk (fun s => s.put PWR_EXT_LIMIT.bmc_cap_w watts)

def execSmbBmcCap (watts : Fin 65536) (pecOk : Bool) (s : State) : Host.Outcome State Fault Refusal :=
  .next (s.smbCap watts pecOk)

/-- Write Byte 0x21: with 0xB1 it acts as brine_exit; in RUN and BRINE_EXIT it has no effect (R604). -/
def State.smbWake (s : State) (data : Nat) (pecOk : Bool) : State :=
  if !s.sideband then s
  else if !s.ready || data ≠ 0xB1 then s.smbNack
  else s.smbWrite pecOk State.brineLeave

def execSmbBrineWake (data : Byte) (pecOk : Bool) (s : State) : Host.Outcome State Fault Refusal :=
  .next (s.smbWake data.toNat pecOk)

/-- The code names a command of R603 that the target takes now. -/
def State.smbKnown (s : State) (code : Nat) : Bool :=
  code ≤ 4 || ((code ≤ 13 || code = 0x20 || code = 0x21) && s.ready)

/-- A reserved or not yet available command byte is not acknowledged. -/
def execSmbReservedCmd (code : Fin 256) (s : State) : Host.Outcome State Fault Refusal :=
  .next (if !s.sideband || s.smbKnown code then s else s.smbNack)

/-- SMB_CLK is held low beyond the timeout: the transaction is abandoned. -/
def execSmbTimeout (s : State) : Host.Outcome State Fault Refusal :=
  .next (if s.sideband then s.bump PKG_SMB_STAT.timeouts 1 else s)

/-! ### Test access port (R606, R607) -/

/-- TRST_N is asserted: IDCODE is the instruction in effect (IEEE 1149.1). A stop of forwarding stays (R607). -/
def execTapReset (s : State) : Host.Outcome State Fault Refusal :=
  .next { s with pin := { s.pin with tap := .idcode, trst := false } }

/-- The instruction takes effect, TRST_N being high. -/
def State.tapLoad (s : State) (i : TapInstr) : State := { s with pin := { s.pin with tap := i, trst := true } }

/-- An instruction under which the boundary cells drive the pins, or HIGHZ, under which the outputs float: the device
forwards nothing until a reset. -/
def State.tapStop (s : State) (i : TapInstr) : State :=
  ({ s with pin := { s.pin with tap := i, trst := true, stopped := true } }).send
    (.pins (if i = TapInstr.highz then none else some s.pin.cells))

def execBypass (s : State) : Host.Outcome State Fault Refusal := .next (s.tapLoad .bypass)

def execIdcode (s : State) : Host.Outcome State Fault Refusal := .next ((s.tapLoad .idcode).send (.tdo 0x092044DB))

/-- The cells are preloaded; what they sampled is a free value (notes/assumptions/3.md). -/
def execSamplePreload (cells : List Byte) (s : State) : Host.Outcome State Fault Refusal :=
  let t := s.tapLoad .samplePreload
  let (w, t) := t.draw
  .next ({ t with pin := { t.pin with cells := cells } }.send (.tdo w.toNat))

def execExtest (s : State) : Host.Outcome State Fault Refusal := .next (s.tapStop .extest)

def execExtestPulse (s : State) : Host.Outcome State Fault Refusal := .next (s.tapStop .extestPulse)

def execExtestTrain (s : State) : Host.Outcome State Fault Refusal := .next (s.tapStop .extestTrain)

def execClamp (s : State) : Host.Outcome State Fault Refusal := .next (s.tapStop .clamp)

def execHighz (s : State) : Host.Outcome State Fault Refusal := .next (s.tapStop .highz)

end Sys2Proof.Machine
end

