-- ==== Sys2Proof/Machine/Register.lean ====
section
/-! DEFINITION. Host reads and writes of registers (00_scope.md R13-R18, R23; 19_register_map.md R612-R624): the access
types, the writes that a state of the device ignores, and what command bits and changed fields start. -/

namespace Sys2Proof.Machine

/-! ### Which register, which half (R13-R15) -/

/-- The register that an access of `width` bytes at `off` reaches, and the bits it covers; none for a narrow or
unaligned access and for an offset that no BAR of the function holds (R15, R446). -/
def accessOf (f : Nat) (bar2 : Bool) (off width : Nat) : Option (Nat × Nat) :=
  let k := off / 8 * 8
  let key := if bar2 then bar2Base f + k else k
  let half := if width = 8 then 2 ^ 64 - 1 else if off % 8 = 0 then 2 ^ 32 - 1 else 2 ^ 64 - 2 ^ 32
  if (width = 8 && off % 8 = 0) || (width = 4 && off % 4 = 0) then
    if bar2 then (if off < 0x20000 && !(regDesc key).isEmpty then some (key, half) else none)
    else if f = 0 && off < 0x10000000 && !(regDesc key).isEmpty then some (key, half)
    else none
  else none

/-! ### Reads (R14, R17) -/

/-- The RC fields that a read covering `half` clears: those that lie wholly in it (R14). -/
def clearedBy (half : Nat) (l : List FDesc) : Nat :=
  accMask (fun a => a = .rc) (l.filter (fun d => ((2 ^ d.w - 1) * 2 ^ d.lo) &&& half = (2 ^ d.w - 1) * 2 ^ d.lo))

/-- What a read does beside clearing RC fields: TIME_NOW0 latches the time (R487), a read of TIME_CAP1 reads the capture
(R501), and BUF_POOL_DROP.hwm takes the current use (R332). -/
def State.afterRead (s : State) (k half : Nat) : State :=
  match arrIdx (BUF_POOL_DROP.regOff 0) 8 k with
  | some i => if bitAt half 32 then s.put (BUF_POOL_DROP.hwm i) (s.get (BUF_POOL_STAT.used i)) else s
  | none =>
    match (List.range 4).find? (fun i => k = TIME_CAP1.regOff i) with
    | some i => { s with time := { s.time with capUnread := smPut (fun _ => false) s.time.capUnread i false } }
    | none => s

/-- A host read: its value, the addressed half only, in `readVal`; a read of no register returns 0 (R15). -/
def State.hostRead (s : State) (f : Nat) (bar2 : Bool) (off width : Nat) : State :=
  match accessOf f bar2 off width with
  | none => { s with readVal := 0 }
  | some (k, half) =>
    let s := if k = TIME_NOW0.regOff then s.latchNow else s
    let (v, s) := s.readReg k
    let shown := if half = 2 ^ 64 - 2 ^ 32 then v / 2 ^ 32 else v &&& half
    let kept := (s.raw k).toNat
    let s := s.setRaw k (BitVec.ofNat 64 (kept - (kept &&& clearedBy half (regDesc k))))
    { s.afterRead k half with readVal := BitVec.ofNat 64 shown }

def execReadClear (f : Fin 64) (bar2 : Bool) (off width : Nat) (s : State) : Host.Outcome State Fault Refusal :=
  .next (s.hostRead f bar2 off width)

/-! ### Writes that are ignored -/

/-- The bits of a field. -/
def fldMask (f : Fld) : Nat := (2 ^ f.w - 1) * 2 ^ f.lo

/-- Registers of units gated in Brine: pipes, placement, scheduler, command engine, Rake, harvester and what they use
(R523, R524). -/
def gatedKey (k : Nat) : Bool :=
  let blk := k / 0x1000 % 64
  k < 0x800000 || (k / 0x40000 = 32 && ((4 ≤ blk && blk ≤ 14) || (16 ≤ blk && blk ≤ 18) || (20 ≤ blk && blk ≤ 35) ||
    blk = 40 || blk = 41))

/-- Any ring of function `f` is enabled. -/
def State.anyRing (s : State) (f : Nat) : Bool := (List.range 1024).any (fun r => s.ringEnabled r && s.ringFunc r = f)

/-- Lane `l`'s port is DISABLED, or the lane belongs to no port (R434, R436). -/
def State.laneIdle (s : State) (l : Nat) : Bool := (s.portAt l).isNone

/-- The lane or port register number and the lane at an I/O die key. -/
def laneOfKey (k : Nat) : Nat := (k / 0x40000 % 64) * 32 + (k / 0x1000 % 4) * 8 + (k / 8 % 512) / 32

/-- RW bits of a lane register that a write may not change now: loop and, to 1, the pattern enables. -/
def State.laneBarred (s : State) (k d : Nat) : Nat :=
  let l := laneOfKey k
  if !(0x1000000 ≤ k && k < 0x9000000 && k / 8 % 512 < 256) || s.laneIdle l then 0
  else if k / 8 % 32 = 0 then fldMask (LANE_CFG.loop l)
  else if k / 8 % 32 = 3 then
    (if bitAt d 4 then fldMask (LANE_PRBS.gen_en l) else 0) + (if bitAt d 12 then fldMask (LANE_PRBS.chk_en l) else 0)
  else 0

/-- Learning and aging bits that table `t` does not allow (R234, R242). -/
def State.learnBarred (s : State) (t : Nat) : Nat :=
  match s.decl t with
  | some d => (if canLearn d then 0 else 1) + (if bitAt d.flags 1 then 0 else 8)
  | none => 9

/-- A register of the whole unit that ignores writes in the present state. -/
def State.lockedReg (s : State) (k : Nat) : Bool :=
  ((k = PL_FAB_CFG.regOff || k = PL_BEACON_CFG.regOff || k = PL_HASH_CFG.regOff ||
      (arrIdx (PL_LINK.regOff 0) 128 k).isSome) && s.flag PL_FAB_STATUS.enabled) ||
  ((k = MTR_CFG.regOff || k = MTR_CFG2.regOff) && s.flag MTR_STATUS.enabled) ||
  ((k = POST_CFG.regOff || k = POST_TMPL_CFG.regOff || k = TRC_CFG.regOff ||
      (arrIdx (POST_TMPL.regOff 0) 16 k).isSome) && s.mtr.postOn) ||
  ((k = TIME_SERVO_CFG.regOff || k = TIME_SERVO_THR.regOff || k = TIME_FREQ.regOff) && s.flag TIME_STATUS.servo_en) ||
  (k = TIME_FAB_CFG.regOff && s.flag TIME_STATUS.fab_en) ||
  (match arrIdx (RING_ASSIGN.regOff 0) 1024 k with | some r => s.ringEnabled r | none => false) ||
  (match arrIdx (HIF_VF.regOff 0) 64 k with | some n => s.anyRing n | none => false)

/-- RW bits of a ring slot that ignore writes while the ring is enabled (R484). -/
def State.slotBarred (s : State) (k r off : Nat) : Nat :=
  if !s.ringEnabled r then 0
  else if off = 0x28 then 2 ^ 64 - 1
  else if off = 0x30 then fldMask (RING_CFG.size_log2 (k - off)) + fldMask (RING_CFG.punt_meta (k - off)) +
    fldMask (RING_CFG.punt_drop (k - off))
  else 0

/-- The RW bits that a write with data `d` may not change. -/
def State.barred (s : State) (k d : Nat) : Nat :=
  if s.lockedReg k then 2 ^ 64 - 1
  else if k = PWR_EXT_LIMIT.regOff && (bitsOf d 0 11 < 700 || 1450 < bitsOf d 0 11) then fldMask PWR_EXT_LIMIT.host_cap_w
  else match arrIdx (TBL_LRN_CFG.regOff 0) 256 k with
    | some t => s.learnBarred t
    | none => s.laneBarred k d

/-! ### The stored value (R14, R16, R17) -/

/-- An event code that a block's counters reserve (R379, R443, R485). -/
def codeReserved (k code : Nat) : Bool :=
  (0x0F ≤ code && code ≤ 0x3F) || 0x80 ≤ code ||
  (0x1000000 ≤ k && 0x4B ≤ code && code ≤ 0x5F) ||
  (k / 0x1000 = hifBlock / 0x1000 && ((0x40 ≤ code && code ≤ 0x5F) || (0x67 ≤ code && code ≤ 0x7F)))

/-- What the device stores in place of some written values: 0 for a reserved event code (R377), 1 for vector 0 and bit 4
of rx_fatal (R535, R537). -/
def fixWritten (k v : Nat) : Nat :=
  if k < 0x9000000 && 0xF80 ≤ k % 0x1000 && k % 0x1000 < 0xFA0 && codeReserved k (bitsOf v 0 8) &&
      (regDesc k).head? = PERF_SEL.desc.head? then setBits v 0 8 0
  else match arrIdx (FLT_SRC.regOff 0) 2048 k with
    | some _ => setBits (if bitsOf v 16 11 = 0 then setBits v 16 11 1 else v) 14 1 1
    | none => v

/-- The register after a write of `d` over the bits `half`, RW bits `bar` excepted. -/
def written (k old d half bar : Nat) : Nat :=
  let l := regDesc k
  let rw := accMask (fun a => a = .rw) l &&& half
  let rw := rw - (rw &&& bar)
  let wo := if k / 0x1000 = CIPHER_LOCK.regOff / 0x1000 then accMask (fun a => a = .wo) l else 0
  let w1c := accMask (fun a => a = .w1c) l &&& half &&& d
  let base := old - (old &&& (rw ||| wo ||| w1c))
  fixWritten k (base ||| (d &&& rw) ||| (d &&& half &&& wo))

/-! ### What a changed field starts -/

/-- Effects of a new value of a shared register; `was` is the state before the write. -/
def State.sharedChange (s was : State) (k half : Nat) : State :=
  match arrIdx (LRN_PORT.regOff 0) 1024 k with
  | some n => s.portOver n
  | none =>
  match arrIdx (BUF_PORT_CFG2.regOff 0) 1024 k with
  | some n => s.xoffSweep (s.pipeOf n)
  | none =>
  match arrIdx (BUF_PORT_CFG.regOff 0) 1024 k with
  | some n =>
    if s.flag (BUF_PORT_CFG.stop n) && !was.flag (BUF_PORT_CFG.stop n) then s.portStop n
    else if !s.flag (BUF_PORT_CFG.stop n) && was.flag (BUF_PORT_CFG.stop n) then s.portStopClear n
    else s
  | none =>
  match arrIdx (SCHED_PORT_CFG.regOff 0) 1024 k with
  | some n =>
    if s.rootProfile n = was.rootProfile n then s
    else s.setSchRoot n { s.schRoot n with bucket := rebucket (was.rootProfile n) (s.rootProfile n) (s.schRoot n).bucket s.clk }
  | none =>
  match arrIdx (SCHED_PFC_MAP.regOff 0) 1024 k with
  | some n => s.showPaused n
  | none =>
  match arrIdx (HIF_HQ_MAP.regOff 0) 256 k with
  | some h => if was.hostQueueOn h && !s.hostQueueOn h then s.flushQueue (16384 + h) else s
  | none =>
    if k = BUF_G_CFG.regOff then (List.range 32).foldl (fun s p => s.xoffSweep p) s
    else if k = FLT_HIST_PTR.regOff && bitAt half 6 then s.histRead (s.raw k)
    else s

/-- A checker that is turned off loses lock. -/
def State.laneChange (s : State) (k : Nat) : State :=
  let l := laneOfKey k
  if k / 8 % 512 < 256 && k / 8 % 32 = 3 && !s.flag (LANE_PRBS.chk_en l) then s.put (LANE_PRBS.chk_lock l) 0 else s

/-! ### Command bits of a write (R23) -/

/-- Apply `f` when bit `i` is written 1. -/
def State.onBit (s : State) (d i : Nat) (f : State → State) : State := if bitAt d i then f s else s

/-- A write of the read and write bits of an indirect command register: the write is performed (R629). -/
def State.indBits (s : State) (d : Nat) (f : State → Bool → State) : State :=
  if bitAt d 0 then f s true else if bitAt d 1 then f s false else s

/-- The bits among `is` that are 1 in `d`. -/
def bitsSet (d : Nat) (is : List Nat) : List Nat := is.filter (fun i => bitAt d i)

/-- The starting bits of TIME_CTL: servo_en, fab_en, and set, or step without it. -/
def State.timeStarts (s : State) (d : Nat) : State :=
  let k := TIME_ENABLE_STATUS.regOff
  let s := s.onBit d 0 (fun s => s.startCheck k .servo [])
  let s := s.onBit d 2 (fun s => s.startCheck k .fabTime [])
  if bitAt d 4 then s.startCheck k .timeSet [s.get TIME_SET0.sec, s.get TIME_SET0.frac, s.get TIME_SET1.ns]
  else s.onBit d 5 (fun s => s.startCheck k .timeStep [s.get TIME_STEP.step])

/-- TIME_CTL: a write with a start and its stop acts as its stopping bits alone (R23). -/
def State.timeBits (s : State) (d : Nat) : State :=
  let s := (s.onBit d 1 State.servoDisable).onBit d 3 State.fabDisable
  if (bitAt d 0 && bitAt d 1) || (bitAt d 2 && bitAt d 3) then s else s.timeStarts d

/-- PWR_CTL: apply, brine_enter, brine_exit; a write with both Brine bits acts as brine_exit alone (R23). -/
def State.powerBits (s : State) (d : Nat) : State :=
  let k := PWR_ENABLE_STATUS.regOff
  if bitAt d 1 && bitAt d 2 then s.startCheck k .brineExit []
  else
    let s := s.onBit d 0 (fun s => s.startCheck k .power [])
    (s.onBit d 1 (fun s => s.startCheck k .brineEnter [])).onBit d 2 (fun s => s.startCheck k .brineExit [])

/-- CIPHER_CMD: one command, or 0x0B0B for more. -/
def State.cipherBits (s : State) (d : Nat) : State :=
  let din := [(s.raw (CIPHER_DIN.regOff 0)).toNat, (s.raw (CIPHER_DIN.regOff 1)).toNat]
  match bitsSet d [0, 1, 2, 3, 4] with
  | [] => s
  | [0] => s.startCheck cipherKey .cipherStart []
  | [1] => s.startCheck cipherKey .cipherAad din
  | [2] => s.startCheck cipherKey .cipherText din
  | [3] => s.startCheck cipherKey .cipherFinish []
  | [4] => s.startCheck cipherKey .cipherAbandon []
  | _ => s.startCheck cipherKey (.cipherMany false) []

/-- CIPHER_KEY_CTL: one command, or 0x0B0B for more. -/
def State.keyBits (s : State) (d : Nat) : State :=
  let w := s.raw CIPHER_KEY_CTL.regOff
  match bitsSet d [6, 7, 8] with
  | [] => s
  | [6] => s.keyCommand .keyLoad w
  | [7] => s.keyCommand .keyClear w
  | [8] => s.keyCommand .keyProvision w
  | _ => s.startCheck cipherKey (.cipherMany true) []

/-- MTR_CTL and POST_CTL: disable wins. -/
def State.meterBits (s : State) (d : Nat) : State :=
  if bitAt d 1 then s.mtrDisable else (s.onBit d 0 State.mtrEnable).onBit d 2 State.mtrNow

/-- PORT_CTL, PORT_INJ and LANE_PRBS of lane `l`, register number `j`. -/
def State.laneBits (s : State) (l j d : Nat) : State :=
  if j = 3 then s.onBit d 14 (fun s => s.prbsFlip l)
  else if j = 16 then
    if bitAt d 1 then s.portDisable l
    else (s.onBit d 0 (fun s => s.startCheck (PORT_ENABLE_STATUS.regOff l) (.portEnable l) [])).onBit d 2
      (fun s => s.portRetrain l)
  else if j = 31 then
    if bitAt d 22 then s.put (PORT_INJ.active l) 0 else s.onBit d 21 (fun s => s.injectGo l)
  else s

/-- TIME_PO_CTLk: disarm wins over arm. -/
def State.pulseBits (s : State) (k d : Nat) : State :=
  if bitAt d 4 then s.poDisarm k else s.onBit d 3 (fun s => s.poArm k (s.raw (TIME_PO_CTL.regOff k)))

/-- Command bits of the arrays of the shared unit. -/
def State.arrayBits (s : State) (k d : Nat) : State :=
  match arrIdx (TBL_LRN_CFG.regOff 0) 256 k, arrIdx (HIF_VF.regOff 0) 64 k, arrIdx (CH_STAT.regOff 0) 32 k with
  | some t, _, _ => s.onBit d 6 (fun s => s.unblock t)
  | _, some n, _ => s.onBit d 32 (fun s => s.vfReset n false)
  | _, _, some c => s.onBit d 0 (fun s => s.channelRestart c)
  | none, none, none =>
    match (List.range 4).find? (fun i => k = TIME_PO_CTL.regOff i) with
    | some i => s.pulseBits i d
    | none => s

/-- The command bits of a write of `d` to the register with key `k` outside the rings; RW fields are written already.
STRUCT_CTL.enable and PATCH_CTL.enable come as the rows STRUCT_ENABLE and PATCH_ENABLE, which carry the header that the
device then reads (notes/assumptions/13.md). -/
def State.commandBits (s : State) (k d : Nat) : State :=
  if k = STRUCT_CTL.regOff then s.onBit d 1 State.imageDisable
  else if k = STRUCT_COMMIT.regOff then s.onBit d 8 (fun s => s.commitGo (s.get STRUCT_COMMIT.group))
  else if k = PRS_PAT_CTL.regOff then s.onBit d 1 State.patFlip
  else if k = PRS_PAT_CMD.regOff then s.indBits d State.patGo
  else if k = TBL_CMD.regOff then s.onBit d 32 State.tblGo
  else if k = PL_CTL.regOff then (if bitAt d 1 then s.plDisable else s.onBit d 0 State.plEnable)
  else if k = PL_IND_CMD.regOff then s.indBits d State.plIndGo
  else if k = BUF_CTL.regOff then s.onBit d 0 State.bufApply
  else if k = BUF_IND_CMD.regOff then s.indBits d State.bufIndGo
  else if k = SCHED_GATE_CTL.regOff then s.onBit d 20 State.gateGo
  else if k = SCHED_IND_CMD.regOff then s.indBits d State.schedIndGo
  else if k = MTR_CTL.regOff then s.meterBits d
  else if k = POST_CTL.regOff then (if bitAt d 1 then s.postDisable else s.onBit d 0 State.postEnable)
  else if k = FLOW_IND_CMD.regOff then s.onBit d 0 State.flowGo
  else if k = TIME_CTL.regOff then s.timeBits d
  else if k = TIME_OFFSET.regOff then s.hostSample (BitVec.ofNat 64 d)
  else if k = PWR_CTL.regOff then s.powerBits d
  else if k = FLT_INJ.regOff then s.onBit d 13 (fun s => s.faultInject (s.raw k))
  else if k = FLT_RESET.regOff then s.onBit d 11 (fun s => s.requestReset (s.raw k))
  else if k = CIPHER_LOCK.regOff then (if bitAt d 1 then s.lockRelease else s.onBit d 0 State.lockReq)
  else if k = CIPHER_CMD.regOff then s.cipherBits d
  else if k = CIPHER_KEY_CTL.regOff then s.keyBits d
  else if k = PKG_RST_CTL.regOff then (if bitAt d 0 && bitsOf d 8 8 = 0xA5 then s.warmReset 3 else s)
  else if 0x1000000 ≤ k && k < 0x9000000 then
    (if k / 8 % 512 < 256 then s.laneBits (laneOfKey k) (k / 8 % 32) d else s)
  else s.arrayBits k d

/-! ### The write -/

/-- Store the written bits of a register. -/
def State.store (s : State) (k d half bar : Nat) : State :=
  s.setRaw k (BitVec.ofNat 64 (written k (s.raw k).toNat d half bar))

/-- A write to a slot register of ring `r` (R447, R458, R463, R471, R474, R484). -/
def State.slotWrite (s : State) (k r off d half : Nat) : State :=
  let was := s.flag (RING_CFG.irq_en (k - off))
  let s := s.store k d half (s.slotBarred k r off)
  let d := d &&& half
  if off = 0 then s.doorbell r
  else if off = 8 then s.onBit d 0 (fun s => s.ringInval r)
  else if off = 0x10 then s.onBit d 0 (fun s => s.startAbort r)
  else if off = 0x18 then (if bitAt d 1 then s.ringDisable r else s.onBit d 0 (fun s => s.ringEnable r))
  else if off = 0x30 && s.flag (RING_CFG.irq_en (k - off)) && !was then s.setRing r { s.ring r with unsignalled := 0 }
  else s

/-- A write in BAR2 of function `f`; a slot without a ring, or of a function in reset, discards it (R447, R475). A
doorbell there is counted (R459). -/
def State.bar2Write (s : State) (f off d half : Nat) : State :=
  let k := bar2Base f + off
  if off < slotCount f * 64 then
    match s.ringAt f (off / 64) with
    | some r =>
      if s.fnInReset f && off % 64 ≠ 0 then s else s.slotWrite k r (off % 64) d half
    | none => s
  else (s.store k d half 0).msixFlush f

/-- A write in BAR0. In Brine a write to a gated unit is discarded and counted, but for MTR_CTL.now, TBL_CMD with go, and
STRUCT_COMMIT, which is not gated (R524). -/
def State.bar0Write (s : State) (k d half : Nat) : State :=
  if s.gated && gatedKey k && !(k = TBL_CMD.regOff && bitAt (d &&& half) 32) then
    if k = MTR_CTL.regOff && bitsOf (d &&& half) 0 3 = 4 then s.mtrNow else s.bump PWR_STAT.brine_writes 1
  else
    let t := s.store k d half (s.barred k d)
    let t := if 0x1000000 ≤ k && k < 0x9000000 then t.laneChange k else t.sharedChange s k half
    t.commandBits k (d &&& half)

/-- A host write of the low `width` bytes of `data`; narrow, unaligned and stray writes are discarded (R15). -/
def State.hostWriteReg (s : State) (f : Nat) (bar2 : Bool) (off width : Nat) (data : Word) : State :=
  match accessOf f bar2 off width with
  | none => s
  | some (k, half) =>
    let d := if half = 2 ^ 64 - 2 ^ 32 then data.toNat % 2 ^ 32 * 2 ^ 32 else data.toNat &&& half
    if bar2 then s.bar2Write f (k - bar2Base f) d half else s.bar0Write k d half

def execRegisterWrite (f : Fin 64) (bar2 : Bool) (off width : Nat) (data : Word) (s : State) :
    Host.Outcome State Fault Refusal :=
  .next (s.hostWriteReg f bar2 off width data)

end Sys2Proof.Machine
end

