-- ==== Sys2Proof/Machine/Checks.lean ====
section
/-! DEFINITION. How a running check ends (00_scope.md R19-R25): the block's conditions are judged, the result is
reported, and an accepted enable or command takes effect. The image's and the patch's checks end with their own rows. -/

namespace Sys2Proof.Machine

/-- The reason class of a check (R24). -/
def checkClass : CheckOp → Nat
  | .image | .patch => 1
  | .portEnable _ => 2
  | .ringEnable _ => 3
  | .gate => 4
  | .buffer => 5
  | .placement => 6
  | .servo | .fabTime | .timeSet | .timeStep | .pulseArm _ => 7
  | .power | .brineEnter | .brineExit => 8
  | .metering | .postcards => 9
  | .cipherStart | .cipherAad | .cipherText | .cipherFinish | .cipherAbandon | .cipherMany _ | .keyLoad | .keyClear
  | .keyProvision => 11

/-- Why the check of `op` with the values it took is refused, with its detail; none where it is accepted. -/
def State.judge (s : State) (op : CheckOp) (a : List Nat) : Option (Nat × Nat) :=
  match op with
  | .ringEnable r => s.ringReason r
  | .portEnable l => s.portReason l
  | .buffer => match s.buf.snap with | some b => s.bufReason b | none => none
  | .gate => s.gateReason a
  | .placement => s.plReason
  | .metering => s.mtrReason
  | .postcards => s.postReason
  | .servo => s.servoReason
  | .fabTime => s.fabReason
  | .timeSet => firstReason [(1000000000 ≤ nth a 2, 0x707, 0)]
  | .timeStep => none
  | .pulseArm k => s.armReason k (nth a 0) (nth a 2) (nth a 3) (nth a 4)
  | .power => s.applyReason
  | .brineEnter => s.brineEnterReason
  | .brineExit => s.brineExitReason
  | .cipherStart => s.startReason
  | .cipherAad => s.pushReason false
  | .cipherText => s.pushReason true
  | .cipherFinish => s.finishReason
  | .cipherAbandon => s.abandonReason
  | .cipherMany _ => some (0xB0B, 0)
  | .keyLoad => s.loadReason a
  | .keyClear => s.clearReason a
  | .keyProvision => s.provisionReason a
  | .image | .patch => none

/-- Brine entry: the ports discard what waits in their receive FIFOs (R431, R433, R523 step 1). -/
def State.brineFifo (s : State) : State :=
  let s := s.pk.fifo.foldl (fun s x => x.2.foldl (fun s f => s.bump (PORT_RX3.brine_discards (s.laneOf f.port)) 1) s) s
  { s with pk := { s.pk with fifo := [] } }

/-- What an accepted check does. -/
def State.grant (s : State) (op : CheckOp) (a : List Nat) : State :=
  match op with
  | .ringEnable r => s.ringAccepted r
  | .portEnable l => s.portAccepted l
  | .buffer => match s.buf.snap with | some b => s.bufAccepted b | none => s
  | .gate => s.gateAccepted a
  | .placement => s.plAccepted
  | .metering => s.mtrAccepted
  | .postcards => s.postAccepted
  | .servo => s.servoAccepted
  | .fabTime => s.fabAccepted
  | .timeSet =>
    (s.setTime (((nth a 0 * 1000000000 + nth a 2) * 65536 + nth a 1) * 2 ^ 24)).bump TIME_STAT.steps 1
  | .timeStep => (s.stepTime (signed 64 (nth a 0))).bump TIME_STAT.steps 1
  | .pulseArm k => s.armAccepted k (nth a 0) (nth a 1) (nth a 2) (nth a 3) (nth a 4)
  | .power => s.applyAccepted
  | .brineEnter => s.brineEntered.brineLinks.brineFifo
  | .brineExit => s.brineLeave
  | .cipherStart => s.startAccepted
  | .cipherAad => s.pushAccepted false (nth a 0) (nth a 1)
  | .cipherText => s.pushAccepted true (nth a 0) (nth a 1)
  | .cipherFinish => s.finishAccepted
  | .cipherAbandon => s.endSession 0
  | .keyLoad => s.loadAccepted a
  | .keyClear => s.clearAccepted a
  | .cipherMany _ | .keyProvision | .image | .patch => s

/-- What a refused check leaves: the block as it was (R22), but for the registers that a key command clears (R569), the
staged snapshot that ends, and a disable that waited for a port's check. -/
def State.deny (s : State) (op : CheckOp) : State :=
  match op with
  | .portEnable l => s.portRefused l
  | .buffer => { s with buf := { s.buf with snap := none } }
  | .cipherMany true | .keyProvision => s.clearCipherRegs
  | _ => s

/-- A key command that ends clears the registers of R566, whatever its result. -/
def State.afterKey (s : State) (op : CheckOp) : State :=
  if op = .keyLoad || op = .keyClear then s.clearCipherRegs else s

/-- The check of block `k` completes; `fault` says that a fault abandoned it. An accepted provisioning runs on until its
fuses are programmed (R564). -/
def State.checkEnds (s : State) (k : Nat) (fault : Bool) : State :=
  match s.checks.find? (fun c => c.key = k) with
  | none => s
  | some c =>
    if c.op = .image then (if fault then s.imageRefused 0x1FF 0 else s)
    else if c.op = .patch then (if fault then s.patchRefused 0x1FF 0 else s)
    else if c.op = .keyProvision && s.cip.provisioning then s
    else if fault then ((s.deny c.op).afterKey c.op).endCheck k (checkClass c.op * 256 + 0xFF) 0
    else
      match s.judge c.op c.args with
      | some (r, d) => ((s.deny c.op).afterKey c.op).endCheck k r d
      | none =>
        if c.op = .keyProvision then { s with cip := { s.cip with provisioning := true } }
        else ((s.grant c.op c.args).afterKey c.op).endCheck k 0 0

/-- The check of block `k` completes. A fault that abandons it is recorded as CONTAINED under its own source, with its
syndrome, in the same step (R25, R532). -/
def State.checkDone (s : State) (k : Nat) (fault : Option (Nat × Nat)) : State :=
  match fault with
  | none => s.checkEnds k false
  | some (n, syn) => if s.checks.any (fun c => c.key = k) then (s.raise n 2 syn).checkEnds k true else s

def execEnableCheckDone (key : Nat) (fault : Option (Fin 2048 × Word)) (s : State) :
    Host.Outcome State Fault Refusal :=
  .next (s.checkDone key (fault.map (fun x => (x.1.val, x.2.toNat))))

end Sys2Proof.Machine
end

