-- ==== Sys2Proof/Machine/Dispatch.lean ====
section
/-! DEFINITION. One arm per command: a direct call of its meaning. -/

namespace Sys2Proof.Machine

def exec (i : Instr) (s : State) : Host.Outcome State Fault Refusal :=
  match i with
  | .registerWrite f bar2 off width data => Sys2Proof.Machine.execRegisterWrite f bar2 off width data s
  | .readClear f bar2 off width => Sys2Proof.Machine.execReadClear f bar2 off width s
  | .rootPllLockLoss => Sys2Proof.Machine.execRootPllLockLoss s
  | .refClockLoss => Sys2Proof.Machine.execRefClockLoss s
  | .lanePllLockLoss macroNo => Sys2Proof.Machine.execLanePllLockLoss macroNo s
  | .frameReceive port bytes whole err => Sys2Proof.Machine.execFrameReceive port bytes whole err s
  | .lastByteHeld port rest err => Sys2Proof.Machine.execLastByteHeld port rest err s
  | .parserEntry pipe source => Sys2Proof.Machine.execParserEntry pipe source s
  | .stageExecute isCopy id ecc err slotErr => Sys2Proof.Machine.execStageExecute isCopy id ecc err slotErr s
  | .csRepair pipe stage word double bad => Sys2Proof.Machine.execCsRepair pipe stage word double bad s
  | .csScrub pipe stage word ecc => Sys2Proof.Machine.execCsScrub pipe stage word ecc s
  | .seqStoreRepair seq word kind => Sys2Proof.Machine.execSeqStoreRepair seq word kind s
  | .admission id => Sys2Proof.Machine.execAdmission id s
  | .cellWrite id writes reads => Sys2Proof.Machine.execCellWrite id writes reads s
  | .writeStallEnd pipe => Sys2Proof.Machine.execWriteStallEnd pipe s
  | .cellRead copy ref ecc => Sys2Proof.Machine.execCellRead copy ref ecc s
  | .tagSweepComplete tag => Sys2Proof.Machine.execTagSweepComplete tag s
  | .rakeRefill group requests trims => Sys2Proof.Machine.execRakeRefill group requests trims s
  | .rakeRebalance pipe => Sys2Proof.Machine.execRakeRebalance pipe s
  | .peakSample => Sys2Proof.Machine.execPeakSample s
  | .schedDecide port => Sys2Proof.Machine.execSchedDecide port s
  | .txStart port queue => Sys2Proof.Machine.execTxStart port queue s
  | .pfcFrameSend port => Sys2Proof.Machine.execPfcFrameSend port s
  | .pfcRefresh port => Sys2Proof.Machine.execPfcRefresh port s
  | .pfcReceive port bytes => Sys2Proof.Machine.execPfcReceive port bytes s
  | .pauseReceive port bytes => Sys2Proof.Machine.execPauseReceive port bytes s
  | .pauseTimerExpire port priority => Sys2Proof.Machine.execPauseTimerExpire port priority s
  | .starvationCheck => Sys2Proof.Machine.execStarvationCheck s
  | .gateEntryChange port => Sys2Proof.Machine.execGateEntryChange port s
  | .gateTakeoverGo => Sys2Proof.Machine.execGateTakeoverGo s
  | .gateTakeover port => Sys2Proof.Machine.execGateTakeover port s
  | .schedIndWrite => Sys2Proof.Machine.execSchedIndWrite s
  | .schedIndRead => Sys2Proof.Machine.execSchedIndRead s
  | .indirectCmdComplete unit => Sys2Proof.Machine.execIndirectCmdComplete unit s
  | .structEnable ok header => Sys2Proof.Machine.execStructEnable ok header s
  | .imageLockTimeout => Sys2Proof.Machine.execImageLockTimeout s
  | .imageTagVerified ok body tag => Sys2Proof.Machine.execImageTagVerified ok body tag s
  | .imageActivate => Sys2Proof.Machine.execImageActivate s
  | .structDisable => Sys2Proof.Machine.execStructDisable s
  | .structDrainEnd => Sys2Proof.Machine.execStructDrainEnd s
  | .structCommitGo group => Sys2Proof.Machine.execStructCommitGo group s
  | .commitAdvance group => Sys2Proof.Machine.execCommitAdvance group s
  | .commitSlotTimeout group => Sys2Proof.Machine.execCommitSlotTimeout group s
  | .patchEnable ok header => Sys2Proof.Machine.execPatchEnable ok header s
  | .patchLockTimeout => Sys2Proof.Machine.execPatchLockTimeout s
  | .patchTagVerified ok body tag => Sys2Proof.Machine.execPatchTagVerified ok body tag s
  | .patchLoadDone => Sys2Proof.Machine.execPatchLoadDone s
  | .patFlip => Sys2Proof.Machine.execPatFlip s
  | .patWrite => Sys2Proof.Machine.execPatWrite s
  | .patRead => Sys2Proof.Machine.execPatRead s
  | .tblNop src ok buf => Sys2Proof.Machine.execTblNop src ok buf s
  | .tblAdd src ok buf => Sys2Proof.Machine.execTblAdd src ok buf s
  | .tblModify src ok buf => Sys2Proof.Machine.execTblModify src ok buf s
  | .tblUpsert src ok buf => Sys2Proof.Machine.execTblUpsert src ok buf s
  | .tblDelete src ok buf => Sys2Proof.Machine.execTblDelete src ok buf s
  | .tblRead src ok buf => Sys2Proof.Machine.execTblRead src ok buf s
  | .tblReadNext src ok buf => Sys2Proof.Machine.execTblReadNext src ok buf s
  | .tblFlush src ok buf => Sys2Proof.Machine.execTblFlush src ok buf s
  | .tblCommit src ok buf => Sys2Proof.Machine.execTblCommit src ok buf s
  | .tblCmdComplete job ok => Sys2Proof.Machine.execTblCmdComplete job ok s
  | .entryMoveEnd table unit src => Sys2Proof.Machine.execEntryMoveEnd table unit src s
  | .rebalanceMove table unit src => Sys2Proof.Machine.execRebalanceMove table unit src s
  | .tcamScrub pipe table row bad => Sys2Proof.Machine.execTcamScrub pipe table row bad s
  | .parityRepair pipe table whr stage pos others => Sys2Proof.Machine.execParityRepair pipe table whr stage pos others s
  | .learnAccept pipe => Sys2Proof.Machine.execLearnAccept pipe s
  | .stationMove pipe => Sys2Proof.Machine.execStationMove pipe s
  | .learnUnblock table => Sys2Proof.Machine.execLearnUnblock table s
  | .ageVisit table pipe pos late => Sys2Proof.Machine.execAgeVisit table pipe pos late s
  | .plEnable => Sys2Proof.Machine.execPlEnable s
  | .plDisable => Sys2Proof.Machine.execPlDisable s
  | .plIndWrite => Sys2Proof.Machine.execPlIndWrite s
  | .plIndRead => Sys2Proof.Machine.execPlIndRead s
  | .levelSnapshot => Sys2Proof.Machine.execLevelSnapshot s
  | .flowletSweep pipe index => Sys2Proof.Machine.execFlowletSweep pipe index s
  | .beaconSend link => Sys2Proof.Machine.execBeaconSend link s
  | .beaconReceive port bytes => Sys2Proof.Machine.execBeaconReceive port bytes s
  | .neighborTimeout link => Sys2Proof.Machine.execNeighborTimeout link s
  | .creditReceive port bytes => Sys2Proof.Machine.execCreditReceive port bytes s
  | .creditReturnSend port => Sys2Proof.Machine.execCreditReturnSend port s
  | .bufApply => Sys2Proof.Machine.execBufApply s
  | .bufIndWrite => Sys2Proof.Machine.execBufIndWrite s
  | .bufIndRead => Sys2Proof.Machine.execBufIndRead s
  | .portStop port => Sys2Proof.Machine.execPortStop port s
  | .portStopClear port => Sys2Proof.Machine.execPortStopClear port s
  | .stopDrainEnd port => Sys2Proof.Machine.execStopDrainEnd port s
  | .harvestEdge => Sys2Proof.Machine.execHarvestEdge s
  | .mtrNow => Sys2Proof.Machine.execMtrNow s
  | .mtrEnable => Sys2Proof.Machine.execMtrEnable s
  | .mtrDisable => Sys2Proof.Machine.execMtrDisable s
  | .meterBatchSend fails => Sys2Proof.Machine.execMeterBatchSend fails s
  | .harvestDone => Sys2Proof.Machine.execHarvestDone s
  | .postEnable => Sys2Proof.Machine.execPostEnable s
  | .postDisable => Sys2Proof.Machine.execPostDisable s
  | .postcardFrameSend => Sys2Proof.Machine.execPostcardFrameSend s
  | .flowRead => Sys2Proof.Machine.execFlowRead s
  | .portEnable lane => Sys2Proof.Machine.execPortEnable lane s
  | .portDisable lane => Sys2Proof.Machine.execPortDisable lane s
  | .disableDrainEnd port => Sys2Proof.Machine.execDisableDrainEnd port s
  | .portRetrain lane => Sys2Proof.Machine.execPortRetrain lane s
  | .anComplete port partner => Sys2Proof.Machine.execAnComplete port partner s
  | .ctleSweepDone lane windows => Sys2Proof.Machine.execCtleSweepDone lane windows s
  | .trainFrameReceive lane answer req ready => Sys2Proof.Machine.execTrainFrameReceive lane answer req ready s
  | .tapAckTimeout lane => Sys2Proof.Machine.execTapAckTimeout lane s
  | .trainTimeout port => Sys2Proof.Machine.execTrainTimeout port s
  | .alignComplete port fields => Sys2Proof.Machine.execAlignComplete port fields s
  | .alignTimeout port => Sys2Proof.Machine.execAlignTimeout port s
  | .retryTimer port => Sys2Proof.Machine.execRetryTimer port s
  | .lossOfSignal lane => Sys2Proof.Machine.execLossOfSignal lane s
  | .pcsLockLoss port => Sys2Proof.Machine.execPcsLockLoss port s
  | .remoteFault port => Sys2Proof.Machine.execRemoteFault port s
  | .rlCodewordReceive lane line => Sys2Proof.Machine.execRlCodewordReceive lane line s
  | .contAdapt lane below above => Sys2Proof.Machine.execContAdapt lane below above s
  | .lpiEnter port => Sys2Proof.Machine.execLpiEnter port s
  | .keepaliveTimeout port => Sys2Proof.Machine.execKeepaliveTimeout port s
  | .prbsInjectOnce lane => Sys2Proof.Machine.execPrbsInjectOnce lane s
  | .fecInjectGo lane => Sys2Proof.Machine.execFecInjectGo lane s
  | .fecInjectStop lane => Sys2Proof.Machine.execFecInjectStop lane s
  | .enableCheckDone key fault => Sys2Proof.Machine.execEnableCheckDone key fault s
  | .ringDoorbell r => Sys2Proof.Machine.execRingDoorbell r s
  | .ringEntryFetch r ok words => Sys2Proof.Machine.execRingEntryFetch r ok words s
  | .ringInval r => Sys2Proof.Machine.execRingInval r s
  | .ringAbort r => Sys2Proof.Machine.execRingAbort r s
  | .ringAbortDone r => Sys2Proof.Machine.execRingAbortDone r s
  | .ringEnable r => Sys2Proof.Machine.execRingEnable r s
  | .ringDisable r => Sys2Proof.Machine.execRingDisable r s
  | .injectTake r ok bytes => Sys2Proof.Machine.execInjectTake r ok bytes s
  | .puntWrite r => Sys2Proof.Machine.execPuntWrite r s
  | .irqTimer r => Sys2Proof.Machine.execIrqTimer r s
  | .heldWriteSend f => Sys2Proof.Machine.execHeldWriteSend f s
  | .pcieError uncorrectable bit header => Sys2Proof.Machine.execPcieError uncorrectable bit header s
  | .vfReset n flr => Sys2Proof.Machine.execVfReset n flr s
  | .pfReset cause => Sys2Proof.Machine.execPfReset cause s
  | .timeSet => Sys2Proof.Machine.execTimeSet s
  | .timeStep => Sys2Proof.Machine.execTimeStep s
  | .servoEnable => Sys2Proof.Machine.execServoEnable s
  | .servoDisable => Sys2Proof.Machine.execServoDisable s
  | .fabTimeEnable => Sys2Proof.Machine.execFabTimeEnable s
  | .fabTimeDisable => Sys2Proof.Machine.execFabTimeDisable s
  | .timeNowRead => Sys2Proof.Machine.execTimeNowRead s
  | .hostOffsetSample data => Sys2Proof.Machine.execHostOffsetSample data s
  | .servoSample => Sys2Proof.Machine.execServoSample s
  | .timeItemSend port => Sys2Proof.Machine.execTimeItemSend port s
  | .timeItemReceive port bytes => Sys2Proof.Machine.execTimeItemReceive port bytes s
  | .timeLinkTimeout port => Sys2Proof.Machine.execTimeLinkTimeout port s
  | .poArm k data => Sys2Proof.Machine.execPoArm k data s
  | .poDisarm k => Sys2Proof.Machine.execPoDisarm k s
  | .pulseEdge k => Sys2Proof.Machine.execPulseEdge k s
  | .captureEdge k falling => Sys2Proof.Machine.execCaptureEdge k falling s
  | .loadWindow used total => Sys2Proof.Machine.execLoadWindow used total s
  | .capFastCheck mean10 => Sys2Proof.Machine.execCapFastCheck mean10 s
  | .capEvaluate mean100 core => Sys2Proof.Machine.execCapEvaluate mean100 core s
  | .ratioMove => Sys2Proof.Machine.execRatioMove s
  | .pwrApply => Sys2Proof.Machine.execPwrApply s
  | .brineEnter => Sys2Proof.Machine.execBrineEnter s
  | .brineDrainEnd => Sys2Proof.Machine.execBrineDrainEnd s
  | .brineExit => Sys2Proof.Machine.execBrineExit s
  | .brineWakeTime => Sys2Proof.Machine.execBrineWakeTime s
  | .brineExitDone => Sys2Proof.Machine.execBrineExitDone s
  | .thermalThrottle temp => Sys2Proof.Machine.execThermalThrottle temp s
  | .thermalRelease temp => Sys2Proof.Machine.execThermalRelease temp s
  | .thermalTrip sensor temp => Sys2Proof.Machine.execThermalTrip sensor temp s
  | .droopFire => Sys2Proof.Machine.execDroopFire s
  | .droopRelease => Sys2Proof.Machine.execDroopRelease s
  | .throttleEvent => Sys2Proof.Machine.execThrottleEvent s
  | .channelError c toIo queue kind wa wb ra rb data check => Sys2Proof.Machine.execChannelError c toIo queue kind wa wb ra rb data check s
  | .channelResetDone c => Sys2Proof.Machine.execChannelResetDone c s
  | .channelRestart c => Sys2Proof.Machine.execChannelRestart c s
  | .faultInject data => Sys2Proof.Machine.execFaultInject data s
  | .blockResetRequest data => Sys2Proof.Machine.execBlockResetRequest data s
  | .blockResetDone u => Sys2Proof.Machine.execBlockResetDone u s
  | .chipResetStart => Sys2Proof.Machine.execChipResetStart s
  | .histReadUpdate data => Sys2Proof.Machine.execHistReadUpdate data s
  | .cipherLockReq => Sys2Proof.Machine.execCipherLockReq s
  | .cipherLockRelease => Sys2Proof.Machine.execCipherLockRelease s
  | .cipherLockGrant => Sys2Proof.Machine.execCipherLockGrant s
  | .cipherLockRevoke => Sys2Proof.Machine.execCipherLockRevoke s
  | .cipherStart => Sys2Proof.Machine.execCipherStart s
  | .cipherPushAad => Sys2Proof.Machine.execCipherPushAad s
  | .cipherPushText => Sys2Proof.Machine.execCipherPushText s
  | .cipherFinish => Sys2Proof.Machine.execCipherFinish s
  | .cipherAbandon => Sys2Proof.Machine.execCipherAbandon s
  | .cipherSetupDone => Sys2Proof.Machine.execCipherSetupDone s
  | .cipherBlockDone => Sys2Proof.Machine.execCipherBlockDone s
  | .cipherFinishDone => Sys2Proof.Machine.execCipherFinishDone s
  | .keyLoad data => Sys2Proof.Machine.execKeyLoad data s
  | .keyClear data => Sys2Proof.Machine.execKeyClear data s
  | .keyProvision data => Sys2Proof.Machine.execKeyProvision data s
  | .keyProvisionDone => Sys2Proof.Machine.execKeyProvisionDone s
  | .powerOn => Sys2Proof.Machine.execPowerOn s
  | .railFault => Sys2Proof.Machine.execRailFault s
  | .resetPhaseDone info => Sys2Proof.Machine.execResetPhaseDone info s
  | .perstAssert => Sys2Proof.Machine.execPerstAssert s
  | .perstRelease => Sys2Proof.Machine.execPerstRelease s
  | .pkgWarmReset data => Sys2Proof.Machine.execPkgWarmReset data s
  | .pcieLinkTrain speed lanes => Sys2Proof.Machine.execPcieLinkTrain speed lanes s
  | .smbReadPkgId => Sys2Proof.Machine.execSmbReadPkgId s
  | .smbReadPkgCaps => Sys2Proof.Machine.execSmbReadPkgCaps s
  | .smbReadPkgSerial => Sys2Proof.Machine.execSmbReadPkgSerial s
  | .smbReadBootStatus => Sys2Proof.Machine.execSmbReadBootStatus s
  | .smbReadFltStatus => Sys2Proof.Machine.execSmbReadFltStatus s
  | .smbReadPwrStatus => Sys2Proof.Machine.execSmbReadPwrStatus s
  | .smbReadPwrExtLimit => Sys2Proof.Machine.execSmbReadPwrExtLimit s
  | .smbReadFltHistPtr => Sys2Proof.Machine.execSmbReadFltHistPtr s
  | .smbReadClkStatus => Sys2Proof.Machine.execSmbReadClkStatus s
  | .smbReadAvsStatus => Sys2Proof.Machine.execSmbReadAvsStatus s
  | .smbReadPinStatus => Sys2Proof.Machine.execSmbReadPinStatus s
  | .smbReadSmbStat => Sys2Proof.Machine.execSmbReadSmbStat s
  | .smbReadSelftest => Sys2Proof.Machine.execSmbReadSelftest s
  | .smbReadStraps => Sys2Proof.Machine.execSmbReadStraps s
  | .smbBmcCap watts pecOk => Sys2Proof.Machine.execSmbBmcCap watts pecOk s
  | .smbBrineWake data pecOk => Sys2Proof.Machine.execSmbBrineWake data pecOk s
  | .smbReservedCmd code => Sys2Proof.Machine.execSmbReservedCmd code s
  | .smbTimeout => Sys2Proof.Machine.execSmbTimeout s
  | .avsConfirm mv => Sys2Proof.Machine.execAvsConfirm mv s
  | .avsRetryTimer => Sys2Proof.Machine.execAvsRetryTimer s
  | .tapReset => Sys2Proof.Machine.execTapReset s
  | .bypass => Sys2Proof.Machine.execBypass s
  | .idcode => Sys2Proof.Machine.execIdcode s
  | .samplePreload cells => Sys2Proof.Machine.execSamplePreload cells s
  | .extest => Sys2Proof.Machine.execExtest s
  | .extestPulse => Sys2Proof.Machine.execExtestPulse s
  | .extestTrain => Sys2Proof.Machine.execExtestTrain s
  | .clamp => Sys2Proof.Machine.execClamp s
  | .highz => Sys2Proof.Machine.execHighz s
  | .refClockReturn => Sys2Proof.Machine.execRefClockReturn s
  | .lanePllRelock macroNo => Sys2Proof.Machine.execLanePllRelock macroNo s
  | .partnerLpi port enter => Sys2Proof.Machine.execPartnerLpi port enter s
  | .prbsCheckerLock lane locked errors mbits => Sys2Proof.Machine.execPrbsCheckerLock lane locked errors mbits s
  | .configRequest f item => Sys2Proof.Machine.execConfigRequest f item s
  | .cipherEngineFault kind => Sys2Proof.Machine.execCipherEngineFault kind s
  | .harvestRetryTimer => Sys2Proof.Machine.execHarvestRetryTimer s
  | .activityRampWindow demand => Sys2Proof.Machine.execActivityRampWindow demand s

end Sys2Proof.Machine
end

