-- ==== Sys2Proof/Machine/Tick.lean ====
section
/-! DEFINITION. What happens at a TCLK edge when no command waits (notes/assumptions/2.md): device time counts
(13_time.md R486), once a microsecond the throttle accumulators count (14_power_thermal.md R521), and event records that
are due, those of performance counters that wrapped, are written or lost (10_telemetry_metering.md R392). -/

namespace Sys2Proof.Machine

/-- One TCLK cycle. -/
def State.tick (s : State) : State :=
  let s := { s.tickTime with clk := s.clk + 1 }
  (if s.clk % clkPerUs = 0 then s.throttleTick else s).serveAll

end Sys2Proof.Machine
end

