-- ==== Sys2Proof/Safety.lean ====
section
/-! DEFINITION. What counts as a safe run of the block: every addressed memory of the state stays in its canonical form
and device time stays inside its count. `Extends s t` is what every command keeps besides: nothing that was sent is
taken back, no free value is drawn twice, the queue and the clock are not a command's to change. -/

namespace Sys2Proof.Machine

/-- The addressed memories of the block: the register file (00_scope.md R12), the packet buffer's cell states
(08_shared_buffer.md), the lookup tables' entries (05_lookup_tables.md), the meters and flow entries
(10_telemetry_metering.md), the scheduler's profiles, policers and gate entries (09_scheduling_shaping.md) and the
placement unit's groups and members (07_placement_fabric.md). -/
structure State.Canonical (s : State) : Prop where
  regs : smWf regReset s.regs none = true
  cells : smWf natZero s.buf.cellState none = true
  entries : smWf noEntry s.tbl.entries none = true
  meters : smWf meterDefault s.mtr.meters none = true
  flows : smWf (fun _ => 0) s.mtr.flows none = true
  gates : smWf natZero s.sch.gates none = true
  profiles : smWf natZero s.sch.profiles none = true
  policers : smWf natZero s.sch.policers none = true
  groups : smWf natZero s.pl.groups none = true
  members : smWf natZero s.pl.members none = true

/-- Device time lies inside its 48-bit seconds and nanoseconds, with less than one unit of quarters carried (R486). -/
structure State.TimeOk (s : State) : Prop where
  total : s.time.total < timeModulus
  quarter : s.time.quarter < 4

/-- The invariant of the block. -/
structure State.Inv (s : State) : Prop where
  canonical : s.Canonical
  timeOk : s.TimeOk

/-- What every command keeps of the state it runs on. -/
structure State.Extends (s t : State) : Prop where
  pending : t.pending = s.pending
  clk : t.clk = s.clk
  free : s.free ≤ t.free
  out : s.out <:+ t.out

/-! ### Frames -/

/-- Two fields that share no bit. -/
def Fld.Apart (g f : Fld) : Prop := g.off ≠ f.off ∨ g.lo + g.w ≤ f.lo ∨ f.lo + f.w ≤ g.lo

/-- A set of registers, by key. -/
abbrev Region := Nat → Prop

/-- No register. -/
def noRegs : Region := fun _ => False

/-- RING_STAT, which counts the record of a counter's overflow as lost where no EVENT ring can take it
(10_telemetry_metering.md R378, R392). -/
def eventRegs : Region := fun k => RING_STAT.regOff 0 ≤ k ∧ k < RING_STAT.regOff 1024

/-- What counting in the performance counters of block `b` writes (10_telemetry_metering.md R376, R378). -/
def perfRegs (b : Nat) : Region := fun k => (PERF_CNT.regOff b 0 ≤ k ∧ k < PERF_CNT.regOff b 4) ∨ eventRegs k

/-- The registers of pipe `p` (00_scope.md, 19_register_map.md R617: one 256 KiB region for each pipe). -/
def pipeRegs (p : Nat) : Region := fun k => 0x40000 * p ≤ k ∧ k < 0x40000 * (p + 1)

/-- What a host memory write, an interrupt or an event record counts in: HIF_STAT, RING_STAT and the performance
counters of the host interface (12_host_interface_rings.md R450, R452, R470). -/
def hostRegs : Region := fun k =>
  k = HIF_STAT.regOff ∨ perfRegs hifBlock k

/-- What raising a fault writes: the registers of fault collection with their channel status (15_faults.md R534), and
what its interrupts count in. -/
def faultRegs : Region := fun k => (FLT_CFG.regOff ≤ k ∧ k < FLT_SRC.regOff 2048) ∨ hostRegs k

/-- The registers of either set. -/
def Region.or (R S : Region) : Region := fun k => R k ∨ S k

/-- The parts of the state beside the register file. -/
inductive Part where
  | pending | clk | free | readVal | out | checks | time | flt | hif | pwr | cip | boot | pin | img | tbl | pk | buf | mtr | sch | pl | io
  deriving DecidableEq, Repr

/-- Part `p` is the same in both states. -/
def Part.Agrees (s t : State) : Part → Prop
  | .pending => t.pending = s.pending
  | .clk => t.clk = s.clk
  | .free => t.free = s.free
  | .readVal => t.readVal = s.readVal
  | .out => t.out = s.out
  | .checks => t.checks = s.checks
  | .time => t.time = s.time
  | .flt => t.flt = s.flt
  | .hif => t.hif = s.hif
  | .pwr => t.pwr = s.pwr
  | .cip => t.cip = s.cip
  | .boot => t.boot = s.boot
  | .pin => t.pin = s.pin
  | .img => t.img = s.img
  | .tbl => t.tbl = s.tbl
  | .pk => t.pk = s.pk
  | .buf => t.buf = s.buf
  | .mtr => t.mtr = s.mtr
  | .sch => t.sch = s.sch
  | .pl => t.pl = s.pl
  | .io => t.io = s.io

/-- Beside the register file, the states differ in the parts of `l` alone. -/
def State.Same (l : List Part) (s t : State) : Prop := ∀ p : Part, p ∉ l → p.Agrees s t

/-- The host interfaces agree, but for records of counter overflows that wait to be written (10_telemetry_metering.md
R378, R392). -/
def State.SameHost (s t : State) : Prop :=
  { t.hif with rings := [] } = { s.hif with rings := [] } ∧
    ∀ r, (s.ring r).dueEvents <+: (t.ring r).dueEvents ∧ { t.ring r with dueEvents := [] } = { s.ring r with dueEvents := [] }

/-- `Same` for a command that counts in performance counters. -/
def State.SameCounting (l : List Part) (s t : State) : Prop :=
  ∀ p : Part, p ∉ l → if p = .hif then s.SameHost t else p.Agrees s t

/-- The fields in which the throttle level and reasons are shown (14_power_thermal.md R520). -/
def throttleFields : List Fld :=
  [PWR_STATUS.level, PWR_STATUS.reasons, PL_FAB_STATUS.own_throttle, PL_FAB_STATUS.own_reasons]

/-- The next beacon shows the throttle level and reasons of PWR_STATUS (14_power_thermal.md R520). -/
def State.ShowsThrottle (s : State) : Prop :=
  s.get PL_FAB_STATUS.own_throttle = s.get PWR_STATUS.level ∧ s.get PL_FAB_STATUS.own_reasons = s.get PWR_STATUS.reasons

/-- Every field outside the registers `R` that shares no bit with a field of `l` reads in `t` as in `s`. -/
def State.Frame (R : Region) (l : List Fld) (s t : State) : Prop :=
  ∀ g : Fld, ¬R g.off → (∀ f ∈ l, g.Apart f) → t.get g = s.get g

/-! ### Commands that start a check (00_scope.md R19-R23) -/

/-- The check that a command starts: its ENABLE_STATUS register, what it judges and the values it takes with it. None
for a command that starts no check, and for the image's and the patch's enables, whose check begins with a header. -/
def startedCheck (s : State) : Instr → Option Check
  | .ringEnable r => some ⟨RING_ENABLE_STATUS.regOff (s.slot r), .ringEnable r, []⟩
  | .portEnable lane => some ⟨PORT_ENABLE_STATUS.regOff lane, .portEnable lane, []⟩
  | .bufApply => some ⟨BUF_ENABLE_STATUS.regOff, .buffer, []⟩
  | .gateTakeoverGo => some ⟨SCHED_ENABLE_STATUS.regOff, .gate, [s.get SCHED_GATE_CTL.port, s.get SCHED_GATE_CTL.bank,
      s.get SCHED_GATE_CTL.len_m1, s.get SCHED_GATE_CTL.open_all, s.get SCHED_GATE_TIME.base]⟩
  | .plEnable => some ⟨PL_ENABLE_STATUS.regOff, .placement, []⟩
  | .mtrEnable => some ⟨MTR_ENABLE_STATUS.regOff, .metering, []⟩
  | .postEnable => some ⟨POST_ENABLE_STATUS.regOff, .postcards, []⟩
  | .servoEnable => some ⟨TIME_ENABLE_STATUS.regOff, .servo, []⟩
  | .fabTimeEnable => some ⟨TIME_ENABLE_STATUS.regOff, .fabTime, []⟩
  | .timeSet => some ⟨TIME_ENABLE_STATUS.regOff, .timeSet, [s.get TIME_SET0.sec, s.get TIME_SET0.frac, s.get TIME_SET1.ns]⟩
  | .timeStep => some ⟨TIME_ENABLE_STATUS.regOff, .timeStep, [s.get TIME_STEP.step]⟩
  | .poArm k data => some ⟨TIME_ENABLE_STATUS.regOff, .pulseArm k, [bitsOf data.toNat 0 2, bitsOf data.toNat 2 1,
      bitsOf data.toNat 32 32, s.get (TIME_PO_START.start k), s.get (TIME_PO_PERIOD.period k)]⟩
  | .pwrApply => some ⟨PWR_ENABLE_STATUS.regOff, .power, []⟩
  | .brineEnter => some ⟨PWR_ENABLE_STATUS.regOff, .brineEnter, []⟩
  | .brineExit => some ⟨PWR_ENABLE_STATUS.regOff, .brineExit, []⟩
  | .cipherStart => some ⟨CIPHER_ENABLE_STATUS.regOff, .cipherStart, []⟩
  | .cipherPushAad => some ⟨CIPHER_ENABLE_STATUS.regOff, .cipherAad,
      [(s.raw (CIPHER_DIN.regOff 0)).toNat, (s.raw (CIPHER_DIN.regOff 1)).toNat]⟩
  | .cipherPushText => some ⟨CIPHER_ENABLE_STATUS.regOff, .cipherText,
      [(s.raw (CIPHER_DIN.regOff 0)).toNat, (s.raw (CIPHER_DIN.regOff 1)).toNat]⟩
  | .cipherFinish => some ⟨CIPHER_ENABLE_STATUS.regOff, .cipherFinish, []⟩
  | .cipherAbandon => some ⟨CIPHER_ENABLE_STATUS.regOff, .cipherAbandon, []⟩
  | .keyLoad data => some ⟨CIPHER_ENABLE_STATUS.regOff, .keyLoad, s.keyArgs data.toNat⟩
  | .keyClear data => some ⟨CIPHER_ENABLE_STATUS.regOff, .keyClear, s.keyArgs data.toNat⟩
  | .keyProvision data => some ⟨CIPHER_ENABLE_STATUS.regOff, .keyProvision, s.keyArgs data.toNat⟩
  | _ => none

/-- The RW fields that lie in the register whose command bit a command writes. -/
def writtenWith : Instr → List Fld
  | .poArm k _ => [TIME_PO_CTL.mode k, TIME_PO_CTL.polarity k, TIME_PO_CTL.width_ns k]
  | .keyLoad _ | .keyClear _ | .keyProvision _ =>
    [CIPHER_KEY_CTL.slot, CIPHER_KEY_CTL.len, CIPHER_KEY_CTL.wrapped, CIPHER_KEY_CTL.lock]
  | _ => []

/-- The fields of the ENABLE_STATUS register with key `k` (R19). -/
def esFields (k : Nat) : List Fld := [esReason k, esDetail k, esValid k, esBusy k, esAttempts k]

/-- Commands that are a write to a register of a unit gated in Brine (14_power_thermal.md R524). -/
def gatedWrites : List Instr :=
  [.bufApply, .bufIndWrite, .bufIndRead, .mtrEnable, .mtrDisable, .patFlip, .patWrite, .patRead, .plEnable, .plDisable,
   .plIndWrite, .plIndRead, .postEnable, .postDisable, .flowRead, .gateTakeoverGo, .schedIndWrite, .schedIndRead]

/-! ### Table commands (06_table_access_learning.md R213-R230) -/

/-- The rows that take a table command from source `src`, with their opcodes (R218). -/
def tableRows (src : Fin 1025) (ok : Bool) (buf : List Byte) : List (Nat × Instr) :=
  [(0, .tblNop src ok buf), (1, .tblAdd src ok buf), (2, .tblModify src ok buf), (3, .tblUpsert src ok buf),
   (4, .tblDelete src ok buf), (5, .tblRead src ok buf), (6, .tblReadNext src ok buf), (7, .tblFlush src ok buf),
   (8, .tblCommit src ok buf)]

/-- The command that the values `a` of the TBL_CMD registers spell (R229, R230). -/
def State.cmdJob (s : State) (a : List Nat) : TblJob :=
  s.makeJob tblCmdSource 0 0 (nth a 0) (nth a 1) (nth a 2) 0 (nth a 3, nth a 4, nth a 5)

/-- The command with the values `a` of the TBL_CMD registers is next, with no other command, relocation or discard on its way. -/
def State.TakesNow (s : State) (a : List Nat) : Prop :=
  s.tbl.goArgs = some a ∧ s.hostTurn tblCmdSource = true ∧ s.tbl.jobs = [] ∧ s.tbl.moves = [] ∧
    s.tbl.discards = []

/-- Command `id` has been accepted and is done, with its status, reason and result (R227). -/
def State.JobDone (s : State) (id status reason result : Nat) : Prop :=
  ∃ k : TblJob, s.job id = some k ∧ k.done = true ∧ k.status = status ∧ k.reason = reason ∧ k.result = result

/-! ### Indirect commands (00_scope.md R30, R629) -/

/-- The indirect command that a command starts: the busy bit of its interface, and what it takes with it. -/
def indStart (s : State) : Instr → Option (Fld × IndJob)
  | .schedIndWrite => some (SCHED_IND_CMD.busy, ⟨SCHED_IND_CMD.regOff, true, (s.raw SCHED_IND_ADDR.regOff).toNat,
      [(s.raw (SCHED_IND_DATA.regOff 0)).toNat, (s.raw (SCHED_IND_DATA.regOff 1)).toNat]⟩)
  | .schedIndRead => some (SCHED_IND_CMD.busy, ⟨SCHED_IND_CMD.regOff, false, (s.raw SCHED_IND_ADDR.regOff).toNat,
      [(s.raw (SCHED_IND_DATA.regOff 0)).toNat, (s.raw (SCHED_IND_DATA.regOff 1)).toNat]⟩)
  | .bufIndWrite => some (BUF_IND_CMD.busy, ⟨BUF_IND_CMD.regOff, true, (s.raw BUF_IND_ADDR.regOff).toNat,
      [(s.raw (BUF_IND_DATA.regOff 0)).toNat, (s.raw (BUF_IND_DATA.regOff 1)).toNat]⟩)
  | .bufIndRead => some (BUF_IND_CMD.busy, ⟨BUF_IND_CMD.regOff, false, (s.raw BUF_IND_ADDR.regOff).toNat,
      [(s.raw (BUF_IND_DATA.regOff 0)).toNat, (s.raw (BUF_IND_DATA.regOff 1)).toNat]⟩)
  | .plIndWrite => some (PL_IND_CMD.busy, ⟨PL_IND_CMD.regOff, true, (s.raw PL_IND_ADDR.regOff).toNat,
      [(s.raw PL_IND_DATA.regOff).toNat]⟩)
  | .plIndRead => some (PL_IND_CMD.busy, ⟨PL_IND_CMD.regOff, false, (s.raw PL_IND_ADDR.regOff).toNat,
      [(s.raw PL_IND_DATA.regOff).toNat]⟩)
  | .flowRead => some (FLOW_IND_CMD.busy, ⟨FLOW_IND_CMD.regOff, false, (s.raw FLOW_IND_ADDR.regOff).toNat, []⟩)
  | .patWrite => some (PRS_PAT_CMD.busy, ⟨PRS_PAT_CMD.regOff, true, (s.raw PRS_PAT_ADDR.regOff).toNat,
      b2n (s.patAllowed true) :: (List.range 4).map (fun i => (s.raw (PRS_PAT_DATA.regOff i)).toNat)⟩)
  | .patRead => some (PRS_PAT_CMD.busy, ⟨PRS_PAT_CMD.regOff, false, (s.raw PRS_PAT_ADDR.regOff).toNat,
      b2n (s.patAllowed false) :: (List.range 4).map (fun i => (s.raw (PRS_PAT_DATA.regOff i)).toNat)⟩)
  | _ => none

/-- The indirect command that runs on the interface with command register `key` (R629). -/
def State.indRuns (s : State) (key : Nat) (j : IndJob) : Prop := s.pk.ind.find? (fun x => x.key = key) = some j

end Sys2Proof.Machine
end

