-- ==== Sys2Proof/Certificates/Slice0/Obligations.lean ====
section
/-! DEFINITION. The statements for the provers. `Frame R l` says that every register field outside the registers `R` and
the fields `l` is unchanged, `Same l` that every other part of the state outside `l` is, and
`SameCounting l` the same but for records of counter overflows that wait. -/

open Sys2Proof Sys2Proof.Machine

/-- 00_scope.md: the commands of the queue are taken first in, first out. The step at a state whose queue has a front
command is that command's effect on the state with the rest of the queue. -/
def Obligations.StepRunsTheFrontCommand : Prop :=
  ∀ (s : State) (c : Instr) (rest : List Instr), s.pending = c :: rest → step s = exec c { s with pending := rest }

/-- 13_time.md R486, 14_power_thermal.md R521: with no command waiting one TCLK cycle of 1.25 ns passes, stretched by
TIME_FREQ: device time advances by (2^40 + freq) x 5/4 units of 2^-40 ns and the throttle times by 1 microsecond in
800 cycles. That an empty queue lets a cycle pass is the model's choice (notes/assumptions/2.md). -/
def Obligations.EmptyQueueLetsOneClockCyclePass : Prop :=
  ∀ s : State, s.Inv → s.pending = [] →
    ∃ t, step s = .next t ∧
      t.clk = s.clk + 1 ∧
      ((4 * t.time.total + t.time.quarter : Nat) : Int) ≡
        ((4 * s.time.total + s.time.quarter : Nat) : Int) + 5 * (2 ^ 40 + signed 32 (s.get TIME_FREQ.freq))
          [ZMOD ((4 * timeModulus : Nat) : Int)] ∧
      t.time = { s.time with total := t.time.total, quarter := t.time.quarter } ∧
      ((∀ x ∈ s.hif.rings, x.2.dueEvents = []) →
        (∀ r < 4, t.get (PWR_THR_ACC.us r) =
          if t.clk % 800 = 0 ∧ (s.get PWR_STATUS.reasons).testBit r then min (s.get (PWR_THR_ACC.us r) + 1) (2 ^ 48 - 1)
          else s.get (PWR_THR_ACC.us r)) ∧
        t.get (PWR_THR_ACC.us 4) =
          (if t.clk % 800 = 0 ∧ 1 ≤ s.get PWR_STATUS.level then min (s.get (PWR_THR_ACC.us 4) + 1) (2 ^ 48 - 1)
          else s.get (PWR_THR_ACC.us 4)) ∧
        t = { s with regs := t.regs, clk := t.clk, time := t.time } ∧
        s.Frame noRegs ((List.range 5).map PWR_THR_ACC.us) t)

/-- 00_scope.md R12, 13_time.md R486: from every state in canonical form with device time inside its count, a step gives
such a state. -/
def Obligations.EveryStepKeepsTheInvariant : Prop :=
  ∀ s t : State, s.Inv → step s = .next t → t.Inv

/-- 00_scope.md R12, 13_time.md R486: the state after reset is in canonical form with device time inside its count. -/
def Obligations.ResetMeetsTheInvariant : Prop :=
  State.reset.Inv

/-- 00_scope.md R12: every command completes, whatever the state; nothing that was sent is taken back, no free value is
drawn twice, and the queue and the clock are not a command's to change. That every command completes rests on the
model's choice that an event whose condition does not hold changes nothing (notes/assumptions/1.md). -/
def Obligations.EveryCommandExtendsTheState : Prop :=
  ∀ (c : Instr) (s : State), ∃ t, exec c s = .next t ∧ s.Extends t

/-- 16_cipher_engine.md R563, R564: no command but the end of a provisioning changes the fuses of slot 2. -/
def Obligations.OnlyProvisioningProgramsFuses : Prop :=
  ∀ (c : Instr) (s t : State), exec c s = .next t → c ≠ .keyProvisionDone → t.cip.fuse2 = s.cip.fuse2

/-- 00_scope.md R15: narrow and unaligned accesses, and accesses to offsets that decode to no register, read 0 and change
nothing, in BAR0 and in the ring slots of BAR2. -/
def Obligations.AccessesThatReachNoRegisterDoNothing : Prop :=
  ∀ (s : State) (f : Fin 64) (bar2 : Bool) (off width : Nat) (data : Word),
    (width ≠ 4 ∧ width ≠ 8) ∨ off % width ≠ 0 ∨
      regDesc (if bar2 then bar2Base f + off / 8 * 8 else off / 8 * 8) = [] →
    exec (.registerWrite f bar2 off width data) s = .next s ∧
    exec (.readClear f bar2 off width) s = .next { s with readVal := 0 }

/-- 00_scope.md R14, R17 on the registers PWR_CAP_CFG (RW), FLT_SRCn (W1C) and TBL_CMD_STAT (RC). -/
def Obligations.RegisterAccessTypesAreKept : Prop :=
  ∀ s : State, s.Inv →
    (∀ data : Word,
      ∃ t, exec (.registerWrite 0 false PWR_CAP_CFG.regOff 8 data) s = .next t ∧
        t.get PWR_CAP_CFG.cap_w = data.toNat % 2 ^ 11 ∧ t.get PWR_CAP_CFG.up_slope = data.toNat / 2 ^ 16 % 2 ^ 8 ∧
        t.get PWR_CAP_CFG.down_slope = data.toNat / 2 ^ 24 % 2 ^ 8 ∧
        t.get PWR_CAP_CFG.brine_drain_us = data.toNat / 2 ^ 32 % 2 ^ 16 ∧ s.Same [] t ∧
        s.Frame noRegs [PWR_CAP_CFG.cap_w, PWR_CAP_CFG.up_slope, PWR_CAP_CFG.down_slope, PWR_CAP_CFG.brine_drain_us] t) ∧
    (∀ data : Word,
      ∃ t, exec (.registerWrite 0 false (PWR_CAP_CFG.regOff + 4) 4 data) s = .next t ∧
        t.get PWR_CAP_CFG.brine_drain_us = data.toNat % 2 ^ 16 ∧ s.Same [] t ∧
        s.Frame noRegs [PWR_CAP_CFG.brine_drain_us] t) ∧
    (∀ (n : Fin 2048) (data : Word), sourceListed n = true →
      ∃ t, exec (.registerWrite 0 false (FLT_SRC.regOff n + 4) 4 data) s = .next t ∧
        t.get (FLT_SRC.corr_pend n) = (if data.toNat.testBit 0 then 0 else s.get (FLT_SRC.corr_pend n)) ∧
        t.get (FLT_SRC.cont_pend n) = (if data.toNat.testBit 1 then 0 else s.get (FLT_SRC.cont_pend n)) ∧
        t.get (FLT_SRC.fatal_pend n) = (if data.toNat.testBit 2 then 0 else s.get (FLT_SRC.fatal_pend n)) ∧
        s.Same [] t ∧
        s.Frame noRegs [FLT_SRC.rx_fatal n, FLT_SRC.vector n, FLT_SRC.corr_pend n, FLT_SRC.cont_pend n,
          FLT_SRC.fatal_pend n] t) ∧
    (∃ t, exec (.readClear 0 false TBL_CMD_STAT.regOff 8) s = .next t ∧
        t.readVal.toNat = s.get TBL_CMD_STAT.accepted + s.get TBL_CMD_STAT.refused * 2 ^ 32 +
          s.get TBL_CMD_STAT.full * 2 ^ 48 ∧
        t.get TBL_CMD_STAT.accepted = 0 ∧ t.get TBL_CMD_STAT.refused = 0 ∧ t.get TBL_CMD_STAT.full = 0 ∧
        s.Same [.readVal] t ∧
        s.Frame noRegs [TBL_CMD_STAT.accepted, TBL_CMD_STAT.refused, TBL_CMD_STAT.full] t)

/-- 00_scope.md R19, R21: a command with a check makes its block busy and the check joins those that run, with the values
it takes; while the block is busy it starts nothing and changes nothing of the check that runs. -/
def Obligations.CommandsStartOneCheckOfTheirBlock : Prop :=
  ∀ (s : State) (c : Instr) (k : Check), s.Inv → startedCheck s c = some k →
    (c ∈ gatedWrites → s.get PWR_STATUS.state < 2) →
    (s.get (esBusy k.key) = 0 →
      ∃ t, exec c s = .next t ∧ t.get (esBusy k.key) = 1 ∧ t.checks = s.checks ++ [k] ∧
        (c ≠ .bufApply → t.buf = s.buf) ∧ s.Same [.checks, .buf] t ∧
        s.Frame noRegs (esBusy k.key :: writtenWith c) t) ∧
    (s.get (esBusy k.key) = 1 →
      ∃ t, exec c s = .next t ∧ t.checks = s.checks ∧ s.Same [] t ∧ s.Frame noRegs (writtenWith c) t)

/-- 14_power_thermal.md R524: in BRINE and BRINE_EXIT a write to a register of a gated unit is discarded and counted. -/
def Obligations.GatedUnitsDiscardWritesInBrine : Prop :=
  ∀ (s : State) (c : Instr), s.Inv → c ∈ gatedWrites → 2 ≤ s.get PWR_STATUS.state →
    ∃ t, exec c s = .next t ∧ t.get PWR_STAT.brine_writes = min (s.get PWR_STAT.brine_writes + 1) 65535 ∧
      s.Same [] t ∧ s.Frame noRegs [PWR_STAT.brine_writes] t

/-- 00_scope.md R19, R20, R22, R25: a check that ends reports its reason and detail, is counted, and is no longer busy;
with a fault the reason is 0xFF of its class. An accepted apply stages the values of 14_power_thermal.md R528. -/
def Obligations.ChecksReportAsTheyEnd : Prop :=
  ∀ (s : State) (k : Check), s.Inv → s.checks.find? (fun c => c.key = k.key) = some k →
    (∀ fault : Option (Fin 2048 × Word), k.op ≠ .image → k.op ≠ .patch → k.op ≠ .keyProvision →
      (fault = none → (s.judge k.op k.args).isSome) →
      ∃ t, exec (.enableCheckDone k.key fault) s = .next t ∧
        t.get (esReason k.key) =
          (if fault.isSome then checkClass k.op * 256 + 255 else ((s.judge k.op k.args).getD (0, 0)).1 % 2 ^ 16) ∧
        t.get (esDetail k.key) = (if fault.isSome then 0 else ((s.judge k.op k.args).getD (0, 0)).2 % 2 ^ 16) ∧
        t.get (esValid k.key) = 1 ∧ t.get (esBusy k.key) = 0 ∧
        t.checks = s.checks.filter (fun c => c.key ≠ k.key) ∧
        (∀ n syn, fault = some (n, syn) → sourceListed n = true → t.get (FLT_SRC.cont_pend n) = 1) ∧
        (k.op = .power → fault = none → t.get (esAttempts k.key) = (s.get (esAttempts k.key) + 1) % 2 ^ 16 ∧
          s.Same [.checks] t ∧ s.Frame noRegs (esFields k.key) t)) ∧
    (k.op = .power → s.judge k.op k.args = none →
      ∃ t, exec (.enableCheckDone k.key none) s = .next t ∧
        t.pwr = { s.pwr with staged := some s.stagedPower } ∧
        t.get (esReason k.key) = 0 ∧ t.get (esDetail k.key) = 0 ∧ t.get (esValid k.key) = 1 ∧ t.get (esBusy k.key) = 0 ∧
        t.get (esAttempts k.key) = (s.get (esAttempts k.key) + 1) % 2 ^ 16 ∧
        t.checks = s.checks.filter (fun c => c.key ≠ k.key) ∧
        s.Same [.checks, .pwr] t ∧ s.Frame noRegs (esFields k.key) t)

/-- 14_power_thermal.md R517-R520: the temperature at which throttling begins and ends, and the emergency temperature, set
the sensor's reading, the thermal reason, its targets and its flags. 14_power_thermal.md R510, R512-R515, R520: what a
droop, a cap input, a ramp hold and their ends do at once to the ratios, the reasons and the level, and what they
leave unchanged. -/
def Obligations.SensorDroopAndCapEventsThrottle : Prop :=
  (∀ s : State, s.Inv →
    (∀ temp : Fin 256, s.pwr.active.throttleC ≤ temp →
      ∃ t, exec (.thermalThrottle temp) s = .next t ∧
        t.get PWR_STATUS.temp_c = temp ∧ (t.get PWR_STATUS.reasons).testBit 2 = true ∧ t.ShowsThrottle ∧
        t = { s with regs := t.regs, pwr := { s.pwr with evtDue := t.pwr.evtDue } } ∧
        s.Frame noRegs (PWR_STATUS.temp_c :: throttleFields) t) ∧
    (∀ temp : Fin 256, temp ≤ s.pwr.active.releaseC →
      ∃ t, exec (.thermalRelease temp) s = .next t ∧
        t.get PWR_STATUS.temp_c = temp ∧ (t.get PWR_STATUS.reasons).testBit 2 = false ∧ t.ShowsThrottle ∧
        t = { s with regs := t.regs, pwr := { s.pwr with evtDue := t.pwr.evtDue } } ∧
        s.Frame noRegs (PWR_STATUS.temp_c :: throttleFields) t) ∧
    (∀ sensor temp : Fin 256, s.pwr.active.tripC ≤ temp →
      ∃ t, exec (.thermalTrip sensor temp) s = .next t ∧
        t.get PWR_STATUS.temp_c = temp ∧ (t.get PWR_STATUS.reasons).testBit 2 = true ∧ t.ShowsThrottle ∧
        (s.get PWR_STATUS.state ≠ 2 → t.pwr.floor = true ∧
          ∀ p < 32, t.get (PWR_PIPE_STAT.ratio p) = s.pwr.active.maxRatio.getD p 0 % 8) ∧
        t.get (FLT_SRC.fatal_pend 1705) = 1 ∧ t.get FLT_STATUS.fault_pin = 1 ∧
        t.get (FLT_SRC.count 1705) = (s.get (FLT_SRC.count 1705) + 1) % 2 ^ 16 ∧
        t = { s with regs := t.regs, out := t.out, hif := t.hif, flt := t.flt
                     pwr := { s.pwr with evtDue := t.pwr.evtDue, moves := t.pwr.moves, floor := t.pwr.floor } } ∧
        s.Frame faultRegs (PWR_STATUS.temp_c :: throttleFields ++ (List.range 32).map PWR_PIPE_STAT.ratio) t)) ∧
  (∀ s : State, s.Inv →
    (∃ t, exec .droopFire s = .next t ∧
      t.get PWR_STAT.droop_events = min (s.get PWR_STAT.droop_events + 1) 65535 ∧
      (t.get PWR_STATUS.reasons).testBit 1 = true ∧ t.ShowsThrottle ∧
      t.pwr = { s.pwr with droopIdle := true, evtDue := t.pwr.evtDue } ∧ s.Same [.pwr] t ∧
      s.Frame noRegs (PWR_STAT.droop_events :: throttleFields) t) ∧
    (∃ t, exec .droopRelease s = .next t ∧
      (t.get PWR_STATUS.reasons).testBit 1 = false ∧ t.ShowsThrottle ∧
      t.pwr = { s.pwr with droopIdle := false, evtDue := t.pwr.evtDue } ∧ s.Same [.pwr] t ∧
      s.Frame noRegs throttleFields t) ∧
    (∀ mean : Nat, min s.pwr.active.cap (min (s.get PWR_EXT_LIMIT.host_cap_w) (s.get PWR_EXT_LIMIT.bmc_cap_w)) * 1000 * 105
        < mean * 100 →
      ∃ t, exec (.capFastCheck mean) s = .next t ∧
        (t.get PWR_STATUS.reasons).testBit 3 = true ∧ t.ShowsThrottle ∧
        t.pwr = { s.pwr with fastIdle := true, evtDue := t.pwr.evtDue } ∧ s.Same [.pwr] t ∧
        s.Frame noRegs throttleFields t) ∧
    (∀ demand : Nat,
      ∃ t, exec (.activityRampWindow demand) s = .next t ∧
        t.pwr.corePower ≤ s.pwr.corePower + 250 * s.pwr.active.upSlope ∧
        s.pwr.corePower ≤ t.pwr.corePower + 250 * s.pwr.active.downSlope ∧
        (t.pwr.rampIdle = true ↔ s.pwr.corePower + 250 * s.pwr.active.upSlope < demand) ∧
        (t.pwr.dummy = true ↔ demand + 250 * s.pwr.active.downSlope < s.pwr.corePower) ∧
        (t.pwr.rampIdle = false → t.pwr.dummy = false → t.pwr.corePower = demand) ∧
        t.pwr = { s.pwr with corePower := t.pwr.corePower, rampIdle := t.pwr.rampIdle, dummy := t.pwr.dummy } ∧
        t.regs = s.regs ∧ s.Same [.pwr] t))

/-- 18_package_pins.md R600, R601: a voltage read within 5 mV confirms the write; a failed attempt is counted and the
third one sets fail; the retry timer writes the same target again. -/
def Obligations.CoreRailWritesAreConfirmedOrRetried : Prop :=
  ∀ s : State, s.Inv → s.pwr.railWait = true →
    (∀ mv : Nat, mv ≤ s.get PKG_AVS_STATUS.target_mv + 5 → s.get PKG_AVS_STATUS.target_mv ≤ mv + 5 →
      ∃ t, exec (.avsConfirm mv) s = .next t ∧ t.get PKG_AVS_STATUS.confirmed_mv = s.get PKG_AVS_STATUS.target_mv ∧
        t.pwr = { s.pwr with railWait := false, attempts := 0 } ∧ s.Same [.pwr] t ∧
        s.Frame noRegs [PKG_AVS_STATUS.confirmed_mv] t) ∧
    (∀ mv : Nat, s.get PKG_AVS_STATUS.target_mv + 5 < mv ∨ mv + 5 < s.get PKG_AVS_STATUS.target_mv →
      ∃ t, exec (.avsConfirm mv) s = .next t ∧
        t.get PKG_AVS_STATUS.retries = min (s.get PKG_AVS_STATUS.retries + 1) 65535 ∧
        t.get PKG_AVS_STATUS.fail = (if 3 ≤ s.pwr.attempts then 1 else s.get PKG_AVS_STATUS.fail) ∧ s.Same [] t ∧
        s.Frame noRegs [PKG_AVS_STATUS.retries, PKG_AVS_STATUS.fail] t) ∧
    (∃ t, exec .avsRetryTimer s = .next t ∧ t.out = .avs (s.get PKG_AVS_STATUS.target_mv) :: s.out ∧
        t.pwr = { s.pwr with attempts := s.pwr.attempts + 1 } ∧ t.regs = s.regs ∧ s.Same [.pwr, .out] t)

/-- 14_power_thermal.md R507, R508, R516: a pending move changes one pipe's ratio at once when its clock falls or the
confirmed rail carries it; a rise that the rail does not carry waits and asks for the voltage. -/
def Obligations.RatioMovesFollowTheRail : Prop :=
  ∀ (s : State) (p r : Nat) (rest : List Nat), s.Inv → p < 32 → r < 8 → s.pwr.moves = (p * 8 + r) :: rest →
    (s.get (PWR_PIPE_STAT.ratio p) ≤ r ∨
        s.pwr.active.nominal.getD p 0 ≤ r ∧ (r = 0 → 1830 ≤ fmaxMhz p) ∧ railNeed p r ≤ s.get PKG_AVS_STATUS.confirmed_mv →
      ∃ t, exec .ratioMove s = .next t ∧ t.get (PWR_PIPE_STAT.ratio p) = r ∧ t.ShowsThrottle ∧
        t.pwr = { s.pwr with moves := rest, railWait := t.pwr.railWait, attempts := t.pwr.attempts, evtDue := t.pwr.evtDue } ∧
        t.out.length ≤ s.out.length + 1 ∧ s.Same [.pwr, .out] t ∧
        s.Frame noRegs ([PWR_PIPE_STAT.ratio p, PKG_AVS_STATUS.target_mv, PWR_STATUS.core_mv] ++ throttleFields) t) ∧
    (r < s.get (PWR_PIPE_STAT.ratio p) → s.pwr.active.nominal.getD p 0 ≤ r → (r = 0 → 1830 ≤ fmaxMhz p) →
      s.get PKG_AVS_STATUS.confirmed_mv < railNeed p r → s.get PKG_AVS_STATUS.fail = 0 →
      ∃ t, exec .ratioMove s = .next t ∧ t.get PKG_AVS_STATUS.target_mv = max s.railTarget (railNeed p r) ∧
        (s.get PKG_AVS_STATUS.target_mv ≠ max s.railTarget (railNeed p r) →
          t.get PWR_STATUS.core_mv = max s.railTarget (railNeed p r) ∧
          t.out = .avs (max s.railTarget (railNeed p r)) :: s.out ∧
          t.pwr = { s.pwr with railWait := true, attempts := 1 }) ∧
        (s.get PKG_AVS_STATUS.target_mv = max s.railTarget (railNeed p r) → t = s) ∧
        s.Same [.pwr, .out] t ∧ s.Frame noRegs [PKG_AVS_STATUS.target_mv, PWR_STATUS.core_mv] t)

/-- 14_power_thermal.md R511: each pipe's phase from the fraction of its slots used in the latest 10 µs window against the
mean of the last 16 windows, both in units of 2^-16. 14_power_thermal.md R508, R512, R528: an evaluation makes staged
values active, reports the power, sets targets not below nominal, says with cap_unmet that every pipe is at max_ratio
and the cap is still not met, and moves no pipe by more than one step, and one further step while the thermal reason
is set. -/
def Obligations.WindowsAndEvaluationsSetPhasesAndRatios : Prop :=
  (∀ (s : State) (used total : List Nat), s.Inv →
    ∃ t, exec (.loadWindow used total) s = .next t ∧
      (∀ p < 32, 0 < total.getD p 0 → used.getD p 0 ≤ total.getD p 0 →
        let a := used.getD p 0 * 65536 / total.getD p 0
        let m16 := sumNat ((a :: smGet (fun _ => []) s.pwr.windows p).take 16)
        t.get (PWR_PIPE_STAT.phase p) =
          (if a * 32 < 65536 then 0 else if 16 * a + 65536 ≤ m16 then 1 else if m16 + 65536 ≤ 16 * a then 3 else 2)) ∧
      t.pwr = { s.pwr with windows := t.pwr.windows } ∧ s.Same [.pwr] t ∧
      s.Frame noRegs ((List.range 32).map PWR_PIPE_STAT.phase ++ (List.range 32).map PWR_PIPE_STAT.activity) t) ∧
  (∀ (s : State) (mean core : Nat), s.Inv →
    ∃ t, exec (.capEvaluate mean core) s = .next t ∧
      t.pwr.active = s.pwr.staged.getD s.pwr.active ∧ t.pwr.staged = none ∧
      t.get PWR_STATUS.power_w = mean / 1000 % 2 ^ 11 ∧ t.pwr.corePower = core ∧
      t.pwr.modelEpoch = s.pwr.modelEpoch + 1 ∧ t.ShowsThrottle ∧
      (t.get PWR_STATUS.cap_unmet = 1 → ∀ p < 32, t.pwr.active.maxRatio.getD p 0 ≤ t.pwr.targets.getD p 0) ∧
      (t.get PWR_STATUS.cap_unmet = 1 → s.get PWR_STATUS.cap_unmet = 0 →
        t.get (FLT_SRC.corr_pend 1704) = 1 ∧ t.get (FLT_SRC.count 1704) = (s.get (FLT_SRC.count 1704) + 1) % 2 ^ 16) ∧
      (∀ p < 32, t.pwr.active.nominal.getD p 0 ≤ t.pwr.targets.getD p 0) ∧
      ((∀ p < 32, t.pwr.active.nominal.getD p 0 < 8 ∧ t.pwr.active.maxRatio.getD p 0 < 8) →
        ∀ m ∈ t.pwr.moves, m / 8 < 32 ∧ s.get (PWR_PIPE_STAT.ratio (m / 8)) ≤ m % 8 + 1 ∧
          m % 8 ≤ s.get (PWR_PIPE_STAT.ratio (m / 8)) + (if (s.get PWR_STATUS.reasons).testBit 2 then 2 else 1)) ∧
      s.Same [.pwr, .out, .hif, .flt] t ∧
      s.Frame faultRegs (PWR_STATUS.power_w :: PWR_STATUS.cap_unmet :: throttleFields) t)

/-- 14_power_thermal.md R520, R522: a THROTTLE event that is due is written at most once in 100 µs; where its ring is no
enabled EVENT ring of the physical function it is counted there as lost. -/
def Obligations.ThrottleEventsAreLimited : Prop :=
  ∀ (s : State) (due : Nat), s.Inv → s.pwr.evtDue = some due → s.get PWR_EVT_CFG.event_en = 1 →
    ((∀ c, s.pwr.evtLast = some c → c + 80000 ≤ s.clk) →
      ∃ t, exec .throttleEvent s = .next t ∧ t.pwr = { s.pwr with evtDue := none, evtLast := some s.clk } ∧
        (s.ringEnabled (s.get PWR_EVT_CFG.event_ring) = false →
          (s.ring (s.get PWR_EVT_CFG.event_ring)).dueEvents = [] →
          t.get (RING_STAT.lost (s.get PWR_EVT_CFG.event_ring)) =
            min (s.get (RING_STAT.lost (s.get PWR_EVT_CFG.event_ring)) + 1) 65535 ∧
          s.Same [.pwr] t ∧ s.Frame noRegs [RING_STAT.lost (s.get PWR_EVT_CFG.event_ring)] t) ∧
        s.Same [.pwr, .out, .hif] t ∧ s.Frame hostRegs [] t) ∧
    (∀ c, s.pwr.evtLast = some c → s.clk < c + 80000 → exec .throttleEvent s = .next s)

/-- 14_power_thermal.md R526: a brine_exit written during BRINE_ENTRY is held, entry completes and exit begins at once; a
brine_enter written during BRINE_EXIT is refused. -/
def Obligations.BrineExitsAreHeldAndEntriesRefused : Prop :=
  ∀ (s : State) (k : Check), s.Inv → k.key = PWR_ENABLE_STATUS.regOff →
    s.checks.find? (fun c => c.key = PWR_ENABLE_STATUS.regOff) = some k →
    (k.op = .brineExit → s.get PWR_STATUS.state = 1 →
      ∃ t, exec (.enableCheckDone PWR_ENABLE_STATUS.regOff none) s = .next t ∧ t.pwr = { s.pwr with held := true } ∧
        t.get PWR_STATUS.state = 1 ∧ t.get PWR_ENABLE_STATUS.reason = 0 ∧ s.Same [.pwr, .checks] t ∧
        s.Frame noRegs (esFields PWR_ENABLE_STATUS.regOff) t) ∧
    (k.op = .brineEnter → s.get PWR_STATUS.state = 3 →
      ∃ t, exec (.enableCheckDone PWR_ENABLE_STATUS.regOff none) s = .next t ∧
        t.get PWR_STATUS.state = 3 ∧ t.get PWR_ENABLE_STATUS.reason = 0x806 ∧ s.Same [.checks] t ∧
        s.Frame noRegs (esFields PWR_ENABLE_STATUS.regOff) t) ∧
    (s.get PWR_STATUS.state = 1 → s.pwr.held = true →
      ∃ t, exec .brineDrainEnd s = .next t ∧ t.get PWR_STATUS.state = 3 ∧ t.pwr.held = false)

/-- 14_power_thermal.md R523, R525: entry ends in BRINE, and in BRINE_EXIT where an exit was held; the wake time and a
brine_exit begin the exit; at its end the state is RUN and placement has neither map nor flowlets. -/
def Obligations.BrineStatesFollowTheirEvents : Prop :=
  ∀ s : State, s.Inv →
    (s.get PWR_STATUS.state = 1 →
      ∃ t, exec .brineDrainEnd s = .next t ∧ t.get PWR_STATUS.state = (if s.pwr.held then 3 else 2) ∧
        t.pwr.held = false ∧
        (s.pk.pkts = [] → s.pk.copies = [] → t.get PWR_STAT.brine_discards = s.get PWR_STAT.brine_discards ∧
          t.pwr = { s.pwr with held := false, evtDue := t.pwr.evtDue } ∧ s.Same [.pwr] t ∧
          s.Frame noRegs (PWR_STATUS.state :: throttleFields) t)) ∧
    (s.get PWR_STATUS.state = 2 → s.get PWR_WAKE_TIME.wake_en = 1 →
      0 ≤ wrapDiff s.wrapNow (s.get PWR_WAKE_TIME.time) →
      ∃ t, exec .brineWakeTime s = .next t ∧ t.get PWR_STATUS.state = 3 ∧ s.Same [] t ∧
        s.Frame noRegs [PWR_STATUS.state] t) ∧
    (s.get PWR_STATUS.state = 2 → ∀ k : Check, k.op = .brineExit →
      s.checks.find? (fun c => c.key = PWR_ENABLE_STATUS.regOff) = some k →
      ∃ t, exec (.enableCheckDone PWR_ENABLE_STATUS.regOff none) s = .next t ∧ t.get PWR_STATUS.state = 3 ∧
        t.get PWR_ENABLE_STATUS.reason = 0 ∧ s.Same [.checks] t ∧
        s.Frame noRegs (PWR_STATUS.state :: esFields PWR_ENABLE_STATUS.regOff) t) ∧
    (s.get PWR_STATUS.state = 3 →
      ∃ t, exec .brineExitDone s = .next t ∧ t.get PWR_STATUS.state = 0 ∧ t.ShowsThrottle ∧ t.pl.map = [] ∧
        t.pl.flowlets = [] ∧ (∀ f < 128, t.get (PL_LINK.neighbor_live f) = 0) ∧
        t.pwr = { s.pwr with evtDue := t.pwr.evtDue } ∧ s.Same [.pwr, .pl] t ∧
        s.Frame noRegs ((PWR_STATUS.state :: PL_FAB_STATUS.links_live :: throttleFields) ++
          (List.range 128).map PL_LINK.neighbor_live) t)

/-- 17_startup.md R580, R586: a cold reset begins in phase SUPPLY with every register at its reset value and nothing
loaded; the fuses of slot 2 stay. 17_startup.md R580-R582: the phases of a cold reset follow one another; STRAP_TEST
holds the device in SUPPLY; at READY device time is 0. -/
def Obligations.ColdResetRunsThroughItsPhases : Prop :=
  (∀ (s : State) (c : Instr), c = .powerOn ∨ c = .railFault →
    ∃ t, exec c s = .next t ∧ t.get PKG_BOOT_STATUS.phase = 0 ∧ (∀ k, t.raw k = regReset k) ∧
      t.cip.slots = [] ∧ t.cip.fuse2 = s.cip.fuse2 ∧ t.boot = {} ∧ t.checks = [] ∧ t.time = {} ∧ t.flt = {} ∧ t.hif = {} ∧
      t.pwr = State.reset.pwr ∧ t.img = {} ∧ t.tbl = {} ∧ t.pk = {} ∧ t.buf = {} ∧ t.mtr = {} ∧ t.sch = {} ∧ t.pl = {} ∧
      t.io = {} ∧ t.pin.perst = s.pin.perst ∧ t.pin.stopped = false ∧
      s.Same [.checks, .time, .flt, .hif, .pwr, .cip, .boot, .pin, .img, .tbl, .pk, .buf, .mtr, .sch, .pl, .io] t) ∧
  (∀ s : State, s.Inv → s.boot.warm = false →
    (s.get PKG_BOOT_STATUS.phase = 0 → s.boot.test = false →
      ∃ t, exec (.resetPhaseDone .supply) s = .next t ∧ t.get PKG_BOOT_STATUS.phase = 1 ∧ s.Same [] t ∧
        s.Frame noRegs [PKG_BOOT_STATUS.phase] t) ∧
    (s.get PKG_BOOT_STATUS.phase = 1 → ∀ (ok : Bool) (smba : Fin 8) (test : Bool),
      ∃ t, exec (.resetPhaseDone (.fuse ok smba test)) s = .next t ∧
        t.get PKG_BOOT_STATUS.phase = (if test then 0 else 2) ∧ t.get PKG_BOOT_STATUS.fuse_ok = (if ok then 1 else 0) ∧
        t.boot = { s.boot with smba := smba, test := test } ∧ t.cip = { s.cip with slots := fuseSlots s.cip.fuse2 } ∧
        s.Same [.boot, .cip] t ∧ s.Frame noRegs [PKG_BOOT_STATUS.phase, PKG_BOOT_STATUS.fuse_ok] t) ∧
    (s.get PKG_BOOT_STATUS.phase = 2 →
      ∃ t, exec (.resetPhaseDone .clock) s = .next t ∧ t.get PKG_BOOT_STATUS.phase = 3 ∧ s.Same [] t ∧
        s.Frame noRegs [PKG_BOOT_STATUS.phase] t) ∧
    (s.get PKG_BOOT_STATUS.phase = 3 → ∀ (pipes : Nat) (areas : Fin 16) (repairs ms : Nat),
      ∃ t, exec (.resetPhaseDone (.selftest pipes areas repairs ms)) s = .next t ∧
        t.get PKG_BOOT_STATUS.phase = 4 ∧ t.get PKG_BOOT_STATUS.selftest_done = 1 ∧
        t.get PKG_BOOT_STATUS.selftest_fail = (if pipes % 2 ^ 32 = 0 ∧ areas.val = 0 then 0 else 1) ∧
        t.get PKG_BOOT_STATUS.selftest_ms = ms % 2 ^ 16 ∧ t.get PKG_SELFTEST.pipe_fail = pipes % 2 ^ 32 ∧
        t.get PKG_SELFTEST.buffer = areas.val % 2 ∧ t.get PKG_SELFTEST.io_dies = areas.val / 8 ∧
        t.get PKG_SELFTEST.repairs = min repairs 65535 ∧ t.time = { s.time with total := 0, quarter := 0 } ∧
        t.mtr = { s.mtr with nonce := s.free } ∧ t.free = s.free + 1 ∧ s.Same [.time, .mtr, .free] t ∧
        s.Frame noRegs [PKG_BOOT_STATUS.phase, PKG_BOOT_STATUS.selftest_done, PKG_BOOT_STATUS.selftest_fail,
          PKG_BOOT_STATUS.selftest_ms, PKG_SELFTEST.pipe_fail, PKG_SELFTEST.buffer, PKG_SELFTEST.cell_state,
          PKG_SELFTEST.sequencers, PKG_SELFTEST.io_dies, PKG_SELFTEST.repairs] t))

/-- 17_startup.md R585-R587, 15_faults.md R538, R539: each cause of a warm reset, from READY, keeps the fault registers
and what the cold reset found, counts, names its cause, reloads the fuse slots and empties everything else.
17_startup.md R584, R587: a warm reset ends at the later of its work and PERST_N release; then the link may train. -/
def Obligations.WarmResetsKeepFaultRegistersAndEndWithPerst : Prop :=
  (∀ (s : State) (c : Instr) (cause : Nat), s.Inv → s.get PKG_BOOT_STATUS.phase = 4 →
    (c = .perstAssert ∧ s.pin.perst = true ∧ cause = 1) ∨
      (c = .chipResetStart ∧ (∃ at', s.flt.chipAt = some at' ∧ at' ≤ s.clk) ∧ cause = 2) ∨
      (∃ data : Word, c = .pkgWarmReset data ∧ data.toNat % 2 = 1 ∧ data.toNat / 256 % 256 = 0xA5 ∧ cause = 3) →
    ∃ t, exec c s = .next t ∧ t.boot = { s.boot with warm := true, waits := false } ∧
      t.get PKG_BOOT_STATUS.last_reset = cause ∧
      t.get PKG_BOOT_STATUS.warm_count = min (s.get PKG_BOOT_STATUS.warm_count + 1) 65535 ∧
      t.get PKG_BOOT_STATUS.selftest_fail = s.get PKG_BOOT_STATUS.selftest_fail ∧
      t.raw FLT_STATUS.regOff = s.raw FLT_STATUS.regOff ∧ t.raw FLT_HIST_PTR.regOff = s.raw FLT_HIST_PTR.regOff ∧
      (∀ i < 64, ∀ w < 8, t.raw (FLT_HIST.regOff i w) = s.raw (FLT_HIST.regOff i w)) ∧
      (∀ n < 2048, t.get (FLT_SRC.corr_pend n) = s.get (FLT_SRC.corr_pend n) ∧
        t.get (FLT_SRC.cont_pend n) = s.get (FLT_SRC.cont_pend n) ∧
        t.get (FLT_SRC.fatal_pend n) = s.get (FLT_SRC.fatal_pend n) ∧ t.get (FLT_SRC.count n) = s.get (FLT_SRC.count n)) ∧
      (∀ k, k ≠ PKG_BOOT_STATUS.regOff → k ≠ PKG_SELFTEST.regOff → k ≠ FLT_STATUS.regOff → k ≠ FLT_HIST_PTR.regOff →
        k / 4096 ≠ FLT_HIST.regOff 0 0 / 4096 → (k < FLT_SRC.regOff 0 ∨ FLT_SRC.regOff 2048 ≤ k) →
        t.raw k = regReset k) ∧
      t.cip = { slots := fuseSlots s.cip.fuse2, fuse2 := s.cip.fuse2 } ∧ t.free = s.free + 1 ∧
      t.checks = [] ∧ t.img = {} ∧ t.tbl = {} ∧ t.pk = {} ∧ t.buf = {} ∧ t.sch = {} ∧ t.pl = {} ∧ t.io = {} ∧ t.hif = {} ∧
      t.pwr = State.reset.pwr ∧
      s.Same [.free, .checks, .time, .flt, .hif, .pwr, .cip, .boot, .pin, .img, .tbl, .pk, .buf, .mtr, .sch, .pl, .io] t) ∧
  (∀ s : State, s.Inv →
    (s.boot.warm = true → s.pin.perst = true →
      ∃ t, exec (.resetPhaseDone .warm) s = .next t ∧ t.get PKG_BOOT_STATUS.phase = 4 ∧
        t.boot = { s.boot with warm := false, waits := false } ∧ t.time = { s.time with total := 0, quarter := 0 } ∧
        s.Same [.boot, .time] t ∧ s.Frame noRegs [PKG_BOOT_STATUS.phase] t) ∧
    (s.boot.warm = true → s.pin.perst = false →
      ∃ t, exec (.resetPhaseDone .warm) s = .next t ∧ t.boot = { s.boot with waits := true } ∧ t.regs = s.regs ∧
        s.Same [.boot] t) ∧
    (∃ t, exec .perstRelease s = .next t ∧ t.pin = { s.pin with perst := true } ∧
      (s.boot.warm = true → s.boot.waits = true → t.get PKG_BOOT_STATUS.phase = 4 ∧
        t.boot = { s.boot with warm := false, waits := false } ∧ t.time.total = 0) ∧
      (s.boot.warm = false ∨ s.boot.waits = false → s.Same [.pin] t ∧ t.regs = s.regs) ∧
      s.Same [.pin, .boot, .time] t ∧ s.Frame noRegs [PKG_BOOT_STATUS.phase] t) ∧
    (s.get PKG_BOOT_STATUS.phase = 4 → s.pin.perst = true → ∀ (speed : Fin 6) (lanes : Fin 64), speed ≠ 0 →
      (lanes = 1 ∨ lanes = 2 ∨ lanes = 4 ∨ lanes = 8) →
      ∃ t, exec (.pcieLinkTrain speed lanes) s = .next t ∧ t.get HIF_STATUS.link_speed = speed.val ∧
        t.get HIF_STATUS.link_width = lanes.val ∧ s.Same [] t ∧
        s.Frame noRegs [HIF_STATUS.link_speed, HIF_STATUS.link_width] t))

/-- 18_package_pins.md R603, R604: a Block Read answers a byte count of 8 and the register as one snapshot, for codes 0 to
4 from the end of CLOCK and for every other code from READY; before, the code is not acknowledged. 18_package_pins.md
R602-R604: the two writes with their ranges, the codes that are not acknowledged and the clock-low timeout, from
READY. -/
def Obligations.SmbusReadsAnswerAndWritesAreChecked : Prop :=
  (∀ (s : State) (c : Instr) (k : Nat), s.Inv →
    ((c, k) ∈ [(.smbReadPkgId, PKG_ID.regOff), (.smbReadPkgCaps, PKG_CAPS.regOff), (.smbReadPkgSerial, PKG_SERIAL.regOff),
        (.smbReadBootStatus, PKG_BOOT_STATUS.regOff), (.smbReadFltStatus, FLT_STATUS.regOff)] →
      s.boot.warm = true ∨ 3 ≤ s.get PKG_BOOT_STATUS.phase →
      ∃ t, exec c s = .next t ∧ t.out = .smb (some (8 :: leBytes 8 (s.readReg k).1)) :: s.out ∧
        t.get PKG_SMB_STAT.transactions = min (s.get PKG_SMB_STAT.transactions + 1) 65535 ∧ s.Same [.out] t ∧
        s.Frame noRegs [PKG_SMB_STAT.transactions] t) ∧
    ((c, k) ∈ [(.smbReadPwrStatus, PWR_STATUS.regOff), (.smbReadPwrExtLimit, PWR_EXT_LIMIT.regOff),
        (.smbReadFltHistPtr, FLT_HIST_PTR.regOff), (.smbReadClkStatus, CLK_STATUS.regOff),
        (.smbReadAvsStatus, PKG_AVS_STATUS.regOff), (.smbReadPinStatus, PKG_PIN_STATUS.regOff),
        (.smbReadSmbStat, PKG_SMB_STAT.regOff), (.smbReadSelftest, PKG_SELFTEST.regOff),
        (.smbReadStraps, PKG_STRAPS.regOff)] →
      (s.get PKG_BOOT_STATUS.phase = 4 →
        ∃ t, exec c s = .next t ∧ t.out = .smb (some (8 :: leBytes 8 (s.readReg k).1)) :: s.out ∧
          t.get PKG_SMB_STAT.transactions = min (s.get PKG_SMB_STAT.transactions + 1) 65535 ∧ s.Same [.out] t ∧
          s.Frame noRegs [PKG_SMB_STAT.transactions] t) ∧
      (s.get PKG_BOOT_STATUS.phase = 3 →
        ∃ t, exec c s = .next t ∧ t.out = .smb none :: s.out ∧
          t.get PKG_SMB_STAT.nacks = min (s.get PKG_SMB_STAT.nacks + 1) 65535 ∧ s.Same [.out] t ∧
          s.Frame noRegs [PKG_SMB_STAT.nacks] t))) ∧
  (∀ s : State, s.Inv → s.get PKG_BOOT_STATUS.phase = 4 →
    (∀ watts : Fin 65536, 700 ≤ watts.val → watts.val ≤ 1450 →
      ∃ t, exec (.smbBmcCap watts true) s = .next t ∧ t.get PWR_EXT_LIMIT.bmc_cap_w = watts.val ∧
        t.get PKG_SMB_STAT.transactions = min (s.get PKG_SMB_STAT.transactions + 1) 65535 ∧ s.Same [] t ∧
        s.Frame noRegs [PWR_EXT_LIMIT.bmc_cap_w, PKG_SMB_STAT.transactions] t) ∧
    (∀ (watts : Fin 65536) (pec : Bool), watts.val < 700 ∨ 1450 < watts.val →
      ∃ t, exec (.smbBmcCap watts pec) s = .next t ∧ t.out = .smb none :: s.out ∧
        t.get PKG_SMB_STAT.nacks = min (s.get PKG_SMB_STAT.nacks + 1) 65535 ∧ s.Same [.out] t ∧
        s.Frame noRegs [PKG_SMB_STAT.nacks] t) ∧
    (∃ t, exec (.smbBrineWake 0xB1 true) s = .next t ∧
        t.get PWR_STATUS.state = (if s.get PWR_STATUS.state = 2 then 3 else s.get PWR_STATUS.state) ∧
        t.pwr = { s.pwr with held := s.pwr.held || decide (s.get PWR_STATUS.state = 1) } ∧
        t.get PKG_SMB_STAT.transactions = min (s.get PKG_SMB_STAT.transactions + 1) 65535 ∧ s.Same [.pwr] t ∧
        s.Frame noRegs [PWR_STATUS.state, PKG_SMB_STAT.transactions] t) ∧
    (∀ code : Fin 256, 13 < code.val → code.val ≠ 0x20 → code.val ≠ 0x21 →
      ∃ t, exec (.smbReservedCmd code) s = .next t ∧ t.out = .smb none :: s.out ∧
        t.get PKG_SMB_STAT.nacks = min (s.get PKG_SMB_STAT.nacks + 1) 65535 ∧ s.Same [.out] t ∧
        s.Frame noRegs [PKG_SMB_STAT.nacks] t) ∧
    (∃ t, exec .smbTimeout s = .next t ∧ t.get PKG_SMB_STAT.timeouts = min (s.get PKG_SMB_STAT.timeouts + 1) 65535 ∧
        s.Same [] t ∧ s.Frame noRegs [PKG_SMB_STAT.timeouts] t))

/-- 18_package_pins.md R606, R607: the test access port's instructions; those that drive or float the pins stop
forwarding. -/
def Obligations.TestInstructionsTakeEffect : Prop :=
  ∀ s : State,
    exec .tapReset s = .next { s with pin := { s.pin with tap := .idcode, trst := false } } ∧
    exec .bypass s = .next { s with pin := { s.pin with tap := .bypass, trst := true } } ∧
    (∃ t, exec .idcode s = .next t ∧ t.out = .tdo 0x092044DB :: s.out ∧
      t = { s with pin := { s.pin with tap := .idcode, trst := true }, out := t.out }) ∧
    (∀ cells : List Byte, ∃ t, exec (.samplePreload cells) s = .next t ∧ (∃ v, t.out = .tdo v :: s.out) ∧
      t = { s with pin := { s.pin with tap := .samplePreload, trst := true, cells := cells }, out := t.out
                   free := s.free + 1 }) ∧
    (∀ x ∈ [(Instr.extest, TapInstr.extest), (.extestPulse, .extestPulse), (.extestTrain, .extestTrain), (.clamp, .clamp)],
      ∃ t, exec x.1 s = .next t ∧ t.out = .pins (some s.pin.cells) :: s.out ∧
        t = { s with pin := { s.pin with tap := x.2, trst := true, stopped := true }, out := t.out }) ∧
    (∃ t, exec .highz s = .next t ∧ t.out = .pins none :: s.out ∧
      t = { s with pin := { s.pin with tap := .highz, trst := true, stopped := true }, out := t.out })

/-- 01_architecture.md R51-R53, 11_serial_lanes.md R419, R439: what the loss and the return of the clocks set. -/
def Obligations.ClockEventsSetTheirStatus : Prop :=
  ∀ s : State, s.Inv →
    (s.get CLK_STATUS.root_lock = 1 →
      ∃ t, exec .rootPllLockLoss s = .next t ∧ t.get CLK_STATUS.root_lock = 0 ∧ t.get CLK_STATUS.root_lock_lost = 1 ∧
        t.get (FLT_SRC.fatal_pend 1696) = 1 ∧ t.get (FLT_SRC.count 1696) = (s.get (FLT_SRC.count 1696) + 1) % 2 ^ 16 ∧
        t.get FLT_STATUS.fault_pin = 1 ∧ s.Same [.out, .hif, .flt] t ∧
        s.Frame faultRegs [CLK_STATUS.root_lock, CLK_STATUS.root_lock_lost] t) ∧
    (s.get CLK_STATUS.ref_present = 1 →
      ∃ t, exec .refClockLoss s = .next t ∧ t.get CLK_STATUS.ref_present = 0 ∧ t.get CLK_STATUS.ref_lost = 1 ∧
        s.Same [] t ∧ s.Frame noRegs [CLK_STATUS.ref_present, CLK_STATUS.ref_lost] t) ∧
    (∃ t, exec .refClockReturn s = .next t ∧ t.get CLK_STATUS.ref_present = 1 ∧ s.Same [] t ∧
        s.Frame noRegs [CLK_STATUS.ref_present] t) ∧
    (∀ m : Fin 128, s.get (LM_STATUS.band m) ≠ 0 → s.get CLK_STATUS.ref_present = 1 →
      ∃ t, exec (.lanePllRelock m) s = .next t ∧ t.get (LM_STATUS.pll_lock m) = 1 ∧
        (t.get (CLK_LANE_LOCK.locked (m / 64))).testBit (m % 64) = true ∧
        t.get CLK_STATUS.lane_macros_locked =
          (s.get CLK_STATUS.lane_macros_locked + 1 - s.get (LM_STATUS.pll_lock m)) % 2 ^ 8 ∧ s.Same [] t ∧
        s.Frame noRegs [LM_STATUS.pll_lock m, CLK_LANE_LOCK.locked (m / 64), CLK_STATUS.lane_macros_locked] t) ∧
    (∀ m : Fin 128, s.get (LM_STATUS.pll_lock m) = 1 → s.macroPorts m = [] →
      ∃ t, exec (.lanePllLockLoss m) s = .next t ∧ t.get (LM_STATUS.pll_lock m) = 0 ∧
        (t.get (CLK_LANE_LOCK.locked (m / 64))).testBit (m % 64) = false ∧
        t.get CLK_STATUS.lane_macros_locked = s.get CLK_STATUS.lane_macros_locked - 1 ∧
        t.get (FLT_SRC.cont_pend (48 * (m / 4) + 36 + m % 4)) = 1 ∧ s.Same [.out, .hif, .flt] t ∧
        s.Frame faultRegs [LM_STATUS.pll_lock m, CLK_LANE_LOCK.locked (m / 64), CLK_STATUS.lane_macros_locked] t) ∧
    (∀ (m : Fin 128) (r : PortRec), s.get (LM_STATUS.pll_lock m) = 1 → s.macroPorts m = [r] → r.first < 1024 →
      s.get (PORT_STATUS.state r.first) = 4 →
      ∃ t, exec (.lanePllLockLoss m) s = .next t ∧ t.get (PORT_STATUS.state r.first) = 5 ∧
        t.get (PORT_STATUS.up r.first) = 0 ∧ t.get (PORT_STATUS.down_cause r.first) = 6 ∧
        t.get (LM_STATUS.pll_lock m) = 0)

/-- 15_faults.md R533, R534, R537, R543, R554: an injected fault sets its pending bit, counts, and, being FATAL, drives
FAULT_N; an entry of the history holds its source, class and the injected mark. 15_faults.md R543: the host's read
position sets the count of unread entries of the history. -/
def Obligations.InjectedFaultsAreRaisedAndRecorded : Prop :=
  (∀ (s : State) (data : Word) (n : Fin 2048) (cls : Fin 4), s.Inv → data.toNat % 2 ^ 11 = n →
    data.toNat / 2 ^ 11 % 4 = cls → sourceListed n = true →
    (cls ≠ 0 →
      ∃ t, exec (.faultInject data) s = .next t ∧ t.get FLT_INJ.source = n ∧ t.get FLT_INJ.cls = cls ∧
        t.get (pendField n cls) = 1 ∧ t.get (FLT_SRC.count n) = (s.get (FLT_SRC.count n) + 1) % 2 ^ 16 ∧
        (cls = 3 → t.get FLT_STATUS.fault_pin = 1 ∧ t.get FLT_STATUS.last_fatal = n) ∧
        (cls ≠ 1 → t.get FLT_HIST_PTR.next = (s.get FLT_HIST_PTR.next + 1) % 64 ∧
          (let w := (t.raw (FLT_HIST.regOff (s.get FLT_HIST_PTR.next) 1)).toNat
           w % 2 ^ 11 = n ∧ w / 2 ^ 11 % 4 = cls ∧ w / 2 ^ 18 % 2 = 1)) ∧
        s.Same [.out, .hif, .flt] t ∧ s.Frame faultRegs [] t) ∧
    (cls = 0 →
      ∃ t, exec (.faultInject data) s = .next t ∧ t.get FLT_INJ.source = n ∧ t.get FLT_INJ.cls = 0 ∧ s.Same [] t ∧
        s.Frame noRegs [FLT_INJ.source, FLT_INJ.cls] t)) ∧
  (∀ (s : State) (data : Word), s.Inv →
    ∃ t, exec (.histReadUpdate data) s = .next t ∧ t.get FLT_HIST_PTR.read = data.toNat / 2 ^ 6 % 64 ∧
      t.flt.unread < 64 ∧ (t.flt.unread + t.get FLT_HIST_PTR.read) % 64 = s.get FLT_HIST_PTR.next ∧
      t.flt = { s.flt with unread := t.flt.unread } ∧ s.Same [.flt] t ∧ s.Frame noRegs [FLT_HIST_PTR.read] t)

/-- 15_faults.md R540, R541: a requested block reset makes FLT_RESET busy until it is complete; one of a unit that is in
reset, and one of a source without a block reset, starts nothing. -/
def Obligations.BlockResetsRunUntilTheyAreDone : Prop :=
  ∀ s : State, s.Inv →
    (∀ (data : Word) (u : UnitId), sourceListed (data.toNat % 2 ^ 11) = true → resetUnit (data.toNat % 2 ^ 11) = some u →
      s.resetting u = false →
      ∃ t, exec (.blockResetRequest data) s = .next t ∧ t.get FLT_RESET.source = data.toNat % 2 ^ 11 ∧
        t.get FLT_RESET.busy = 1 ∧ t.flt.requested = some u ∧ t.resetting u = true ∧ s.Same [.flt] t ∧
        s.Frame faultRegs [] t) ∧
    (∀ (data : Word), (∀ u, resetUnit (data.toNat % 2 ^ 11) = some u → s.resetting u = true) →
      ∃ t, exec (.blockResetRequest data) s = .next t ∧ t.get FLT_RESET.source = data.toNat % 2 ^ 11 ∧ s.Same [] t ∧
        s.Frame noRegs [FLT_RESET.source] t) ∧
    (∀ u : UnitId, u ≠ .host → s.resetting u = true →
      ∃ t, exec (.blockResetDone u) s = .next t ∧ t.resetting u = false ∧
        (s.flt.requested = some u → t.flt.requested = none ∧ t.get FLT_RESET.busy = 0) ∧
        (∀ c, u = .channel c → (∀ p ∈ s.pk.pkts, crossing c p = false) → (∀ d ∈ s.pk.copies, s.crossingOut c d = false) →
          s.Same [.flt] t ∧ s.Frame noRegs [FLT_RESET.busy, CH_STAT.stopped c] t) ∧
        (∀ f < 128, u = .link f → t.get (PL_LINK.neighbor_live f) = 0 ∧ t.get (PL_LINK.dup_chip f) = 0 ∧
          s.Same [.flt, .pl] t ∧
          s.Frame noRegs [FLT_RESET.busy, PL_LINK.neighbor_live f, PL_LINK.dup_chip f, PL_FAB_STATUS.links_live] t)) ∧
    (s.resetting .host = true → s.hif.pfReset = false →
      ∃ t, exec (.blockResetDone .host) s = .next t ∧ exec (.pfReset 0) s = .next t) ∧
    (s.resetting .host = true → s.hif.pfReset = true → exec (.blockResetDone .host) s = .next s)

/-- 15_faults.md R548-R552: an error of a channel that runs starts its reset, is counted and raised; the reset's end
clears the pointers, and a channel whose run was raised as FATAL stops until it is restarted. -/
def Obligations.ChannelErrorsResetTheChannel : Prop :=
  ∀ (s : State) (c : Fin 32), s.Inv →
    (∀ (toIo : Bool) (queue kind : Fin 3) (wa wb ra rb : Fin 128) (data check : Fin 3), s.channelRuns c = true →
      (kind = 0 → wa ≠ wb ∨ ra ≠ rb) → (kind = 1 → 2 ≤ data.val + check.val) →
      (kind = 2 → chSlots queue ≤ (s.chQueue (chKey c toIo queue)).credits) →
      (∀ d ∈ s.pk.copies, s.crossingOut c d = false ∧ d.wire = none) →
      ∃ t, exec (.channelError c toIo queue kind wa wb ra rb data check) s = .next t ∧ t.resetting (.channel c) = true ∧
        t.get (CH_STAT.resets c) = min (s.get (CH_STAT.resets c) + 1) 65535 ∧
        t.chQueue (chKey c toIo queue) = (if kind = 0 then { s.chQueue (chKey c toIo queue) with
          writeA := wa, writeB := wb, readA := ra, readB := rb } else s.chQueue (chKey c toIo queue)) ∧
        (∀ k, k ≠ chKey c toIo queue → t.chQueue k = s.chQueue k) ∧
        (t.get (FLT_SRC.cont_pend (48 * c + 35)) = 1 ∨ t.get (FLT_SRC.fatal_pend (48 * c + 35)) = 1) ∧
        (∀ p : Pkt, s.pkt p.id = some p → crossing c p = true → ∃ q, t.pkt p.id = some q ∧ q.err = true) ∧
        t.get (CH_STAT.discards c) =
          min (s.get (CH_STAT.discards c) + (s.pk.pkts.filter (crossing c)).length) (2 ^ 32 - 1) ∧
        s.Same [.out, .hif, .flt, .pk] t ∧ s.Frame faultRegs [CH_STAT.discards c] t) ∧
    (∀ (toIo : Bool) (queue : Fin 3) (x ra : Fin 128),
      exec (.channelError c toIo queue 0 x x ra ra 0 0) s = .next s ∧
      (∀ data check : Fin 3, data.val + check.val < 2 →
        exec (.channelError c toIo queue 1 x x ra ra data check) s = .next s) ∧
      ((s.chQueue (chKey c toIo queue)).credits < chSlots queue →
        ∃ t, exec (.channelError c toIo queue 2 x x ra ra 0 0) s = .next t ∧
          t.chQueue (chKey c toIo queue) = { s.chQueue (chKey c toIo queue) with
            credits := (s.chQueue (chKey c toIo queue)).credits + 1 } ∧
          (∀ k, k ≠ chKey c toIo queue → t.chQueue k = s.chQueue k) ∧ t.regs = s.regs ∧ s.Same [.flt] t)) ∧
    (s.resetting (.channel c) = true → (∀ p ∈ s.pk.pkts, crossing c p = false) →
      (∀ d ∈ s.pk.copies, s.crossingOut c d = false) →
      ∃ t, exec (.channelResetDone c) s = .next t ∧ t.resetting (.channel c) = false ∧
        (∀ toIo : Bool, ∀ q < 3, t.chQueue (chKey c toIo q) = ⟨0, 0, 0, 0, chSlots q, []⟩) ∧
        (∀ r, smGet noRun s.flt.chRuns c = some r → r.escalated = true → t.get (CH_STAT.stopped c) = 1) ∧
        (∀ r, smGet noRun s.flt.chRuns c = some r → r.escalated = false →
          t.get (CH_STAT.stopped c) = s.get (CH_STAT.stopped c)) ∧
        s.Same [.flt] t ∧ s.Frame noRegs [FLT_RESET.busy, CH_STAT.stopped c] t) ∧
    (s.get (CH_STAT.stopped c) = 1 →
      ∃ t, exec (.channelRestart c) s = .next t ∧ t.get (CH_STAT.stopped c) = 0 ∧
        t.flt = { s.flt with chRuns := t.flt.chRuns } ∧ s.Same [.flt] t ∧ s.Frame noRegs [CH_STAT.stopped c] t)

/-- 03_action_microcode.md R135-R137, R143: errors of control store words and of sequencer store words are counted and
raised; a word without a good copy stops its pipe, and one bad in both copies stops its sequencer. -/
def Obligations.StoreErrorsAreRepairedOrStop : Prop :=
  ∀ s : State, s.Inv →
    (∀ (pipe stage : Fin 32) (word : Fin 1024) (bad : List Nat), (∃ q < 32, q ≠ pipe.val ∧ q ∉ bad) →
      ∃ t, exec (.csRepair pipe stage word true bad) s = .next t ∧
        t.get (ACT_CS_ECC.repaired pipe stage) = min (s.get (ACT_CS_ECC.repaired pipe stage) + 1) 65535 ∧
        t.get (FLT_SRC.corr_pend (48 * pipe + stage)) = 1 ∧ s.Same [.out, .hif, .flt] t ∧
        s.Frame faultRegs [ACT_CS_ECC.repaired pipe stage] t) ∧
    (∀ (pipe stage : Fin 32) (word : Fin 1024) (bad : List Nat), (∀ q < 32, q ≠ pipe.val → q ∈ bad) →
      ∃ t, exec (.csRepair pipe stage word true bad) s = .next t ∧ pipe.val ∈ t.flt.stopped ∧
        t.pipeRuns pipe = false ∧
        (s.pk.pkts = [] → s.pk.copies = [] → pipe.val ∉ s.flt.stopped → t.get (FLT_SRC.cont_pend (48 * pipe + 34)) = 1)) ∧
    (∀ (pipe stage : Fin 32) (word : Fin 1024),
      ∃ t, exec (.csScrub pipe stage word 1) s = .next t ∧ t.get (ACT_CS_ECC.last_word pipe stage) = word ∧
        t.get (ACT_CS_ECC.corrected pipe stage) = min (s.get (ACT_CS_ECC.corrected pipe stage) + 1) 65535 ∧
        t.get (ACT_CS_ECC.last_double pipe stage) = 0 ∧ t.get (FLT_SRC.corr_pend (48 * pipe + stage)) = 1 ∧
        s.Same [.out, .hif, .flt] t ∧
        s.Frame faultRegs [ACT_CS_ECC.last_word pipe stage, ACT_CS_ECC.last_double pipe stage,
          ACT_CS_ECC.corrected pipe stage] t) ∧
    (∀ (q : Fin 3) (word : Fin 2048) (kind : Fin 3),
      ∃ t, exec (.seqStoreRepair q word kind) s = .next t ∧ t.get (SEQ_ECC.last_word q) = word ∧
        t.get (SEQ_ECC.corrected q) =
          (if kind = 0 then min (s.get (SEQ_ECC.corrected q) + 1) 65535 else s.get (SEQ_ECC.corrected q)) ∧
        t.get (SEQ_ECC.repaired q) =
          (if kind = 1 then min (s.get (SEQ_ECC.repaired q) + 1) 65535 else s.get (SEQ_ECC.repaired q)) ∧
        t.get (SEQ_STATUS.state q) = (if kind = 2 then 2 else s.get (SEQ_STATUS.state q)) ∧
        t.get (pendField (1697 + q) (if kind = 2 then 2 else 1)) = 1 ∧ s.Same [.out, .hif, .flt] t ∧
        s.Frame faultRegs [SEQ_ECC.last_word q, SEQ_ECC.last_double q, SEQ_ECC.corrected q, SEQ_ECC.repaired q,
          SEQ_STATUS.state q] t)

/-- 12_host_interface_rings.md R457-R459, R463: a doorbell of an enabled ring starts its scan, or asks for another one
after the scan that runs, and ends RING_INVAL; any other doorbell is counted and starts nothing.
12_host_interface_rings.md R448, R458, R459, R477: a scan's read keeps a copy of an entry that the host owns, ends the
scan at any other, and halts the ring when it fails. -/
def Obligations.DoorbellsStartScansThatEntryReadsExtend : Prop :=
  (∀ (s : State) (r : Fin 1024), s.Inv →
    (s.ringEnabled r = true → s.get (RING_CTL.halted (s.slot r)) = 0 → s.fnInReset (s.ringFunc r) = false →
      (s.ring r).aborting = false →
      ∃ t, exec (.ringDoorbell r) s = .next t ∧
        (t.ring r).scanning = true ∧ (t.ring r).copies = (s.ring r).copies ∧
        ((s.ring r).scanning = true → scanRoom (s.ring r) (s.ringSize r) = true → (t.ring r).again = true) ∧
        ((s.ring r).scanning = false → (t.ring r).inval = false) ∧ s.Same [.hif] t ∧ s.Frame hostRegs [] t) ∧
    (s.ringEnabled r = false ∨ s.get (RING_CTL.halted (s.slot r)) = 1 ∨ s.fnInReset (s.ringFunc r) = true →
      ∃ t, exec (.ringDoorbell r) s = .next t ∧ t.get HIF_STAT.db_discarded = min (s.get HIF_STAT.db_discarded + 1) 65535 ∧
        s.Same [] t ∧ s.Frame noRegs [HIF_STAT.db_discarded] t)) ∧
  (∀ (s : State) (r : Fin 1024) (words : List Word), s.Inv → s.readAllowed r = true → (s.ring r).scanning = true →
    (s.ring r).abortScan = false →
    ((words.getD 0 0).toNat / 2 ^ 63 = 1 → s.ringKind r ≠ 4 → (s.ring r).dueEvents = [] →
      ∃ t, exec (.ringEntryFetch r true words) s = .next t ∧ (t.ring r).copies = (s.ring r).copies ++ [words] ∧
        (t.ring r).scanning = true ∧ (t.ring r).take = (s.ring r).take ∧
        t.out = .hostRead (s.ringFunc r) (s.entryAddr r (scanPos (s.ring r))) 64 :: s.out ∧ s.Same [.out, .hif] t ∧
        s.Frame hostRegs [] t) ∧
    ((words.getD 0 0).toNat / 2 ^ 63 = 0 → s.ringKind r ≠ 4 → (s.ring r).dueEvents = [] → (s.ring r).again = true →
      ∃ t, exec (.ringEntryFetch r true words) s = .next t ∧ (t.ring r).copies = (s.ring r).copies ∧
        (t.ring r).scanning = true ∧ (t.ring r).again = false ∧
        t.out = .hostRead (s.ringFunc r) (s.entryAddr r (scanPos (s.ring r))) 64 :: s.out ∧ s.Same [.out, .hif] t ∧
        s.Frame hostRegs [] t) ∧
    (∃ t, exec (.ringEntryFetch r false words) s = .next t ∧ t.get (RING_CTL.halted (s.slot r)) = 1 ∧
      t.get HIF_STAT.read_fail = min (s.get HIF_STAT.read_fail + 1) 65535 ∧
      t.get (FLT_SRC.cont_pend 1703) = 1 ∧ s.Same [.out, .hif, .flt] t ∧
      s.Frame faultRegs [RING_CTL.halted (s.slot r)] t))

/-- 12_host_interface_rings.md R448: the requests for a range of host memory cover it in order, each at most as long as
the programmed size and inside one 4 KiB page; a ring beyond the limit of outstanding requests reads nothing. -/
def Obligations.RequestsKeepToTheProgrammedLimits : Prop :=
  (∀ size fuel addr n : Nat, 0 < size → n ≤ fuel →
    (∀ x ∈ requests size fuel addr n, 0 < x.2 ∧ x.2 ≤ size ∧ x.1 / 4096 = (x.1 + x.2 - 1) / 4096) ∧
    (requests size fuel addr n).flatMap (fun x => (List.range x.2).map (fun i => x.1 + i)) =
      (List.range n).map (fun i => addr + i)) ∧
  (∀ s : State, s.readSize ≤ 128 * 2 ^ (s.fn 0).maxRead ∧ s.payloadSize ≤ 128 * 2 ^ (s.fn 0).maxPayload) ∧
  (∀ (s : State) (r : Fin 1024) (ok : Bool) (words : List Word),
    (768 ≤ (s.hif.scans.filter s.reading).idxOf r.val → exec (.ringEntryFetch r ok words) s = .next s) ∧
    ((s.fn 0).tenBitTag = false → 256 ≤ (s.hif.scans.filter s.reading).idxOf r.val →
      exec (.ringEntryFetch r ok words) s = .next s))

/-- 12_host_interface_rings.md R463, R471, R472, R474: invalidation drops the copies and holds the ring; an abort takes
every copy and counts; a disable aborts first and the ring is off once the abort is done. -/
def Obligations.RingsAreInvalidatedAbortedAndDisabled : Prop :=
  ∀ (s : State) (r : Fin 1024), s.Inv →
    (∃ t, exec (.ringInval r) s = .next t ∧ (t.ring r).copies = [] ∧ (t.ring r).inval = true ∧
      (t.ring r).scanning = false ∧ (t.ring r).take = (s.ring r).take ∧ t.get (RING_INVAL.done (s.slot r)) = 1 ∧
      t.get (RING_INVAL.take_idx (s.slot r)) = (s.ring r).take % s.ringSize r % 2 ^ 16 ∧
      t.hif = { s.hif with rings := t.hif.rings, scans := t.hif.scans } ∧
      (scans (s.ring r) = true → (s.ring r).abortScan = false → r.val ∉ t.hif.scans) ∧ s.Same [.hif] t ∧
      s.Frame noRegs [RING_INVAL.done (s.slot r), RING_INVAL.take_idx (s.slot r)] t) ∧
    (s.ringEnabled r = true → s.get (RING_ABORT.busy (s.slot r)) = 0 → (s.ring r).taken = [] →
      s.hif.inject = [] → s.img.jobs = [] →
      ∃ t, exec (.ringAbort r) s = .next t ∧ t.get (RING_ABORT.busy (s.slot r)) = 1 ∧ (t.ring r).aborting = true ∧
        (t.ring r).copies = [] ∧
        t.get (RING_ABORT.aborted (s.slot r)) =
          (if s.get (RING_CTL.halted (s.slot r)) = 1 then 0 else (s.ring r).copies.length) % 2 ^ 17 ∧
        t.get (RING_ABORT.caught (s.slot r)) = 0 ∧ t.get (RING_ABORT.finished (s.slot r)) = 0 ∧
        s.Same [.out, .hif] t ∧
        s.Frame hostRegs [RING_ABORT.busy (s.slot r), RING_ABORT.aborted (s.slot r), RING_ABORT.caught (s.slot r),
          RING_ABORT.finished (s.slot r)] t) ∧
    (s.ringEnabled r = true → s.get (RING_CTL.disabling (s.slot r)) = 0 → s.get (RING_ABORT.busy (s.slot r)) = 0 →
      s.ringKind r ≠ 3 →
      ∃ t, exec (.ringDisable r) s = .next t ∧ t.get (RING_CTL.disabling (s.slot r)) = 1 ∧
        t.get (RING_ABORT.busy (s.slot r)) = 1) ∧
    ((s.ring r).aborting = true → (s.ring r).abortScan = false → (s.ring r).taken = [] → (s.ring r).complete ≠ 0 →
      s.get (RING_CTL.disabling (s.slot r)) = 0 →
      ∃ t, exec (.ringAbortDone r) s = .next t ∧ t.get (RING_ABORT.busy (s.slot r)) = 0 ∧ (t.ring r).aborting = false ∧
        s.Same [.hif] t ∧ s.Frame noRegs [RING_ABORT.busy (s.slot r)] t) ∧
    ((s.ring r).aborting = true → (s.ring r).abortScan = false → (s.ring r).taken = [] →
      s.get (RING_CTL.disabling (s.slot r)) = 1 → s.fnInReset (s.ringFunc r) = false →
      s.ringKind r = 2 → s.mtr.delivery = none →
      ∃ t, exec (.ringAbortDone r) s = .next t ∧ t.get (RING_CTL.enabled (s.slot r)) = 0 ∧
        t.get (RING_CTL.disabling (s.slot r)) = 0 ∧ t.get (RING_CTL.halted (s.slot r)) = 0 ∧ s.Same [.hif] t ∧
        s.Frame noRegs [RING_ABORT.busy (s.slot r), RING_CTL.enabled (s.slot r), RING_CTL.disabling (s.slot r),
          RING_CTL.halted (s.slot r), RING_STAT.lost r] t)

/-- 12_host_interface_rings.md R460, R464-R466, R480: an INJECT entry that passes its checks becomes a frame for its pipe
with its FCS appended; one that fails is completed. -/
def Obligations.InjectEntriesBecomeFrames : Prop :=
  ∀ (s : State) (r : Fin 1024) (ok : Bool) (bytes : List Byte) (w : List Word) (rest : List (List Word)), s.Inv →
    s.ringKind r = 2 → (s.ring r).copies = w :: rest → entryKind w = 2 → s.mayTake r = true → (s.ring r).taken = [] →
    (s.injectReason r w ok = none →
      ∃ t, exec (.injectTake r ok bytes) s = .next t ∧ (t.ring r).copies = rest ∧ (t.ring r).take = (s.ring r).take + 1 ∧
        (∃ i, t.hif.inject = s.hif.inject ++ [i] ∧ i.ring = r.val ∧ i.index = (s.ring r).take ∧
          i.pipe = (w.getD 3 0).toNat / 2 ^ 16 % 32 ∧
          i.bytes.length = ((w.getD 3 0).toNat % 2 ^ 14) + 4) ∧
        t.out = ((requests s.readSize ((w.getD 3 0).toNat % 2 ^ 14) (w.getD 2 0).toNat
          ((w.getD 3 0).toNat % 2 ^ 14)).map (fun x => .hostRead (s.ringFunc r) x.1 x.2)).reverse ++ s.out ∧
        s.Same [.out, .hif] t ∧ s.Frame hostRegs [] t) ∧
    (∀ reason detail, s.injectReason r w ok = some (reason, detail) →
      ∃ t, exec (.injectTake r ok bytes) s = .next t ∧ (t.ring r).copies = rest ∧ (t.ring r).take = (s.ring r).take + 1 ∧
        (t.ring r).taken = [] ∧ (t.ring r).complete = (s.ring r).complete + 1 ∧ t.hif.inject = s.hif.inject ∧
        t.get (RING_STAT.completed r) = min (s.get (RING_STAT.completed r) + 1) (2 ^ 32 - 1) ∧
        s.Same [.out, .hif] t ∧ s.Frame hostRegs [] t)

/-- 12_host_interface_rings.md R467-R469: with an entry available, the copy that is due is written to the entry's buffer,
the frame without its FCS and cut to the buffer's length, and leaves its queue. -/
def Obligations.PuntedCopiesAreWritten : Prop :=
  ∀ (s : State) (r : Fin 1024) (h : Nat) (c : Copy) (p : Pkt) (w : List Word) (rest : List (List Word)), s.Inv →
    s.get PWR_STATUS.state < 2 → s.puntTurn r = some h → s.head (16384 + h) = some c → s.pkt c.pkt = some p →
    p.err = false → s.holdsBad p = false → s.ringFunc r = 0 → s.canSend 0 = true → (s.ring r).copies = w :: rest → entryKind w = 3 →
    s.ringKind r = 3 → s.mayTake r = true → (s.ring r).taken = [] → puntReason w = none → (s.ring r).lostCount = 0 →
    s.get (RING_CFG.punt_meta (s.slot r)) = 0 →
    ∃ t, exec (.puntWrite (r, [])) s = .next t ∧
      (∀ x ∈ requests s.payloadSize (min (p.bytes.length - 4) ((w.getD 3 0).toNat % 2 ^ 32)) (w.getD 2 0).toNat
          (min (p.bytes.length - 4) ((w.getD 3 0).toNat % 2 ^ 32)),
        .hostWrite 0 x.1 ((p.bytes.drop (x.1 - (w.getD 2 0).toNat)).take x.2) ∈ t.out) ∧
      (t.ring r).copies = rest ∧ (t.ring r).lastHq = h ∧ (t.ring r).complete = (s.ring r).complete + 1 ∧
      (∀ d ∈ t.pk.copies, d.id ≠ c.id)

/-- 12_host_interface_rings.md R450, R452, R453, R478: the interrupt of completions not yet signalled, the oldest held
write of a function, and PCIe errors. -/
def Obligations.InterruptsHeldWritesAndPcieErrorsAreServed : Prop :=
  ∀ s : State, s.Inv →
    (∀ r : Fin 1024, s.get (RING_CFG.irq_en (s.slot r)) = 1 → 0 < (s.ring r).unsignalled → 0 < (s.ring r).complete →
      (s.fn (s.ringFunc r)).msixEnable = true → (s.fn (s.ringFunc r)).msixMask = false → s.canSend (s.ringFunc r) = true →
      s.msixMasked (s.ringFunc r) (s.get (RING_ASSIGN.vector r)) = false →
      ∃ t, exec (.irqTimer r) s = .next t ∧ t.out = .msix (s.ringFunc r) (s.get (RING_ASSIGN.vector r)) :: s.out ∧
        (t.ring r).unsignalled = 0 ∧ s.Same [.out, .hif] t ∧ s.Frame hostRegs [] t) ∧
    (∀ (f : Fin 64) (pre post : List Held) (item : Out), s.hif.held = pre ++ ⟨f, item⟩ :: post →
      (∀ x ∈ pre, x.func ≠ f) → (s.fn f).busMaster = true → s.get HIF_STATUS.link_speed ≠ 0 →
      ∃ t, exec (.heldWriteSend f) s = .next t ∧ t.out = item :: s.out ∧ t.hif = { s.hif with held := pre ++ post } ∧
        t.regs = s.regs ∧ s.Same [.out, .hif] t) ∧
    (∀ (bit : Fin 32) (header : List (BitVec 32)),
      ∃ t, exec (.pcieError true bit header) s = .next t ∧ t.hif.aerUncorr.testBit bit = true ∧
        (s.hif.aerUncorr = 0 → t.hif.aerFirst = bit ∧ t.hif.aerHeader = header.map (·.toNat)) ∧
        (s.hif.aerUncorr ≠ 0 → t.hif.aerFirst = s.hif.aerFirst ∧ t.hif.aerHeader = s.hif.aerHeader) ∧
        t.get (FLT_SRC.cont_pend 1702) = 1 ∧ s.Same [.out, .hif, .flt] t ∧ s.Frame faultRegs [] t) ∧
    (∀ (bit : Fin 32) (header : List (BitVec 32)),
      ∃ t, exec (.pcieError false bit header) s = .next t ∧ t.hif.aerCorr.testBit bit = true ∧
        t.hif.aerUncorr = s.hif.aerUncorr ∧ t.hif.aerFirst = s.hif.aerFirst ∧
        t.get (FLT_SRC.corr_pend 1701) = 1 ∧ s.Same [.out, .hif, .flt] t ∧ s.Frame faultRegs [] t)

/-- 12_host_interface_rings.md R475, R476: a reset of a function with no ring enabled ends at once with its BAR2 registers
at reset; one with a ring enabled disables it first. A reset of the physical function resets every virtual one and
clears VF Enable; DL_Down takes the link down. 12_host_interface_rings.md R444, R445, R448, R451, R475: what
configuration requests set and read. -/
def Obligations.FunctionsAreResetAndConfigured : Prop :=
  (∀ s : State, s.Inv →
    (∀ (n : Fin 64) (flr : Bool), n ≠ 0 → (∀ r < 1024, s.ringFunc r = n → s.ringEnabled r = false) →
      ∃ t, exec (.vfReset n flr) s = .next t ∧ t.get (HIF_VF.in_reset n) = 0 ∧
        (∀ k, bar2Base n ≤ k → k < bar2Base (n + 1) → t.raw k = regReset k) ∧
        (∀ x ∈ t.hif.held, x.func ≠ n) ∧ t.hif.vfEnable = s.hif.vfEnable) ∧
    (∀ (n : Fin 64) (flr : Bool) (r : Nat), n ≠ 0 → r < 1024 → s.ringFunc r = n → s.ringEnabled r = true →
      (∀ q < 1024, q ≠ r → s.ringFunc q ≠ n) →
      s.get (RING_ABORT.busy (s.slot r)) = 0 → s.get (RING_CTL.disabling (s.slot r)) = 0 → s.ringKind r ≠ 3 →
      ∃ t, exec (.vfReset n flr) s = .next t ∧ t.get (HIF_VF.in_reset n) = 1 ∧
        t.get (RING_CTL.disabling (s.slot r)) = 1 ∧ (t.ring r).aborting = true) ∧
    (∀ cause : Fin 3, (∀ r < 1024, s.ringEnabled r = false) →
      ∃ t, exec (.pfReset cause) s = .next t ∧ t.hif.vfEnable = false ∧ t.hif.numVfs = 0 ∧ t.hif.pfReset = false ∧
        t.get HIF_STATUS.vfs_enabled = 0 ∧
        t.get HIF_STATUS.link_speed = (if cause = 2 then 0 else s.get HIF_STATUS.link_speed) ∧
        t.get HIF_STATUS.link_width = (if cause = 2 then 0 else s.get HIF_STATUS.link_width))) ∧
  (∀ (s : State) (f : Fin 64),
    (∀ on : Bool, ∃ t, exec (.configRequest f (.memorySpace on)) s = .next t ∧
      t = { s with hif := { s.hif with fns := smPut fnDefault s.hif.fns f { s.fn f with memSpace := on } } }) ∧
    (∀ on : Bool, ∃ t, exec (.configRequest f (.busMaster on)) s = .next t ∧
      t = { s with hif := { s.hif with fns := smPut fnDefault s.hif.fns f { s.fn f with busMaster := on } } }) ∧
    (s.hif.msixPend = [] → ∀ on : Bool, ∃ t, exec (.configRequest f (.msixEnable on)) s = .next t ∧
      t = { s with hif := { s.hif with fns := smPut fnDefault s.hif.fns f { s.fn f with msixEnable := on } } }) ∧
    (∃ t, exec (.configRequest 0 (.read 0)) s = .next t ∧ t = { s with out := .config 0 0x92041F4D :: s.out }) ∧
    (∃ t, exec (.configRequest f (.read 8)) s = .next t ∧ t = { s with out := .config f 0x028000A0 :: s.out }) ∧
    (∀ num : Fin 64, s.Inv → ∃ t, exec (.configRequest f (.vfEnable true num)) s = .next t ∧
      t.hif = { s.hif with vfEnable := true, numVfs := num } ∧ t.get HIF_STATUS.vfs_enabled = num ∧ s.Same [.hif] t ∧
      s.Frame noRegs [HIF_STATUS.vfs_enabled] t) ∧
    (∀ corr uncorr : Nat, ∃ t, exec (.configRequest f (.clearAer corr uncorr)) s = .next t ∧
      (∀ i < 32, t.hif.aerCorr.testBit i = (s.hif.aerCorr.testBit i && !corr.testBit i) ∧
        t.hif.aerUncorr.testBit i = (s.hif.aerUncorr.testBit i && !uncorr.testBit i)) ∧
      t = { s with hif := { s.hif with aerCorr := t.hif.aerCorr, aerUncorr := t.hif.aerUncorr } }))

/-- 13_time.md R487: a read of TIME_NOW0 latches seconds, nanoseconds and fraction of one instant. 13_time.md R494: at
most 4 host samples wait; any other write, one with the servo off and one under the fabric are counted as ignored, and
so are the samples that wait when the servo is disabled. -/
def Obligations.TimeIsReadWholeAndHostSamplesWait : Prop :=
  (∀ s : State, s.Inv →
    ∃ t, exec .timeNowRead s = .next t ∧
      t.get TIME_NOW0.sec = s.time.total / 2 ^ 40 / 1000000000 ∧
      t.get TIME_NOW1.ns = s.time.total / 2 ^ 40 % 1000000000 ∧
      t.get TIME_NOW0.frac = s.time.total / 2 ^ 24 % 2 ^ 16 ∧
      t.readVal.toNat = t.get TIME_NOW0.sec + t.get TIME_NOW0.frac * 2 ^ 48 ∧ s.Same [.readVal] t ∧
      s.Frame noRegs [TIME_NOW0.sec, TIME_NOW0.frac, TIME_NOW1.ns] t) ∧
  (∀ s : State, s.Inv →
    (∀ data : Word, s.get TIME_STATUS.servo_en = 1 → s.get TIME_STATUS.source ≠ 2 → s.time.samples.length < 4 →
      ∃ t, exec (.hostOffsetSample data) s = .next t ∧
        t.time = { s.time with samples := s.time.samples ++ [data.toInt] } ∧ t.regs = s.regs ∧ s.Same [.time] t) ∧
    (∀ data : Word, s.get TIME_STATUS.servo_en = 0 ∨ s.get TIME_STATUS.source = 2 ∨ 4 ≤ s.time.samples.length →
      ∃ t, exec (.hostOffsetSample data) s = .next t ∧
        t.get TIME_STAT.samples_ignored = min (s.get TIME_STAT.samples_ignored + 1) 65535 ∧ s.Same [] t ∧
        s.Frame noRegs [TIME_STAT.samples_ignored] t) ∧
    (∃ t, exec .servoDisable s = .next t ∧ t.get TIME_STATUS.servo_en = 0 ∧ t.time = { s.time with samples := [] } ∧
      t.get TIME_STAT.samples_ignored = min (s.get TIME_STAT.samples_ignored + s.time.samples.length) 65535 ∧
      t.get TIME_STATUS.source = (if s.get TIME_STATUS.fab_en = 1 then s.get TIME_STATUS.source else 0) ∧
      s.Same [.time] t ∧ s.Frame noRegs [TIME_STATUS.servo_en, TIME_STATUS.source, TIME_STAT.samples_ignored] t))

/-- 13_time.md R493: one host sample x, in 2^-16 ns, with T = sample_ms in ns, steps the time or moves the frequency, and
sets or clears lock. -/
def Obligations.ServoSamplesSteerTheClock : Prop :=
  ∀ (s : State) (x : Int) (rest : List Int), s.Inv → s.get TIME_STATUS.servo_en = 1 → s.get TIME_STATUS.source ≠ 2 →
    s.time.samples = x :: rest →
    (0 < s.get TIME_SERVO_THR.step_thr_ns → s.get TIME_SERVO_THR.step_thr_ns * 2 ^ 16 < x.natAbs →
      ∃ t, exec .servoSample s = .next t ∧ t.get TIME_STAT.samples = min (s.get TIME_STAT.samples + 1) 65535 ∧
        t.get TIME_LAST_OFS.offset = (x % 2 ^ 64).toNat ∧
        (t.time.total : Int) = ((s.time.total : Int) + x * 2 ^ 24) % (timeModulus : Int) ∧
        t.time.samples = [] ∧ t.time.lockRun = 0 ∧ t.get TIME_STATUS.locked = 0 ∧
        t.get TIME_FREQ.freq = s.get TIME_FREQ.freq ∧ s.Same [.time] t ∧
        s.Frame noRegs [TIME_STAT.samples, TIME_STAT.steps, TIME_STAT.samples_ignored, TIME_STATUS.locked,
          TIME_LAST_OFS.offset] t) ∧
    (s.get TIME_SERVO_THR.step_thr_ns = 0 ∨ x.natAbs ≤ s.get TIME_SERVO_THR.step_thr_ns * 2 ^ 16 →
      let bound : Int := ((s.get TIME_SERVO_CFG.max_ppm * 2 ^ 40 / 1000000 : Nat) : Int)
      let tns := s.get TIME_SERVO_CFG.sample_ms * 1000000
      let integ := max (-bound) (min bound
        (signed 32 (s.get TIME_FREQ.integ) + (x * 2 ^ 24).tdiv ((tns * 2 ^ s.get TIME_SERVO_CFG.ki_shift : Nat) : Int)))
      let freq := max (-bound) (min bound
        (integ + (x * 2 ^ 24).tdiv ((tns * 2 ^ s.get TIME_SERVO_CFG.kp_shift : Nat) : Int)))
      let near := x.natAbs ≤ s.get TIME_SERVO_THR.lock_thr_ns * 2 ^ 16
      ∃ t, exec .servoSample s = .next t ∧ t.get TIME_STAT.samples = min (s.get TIME_STAT.samples + 1) 65535 ∧
        signed 32 (t.get TIME_FREQ.integ) = integ ∧ signed 32 (t.get TIME_FREQ.freq) = freq ∧
        t.time = { s.time with samples := rest, lockRun := if near then min (s.time.lockRun + 1) 255 else 0 } ∧
        t.get TIME_STATUS.locked = (if near then
          (if s.get TIME_SERVO_THR.lock_count ≤ min (s.time.lockRun + 1) 255 then 1 else s.get TIME_STATUS.locked) else 0) ∧
        t.get TIME_STAT.lock_losses = (if ¬near ∧ s.get TIME_STATUS.locked = 1 then
          min (s.get TIME_STAT.lock_losses + 1) 255 else s.get TIME_STAT.lock_losses) ∧ s.Same [.time] t ∧
        s.Frame noRegs [TIME_STAT.samples, TIME_STAT.lock_losses, TIME_STATUS.locked, TIME_LAST_OFS.offset,
          TIME_FREQ.integ, TIME_FREQ.freq] t)

/-- 13_time.md R496, R497: disabling fabric time forgets the links; a lost link and an item of another domain; an item is
sent with the next sequence number. -/
def Obligations.FabricTimeFollowsItsLinks : Prop :=
  ∀ s : State, s.Inv →
    (∃ t, exec .fabTimeDisable s = .next t ∧ t.get TIME_STATUS.fab_en = 0 ∧ t.get TIME_STATUS.parent_valid = 0 ∧
      t.get TIME_STATUS.holdover = 0 ∧ t.get TIME_STATUS.source = s.get TIME_STATUS.servo_en ∧
      t.time = { s.time with links := [], fab := none } ∧ s.Same [.time] t ∧
      s.Frame noRegs [TIME_STATUS.fab_en, TIME_STATUS.holdover, TIME_STATUS.distance, TIME_STATUS.parent_valid,
        TIME_STATUS.parent, TIME_STATUS.source] t) ∧
    (∀ (p : Fin 1024) (l : TimeLink), s.time.links = [l] → l.port = p → s.get TIME_FAB_CFG.source = 0 →
      ∃ t, exec (.timeLinkTimeout p) s = .next t ∧ t.get TIME_STATUS.parent_valid = 0 ∧ t.get TIME_STATUS.holdover = 1 ∧
        t.get TIME_STATUS.locked = 0 ∧ t.get TIME_FREQ.freq = s.get TIME_FREQ.integ ∧
        t.time = { s.time with links := [], fab := none } ∧ s.Same [.time] t ∧
        s.Frame noRegs [TIME_STATUS.holdover, TIME_STATUS.distance, TIME_STATUS.parent_valid, TIME_STATUS.locked,
          TIME_FREQ.freq] t) ∧
    (∀ (p : Fin 1024) (bytes : List Byte), s.get TIME_STATUS.fab_en = 1 → s.isRistlink p = true →
      beAt bytes 4 2 ≠ s.get PL_FAB_CFG.domain_id →
      ∃ t, exec (.timeItemReceive p bytes) s = .next t ∧
        t.get TIME_STAT.bad_items = min (s.get TIME_STAT.bad_items + 1) 255 ∧ s.Same [] t ∧
        s.Frame noRegs [TIME_STAT.bad_items] t) ∧
    (∀ (p : Fin 1024) (bytes : List Byte), s.get TIME_STATUS.fab_en = 1 → s.isRistlink p = true →
      beAt bytes 4 2 = s.get PL_FAB_CFG.domain_id → s.time.links = [] → s.get TIME_FAB_CFG.source = 0 →
      (beAt bytes 2 1).testBit 0 = true → (beAt bytes 2 1).testBit 1 = false → beAt bytes 3 1 < 14 →
      ∃ t, exec (.timeItemReceive p bytes) s = .next t ∧ t.get TIME_STATUS.source = 2 ∧ t.get TIME_STATUS.parent = p ∧
        t.get TIME_STATUS.parent_valid = 1 ∧ t.get TIME_STATUS.distance = beAt bytes 3 1 + 1 ∧
        t.get TIME_STATUS.holdover = 0 ∧ t.time.links.map (fun l => (l.port, l.srcChip, l.srcPrio)) =
          [(p.val, beAt bytes 6 2 % 1024, beAt bytes 8 1)] ∧ s.Same [.time] t) ∧
    (∀ p : Fin 1024, s.get TIME_STATUS.fab_en = 1 → s.isRistlink p = true → s.portState p = 4 ∨ s.portState p = 6 →
      ∃ t, exec (.timeItemSend p) s = .next t ∧ (∃ item, t.out = .item p item :: s.out ∧ item.length = 48 ∧
          beAt item 4 2 = s.get PL_FAB_CFG.domain_id ∧
          beAt item 9 1 = smGet (fun _ => 0) s.time.sent p % 256 ∧
          t.io = (s.sendStream p false item).io) ∧
        smGet (fun _ => 0) t.time.sent p = smGet (fun _ => 0) s.time.sent p + 1 ∧
        t.time = { s.time with sent := t.time.sent } ∧ t.regs = s.regs ∧ s.Same [.time, .out, .io] t)

/-- 13_time.md R499: an output's pulse begins and ends at its edges; disarming stops it after the pulse in progress.
13_time.md R501: a selected edge is captured in steps of 0.25 ns; one within 100 ns of the last captured edge only
sets overflow. -/
def Obligations.PulseOutputsAndCaptureInputsFollowTheirEdges : Prop :=
  (∀ (s : State) (k : Fin 4) (p : Pulse), s.Inv → s.pulse k = some p →
    (p.high = false →
      ∃ t, exec (.poDisarm k) s = .next t ∧ t.get (TIME_PO_CTL.armed k) = 0 ∧
        t.time = { s.time with pulses := smPut (fun _ => none) s.time.pulses k none } ∧ s.Same [.time] t ∧
        s.Frame noRegs [TIME_PO_CTL.armed k] t) ∧
    (p.high = true →
      ∃ t, exec (.poDisarm k) s = .next t ∧ t.pulse k = some { p with stopping := true } ∧ t.regs = s.regs ∧
        s.Same [.time] t) ∧
    (p.high = false → p.next ≤ s.time.total / 2 ^ 40 →
      ∃ t, exec (.pulseEdge k) s = .next t ∧
        t.pulse k = some { p with high := true, fired := true, next := p.next + p.width } ∧
        t.out = .pulse k (!p.polarity) s.wrapNow :: s.out ∧ t.pin.tpo.testBit k = !p.polarity ∧ t.regs = s.regs ∧
        s.Same [.time, .pin, .out] t) ∧
    (p.high = true → p.next ≤ s.time.total / 2 ^ 40 → p.mode = 2 → p.stopping = false → 0 < p.period →
      p.start ≤ s.time.total / 2 ^ 40 →
      ∃ t, exec (.pulseEdge k) s = .next t ∧ t.out = .pulse k p.polarity s.wrapNow :: s.out ∧
        t.pin.tpo.testBit k = p.polarity ∧
        (∃ n, t.pulse k = some { p with high := false, next := n } ∧ s.time.total / 2 ^ 40 < n ∧
          n ≤ s.time.total / 2 ^ 40 + p.period ∧ (n - p.start) % p.period = 0) ∧ t.regs = s.regs ∧
        s.Same [.time, .pin, .out] t) ∧
    (p.high = true → p.next ≤ s.time.total / 2 ^ 40 → p.mode = 1 →
      ∃ t, exec (.pulseEdge k) s = .next t ∧ t.get (TIME_PO_CTL.armed k) = 0 ∧
        t.out = .pulse k p.polarity s.wrapNow :: s.out ∧
        t.time = { s.time with pulses := smPut (fun _ => none) s.time.pulses k none } ∧ s.Same [.time, .pin, .out] t ∧
        s.Frame noRegs [TIME_PO_CTL.armed k] t)) ∧
  (∀ (s : State) (k : Fin 4) (falling : Bool), s.Inv → s.get (TIME_CAP_CTL.en k) = 1 →
    s.get (TIME_CAP_CTL.falling k) = (if falling then 1 else 0) →
    let t16 := s.time.total / 2 ^ 24 / 2 ^ 14 * 2 ^ 14
    ((∀ last, smGet (fun _ => none) s.time.capLast k = some last → last + 6553600 ≤ t16) →
      ∃ t, exec (.captureEdge k falling) s = .next t ∧ t.get (TIME_CAP0.sec k) = t16 / 65536 / 1000000000 ∧
        t.get (TIME_CAP1.ns k) = t16 / 65536 % 1000000000 ∧ t.get (TIME_CAP0.frac k) = t16 % 65536 ∧
        t.get (TIME_CAP1.count k) = (s.get (TIME_CAP1.count k) + 1) % 65536 ∧
        t.get (TIME_CAP1.overflow k) =
          (if smGet (fun _ => false) s.time.capUnread k then 1 else s.get (TIME_CAP1.overflow k)) ∧
        smGet (fun _ => none) t.time.capLast k = some t16 ∧ smGet (fun _ => false) t.time.capUnread k = true ∧
        t.pin.tpi.testBit k = !falling ∧ s.Same [.time, .pin, .out, .hif] t ∧
        s.Frame hostRegs [TIME_CAP0.sec k, TIME_CAP0.frac k, TIME_CAP1.ns k, TIME_CAP1.count k, TIME_CAP1.overflow k] t) ∧
    (∀ last, smGet (fun _ => none) s.time.capLast k = some last → last ≤ t16 → t16 < last + 6553600 →
      ∃ t, exec (.captureEdge k falling) s = .next t ∧ t.get (TIME_CAP1.overflow k) = 1 ∧
        t.pin = { s.pin with tpi := t.pin.tpi } ∧ t.pin.tpi.testBit k = !falling ∧ s.Same [.pin] t ∧
        s.Frame noRegs [TIME_CAP1.overflow k] t))

/-- 16_cipher_engine.md R567, R568: the lock goes to the image loader, then the harvester, then host software; host
software waits, gives it back with its registers cleared, or loses it to a user that waits. -/
def Obligations.TheCipherLockHasOneOwner : Prop :=
  ∀ s : State, s.Inv →
    (s.get CIPHER_LOCK.owner ≠ 1 →
      ∃ t, exec .cipherLockReq s = .next t ∧ t.cip = { s.cip with waitHost := true } ∧ t.regs = s.regs ∧ s.Same [.cip] t) ∧
    (s.get CIPHER_LOCK.owner = 0 → s.cip.waitLoader = true →
      ∃ t, exec .cipherLockGrant s = .next t ∧ t.get CIPHER_LOCK.owner = 2 ∧ t.cip = { s.cip with waitLoader := false } ∧
        s.Same [.cip] t ∧ s.Frame noRegs [CIPHER_LOCK.owner] t) ∧
    (s.get CIPHER_LOCK.owner = 0 → s.cip.waitLoader = false → s.cip.waitHarvester = true →
      ∃ t, exec .cipherLockGrant s = .next t ∧ t.get CIPHER_LOCK.owner = 3 ∧
        t.cip = { s.cip with waitHarvester := false } ∧ s.Same [.cip] t ∧ s.Frame noRegs [CIPHER_LOCK.owner] t) ∧
    (s.get CIPHER_LOCK.owner = 0 → s.cip.waitLoader = false → s.cip.waitHarvester = false → s.cip.waitHost = true →
      ∃ t, exec .cipherLockGrant s = .next t ∧ t.get CIPHER_LOCK.owner = 1 ∧
        t.cip = { s.cip with waitHost := false } ∧ s.Same [.cip] t ∧ s.Frame noRegs [CIPHER_LOCK.owner] t) ∧
    (s.get CIPHER_LOCK.owner ≠ 0 → exec .cipherLockGrant s = .next s) ∧
    (s.get CIPHER_LOCK.owner = 1 →
      ∃ t, exec .cipherLockRelease s = .next t ∧ t.get CIPHER_LOCK.owner = 0 ∧ t.get CIPHER_LOCK.waiting = 0 ∧
        t.raw CIPHER_IV0.regOff = 0 ∧ t.raw CIPHER_IV1.regOff = 0 ∧
        (∀ j < 2, t.raw (CIPHER_DIN.regOff j) = 0 ∧ t.raw (CIPHER_DOUT.regOff j) = 0 ∧ t.raw (CIPHER_TAG.regOff j) = 0) ∧
        (∀ j < 4, t.raw (CIPHER_KEY.regOff j) = 0) ∧
        (1 ≤ s.get CIPHER_STATUS.state → s.get CIPHER_STATUS.state ≤ 4 → t.get CIPHER_STATUS.state = 0) ∧
        t.cip.slots = s.cip.slots ∧ s.Same [.cip] t) ∧
    (s.get CIPHER_LOCK.owner = 1 → s.cip.waitLoader = true ∨ s.cip.waitHarvester = true →
      ∃ t, exec .cipherLockRevoke s = .next t ∧ t.get CIPHER_LOCK.owner = (if s.cip.waitLoader then 2 else 3) ∧
        t.get CIPHER_LOCK.revoked = 1 ∧
        t.get CIPHER_STAT.revocations = min (s.get CIPHER_STAT.revocations + 1) 65535 ∧
        (∀ j < 4, t.raw (CIPHER_KEY.regOff j) = 0) ∧ t.cip.slots = s.cip.slots ∧
        t.cip.waitHost = s.cip.waitHost ∧ s.Same [.cip] t)

/-- 16_cipher_engine.md R559, R569, R570: set up, a text block, and the end of a session. The key stream block is that of
counter j + 2, bytes past the text's length are 0, and the tag is produced or compared. -/
def Obligations.CipherSessionsAdvanceByTheirEvents : Prop :=
  ∀ s : State, s.Inv →
    (s.get CIPHER_STATUS.state = 1 →
      ∃ t, exec .cipherSetupDone s = .next t ∧ t.get CIPHER_STATUS.state = 2 ∧ t.get CIPHER_STATUS.in_ready = 1 ∧
        s.Same [] t ∧ s.Frame noRegs [CIPHER_STATUS.state, CIPHER_STATUS.in_ready] t) ∧
    (∀ bytes : List Byte, s.cip.block = some ⟨true, bytes⟩ →
      ∃ t, exec .cipherBlockDone s = .next t ∧ t.get CIPHER_STATUS.state = 2 ∧ t.get CIPHER_STATUS.in_ready = 1 ∧
        t.get CIPHER_STATUS.out_valid = 1 ∧
        (let key := natBytes (slotBytes (s.keySlot s.cip.slot))
         let stream := aesBlock (roundKeys key) (counterBlock (natBytes s.cip.iv) (s.cip.textDone + 2))
         let out := zeroFrom (min 16 (s.cip.textLen - 16 * s.cip.textDone)) (xorL (natBytes bytes) stream)
         (t.raw (CIPHER_DOUT.regOff 0)).toNat = ofLe (bytesOf (out.take 8)) % 2 ^ 64 ∧
         (t.raw (CIPHER_DOUT.regOff 1)).toNat = ofLe (bytesOf (out.drop 8)) % 2 ^ 64) ∧
        t.cip = { s.cip with block := none, textDone := s.cip.textDone + 1, ghash := t.cip.ghash } ∧ s.Same [.cip] t ∧
        s.Frame noRegs [CIPHER_STATUS.state, CIPHER_STATUS.in_ready, CIPHER_STATUS.out_valid, CIPHER_DOUT.data 0,
          CIPHER_DOUT.data 1] t) ∧
    (∀ bytes : List Byte, s.cip.block = some ⟨false, bytes⟩ →
      ∃ t, exec .cipherBlockDone s = .next t ∧ t.get CIPHER_STATUS.state = 2 ∧ t.get CIPHER_STATUS.in_ready = 1 ∧
        t.cip = { s.cip with block := none, aadDone := s.cip.aadDone + 1, ghash := t.cip.ghash } ∧ s.Same [.cip] t ∧
        s.Frame noRegs [CIPHER_STATUS.state, CIPHER_STATUS.in_ready] t) ∧
    (s.cip.finishing = true →
      ∃ t, exec .cipherFinishDone s = .next t ∧ t.get CIPHER_STATUS.state = 4 ∧
        t.get CIPHER_STAT.sessions = min (s.get CIPHER_STAT.sessions + 1) (2 ^ 32 - 1) ∧
        t.cip = { s.cip with finishing := false, running := false } ∧
        (s.cip.decrypt = false → (t.raw (CIPHER_TAG.regOff 0)).toNat = ofLe (s.sessionTag.take 8) % 2 ^ 64 ∧
          (t.raw (CIPHER_TAG.regOff 1)).toNat = ofLe (s.sessionTag.drop 8) % 2 ^ 64) ∧
        (s.cip.decrypt = true → s.sessionTag = s.cip.expect → t.get CIPHER_STATUS.tag_ok = 1) ∧
        (s.cip.decrypt = true → s.sessionTag ≠ s.cip.expect → t.get CIPHER_STATUS.tag_fail = 1 ∧
          t.get CIPHER_STAT.tag_fails = min (s.get CIPHER_STAT.tag_fails + 1) 65535) ∧
        s.Same [.cip] t ∧
        s.Frame noRegs [CIPHER_STATUS.state, CIPHER_STATUS.tag_ok, CIPHER_STATUS.tag_fail, CIPHER_STAT.sessions,
          CIPHER_STAT.tag_fails, CIPHER_TAG.tag 0, CIPHER_TAG.tag 1] t)

/-- 16_cipher_engine.md R563-R566, R573, R574: provisioning ends with slot 2 valid or failed for good; errors of the
engine are raised, erase the slot, or end the host's session with an error. -/
def Obligations.KeySlotsAreProvisionedAndGuarded : Prop :=
  ∀ s : State, s.Inv →
    (∀ k : Check, s.cip.provisioning = true → s.checks = [k] → k.op = .keyProvision → k.key = CIPHER_ENABLE_STATUS.regOff →
      ∃ t, exec .keyProvisionDone s = .next t ∧ t.cip.provisioning = false ∧ (∃ x, t.cip.fuse2 = some x ∧
          t.keySlot 2 = x ∧ (x.valid = true ∨ x.failed = true) ∧
          (x.valid = true → t.get CIPHER_ENABLE_STATUS.reason = 0) ∧
          (x.failed = true → t.get CIPHER_ENABLE_STATUS.reason = 0xB09 ∧ t.get (FLT_SRC.cont_pend 1700) = 1)) ∧
        t.get CIPHER_ENABLE_STATUS.busy = 0 ∧ t.checks = [] ∧ (∀ j < 4, t.raw (CIPHER_KEY.regOff j) = 0) ∧
        s.Same [.cip, .checks, .out, .hif, .flt] t) ∧
    (∀ i : Fin 8, ∃ t, exec (.cipherEngineFault (.slotSingle i)) s = .next t ∧
      t.get (FLT_SRC.corr_pend 1700) = 1 ∧ s.Same [.out, .hif, .flt] t ∧ s.Frame faultRegs [] t) ∧
    (∀ i : Fin 8, ∃ t, exec (.cipherEngineFault (.slotDouble i)) s = .next t ∧
      t.get (FLT_SRC.cont_pend 1700) = 1 ∧
      t.cip = { s.cip with slots := smPut noSlot s.cip.slots i { s.keySlot i with valid := false, locked := false } } ∧
      s.Same [.cip, .out, .hif, .flt] t ∧ s.Frame faultRegs [] t) ∧
    (s.get CIPHER_LOCK.owner = 1 → 1 ≤ s.get CIPHER_STATUS.state → s.get CIPHER_STATUS.state ≤ 4 →
      ∃ t, exec (.cipherEngineFault .roundParity) s = .next t ∧ t.get (FLT_SRC.cont_pend 1700) = 1 ∧
        t.get CIPHER_STATUS.state = 5 ∧ t.get CIPHER_LOCK.owner = 0 ∧ (∀ j < 4, t.raw (CIPHER_KEY.regOff j) = 0) ∧
        t.cip = { s.cip with running := false, block := none, finishing := false } ∧
        s.Same [.cip, .out, .hif, .flt] t)

/-- 02_structure_image.md R83-R88, R92: an enable that meets step 1 leaves EMPTY for LOADING and asks for the lock, and
one that does not is refused with the first reason. Without the lock for 100 ms it is refused with 0x0112. A body
whose tag verifies is staged for the checks; an image that passes them is ACTIVE at version 1 with its tables empty. -/
def Obligations.ImagesLoadVerifyAndActivate : Prop :=
  ∀ s : State, s.Inv →
    (∀ header : List Byte, s.get PKG_BOOT_STATUS.selftest_fail = 0 → s.get (esBusy STRUCT_ENABLE_STATUS.regOff) = 0 →
      s.get STRUCT_STATUS.state ≠ 3 → s.get STRUCT_STATUS.state ≠ 4 →
      272 ≤ s.get STRUCT_IMG_LEN.len → s.get STRUCT_IMG_LEN.len ≤ 16777216 → s.img.patchPhase = 0 →
      headerReject (slice header 0 256) (s.get STRUCT_IMG_LEN.len) = none →
      leAt (slice header 0 256) 0x0B 1 = 2 → (s.keySlot 2).valid = true →
      ∃ t, exec (.structEnable true header) s = .next t ∧ t.get STRUCT_STATUS.state = 1 ∧
        t.get (esBusy STRUCT_ENABLE_STATUS.regOff) = 1 ∧ t.cip.waitLoader = true ∧
        t.checks = s.checks ++ [⟨STRUCT_ENABLE_STATUS.regOff, .image, []⟩] ∧
        t.img = { s.img with phase := 1, header := slice header 0 256, plain := [] } ∧ s.Same [.checks, .img, .cip] t ∧
        s.Frame noRegs [STRUCT_STATUS.state, esBusy STRUCT_ENABLE_STATUS.regOff, CIPHER_LOCK.waiting] t) ∧
    (∀ (ok : Bool) (header : List Byte), s.get PKG_BOOT_STATUS.selftest_fail = 0 →
      s.get (esBusy STRUCT_ENABLE_STATUS.regOff) = 0 →
      s.get STRUCT_STATUS.state = 3 ∨ s.get STRUCT_STATUS.state = 4 →
      ∃ t, exec (.structEnable ok header) s = .next t ∧ t.get (esReason STRUCT_ENABLE_STATUS.regOff) = 0x101 ∧
        t.get (esBusy STRUCT_ENABLE_STATUS.regOff) = 0 ∧ t.img = s.img ∧ s.Same [.checks] t ∧
        s.Frame noRegs (esFields STRUCT_ENABLE_STATUS.regOff) t) ∧
    (s.img.phase = 1 → s.get CIPHER_LOCK.owner ≠ 2 →
      ∃ t, exec .imageLockTimeout s = .next t ∧ t.get (esReason STRUCT_ENABLE_STATUS.regOff) = 0x112 ∧
        t.get (esBusy STRUCT_ENABLE_STATUS.regOff) = 0 ∧ t.get STRUCT_STATUS.state = 0 ∧ t.cip.waitLoader = false ∧
        t.img = { s.img with phase := 0, header := [], plain := [] } ∧ s.Same [.checks, .img, .cip] t ∧
        s.Frame noRegs (STRUCT_STATUS.state :: CIPHER_LOCK.waiting :: esFields STRUCT_ENABLE_STATUS.regOff) t) ∧
    (∀ body tag plain : List Byte, s.img.phase = 1 → s.get CIPHER_LOCK.owner = 2 →
      gcmOpen (slotBytes (s.keySlot 2)) (slice s.img.header 0x20 12) s.img.header
        (slice body 0 (leAt s.img.header 0x0C 4)) (slice tag 0 16) = some plain →
      ∃ t, exec (.imageTagVerified true body tag) s = .next t ∧ t.get STRUCT_STATUS.state = 2 ∧
        t.get CIPHER_LOCK.owner = 0 ∧ t.img = { s.img with phase := 3, plain := plain } ∧ s.Same [.img, .cip] t ∧
        s.Frame noRegs [STRUCT_STATUS.state, CIPHER_LOCK.owner, CIPHER_LOCK.waiting] t) ∧
    (∀ body tag : List Byte, s.img.phase = 1 → s.get CIPHER_LOCK.owner = 2 →
      gcmOpen (slotBytes (s.keySlot 2)) (slice s.img.header 0x20 12) s.img.header
        (slice body 0 (leAt s.img.header 0x0C 4)) (slice tag 0 16) = none →
      ∃ t, exec (.imageTagVerified true body tag) s = .next t ∧ t.get STRUCT_STATUS.state = 0 ∧
        t.get (esReason STRUCT_ENABLE_STATUS.regOff) = 0x114 ∧ t.get CIPHER_LOCK.owner = 0 ∧
        t.get CIPHER_STAT.tag_fails = min (s.get CIPHER_STAT.tag_fails + 1) 65535 ∧
        t.img = { s.img with phase := 0, header := [], plain := [] } ∧ s.Same [.checks, .img, .cip] t) ∧
    (∀ i : Image, s.img.phase = 3 → readImage s.img.header s.img.plain = .ok i → imageReject i s.patchWords = none →
      ∃ t, exec .imageActivate s = .next t ∧ t.get STRUCT_STATUS.state = 3 ∧
        t.get (esReason STRUCT_ENABLE_STATUS.regOff) = 0 ∧ t.get (esBusy STRUCT_ENABLE_STATUS.regOff) = 0 ∧
        (t.raw STRUCT_IMAGE_ID.regOff).toNat = i.imageId % 2 ^ 64 ∧ t.img.active = some i ∧ t.img.live = [⟨1, 0⟩] ∧
        t.img.phase = 0 ∧ t.tbl.entries = [] ∧ t.tbl.learn = [] ∧
        (∀ x ∈ t.mtr.meters, s.mtr.delivery.isSome = true ∧ x ∈ s.mtr.meters ∧ x.1 / 16384 % 2 ≠ s.mtr.bank) ∧
        t.cip = s.cip ∧ t.boot = s.boot) ∧
    (∀ (i : Image) (r d : Nat), s.img.phase = 3 → readImage s.img.header s.img.plain = .ok i →
      imageReject i s.patchWords = some (r, d) →
      ∃ t, exec .imageActivate s = .next t ∧ t.get STRUCT_STATUS.state = 0 ∧
        t.get (esReason STRUCT_ENABLE_STATUS.regOff) = r % 65536 ∧ t.get (esDetail STRUCT_ENABLE_STATUS.regOff) = d % 65536 ∧
        t.img = { s.img with phase := 0, header := [], plain := [] } ∧ s.Same [.checks, .img, .cip] t)

/-- 02_structure_image.md R89-R92, R98-R105: disable drains and then clears the image; a commit of a group with staged
rules makes the next version once its commands are done and a slot and its tag are free, waits for a slot of the
eight, and is refused with 0x0115 when it waited too long; without staged rules it ends without a version. -/
def Obligations.CommitsMakeVersionsUntilTheImageDrains : Prop :=
  ∀ s : State, s.Inv →
    (s.get STRUCT_STATUS.state = 3 →
      ∃ t, exec .structDisable s = .next t ∧ t.get STRUCT_STATUS.state = 4 ∧ t.pk.fifo = [] ∧
        t.img.active = s.img.active ∧ t.tbl.entries = s.tbl.entries) ∧
    (s.get STRUCT_STATUS.state = 4 →
      ∃ t, exec .structDrainEnd s = .next t ∧ t.get STRUCT_STATUS.state = 0 ∧ t.raw STRUCT_IMAGE_ID.regOff = 0 ∧
        t.img.active = none ∧ t.img.live = [] ∧ t.img.jobs = [] ∧ t.tbl.entries = [] ∧ t.tbl.learn = [] ∧
        t.tbl.moves = [] ∧ t.buf.quotaActive = [] ∧ t.buf.headActive = [] ∧
        (t.get MTR_STATUS.enabled = 1 → t.get MTR_STATUS.busy = 1 ∧ (t.mtr.final = 1 ∨ t.mtr.final = 2)) ∧
        (s.pk = {} → s.sch = {} → s.tbl = {} → s.buf.headUsed = [] →
          t.get MTR_STATUS.enabled = s.get MTR_STATUS.enabled ∧
          (s.get MTR_STATUS.enabled = 1 → s.get MTR_STATUS.busy = 0 →
            t.mtr.final = 2 ∧ t.get MTR_STATUS.busy = 1 ∧ t.get MTR_STATUS.seq = (s.get MTR_STATUS.seq + 1) % 2 ^ 32) ∧
          (s.get MTR_STATUS.enabled = 1 → s.get MTR_STATUS.busy = 1 →
            t.mtr.final = 1 ∧ t.mtr.delivery = s.mtr.delivery))) ∧
    (∀ g : Fin 64, s.get STRUCT_COMMIT.busy = 0 → s.get STRUCT_STATUS.state = 3 →
      ∃ t, exec (.structCommitGo g) s = .next t ∧ t.get STRUCT_COMMIT.busy = 1 ∧ t.get STRUCT_COMMIT.group = g ∧
        t.get STRUCT_COMMIT.aborted = 0 ∧ t.get (STRUCT_GROUP_STATUS.busy g) = 1 ∧
        (∃ c : CommitJob, t.img = { s.img with jobs := s.img.jobs ++ [c] } ∧ c.group = g ∧ c.ring = 1024 ∧
          c.upTo = s.tbl.seq ∧ c.waiting = false ∧ ∀ j ∈ s.tbl.jobs, j.id ∈ c.covers ∨ j.fn ≠ g ∨ j.imm = true ∨ j.done = true ∨ j.src = learnSource) ∧
        s.Same [.img] t ∧
        s.Frame noRegs [STRUCT_COMMIT.busy, STRUCT_COMMIT.group, STRUCT_COMMIT.aborted, STRUCT_GROUP_STATUS.busy g] t) ∧
    (∀ g : Fin 64, s.get STRUCT_COMMIT.busy = 1 →
      ∃ t, exec (.structCommitGo g) s = .next t ∧ t.get STRUCT_COMMIT.group = g ∧ s.Same [] t ∧
        s.Frame noRegs [STRUCT_COMMIT.group] t) ∧
    (∀ (g : Fin 64) (c : CommitJob), s.img.jobs.find? (fun c => c.group = g.val) = some c → c.covers = [] → c.ring = 1024 →
      s.engineRuns = true → s.get STRUCT_STATUS.state = 3 →
      (s.stagedUpTo g c.upTo = [] →
        ∃ t, exec (.commitAdvance g) s = .next t ∧ t.get STRUCT_COMMIT.busy = 0 ∧ t.get STRUCT_COMMIT.result = 0 ∧
          t.img = { s.img with jobs := s.img.jobs.erase c } ∧ s.Same [.img] t) ∧
      (s.stagedUpTo g c.upTo ≠ [] → s.img.live.length < 8 → nth s.img.tags ((s.version + 1) % 2 ^ 32 % 16) = 0 →
        ∃ t, exec (.commitAdvance g) s = .next t ∧ t.get STRUCT_COMMIT.busy = 0 ∧
          t.get STRUCT_COMMIT.last_version = (s.version + 1) % 2 ^ 32 ∧
          t.get (STRUCT_GROUP_STATUS.last_version g) = (s.version + 1) % 2 ^ 32 ∧
          t.version = (s.version + 1) % 2 ^ 32) ∧
      (s.stagedUpTo g c.upTo ≠ [] → (8 ≤ s.img.live.length ∨ nth s.img.tags ((s.version + 1) % 2 ^ 32 % 16) ≠ 0) →
        ∃ t, exec (.commitAdvance g) s = .next t ∧ t.get STRUCT_COMMIT.pending = 1 ∧ t.img.live = s.img.live ∧
          { c with waiting := true } ∈ t.img.jobs ∧ s.Same [.img] t ∧ s.Frame noRegs [STRUCT_COMMIT.pending] t)) ∧
    (∀ (g : Fin 64) (c : CommitJob), s.img.jobs.find? (fun c => c.group = g.val) = some c → c.waiting = true → c.ring = 1024 →
      8 ≤ s.img.live.length → s.get STRUCT_VER_CFG.commit_wait_ms ≠ 0 →
      ∃ t, exec (.commitSlotTimeout g) s = .next t ∧ t.get STRUCT_COMMIT.busy = 0 ∧ t.get STRUCT_COMMIT.pending = 0 ∧
        t.get STRUCT_COMMIT.result = 0x115 ∧ t.img = { s.img with jobs := s.img.jobs.erase c } ∧ s.Same [.img] t)

/-- 03_action_microcode.md R145-R150: a patch is loaded once, while no image is, and each way it can fail leaves the
stores as they were. -/
def Obligations.PatchesLoadOnceBeforeAnyImage : Prop :=
  ∀ s : State, s.Inv →
    (∀ header : List Byte, s.get PKG_BOOT_STATUS.selftest_fail = 0 → s.get (esBusy PATCH_ENABLE_STATUS.regOff) = 0 →
      s.img.patched = false → s.get STRUCT_STATUS.state = 0 → 80 ≤ s.get PATCH_LEN.len → s.get PATCH_LEN.len ≤ 1048576 →
      patchHeaderBad (slice header 0 64) (s.get PATCH_LEN.len) = false → leAt (slice header 0 64) 0x0B 1 = 1 →
      (s.keySlot 1).valid = true →
      ∃ t, exec (.patchEnable true header) s = .next t ∧ t.get PATCH_STATUS.state = 1 ∧
        t.get (esBusy PATCH_ENABLE_STATUS.regOff) = 1 ∧ t.cip.waitLoader = true ∧
        t.img = { s.img with patchPhase := 1, patchHeader := slice header 0 64, patchPlain := [] } ∧
        s.Same [.checks, .img, .cip] t ∧
        s.Frame noRegs [PATCH_STATUS.state, esBusy PATCH_ENABLE_STATUS.regOff, CIPHER_LOCK.waiting] t) ∧
    (∀ (ok : Bool) (header : List Byte), s.get PKG_BOOT_STATUS.selftest_fail = 0 →
      s.get (esBusy PATCH_ENABLE_STATUS.regOff) = 0 → s.img.patched = true →
      ∃ t, exec (.patchEnable ok header) s = .next t ∧ t.get (esReason PATCH_ENABLE_STATUS.regOff) = 0x180 ∧
        t.get (esBusy PATCH_ENABLE_STATUS.regOff) = 0 ∧ t.img = s.img ∧ s.Same [.checks] t ∧
        s.Frame noRegs (esFields PATCH_ENABLE_STATUS.regOff) t) ∧
    (s.img.patchPhase = 1 → s.get CIPHER_LOCK.owner ≠ 2 →
      ∃ t, exec .patchLockTimeout s = .next t ∧ t.get (esReason PATCH_ENABLE_STATUS.regOff) = 0x185 ∧
        t.get (esBusy PATCH_ENABLE_STATUS.regOff) = 0 ∧ t.get PATCH_STATUS.state = 0 ∧ t.cip.waitLoader = false ∧
        t.img = { s.img with patchPhase := 0, patchHeader := [], patchPlain := [] } ∧ s.Same [.checks, .img, .cip] t) ∧
    (∀ (body tag plain : List Byte) (rs : List PatchRec), s.img.patchPhase = 1 → s.get CIPHER_LOCK.owner = 2 →
      gcmOpen (slotBytes (s.keySlot 1)) (slice s.img.patchHeader 0x20 12) s.img.patchHeader
        (slice body 0 (leAt s.img.patchHeader 0x0C 4)) (slice tag 0 16) = some plain →
      Config.patchMinLevel % 2 ^ 32 ≤ leAt s.img.patchHeader 0x10 4 →
      patchRecords (leAt s.img.patchHeader 0x14 2) plain = .ok rs →
      ∃ t, exec (.patchTagVerified true body tag) s = .next t ∧ t.get CIPHER_LOCK.owner = 0 ∧
        t.img = { s.img with patchPhase := 2, patchPlain := plain } ∧
        (∀ r ∈ rs, ∀ q < 3, r.target = 0x40 + q → s.get (SEQ_STATUS.state q) = 1 → t.get (SEQ_STATUS.state q) = 3) ∧
        s.Same [.img, .cip] t ∧
        s.Frame noRegs [CIPHER_LOCK.owner, CIPHER_LOCK.waiting, SEQ_STATUS.state 0, SEQ_STATUS.state 1,
          SEQ_STATUS.state 2] t) ∧
    (∀ body tag : List Byte, s.img.patchPhase = 1 → s.get CIPHER_LOCK.owner = 2 →
      gcmOpen (slotBytes (s.keySlot 1)) (slice s.img.patchHeader 0x20 12) s.img.patchHeader
        (slice body 0 (leAt s.img.patchHeader 0x0C 4)) (slice tag 0 16) = none →
      ∃ t, exec (.patchTagVerified true body tag) s = .next t ∧ t.get PATCH_STATUS.state = 0 ∧
        t.get (esReason PATCH_ENABLE_STATUS.regOff) = 0x187 ∧ t.get CIPHER_LOCK.owner = 0 ∧
        t.img = { s.img with patchPhase := 0, patchHeader := [], patchPlain := [] } ∧ s.Same [.checks, .img, .cip] t) ∧
    (∀ rs : List PatchRec, s.img.patchPhase = 2 →
      patchRecords (leAt s.img.patchHeader 0x14 2) s.img.patchPlain = .ok rs →
      ∃ t, exec .patchLoadDone s = .next t ∧ t.get PATCH_STATUS.state = 2 ∧
        t.get PATCH_STATUS.level = leAt s.img.patchHeader 0x10 4 % 2 ^ 32 ∧
        t.get (esReason PATCH_ENABLE_STATUS.regOff) = 0 ∧ t.get (esBusy PATCH_ENABLE_STATUS.regOff) = 0 ∧
        t.img = { s.img with patchPhase := 0, patchHeader := [], patchPlain := [], patched := true, patch := rs } ∧
        (∀ r ∈ rs, ∀ q < 3, r.target = 0x40 + q → t.get (SEQ_STATUS.state q) ≠ 3 ∧
          t.get (SEQ_STATUS.patch_words q) = r.words.length % 4096 ∧
          t.get (SEQ_STATUS.patch_crc q) = wordsCrc r.words % 2 ^ 32) ∧
        s.Same [.checks, .img, .cip] t)

/-- 06_table_access_learning.md R213-R223, R228-R233: a command is taken when its source's turn comes, and only then. A
NOP completes; a command that breaks a rule of acceptance is refused and changes no table; an ADD, or an UPSERT of an
absent entry, stands in every pipe of its unit; a MODIFY or an immediate DELETE reaches every copy; READ and READ_NEXT
return the entry; FLUSH removes the learned entries it selects; a ring's COMMIT waits for its function's commands. -/
def Obligations.TableCommandsTakeEffectInTheirTurn : Prop :=
  ∀ s : State, s.Inv →
    (∀ (src : Fin 1025) (ok : Bool) (buf : List Byte), s.hostTurn src = false →
      ∀ x ∈ tableRows src ok buf, exec x.2 s = .next s) ∧
    (∀ (a : List Nat) (ok : Bool), s.tbl.goArgs = some a → s.hostTurn 1024 = true → bitsOf (nth a 0) 0 6 = 0 →
      ∃ t, exec (.tblNop 1024 ok []) s = .next t ∧ t.JobDone s.tbl.nextJob 0 0 0 ∧ t.tbl.entries = s.tbl.entries ∧
        t.tbl.goArgs = none ∧ t.get TBL_CMD_STAT.accepted = min (s.get TBL_CMD_STAT.accepted + 1) (2 ^ 32 - 1) ∧
        s.Same [.tbl, .img] t ∧ s.Frame noRegs [TBL_CMD_STAT.accepted] t) ∧
    (∀ (a : List Nat) (ok : Bool) (r d : Nat), s.tbl.goArgs = some a → s.hostTurn 1024 = true → s.tbl.discards = [] →
      s.acceptReason (s.cmdJob a) (nth a 0) (nth a 1) true = some (r, d) →
      ∀ x ∈ tableRows 1024 ok [], 1 ≤ x.1 → bitsOf (nth a 0) 0 6 = x.1 →
      ∃ t, exec x.2 s = .next t ∧ t.JobDone s.tbl.nextJob 2 r 0 ∧ t.tbl.entries = s.tbl.entries ∧
        t.get TBL_CMD_STAT.accepted = min (s.get TBL_CMD_STAT.accepted + 1) (2 ^ 32 - 1) ∧
        t.get TBL_CMD_STAT.refused = min (s.get TBL_CMD_STAT.refused + 1) 65535 ∧
        s.Same [.tbl, .img] t ∧ s.Frame noRegs [TBL_CMD_STAT.accepted, TBL_CMD_STAT.refused] t) ∧
    (∀ (a : List Nat) (d : TblDecl) (u pos : Nat), s.TakesNow a →
      s.acceptReason (s.cmdJob a) (nth a 0) (nth a 1) true = none → s.decl (s.cmdJob a).table = some d →
      s.identity (s.cmdJob a) = [] → (s.cmdJob a).imm = true ∨ (s.stagedOf 0).length < 65536 →
      s.unitsOf d (s.cmdJob a).domain = [u] → s.full d u = false →
      s.chainsKept d (s.cmdJob a) (fun l => l ++ [(lpmLastWords d, { newEntry (s.cmdJob a) with hidden := false })]) = true →
      s.plan d u (s.cmdJob a) = .write pos → pos < 2 ^ 20 → (∀ x ∈ s.tableEntries d.id, x.2.seq ≠ s.tbl.seq) →
      ∀ x ∈ tableRows 1024 true [], x.1 = 1 ∨ x.1 = 3 → bitsOf (nth a 0) 0 6 = x.1 →
      ∃ t, exec x.2 s = .next t ∧
        t.JobDone s.tbl.nextJob 0 0 (if (s.cmdJob a).imm then s.version else 0) ∧
        (∀ p ∈ unitPipes u, t.entryAt p d.id pos =
          some { newEntry (s.cmdJob a) with hidden := false, handle := s.freeHandle d.id }) ∧
        (∀ p < 32, ∀ q < 2 ^ 20, (p ∉ unitPipes u ∨ q ≠ pos) → t.entryAt p d.id q = s.entryAt p d.id q) ∧
        s.Same [.tbl, .img] t ∧ s.Frame noRegs [TBL_CMD_STAT.accepted, STRUCT_GROUP_STATUS.staged 0] t) ∧
    (∀ (a : List Nat) (d : TblDecl) (e : Entry), s.TakesNow a →
      s.acceptReason (s.cmdJob a) (nth a 0) (nth a 1) true = none → s.decl (s.cmdJob a).table = some d →
      s.unitsOf d (s.cmdJob a).domain ≠ [] → (s.cmdJob a).imm = true →
      (∀ x ∈ s.identity (s.cmdJob a), x.stagedAdd = false ∧ x.stagedDel = false) → s.present (s.cmdJob a) = some e →
      ((d.kind ≠ 3 ∨ (s.cmdJob a).prio = e.prio) →
        ∀ x ∈ tableRows 1024 true [], x.1 = 2 ∨ x.1 = 3 → bitsOf (nth a 0) 0 6 = x.1 →
        ∃ t, exec x.2 s = .next t ∧ t.JobDone s.tbl.nextJob 0 0 s.version ∧
          t.tbl.entries.map (·.1) = s.tbl.entries.map (·.1) ∧
          (∀ y ∈ t.tableEntries (s.cmdJob a).table, y.2.seq = e.seq → y.2.action = (s.cmdJob a).action ∧
            y.2.data = (s.cmdJob a).data ∧ y.2.prio = (s.cmdJob a).prio ∧ y.2.addedBase = true ∧ y.2.hit = false) ∧
          (∀ y ∈ s.tableEntries (s.cmdJob a).table, y.2.seq ≠ e.seq → y ∈ t.tableEntries (s.cmdJob a).table) ∧
          s.Same [.tbl, .img] t) ∧
      (s.chainsKept d (s.cmdJob a) (fun l => l.filter (fun x => x.2.seq ≠ e.seq)) = true → bitsOf (nth a 0) 0 6 = 4 →
        ∃ t, exec (.tblDelete 1024 true []) s = .next t ∧ t.JobDone s.tbl.nextJob 0 0 s.version ∧
          (∀ y ∈ t.tableEntries (s.cmdJob a).table, y.2.seq ≠ e.seq) ∧
          (∀ y ∈ s.tableEntries (s.cmdJob a).table, y.2.seq ≠ e.seq → y ∈ t.tableEntries (s.cmdJob a).table) ∧
          s.Same [.tbl, .img] t) ∧
      (bitsOf (nth a 0) 0 6 = 5 →
        ∃ t, exec (.tblRead 1024 true []) s = .next t ∧ t.JobDone s.tbl.nextJob 0 0 0 ∧
          (∃ k : TblJob, t.job s.tbl.nextJob = some k ∧ k.readback = some (s.readBytes (s.cmdJob a).table e)) ∧
          t.tbl.entries = s.tbl.entries ∧ s.Same [.tbl, .img] t ∧ s.Frame noRegs [TBL_CMD_STAT.accepted] t)) ∧
    (∀ (a : List Nat) (d : TblDecl), s.TakesNow a →
      s.acceptReason (s.cmdJob a) (nth a 0) (nth a 1) true = none → s.decl (s.cmdJob a).table = some d →
      (∀ e : Entry, s.nextEntry d (s.cmdJob a) = some e → bitsOf (nth a 0) 0 6 = 6 →
        ∃ t, exec (.tblReadNext 1024 true []) s = .next t ∧ t.JobDone s.tbl.nextJob 0 0 (e.handle + 1) ∧
          (∃ k : TblJob, t.job s.tbl.nextJob = some k ∧ k.readback = some (s.readBytes (s.cmdJob a).table e)) ∧
          t.tbl.entries = s.tbl.entries ∧ s.Same [.tbl, .img] t ∧ s.Frame noRegs [TBL_CMD_STAT.accepted] t) ∧
      (s.nextEntry d (s.cmdJob a) = none → bitsOf (nth a 0) 0 6 = 6 →
        ∃ t, exec (.tblReadNext 1024 true []) s = .next t ∧ t.JobDone s.tbl.nextJob 0 0 (2 ^ 32 - 1) ∧
          t.tbl.entries = s.tbl.entries ∧ s.Same [.tbl, .img] t ∧ s.Frame noRegs [TBL_CMD_STAT.accepted] t) ∧
      ((s.flushed d (s.cmdJob a)).length ≤ 65536 → bitsOf (nth a 0) 0 6 = 7 →
        ∃ t, exec (.tblFlush 1024 true []) s = .next t ∧
          t.JobDone s.tbl.nextJob 0 0 (s.flushed d (s.cmdJob a)).length ∧
          (∀ e ∈ s.flushed d (s.cmdJob a), ∀ y ∈ t.tableEntries (s.cmdJob a).table, y.2.seq ≠ e.seq) ∧
          (∀ y ∈ s.tableEntries (s.cmdJob a).table, (∀ e ∈ s.flushed d (s.cmdJob a), y.2.seq ≠ e.seq) →
            y ∈ t.tableEntries (s.cmdJob a).table) ∧ s.Same [.tbl, .img] t)) ∧
    (∀ (src : Fin 1025) (w : List Word) (rest : List (List Word)), src.val ≠ 1024 → s.hostTurn src = true →
      (s.ring src).copies = w :: rest → entryKind w = 1 → bitsOf (wordAt w 0) 0 6 = 8 → s.get STRUCT_STATUS.state = 3 →
      ∃ t, exec (.tblCommit src true []) s = .next t ∧ (t.ring src).copies = rest ∧
        t.get (STRUCT_GROUP_STATUS.busy (s.ringFunc src)) = 1 ∧
        (∃ c : CommitJob, t.img = { s.img with jobs := s.img.jobs ++ [c] } ∧ c.group = s.ringFunc src ∧ c.ring = src ∧
          c.index = (s.ring src).take ∧ c.waiting = false) ∧
        t.get TBL_CMD_STAT.accepted = min (s.get TBL_CMD_STAT.accepted + 1) (2 ^ 32 - 1) ∧
        t.tbl = { s.tbl with lastSrc := src, hostTurns := min 3 (s.tbl.hostTurns + 1) } ∧ s.Same [.tbl, .img, .hif] t)

/-- 06_table_access_learning.md R227, R229, 05_lookup_tables.md R186, R207-R211: a completion is shown in the registers; a
relocation ends with the old copies gone; a retired tag's sweep frees it; a background move copies an entry before the
old copy goes; a row found in error is marked; a parity error is repaired from another pipe or the entry is lost. -/
def Obligations.TablesAreRelocatedScrubbedAndRepaired : Prop :=
  ∀ s : State, s.Inv →
    (∀ (j : TblJob) (ok : Bool), s.tbl.jobs = [j] → j.done = true → j.src = 1024 → j.readback = none →
      ∃ t, exec (.tblCmdComplete j.id ok) s = .next t ∧ t.get TBL_CMD.status = j.status % 256 ∧ t.get TBL_CMD.busy = 0 ∧
        (t.raw TBL_CMD_RESULT.regOff).toNat = jobWord1 j % 2 ^ 64 ∧ t.tbl = { s.tbl with jobs := [] } ∧ s.SameCounting [.tbl] t) ∧
    (∀ (j : TblJob) (b : List Byte) (ok : Bool), s.tbl.jobs = [j] → j.done = true → j.src = 1024 → j.readback = some b →
      ∃ t, exec (.tblCmdComplete j.id ok) s = .next t ∧ t.get TBL_CMD.status = j.status % 256 ∧ t.get TBL_CMD.busy = 0 ∧
        (∀ i < 8, (t.raw (TBL_CMD_KEY.regOff i)).toNat = leAt b (8 * i) 8) ∧
        (∀ i < 7, (t.raw (TBL_CMD_DATA.regOff i)).toNat = leAt b (128 + 8 * i) 8) ∧
        t.tbl = { s.tbl with jobs := [] } ∧ s.SameCounting [.tbl] t) ∧
    (∀ (m : Move) (tb : Fin 256) (u : Fin 33), s.tbl.jobs = [] → s.pwrState < 2 → m.table = tb → m.unit = u → isNodePlace m.src = false →
      s.tbl.moves.find? (fun x => x.table = tb.val && x.unit = u.val && x.src = m.src) = some m →
      ∃ t, exec (.entryMoveEnd tb u m.src) s = .next t ∧ (∀ p ∈ unitPipes u, t.entryAt p tb m.src = none) ∧
        t.tbl.moves = s.tbl.moves.filter (fun x => x ≠ m) ∧
        t.get TBL_PL_MOVES.moves = min (s.get TBL_PL_MOVES.moves + 1) (2 ^ 48 - 1) ∧
        (∀ p < 32, ∀ q < 2 ^ 20, (p ∉ unitPipes u ∨ q ≠ m.src) → t.entryAt p tb q = s.entryAt p tb q) ∧
        s.Same [.tbl] t ∧ s.Frame noRegs [TBL_PL_MOVES.moves, TBL_LRN_CFG.blocked_pipes tb] t) ∧
    (∀ g : Fin 16, s.tbl.jobs = [] → nth s.img.tags g = 2 → s.pwrState < 2 →
      ∃ t, exec (.tagSweepComplete g) s = .next t ∧ nth t.img.tags g = 0 ∧
        (∀ x ∈ t.tbl.entries, ∀ e, x.2 = some e →
          (e.deleted = false ∨ e.deletedTag ≠ g) ∧ (e.addedBase = true ∨ e.stagedAdd = true ∨ e.addedTag ≠ g)) ∧
        s.Same [.tbl, .img] t) ∧
    (∀ (tb : Fin 256) (u : Fin 33) (src : Nat) (d : TblDecl) (e : Entry), s.decl tb = some d → d.kind = 1 →
      s.get TBL_PL_CFG.rebalance_en = 1 → s.get TBL_PL_CFG.bg_move_rate ≠ 0 → s.pwrState < 2 →
      s.moving u tb src = false → s.placing tb u = false → (d.scope = 1 ↔ u.val = 32) → src < 2 ^ 20 →
      (s.unitEntries u tb).find? (fun x => x.1 = src) = some (src, e) →
      (∃ w < 4, w ≠ wayOf d src ∧ wayCount d (s.unitEntries u tb) w + 1 < wayCount d (s.unitEntries u tb) (wayOf d src) ∧
        freeOf (s.unitEntries u tb) (bucketPositions d w (emBucket d e.domain e.key w)) ≠ []) →
      ∃ t, exec (.rebalanceMove tb u src) s = .next t ∧
        (∃ dst, t.tbl = { s.tbl with entries := t.tbl.entries, moves := s.tbl.moves ++ [⟨0, tb, u, src, dst⟩] } ∧
          dst ∉ (s.unitEntries u tb).map (·.1) ∧
          (dst < 2 ^ 20 → ∀ p ∈ unitPipes u, ∀ x, s.entryAt p tb src = some x →
            t.entryAt p tb dst = some { x with moveSrc := false } ∧ t.entryAt p tb src = some { x with moveSrc := true })) ∧
        s.Same [.tbl] t ∧ t.regs = s.regs) ∧
    (∀ (p : Fin 32) (tb : Fin 256) (row : Nat) (e : Entry), s.entryAt p tb row = some e → s.pwrState < 2 →
      entryKey p tb row ∉ s.tbl.bad →
      ∃ t, exec (.tcamScrub p tb row true) s = .next t ∧ t.tbl = { s.tbl with bad := s.tbl.bad ++ [entryKey p tb row] } ∧
        s.Same [.tbl] t ∧ t.regs = s.regs) ∧
    (∀ (p : Fin 32) (tb : Fin 256) (row : Nat), exec (.tcamScrub p tb row false) s = .next s) ∧
    (∀ (p : Fin 32) (tb : Fin 256) (whr : Fin 4) (stage : Fin 32) (pos : Nat) (others : List Nat) (d : TblDecl),
      s.decl tb = some d → d.scope = 1 → s.pwrState < 2 → (∃ q < 32, q ≠ p.val ∧ q ∉ others) → pos < 16384 →
      ∃ t, exec (.parityRepair p tb whr stage pos others) s = .next t ∧
        t.get TBL_PL_PARITY_LAST.pipe = p ∧ t.get TBL_PL_PARITY_LAST.table = tb ∧ t.get TBL_PL_PARITY_LAST.where_ = whr ∧
        t.get TBL_PL_PARITY_LAST.stage = stage ∧ t.get TBL_PL_PARITY_LAST.position = pos ∧
        t.get TBL_PL_PARITY_LAST.repaired = 1 ∧ t.get TBL_PL_PARITY_LAST.lost = 0 ∧
        t.get (TBL_ERR.repaired p tb) = min (s.get (TBL_ERR.repaired p tb) + 1) 65535 ∧
        t.get (FLT_SRC.corr_pend (48 * p + 32)) = 1 ∧
        (∀ x, placeOf d whr stage pos = some x → p.val ^^^ 1 ∉ others → t.entryAt p tb x = s.entryAt (p.val ^^^ 1) tb x) ∧
        ((∀ x, placeOf d whr stage pos = some x → x < 2 ^ 20) → ∀ q < 32, ∀ y < 2 ^ 20, (q ≠ p ∨ placeOf d whr stage pos ≠ some y) →
          t.entryAt q tb y = s.entryAt q tb y) ∧
        s.Same [.tbl, .out, .hif, .flt] t) ∧
    (∀ (p : Fin 32) (tb : Fin 256) (stage : Fin 32) (pos : Nat) (others : List Nat) (d : TblDecl),
      s.decl tb = some d → d.scope ≠ 1 → d.kind = 3 → s.pwrState < 2 → pos < 16384 → s.tbl.jobs = [] →
      (s.entryAt p tb ((stageRows d stage).1 + pos) = none →
        ∃ t, exec (.parityRepair p tb 2 stage pos others) s = .next t ∧ t.get TBL_PL_PARITY_LAST.repaired = 0 ∧
          t.get TBL_PL_PARITY_LAST.lost = 0 ∧ s.Same [] t ∧ s.Frame (fun k => k = TBL_PL_PARITY_LAST.regOff) [] t) ∧
      (s.entryAt p tb ((stageRows d stage).1 + pos) ≠ none →
      ∃ t, exec (.parityRepair p tb 2 stage pos others) s = .next t ∧ t.get TBL_PL_PARITY_LAST.repaired = 0 ∧
        t.get TBL_PL_PARITY_LAST.lost = 1 ∧ t.get (TBL_ERR.lost p tb) = min (s.get (TBL_ERR.lost p tb) + 1) 65535 ∧
        ((stageRows d stage).1 + pos < 2 ^ 20 → t.entryAt p tb ((stageRows d stage).1 + pos) = none) ∧
        t.get (FLT_SRC.cont_pend (48 * p + 32)) = 1 ∧ s.Same [.tbl, .out, .hif, .flt] t))

/-- 06_table_access_learning.md R238-R245: a learn request adds its entry for its port and a move request rewrites it,
each in its turn; unblocking opens every pipe of the table; the sweep ages an entry without a hit and deletes the one
that reaches the limit, and a hit makes its age 0. -/
def Obligations.EntriesAreLearnedMovedAndAged : Prop :=
  ∀ s : State, s.Inv →
    (∀ (p : Fin 32) (r : LearnReq) (rest : List LearnReq) (d : TblDecl) (u pos : Nat), s.learnQueue p = r :: rest → rest ≠ [] →
      r.move = false → r.port < 1024 → s.decl r.table = some d → s.learnTurn = true → s.tbl.jobs = [] → s.tbl.moves = [] →
      s.tbl.discards = [] →
      (∀ x ∈ s.tableEntries r.table, x.2.seq ≠ s.tbl.seq ∧ sameIdentity (s.learnJob r) x.2 = false) →
      s.get (LRN_PORT.learned r.port) < s.get (LRN_PORT.limit r.port) → s.unitsOf d r.domain = [u] → s.full d u = false →
      s.plan d u (s.learnJob r) = .write pos → pos < 2 ^ 20 → r.table < 256 → s.get (TBL_LRN_CFG.notify r.table) = 0 →
      ∃ t, exec (.learnAccept p) s = .next t ∧ t.learnQueue p = rest ∧
        (∀ q ∈ unitPipes u, t.entryAt q d.id pos = some { newEntry (s.learnJob r) with hidden := false, handle := s.freeHandle r.table }) ∧
        t.get (LRN_PORT.learned r.port) = s.get (LRN_PORT.learned r.port) + 1 ∧ t.tbl.jobs = [] ∧ s.Same [.tbl, .img] t) ∧
    (∀ (p : Fin 32) (r : LearnReq) (rest : List LearnReq) (x : Nat × Entry), s.learnQueue p = r :: rest → rest ≠ [] →
      r.move = true → r.port < 1024 → r.table < 256 → s.learnTurn = true → s.identityBusy r.table r.domain r.key = false →
      (s.tableEntries r.table).find? (fun y => y.2.domain = r.domain && y.2.key = r.key && !y.2.moveSrc &&
        s.visibleNow y.2 && s.isLearned r.table y.2 && !y.2.stagedDel) = some x →
      bitsOf x.2.data 0 10 ≠ r.port → s.get (LRN_PORT.learned r.port) < s.get (LRN_PORT.limit r.port) →
      s.get (TBL_LRN_CFG.notify r.table) = 0 →
      ∃ t, exec (.stationMove p) s = .next t ∧ t.learnQueue p = rest ∧
        (∀ y ∈ t.tableEntries r.table, y.2.seq = x.2.seq → bitsOf y.2.data 0 10 = r.port ∧ y.2.hit = false ∧ y.2.age = 0) ∧
        t.tbl.entries.map (·.1) = s.tbl.entries.map (·.1) ∧
        t.get (LRN_PORT.learned r.port) = s.get (LRN_PORT.learned r.port) + 1 ∧
        t.get (LRN_PORT.learned (bitsOf x.2.data 0 10)) = s.get (LRN_PORT.learned (bitsOf x.2.data 0 10)) - 1 ∧
        t.get TBL_LRN_STAT.moves = min (s.get TBL_LRN_STAT.moves + 1) 65535 ∧ s.Same [.tbl] t ∧
        s.Frame noRegs [LRN_PORT.learned r.port, LRN_PORT.over r.port, LRN_PORT.learned (bitsOf x.2.data 0 10),
          LRN_PORT.over (bitsOf x.2.data 0 10), TBL_LRN_STAT.moves] t) ∧
    (∀ tb : Fin 256, s.pwrState < 2 →
      ∃ t, exec (.learnUnblock tb) s = .next t ∧ t.get (TBL_LRN_CFG.blocked_pipes tb) = 0 ∧ s.Same [] t ∧
        s.Frame noRegs [TBL_LRN_CFG.blocked_pipes tb] t) ∧
    (∀ tb : Fin 256, 2 ≤ s.pwrState →
      ∃ t, exec (.learnUnblock tb) s = .next t ∧
        t.get PWR_STAT.brine_writes = min (s.get PWR_STAT.brine_writes + 1) 65535 ∧ s.Same [] t ∧
        s.Frame noRegs [PWR_STAT.brine_writes] t) ∧
    (∀ (tb : Fin 256) (p : Fin 32) (pos : Nat) (e : Entry), s.entryAt p tb pos = some e → pos < 2 ^ 20 → s.ageOn tb = true →
      s.get (TBL_AGE_CFG.interval_ms tb) ≠ 0 → s.pwrState < 2 → s.get (TBL_LRN_CFG.age_all tb) = 1 ∨ e.data.testBit 10 = true →
      e.stagedAdd = false → e.stagedDel = false → e.hidden = false → s.identityBusy tb e.domain e.key = false →
      exec (.ageVisit tb p pos true) s = .next s ∧
      (s.anyHit tb e.seq = true →
        ∃ t, exec (.ageVisit tb p pos false) s = .next t ∧ t.entryAt p tb pos = some { e with hit := false, age := 0 } ∧
          (∀ y ∈ t.tableEntries tb, y.2.seq = e.seq → y.2.hit = false ∧ y.2.age = 0) ∧ s.Same [.tbl] t ∧ t.regs = s.regs) ∧
      (s.anyHit tb e.seq = false → e.age + 1 < max 1 (s.get (TBL_AGE_CFG.age_limit tb)) →
        ∃ t, exec (.ageVisit tb p pos false) s = .next t ∧
          t.entryAt p tb pos = some { e with hit := false, age := e.age + 1 } ∧
          (∀ y ∈ t.tableEntries tb, y.2.seq = e.seq → y.2.age = e.age + 1) ∧ s.Same [.tbl] t ∧ t.regs = s.regs) ∧
      (s.anyHit tb e.seq = false → max 1 (s.get (TBL_AGE_CFG.age_limit tb)) ≤ e.age + 1 → s.learnTurn = true →
        s.tbl.jobs = [] → s.get (TBL_LRN_CFG.notify tb) = 0 →
        ∃ t, exec (.ageVisit tb p pos false) s = .next t ∧ t.entryAt p tb pos = none ∧
          (∀ y ∈ t.tableEntries tb, y.2.seq ≠ e.seq) ∧ s.Same [.tbl] t))

/-- 00_scope.md R629, 04_parser_classification.md R168, 07_placement_fabric.md R283, 08_shared_buffer.md R333,
09_scheduling_shaping.md R365, 10_telemetry_metering.md R403: an indirect command takes its address and data as it
starts and its interface is busy, a second one meanwhile is ignored; as it completes its effect is in place and busy
falls. -/
def Obligations.IndirectCommandsStartAloneAndComplete : Prop :=
  ∀ s : State, s.Inv →
    (∀ (c : Instr) (f : Fld) (j : IndJob), indStart s c = some (f, j) → s.pwrState < 2 →
      (s.get f = 0 → ∃ t, exec c s = .next t ∧ t.get f = 1 ∧ t.pk = { s.pk with ind := s.pk.ind ++ [j] } ∧ s.Same [.pk] t ∧
        s.Frame noRegs [f] t) ∧
      (s.get f = 1 → exec c s = .next s)) ∧
    (∀ j : IndJob, s.indRuns PRS_PAT_CMD.regOff j →
      ∃ t, exec (.indirectCmdComplete 0) s = .next t ∧ t.get PRS_PAT_CMD.busy = 0 ∧
        t.get PRS_PAT_CMD.refused = (if nth j.data 0 = 1 then 0 else 1) ∧
        (nth j.data 0 = 1 → j.write = true → patValue (bitsOf j.addr 0 6) (j.data.drop 1) ≠ 0 →
          t.pat (patKey (bitsOf j.addr 9 1) (bitsOf j.addr 6 3) (bitsOf j.addr 0 6)) =
            patValue (bitsOf j.addr 0 6) (j.data.drop 1) ∧ s.Frame noRegs [PRS_PAT_CMD.busy, PRS_PAT_CMD.refused] t) ∧
        (nth j.data 0 = 1 → j.write = false → t.pk.pats = s.pk.pats ∧ ∀ i < 4,
          (t.raw (PRS_PAT_DATA.regOff i)).toNat =
            bitsOf (s.pat (patKey (bitsOf j.addr 9 1) (bitsOf j.addr 6 3) (bitsOf j.addr 0 6))) (64 * i) 64) ∧
        (nth j.data 0 ≠ 1 → t.pk.pats = s.pk.pats ∧ s.Frame noRegs [PRS_PAT_CMD.busy, PRS_PAT_CMD.refused] t) ∧
        t.pk = { s.pk with pats := t.pk.pats, ind := s.pk.ind.filter (fun x => x.key ≠ PRS_PAT_CMD.regOff) } ∧
        s.Same [.pk] t) ∧
    (∀ j : IndJob, s.indRuns PL_IND_CMD.regOff j →
      ∃ t, exec (.indirectCmdComplete 1) s = .next t ∧ t.get PL_IND_CMD.busy = 0 ∧
        t.get PL_IND_CMD.refused = (if s.plIndReason j = 0 then 0 else 1) ∧
        t.get PL_IND_CMD.reason = s.plIndReason j % 65536 ∧
        (s.plIndReason j = 0 → j.write = true → bitsOf j.addr 23 3 = 0 →
          t.plGroup (bitsOf j.addr 0 18) = newGroup (s.plGroup (bitsOf j.addr 0 18)) (nth j.data 0) ∧
          (∀ k, k ≠ bitsOf j.addr 0 18 → t.plGroup k = s.plGroup k) ∧ t.pl = { s.pl with groups := t.pl.groups }) ∧
        (s.plIndReason j = 0 → j.write = true → bitsOf j.addr 23 3 = 1 →
          t.plMember (bitsOf j.addr 0 18) = bitsOf (nth j.data 0) 0 19 ∧
          (∀ k, k ≠ bitsOf j.addr 0 18 → t.plMember k = s.plMember k) ∧ t.pl = { s.pl with members := t.pl.members }) ∧
        (s.plIndReason j = 0 → j.write = false → (t.raw PL_IND_DATA.regOff).toNat =
          s.plIndItem (bitsOf j.addr 23 3) (bitsOf j.addr 0 18) (bitsOf j.addr 18 5) % 2 ^ 64) ∧
        (s.plIndReason j ≠ 0 ∨ j.write = false → t.pl = s.pl) ∧
        (s.plIndReason j ≠ 0 ∨ j.write = true →
          s.Frame noRegs [PL_IND_CMD.busy, PL_IND_CMD.refused, PL_IND_CMD.reason] t) ∧
        t.pk = { s.pk with ind := s.pk.ind.filter (fun x => x.key ≠ PL_IND_CMD.regOff) } ∧ s.Same [.pk, .pl] t) ∧
    (∀ j : IndJob, s.indRuns BUF_IND_CMD.regOff j →
      ∃ t, exec (.indirectCmdComplete 2) s = .next t ∧ t.get BUF_IND_CMD.busy = 0 ∧
        t.get BUF_IND_CMD.refused = (if bufIndBad j then 1 else 0) ∧
        t.get BUF_IND_CMD.reason = (if bufIndBad j then 0x50A else 0) ∧
        (bufIndBad j = false → j.write = true →
          let i := bitsOf j.addr 0 21
          let d := nth j.data 0
          (bitsOf j.addr 21 3 = 0 → quotaOf d ≠ {} → smGet quotaDefault t.buf.quotaStaged i = quotaOf d ∧
            t.buf = { s.buf with quotaStaged := t.buf.quotaStaged }) ∧
          (bitsOf j.addr 21 3 = 1 → headOf d ≠ {} → smGet quotaDefault t.buf.headStaged i = headOf d ∧
            t.buf = { s.buf with headStaged := t.buf.headStaged }) ∧
          (bitsOf j.addr 21 3 = 2 → bitsOf d 0 21 ≠ 0 → smGet natZero t.buf.ecnThr i = bitsOf d 0 21 ∧
            t.buf = { s.buf with ecnThr := t.buf.ecnThr }) ∧
          (bitsOf j.addr 21 3 = 5 → bitsOf d 0 30 ≠ 0 → smGet natZero t.buf.groups i = bitsOf d 0 30 ∧
            t.buf = { s.buf with groups := t.buf.groups }) ∧
          (bitsOf j.addr 21 3 = 6 → bitsOf d 0 32 ≠ 0 → smGet natZero t.buf.entries i = bitsOf d 0 32 ∧
            t.buf = { s.buf with entries := t.buf.entries })) ∧
        (bufIndBad j = false → j.write = false →
          (t.raw (BUF_IND_DATA.regOff 0)).toNat = (s.bufIndItem (bitsOf j.addr 21 3) (bitsOf j.addr 0 21)).1 % 2 ^ 64 ∧
          (t.raw (BUF_IND_DATA.regOff 1)).toNat = (s.bufIndItem (bitsOf j.addr 21 3) (bitsOf j.addr 0 21)).2 % 2 ^ 64) ∧
        (bufIndBad j = true ∨ j.write = false → t.buf = s.buf) ∧
        (bufIndBad j = true ∨ j.write = true →
          s.Frame noRegs [BUF_IND_CMD.busy, BUF_IND_CMD.refused, BUF_IND_CMD.reason] t) ∧
        t.pk = { s.pk with ind := s.pk.ind.filter (fun x => x.key ≠ BUF_IND_CMD.regOff) } ∧ s.Same [.pk, .buf] t) ∧
    (∀ j : IndJob, s.indRuns SCHED_IND_CMD.regOff j →
      ∃ t, exec (.indirectCmdComplete 3) s = .next t ∧ t.get SCHED_IND_CMD.busy = 0 ∧
        t.get SCHED_IND_CMD.refused = (if s.schedIndReason j = 0 then 0 else 1) ∧
        t.get SCHED_IND_CMD.reason = s.schedIndReason j % 65536 ∧
        (s.schedIndReason j = 0 → j.write = true →
          let i := bitsOf j.addr 0 20
          let d := nth j.data 0
          (bitsOf j.addr 20 3 = 0 → t.profile i = setBits (bitsOf d 0 48) 22 2 0 ∧ ∀ k, k ≠ i → t.profile k = s.profile k) ∧
          (bitsOf j.addr 20 3 = 1 → (t.schNode i).quantum = bitsOf d 0 32 ∧ (t.schNode i).profile = bitsOf d 32 10 ∧
            t.sch = { s.sch with nodes := t.sch.nodes }) ∧
          (bitsOf j.addr 20 3 = 2 → (t.schQueue i).quantum = bitsOf d 0 32 ∧ (t.schQueue i).profile = bitsOf d 32 10 ∧
            (t.schQueue i).starve = bitsOf d 42 16 ∧ t.sch = { s.sch with queues := t.sch.queues }) ∧
          (bitsOf j.addr 20 3 = 3 → t.policer i = bitsOf d 0 12 ∧ ∀ k, k ≠ i → t.policer k = s.policer k) ∧
          (bitsOf j.addr 20 3 = 4 → smGet natZero t.sch.gates i = bitsOf d 0 40 ∧
            t.sch = { s.sch with gates := t.sch.gates })) ∧
        (s.schedIndReason j = 0 → j.write = false →
          let x := s.schedIndItem (bitsOf j.addr 20 3) (bitsOf j.addr 0 20) (bitsOf j.addr 23 5)
          (t.raw (SCHED_IND_DATA.regOff 0)).toNat = x.1 % 2 ^ 64 ∧ (t.raw (SCHED_IND_DATA.regOff 1)).toNat = x.2 % 2 ^ 64) ∧
        (s.schedIndReason j ≠ 0 ∨ j.write = false → t.sch = s.sch) ∧
        (s.schedIndReason j ≠ 0 ∨ j.write = true →
          s.Frame noRegs [SCHED_IND_CMD.busy, SCHED_IND_CMD.refused, SCHED_IND_CMD.reason] t) ∧
        t.pk = { s.pk with ind := s.pk.ind.filter (fun x => x.key ≠ SCHED_IND_CMD.regOff) } ∧ s.Same [.pk, .sch] t) ∧
    (∀ j : IndJob, s.indRuns FLOW_IND_CMD.regOff j →
      ∃ t, exec (.indirectCmdComplete 4) s = .next t ∧ t.get FLOW_IND_CMD.busy = 0 ∧
        (t.raw FLOW_IND_DATA.regOff).toNat = s.flow (flowKey (bitsOf j.addr 17 5) (bitsOf j.addr 0 17)) % 2 ^ 64 ∧
        t.pk = { s.pk with ind := s.pk.ind.filter (fun x => x.key ≠ FLOW_IND_CMD.regOff) } ∧ s.Same [.pk] t)

/-- 04_parser_classification.md R167, 07_placement_fabric.md R282, 10_telemetry_metering.md R381, R398-R400: the command
bits that act at once. The pattern bank flips; placement is disabled with its map and flowlets cleared; metering and
postcards are disabled; an on-demand harvest is noted only while metering is enabled. -/
def Obligations.UnitsFlipAndDisableAtOnce : Prop :=
  ∀ s : State, s.Inv → s.pwrState < 2 →
    (∃ t, exec .patFlip s = .next t ∧ t.get PRS_PAT_CTL.active_bank = 1 - s.get PRS_PAT_CTL.active_bank ∧ s.Same [] t ∧
      s.Frame noRegs [PRS_PAT_CTL.active_bank] t) ∧
    (s.get PL_FAB_STATUS.enabled = 1 →
      ∃ t, exec .plDisable s = .next t ∧ t.get PL_FAB_STATUS.enabled = 0 ∧
        t.pl = { s.pl with flowlets := [] } ∧ (∀ f < 128, t.get (PL_LINK.dup_chip f) = 0) ∧ s.Same [.pl] t ∧
        s.Frame noRegs (PL_FAB_STATUS.enabled :: (List.range 128).map PL_LINK.dup_chip) t) ∧
    (s.get PL_FAB_STATUS.enabled = 0 → exec .plDisable s = .next s) ∧
    (∃ t, exec .mtrDisable s = .next t ∧ t.get MTR_STATUS.enabled = 0 ∧ t.mtr = { s.mtr with now := false } ∧ s.Same [.mtr] t ∧
      s.Frame noRegs [MTR_STATUS.enabled] t) ∧
    (∃ t, exec .postDisable s = .next t ∧ t.mtr = { s.mtr with postOn := false } ∧ s.Same [.mtr] t ∧ t.regs = s.regs) ∧
    (s.get MTR_STATUS.enabled = 1 →
      ∃ t, exec .mtrNow s = .next t ∧ t.mtr = { s.mtr with now := true } ∧ s.Same [.mtr] t ∧ t.regs = s.regs) ∧
    (s.get MTR_STATUS.enabled = 0 → exec .mtrNow s = .next s)

/-- 07_placement_fabric.md R257, R259, R264-R268, R276, R278, R279, R281: the snapshot that new flowlets choose by, the
sweep that ends idle flowlets, beacons sent and received, a neighbour that falls silent, and credits received and
returned. -/
def Obligations.FabricSnapshotsBeaconsAndCredits : Prop :=
  ∀ s : State, s.Inv →
    (s.pwrState < 2 →
      ∃ t, exec .levelSnapshot s = .next t ∧
        (∀ p < 32, p ∈ t.pl.slowPipes ↔ 2 ≤ s.get (PWR_PIPE_STAT.ratio p)) ∧
        (∀ i : Image, s.img.active = some i → ∀ r ∈ i.ports, r.port ∈ t.pl.upPorts ↔ s.portUp r.port = true) ∧
        (∀ c ∈ s.pk.copies, isPortQueue c.queue = true → t.snapDepth c.queue = s.depth c.queue) ∧
        t.pl = { s.pl with levels := t.pl.levels, upPorts := t.pl.upPorts, slowPipes := t.pl.slowPipes } ∧
        s.Same [.pl] t ∧ t.regs = s.regs) ∧
    (∀ (p : Fin 32) (i : Nat), i < 2 ^ 17 → s.pwrState < 2 → flValid (s.flowlet (p * 2 ^ 17 + i)) = true →
      setBits (s.flowlet (p * 2 ^ 17 + i)) 0 1 0 ≠ 0 →
      (grValid (s.plGroup (flGroup (s.flowlet (p * 2 ^ 17 + i)))) = false ∨
        grGap (s.plGroup (flGroup (s.flowlet (p * 2 ^ 17 + i)))) ≤ s.flowIdle (s.flowlet (p * 2 ^ 17 + i)) →
        ∃ t, exec (.flowletSweep p i) s = .next t ∧ flValid (t.flowlet (p * 2 ^ 17 + i)) = false ∧
          (∀ k, k ≠ p * 2 ^ 17 + i → t.flowlet k = s.flowlet k) ∧ t.pl = { s.pl with flowlets := t.pl.flowlets } ∧
          s.Same [.pl] t ∧ t.regs = s.regs) ∧
      (grValid (s.plGroup (flGroup (s.flowlet (p * 2 ^ 17 + i)))) = true →
        s.flowIdle (s.flowlet (p * 2 ^ 17 + i)) < grGap (s.plGroup (flGroup (s.flowlet (p * 2 ^ 17 + i)))) →
        exec (.flowletSweep p i) s = .next s)) ∧
    (∀ f : Fin 128, s.get PL_FAB_STATUS.enabled = 1 → s.pwrState < 2 →
      s.get (PL_LINK.valid f) = 1 → s.portUp (s.get (PL_LINK.port f)) = true → smGet natZero s.pl.sent f ≤ s.clk →
      0 < s.get PL_BEACON_CFG.interval_ns →
      ∃ t, exec (.beaconSend f) s = .next t ∧
        t.out = .item (s.get (PL_LINK.port f)) (State.beacon { s with pl := { s.pl with sweep := t.pl.sweep } } f) :: s.out ∧
        (smGet natZero s.pl.block f < 15 → smGet natZero t.pl.block f = (smGet natZero s.pl.block f + 1) % 16) ∧
        (smGet natZero s.pl.block f ≠ 0 → t.pl.sweep = s.pl.sweep) ∧
        (smGet natZero s.pl.block f = 0 → smGet natZero s.pl.sweep f % 256 < 255 →
          smGet natZero t.pl.sweep f = (smGet natZero s.pl.sweep f + 1) % 256) ∧
        smGet natZero t.pl.sent f = s.clk + clkOfNs (s.get PL_BEACON_CFG.interval_ns) ∧
        t.get PL_FAB_STATUS.sweeps =
          (s.get PL_FAB_STATUS.sweeps + (if smGet natZero s.pl.block f = 15 then 1 else 0)) % 2 ^ 32 ∧
        t.pl = { s.pl with block := t.pl.block, sweep := t.pl.sweep, sent := t.pl.sent } ∧
        t.io = (s.sendStream (s.get (PL_LINK.port f)) false
          (State.beacon { s with pl := { s.pl with sweep := t.pl.sweep } } f)).io ∧
        s.Same [.pl, .out, .io] t ∧ s.Frame noRegs [PL_FAB_STATUS.sweeps] t) ∧
    (∀ (port : Fin 1024) (f : Nat) (b : List Byte), s.isRistlink port = true → s.portUp port = true →
      s.linkOfPort port = some f → s.get PL_FAB_STATUS.enabled = 1 → s.pwrState < 2 →
      beAt b 2 2 = s.get PL_FAB_CFG.domain_id →
      (bitsOf (beAt b 0 16) 86 10 ≠ s.ownChip → s.get (PL_LINK.dup_chip f) = 0 →
        ∃ t, exec (.beaconReceive port b) s = .next t ∧
          t.get (PL_LINK.neighbor_chip f) = bitsOf (beAt b 0 16) 86 10 ∧
          t.get (PL_LINK.neighbor_throttle f) = bitsOf (beAt b 0 16) 84 2 ∧
          t.get (PL_LINK.neighbor_reasons f) = bitsOf (beAt b 0 16) 60 4 ∧ t.get (PL_LINK.neighbor_live f) = 1 ∧
          (∀ j < 64, 64 * bitsOf (beAt b 0 16) 80 4 + j ≠ s.ownChip → (b.getD (16 + j) 0).toNat % 128 ≠ 0 →
            t.mapByte (64 * bitsOf (beAt b 0 16) 80 4 + j) f = (b.getD (16 + j) 0).toNat % 128) ∧
          (∀ d, d / 64 ≠ bitsOf (beAt b 0 16) 80 4 → t.mapByte d f = s.mapByte d f) ∧
          t.pl = { s.pl with map := t.pl.map, heard := t.pl.heard } ∧ s.SameCounting [.pl] t ∧
          s.Frame (perfRegs (lmBase (s.laneOf port))) [PL_LINK.neighbor_chip f, PL_LINK.neighbor_throttle f,
            PL_LINK.neighbor_reasons f, PL_LINK.neighbor_live f, PL_FAB_STATUS.links_live] t) ∧
      (bitsOf (beAt b 0 16) 86 10 = s.ownChip →
        ∃ t, exec (.beaconReceive port b) s = .next t ∧ t.get (PL_LINK.dup_chip f) = 1 ∧
          t.get (PL_LINK.neighbor_live f) = 0 ∧ t.get (FLT_SRC.cont_pend (1536 + f)) = 1 ∧
          s.Same [.pl, .out, .hif, .flt] t)) ∧
    (∀ f : Fin 128, s.get (PL_LINK.neighbor_live f) = 1 →
      smGet natZero s.pl.heard f + clkOfNs (s.get PL_BEACON_CFG.timeout * s.get PL_BEACON_CFG.interval_ns) ≤ s.clk →
      ∃ t, exec (.neighborTimeout f) s = .next t ∧ t.get (PL_LINK.neighbor_live f) = 0 ∧
        (∀ x ∈ t.pl.map, x.1 % 128 = f.val → mapReach x.2 = false) ∧
        t.pl = { s.pl with map := t.pl.map } ∧ s.Same [.pl] t ∧
        s.Frame noRegs [PL_LINK.neighbor_live f, PL_FAB_STATUS.links_live] t) ∧
    (∀ (port : Fin 1024) (b : List Byte), s.isRistlink port = true → s.portUp port = true →
      (∀ c < 4, beAt b (4 + 2 * c) 2 ≠ 0) →
      ∃ t, exec (.creditReceive port b) s = .next t ∧
        (∀ c < 4, t.credit (port * 4 + c) =
          (if bitAt (beAt b 2 1) 0 then { s.credit (port * 4 + c) with avail := beAt b (4 + 2 * c) 2, init := beAt b (4 + 2 * c) 2, heard := true }
          else { s.credit (port * 4 + c) with avail := min 65535 ((s.credit (port * 4 + c)).avail + beAt b (4 + 2 * c) 2) })) ∧
        (∀ k, k / 4 ≠ port.val → t.credit k = s.credit k) ∧ t.pl = { s.pl with credits := t.pl.credits } ∧ s.SameCounting [.pl] t ∧
        s.Frame (perfRegs (lmBase (s.laneOf port))) [] t) ∧
    (∀ port : Fin 1024, s.get PL_FAB_STATUS.enabled = 1 → s.pwrState < 2 →
      s.isRistlink port = true → s.portUp port = true →
      (port.val ∈ s.pl.initOwed →
        ∃ t, exec (.creditReturnSend port) s = .next t ∧
          t.out = .item port (creditItem true
            ((List.range 4).map fun c => if s.isLossless port c then (s.headroom port c).cells else 0)) :: s.out ∧
          t.io = (s.sendStream port false (creditItem true
            ((List.range 4).map fun c => if s.isLossless port c then (s.headroom port c).cells else 0))).io ∧
          t.pl = { s.pl with initOwed := s.pl.initOwed.filter (fun p => p ≠ port.val) } ∧ s.Same [.pl, .out, .io] t ∧
          t.regs = s.regs) ∧
      (port.val ∉ s.pl.initOwed → (∃ c < 4, (s.credit (port * 4 + c)).owed ≠ 0) → s.fifoFill (s.pipeOf port) ≤ 98304 →
        ∃ t, exec (.creditReturnSend port) s = .next t ∧
          t.out = .item port (creditItem false
            ((List.range 4).map fun c => min 65535 (s.credit (port * 4 + c)).owed)) :: s.out ∧
          (∀ c < 4, (s.credit (port * 4 + c)).avail ≠ 0 →
            t.credit (port * 4 + c) =
              { s.credit (port * 4 + c) with owed := (s.credit (port * 4 + c)).owed - min 65535 (s.credit (port * 4 + c)).owed }) ∧
          t.io = (s.sendStream port false (creditItem false
            ((List.range 4).map fun c => min 65535 (s.credit (port * 4 + c)).owed))).io ∧
          t.pl = { s.pl with credits := t.pl.credits } ∧ s.Same [.pl, .out, .io] t ∧ t.regs = s.regs))

/-- 01_architecture.md R46, 11_serial_lanes.md R411, R412, 04_parser_classification.md R151, R177, 14_power_thermal.md
R523: what a whole frame of an Ethernet port leaves in its section's FIFO and in the port's counters, when it is
dropped instead, what the last byte of a frame completes, and what the frame is as a packet once its pipe's parser
takes it. -/
def Obligations.FramesAreQueuedCompletedAndParsed : Prop :=
  ∀ s : State, s.Inv →
    (∀ (port : Fin 1024) (b : List Byte), s.portUp port = true → s.isRistlink port = false → s.rxOpen port = false →
      (s.pwrState ≠ 0 →
        ∃ t, exec (.frameReceive port b true false) s = .next t ∧
          t.get (PORT_RX3.brine_discards (s.laneOf port)) =
            satAdd 32 (s.get (PORT_RX3.brine_discards (s.laneOf port))) 1 ∧
          s.Same [] t ∧ s.Frame noRegs [PORT_RX3.brine_discards (s.laneOf port)] t) ∧
      (s.pwrState = 0 → s.get STRUCT_STATUS.state ≠ 3 →
        ∃ t, exec (.frameReceive port b true false) s = .next t ∧
          t.get (PORT_RX2.no_image (s.laneOf port)) = satAdd 16 (s.get (PORT_RX2.no_image (s.laneOf port))) 1 ∧
          s.Same [] t ∧ s.Frame noRegs [PORT_RX2.no_image (s.laneOf port)] t) ∧
      (s.pwrState = 0 → s.get STRUCT_STATUS.state = 3 →
        (b.length < 64 →
          ∃ t, exec (.frameReceive port b true false) s = .next t ∧
            t.get (PORT_RX2.len_err (s.laneOf port)) = satAdd 16 (s.get (PORT_RX2.len_err (s.laneOf port))) 1 ∧
            t.get (PORT_RX0.rx_frames (s.laneOf port)) = satAdd 48 (s.get (PORT_RX0.rx_frames (s.laneOf port))) 1 ∧
            t.get (PORT_RX1.rx_bytes (s.laneOf port)) = satAdd 48 (s.get (PORT_RX1.rx_bytes (s.laneOf port))) b.length ∧
            s.Same [] t ∧ s.Frame noRegs [PORT_RX0.rx_frames (s.laneOf port), PORT_RX1.rx_bytes (s.laneOf port),
              PORT_RX2.len_err (s.laneOf port)] t) ∧
        (64 ≤ b.length → b.length ≤ s.get (PORT_CFG.max_frame (s.laneOf port)) → fcsOk b = false →
          ∃ t, exec (.frameReceive port b true false) s = .next t ∧
            t.get (PORT_RX2.fcs_err (s.laneOf port)) = satAdd 16 (s.get (PORT_RX2.fcs_err (s.laneOf port))) 1 ∧
            s.SameCounting [] t ∧ s.Frame (perfRegs (lmBase (s.laneOf port))) [PORT_RX0.rx_frames (s.laneOf port),
              PORT_RX1.rx_bytes (s.laneOf port), PORT_RX2.fcs_err (s.laneOf port)] t) ∧
        (64 ≤ b.length → b.length ≤ s.get (PORT_CFG.max_frame (s.laneOf port)) → fcsOk b = true → isPause b = true →
          isPfc b = false →
          ∃ t, exec (.frameReceive port b true false) s = .next t ∧
            t.get SCHED_STAT.pause_discards = satAdd 32 (s.get SCHED_STAT.pause_discards) 1 ∧ s.SameCounting [] t ∧
            s.Frame (perfRegs (lmBase (s.laneOf port))) [PORT_RX0.rx_frames (s.laneOf port),
              PORT_RX1.rx_bytes (s.laneOf port), SCHED_STAT.pause_discards] t) ∧
        (64 ≤ b.length → b.length ≤ s.get (PORT_CFG.max_frame (s.laneOf port)) → fcsOk b = true → isPfc b = true →
          ∃ t, exec (.frameReceive port b true false) s = .next t ∧
            t.get (SCHED_PIPE_STAT0.pfc_rx (s.pipeOf port)) = satAdd 32 (s.get (SCHED_PIPE_STAT0.pfc_rx (s.pipeOf port))) 1 ∧
            t.sch = { s.sch with pause := t.sch.pause } ∧ s.SameCounting [.sch] t ∧
            s.Frame (perfRegs (lmBase (s.laneOf port))) [PORT_RX0.rx_frames (s.laneOf port),
              PORT_RX1.rx_bytes (s.laneOf port), SCHED_PORT_STAT.paused port, SCHED_PIPE_STAT0.pfc_rx (s.pipeOf port)] t) ∧
        (64 ≤ b.length → b.length ≤ s.get (PORT_CFG.max_frame (s.laneOf port)) → fcsOk b = true →
          isControl b = false → s.get (TIME_PORT.rx_en port) = 0 →
          (s.fifoFill (s.pipeOf port) + b.length ≤ 98304 →
            ∃ t, exec (.frameReceive port b true false) s = .next t ∧
              t.fifo (s.pipeOf port) = s.fifo (s.pipeOf port) ++ [⟨port, b, true, false, s.arrivalClass false b [],
                s.isLossless port (s.arrivalClass false b []), s.stamp (s.get (TIME_PORT.rx_adj port)), []⟩] ∧
              (∀ sec, sec ≠ s.pipeOf port → t.fifo sec = s.fifo sec) ∧
              t.get (PORT_RX0.rx_frames (s.laneOf port)) = satAdd 48 (s.get (PORT_RX0.rx_frames (s.laneOf port))) 1 ∧
              t.get (PORT_RX1.rx_bytes (s.laneOf port)) = satAdd 48 (s.get (PORT_RX1.rx_bytes (s.laneOf port))) b.length ∧
              t.pk = { s.pk with fifo := t.pk.fifo } ∧ s.SameCounting [.pk] t ∧
              s.Frame (perfRegs (lmBase (s.laneOf port))) [PORT_RX0.rx_frames (s.laneOf port),
                PORT_RX1.rx_bytes (s.laneOf port)] t) ∧
          (98304 ≤ s.fifoFill (s.pipeOf port) → s.isLossless port (s.arrivalClass false b []) = false →
            ∃ t, exec (.frameReceive port b true false) s = .next t ∧
              t.get (PORT_RX2.overrun (s.laneOf port)) = satAdd 16 (s.get (PORT_RX2.overrun (s.laneOf port))) 1 ∧
              s.SameCounting [] t ∧ s.Frame (perfRegs (lmBase (s.laneOf port))) [PORT_RX0.rx_frames (s.laneOf port),
                PORT_RX1.rx_bytes (s.laneOf port), PORT_RX2.overrun (s.laneOf port)] t)))) ∧
    (∀ (port : Fin 1024) (rest : List Byte), s.isRistlink port = false → s.get (TIME_PORT.rx_en port) = 0 →
      (∀ f : RxFrame, (s.fifo (s.pipeOf port)).find? (fun x => decide (x.port = port.val) && !x.whole) = some f →
        (s.fifo (s.pipeOf port)).count f = 1 → 64 ≤ (f.bytes ++ rest).length →
        (f.bytes ++ rest).length ≤ s.get (PORT_CFG.max_frame (s.laneOf port)) →
        f.err = false → (f.hdr ≠ [] ∨ isControl (f.bytes ++ rest) = false) →
        (fcsOk (f.bytes ++ rest) = true → s.fifoFill (s.pipeOf port) + rest.length ≤ 98304 →
          ∃ t, exec (.lastByteHeld port rest false) s = .next t ∧
            t.fifo (s.pipeOf port) = (s.fifo (s.pipeOf port)).map (fun x =>
              if x = f then { f with bytes := f.bytes ++ rest, whole := true } else x) ∧
            t.get (PORT_RX0.rx_frames (s.laneOf port)) = satAdd 48 (s.get (PORT_RX0.rx_frames (s.laneOf port))) 1 ∧
            t.get (PORT_RX1.rx_bytes (s.laneOf port)) =
              satAdd 48 (s.get (PORT_RX1.rx_bytes (s.laneOf port))) (f.bytes ++ rest).length ∧
            t.pk = { s.pk with fifo := t.pk.fifo } ∧ s.SameCounting [.pk] t ∧
            s.Frame (perfRegs (lmBase (s.laneOf port))) [PORT_RX0.rx_frames (s.laneOf port),
              PORT_RX1.rx_bytes (s.laneOf port)] t) ∧
        (fcsOk (f.bytes ++ rest) = false →
          ∃ t, exec (.lastByteHeld port rest false) s = .next t ∧
            t.fifo (s.pipeOf port) = (s.fifo (s.pipeOf port)).filter (fun x => x ≠ f) ∧
            t.get (PORT_RX2.fcs_err (s.laneOf port)) = satAdd 16 (s.get (PORT_RX2.fcs_err (s.laneOf port))) 1 ∧
            t.pk = { s.pk with fifo := t.pk.fifo } ∧ s.SameCounting [.pk] t ∧
            s.Frame (perfRegs (lmBase (s.laneOf port))) [PORT_RX0.rx_frames (s.laneOf port),
              PORT_RX1.rx_bytes (s.laneOf port), PORT_RX2.fcs_err (s.laneOf port)] t)) ∧
      (∀ p : Pkt, (s.fifo (s.pipeOf port)).find? (fun x => decide (x.port = port.val) && !x.whole) = none →
        s.pk.pkts.filter (fun x => decide (x.port = port.val) && !x.whole && !x.w.injected) = [p] →
        s.pkt p.id = some p → p.admitted = false → p.pending = [] → p.hdr = [] → p.rxErr = false →
        (∀ x ∈ s.buf.xoff, s.pipeOf (x.1 / 4) ≠ p.w.pipe) → (∀ x ∈ s.buf.headActive, s.pipeOf (x.1 / 4) ≠ p.w.pipe) → fcsOk (p.bytes ++ rest) = true →
        (p.bytes ++ rest).length ≤ s.get (PORT_CFG.max_frame (s.laneOf port)) →
        ∃ t, exec (.lastByteHeld port rest false) s = .next t ∧
          t.pkt p.id = some { p with bytes := p.bytes ++ rest, whole := true
                                     w := { p.w with md := mdPut p.w.md 2 6 14 (lengthField true (p.bytes ++ rest)) } } ∧
          (∀ i, i ≠ p.id → t.pkt i = s.pkt i) ∧
          t.get (PORT_RX0.rx_frames (s.laneOf port)) = satAdd 48 (s.get (PORT_RX0.rx_frames (s.laneOf port))) 1 ∧
          t.pk = { s.pk with pkts := t.pk.pkts, copies := t.pk.copies } ∧ s.SameCounting [.pk] t ∧
          s.Frame (perfRegs (lmBase (s.laneOf port))) [PORT_RX0.rx_frames (s.laneOf port),
            PORT_RX1.rx_bytes (s.laneOf port)] t)) ∧
    (∀ (pipe : Fin 32) (f : RxFrame) (r : PortRec), s.slotsRun pipe = true → s.get STRUCT_STATUS.state = 3 →
      s.readyFrame pipe = some f → s.mapRec f.port = some r →
      s.pkt s.pk.nextPkt = none →
      ∃ (t : State) (q : Pkt), exec (.parserEntry pipe (0, [])) s = .next t ∧ t.pkt s.pk.nextPkt = some q ∧
        q.port = f.port ∧ q.bytes = f.bytes ∧ q.whole = f.whole ∧ q.err = false ∧ q.rxErr = f.err ∧ q.rx = f.rx ∧ q.hdr = f.hdr ∧
        q.ver = s.version ∧ q.bank = s.get PRS_PAT_CTL.active_bank ∧ q.admitted = false ∧ q.w.stage = 0 ∧
        q.w.pipe = pipe ∧ q.w.injected = false ∧ q.w.first = true ∧
        q.crossed = min f.bytes.length s.intakeDepth ∧
        (∀ x : ChQueue, f.bytes ≠ [] → x = s.chQueue (chKey pipe false (chData f.lossless)) →
          (∀ i < 3, (s.chQueue (chKey pipe false i)).items = []) → x.credits ≤ chSlots (chData f.lossless) →
          t.chQueue (chKey pipe false (chData f.lossless)) =
            ⟨(x.writeA + ceilDiv q.crossed 256) % 128, (x.writeB + ceilDiv q.crossed 256) % 128,
             (x.readA + ceilDiv q.crossed 256) % 128, (x.readB + ceilDiv q.crossed 256) % 128, x.credits, []⟩) ∧
        (∀ i, i ≠ s.pk.nextPkt → t.pkt i = s.pkt i) ∧ t.fifo pipe = removeFrame f (s.fifo pipe) ∧
        (∀ sec, sec ≠ pipe.val → t.fifo sec = s.fifo sec) ∧
        t.get (PRS_CNT_PKT.packets pipe) = satAdd 48 (s.get (PRS_CNT_PKT.packets pipe)) 1 ∧
        t.pk = { s.pk with pkts := t.pk.pkts, fifo := t.pk.fifo, nextPkt := s.pk.nextPkt + 1 } ∧
        s.SameCounting [.pk, .img, .free, .flt] t ∧ s.Frame (pipeRegs pipe) [] t)

/-- 03_action_microcode.md R107, R109, R117, R120, R121, R130, R132, R136, 08_shared_buffer.md R312-R314, R316: a packet's
passage of a stage without and with a word to execute, the word lost to a double-bit error, and the end of stage 19:
dropped by its disposition, admitted to a quota or a pool, or refused for want of cells. -/
def Obligations.PacketsPassStagesAndAreAdmitted : Prop :=
  ∀ (s : State) (p : Pkt), s.Inv → s.pkt p.id = some p → p.admitted = false → s.slotsRun p.w.pipe = true →
    (p.w.stage < 20 → p.w.look = [] →
      (∀ (ecc : Fin 3) (err : List (Nat × Nat)) (slotErr : List Nat),
        (mdDone p.w.md = true ∨ mdRecirc p.w.md = true ∨ addrStage (mdNext p.w.md) ≠ p.w.stage) →
        ∃ t, exec (.stageExecute false p.id ecc err slotErr) s = .next t ∧
          t.pkt p.id = some { p with w := { p.w with stage := p.w.stage + 1, md := mdPut p.w.md 24 26 1 0,
                                                     notes := p.w.notes ++
              [⟨perfBlock p.w.pipe p.w.stage, 2, p.w.attr, 1⟩, ⟨perfBlock p.w.pipe p.w.stage, 3, p.w.attr, mdGet p.w.md 2 6 14⟩]
                                                     times := p.w.times ++ [s.time.total / 2 ^ 38] } } ∧
          (∀ i, i ≠ p.id → t.pkt i = s.pkt i) ∧ t.pk = { s.pk with pkts := t.pk.pkts } ∧ s.Same [.pk] t ∧
          s.Frame noRegs [] t) ∧
      (∀ word : Nat, mdDone p.w.md = false → mdRecirc p.w.md = false → addrStage (mdNext p.w.md) = p.w.stage →
        s.storeWord p.w.stage (addrWord (mdNext p.w.md)) = some word →
        (mwLookup word = false → mwNextSel word = 0 → mwRecirc word = false →
          (opSlots (s.compat p.w.stage) (mdPut p.w.md 24 26 1 0) word).trap = none → (opSlots (s.compat p.w.stage) (mdPut p.w.md 24 26 1 0) word).ctl = 0 →
          ∃ (t : State) (q : Pkt), exec (.stageExecute false p.id 0 [] []) s = .next t ∧ t.pkt p.id = some q ∧
            q = { p with w := q.w } ∧ q.w = { p.w with stage := p.w.stage + 1, md := q.w.md, notes := q.w.notes,
                                                       times := p.w.times ++ [s.time.total / 2 ^ 38] } ∧
            q.w.md = mdPut (applyOps p.w.first p.w.stage (mdPut p.w.md 24 26 1 0)
              (opSlots (s.compat p.w.stage) (mdPut p.w.md 24 26 1 0) word)) 24 0 15 (mwNext word) ∧
            (∀ r v : Nat, r < 4 → p.w.md.length = 128 → opCode (mwOp word 1) = 0 → opCode (mwOp word 2) = 0 →
              opCondEn (mwOp word 0) = false → opDst (mwOp word 0) = 256 + r → v < 2 ^ 32 →
              aluResult (opCode (mwOp word 0)) (sourceVal (mdPut p.w.md 24 26 1 0) (mwImm word) (opA (mwOp word 0)))
                (sourceVal (mdPut p.w.md 24 26 1 0) (mwImm word) (opB (mwOp word 0))) (opLo (mwOp word 0))
                (opW (mwOp word 0)) (nth p.w.md (28 + r)) = some v →
              nth q.w.md (28 + r) = v ∧ (∀ j, j ≠ 24 → j ≠ 28 + r → nth q.w.md j = nth p.w.md j) ∧
              (opSetFlags (mwOp word 0) = true →
                (mdFlags q.w.md).z = decide (v = 0) ∧ (mdFlags q.w.md).n = bitAt v 31)) ∧
            (∀ i, i ≠ p.id → t.pkt i = s.pkt i) ∧ t.pk = { s.pk with pkts := t.pk.pkts } ∧ s.Same [.pk] t ∧
            s.Frame noRegs [] t) ∧
        (∀ v : Nat, mdTrapLive p.w.md = false → s.trapAddress p.w.stage = some v → v < 2 ^ 15 →
          p.w.md.length = 128 →
          ∃ (t : State) (q : Pkt), exec (.stageExecute false p.id 2 [] []) s = .next t ∧ t.pkt p.id = some q ∧
            q.w.stage = p.w.stage + 1 ∧ mdNext q.w.md = v ∧ mdDone q.w.md = false ∧ mdTrapLive q.w.md = true ∧
            nth q.w.md 17 = p.w.stage * 1024 + addrWord (mdNext p.w.md) + 6 * 2 ^ 16 ∧
            nth q.w.md 18 = addrWord (mdNext p.w.md) ∧
            t.get (ACT_TRAP_CNT.taken p.w.pipe p.w.stage) =
              satAdd 32 (s.get (ACT_TRAP_CNT.taken p.w.pipe p.w.stage)) 1 ∧
            t.get (ACT_TRAP_LAST.cause p.w.pipe p.w.stage) = 6 ∧
            t.pk = { s.pk with pkts := t.pk.pkts } ∧ s.Same [.pk] t))) ∧
    (p.w.stage = 20 → p.w.pipe < 32 → p.force = 0 → mdRecirc p.w.md = false → p.whole = true → p.bytes ≠ [] →
      p.charged = 0 → p.cells = [] → (∀ c ∈ s.pk.copies, c.pkt ≠ p.id) →
      (mdDisposition p.w.md = 1 →
        ∃ t, exec (.admission p.id) s = .next t ∧ t.pkt p.id = none ∧ t.pk.copies = s.pk.copies ∧
          t.buf.quotaUsed = s.buf.quotaUsed ∧ t.buf.headUsed = s.buf.headUsed ∧
          (∀ k < 8, t.get (BUF_POOL_STAT.used k) = s.get (BUF_POOL_STAT.used k))) ∧
      (mdDisposition p.w.md = 0 → bitAt (nth p.w.md 33) 14 = false → bitAt (nth p.w.md 34) 2 = false →
        shaped (s.profile (polProfile (s.policer (mdTenant p.w.md * 4 +
          nth p.w.md (s.get SCHED_G_CFG.pol_word) % 4)))) = false →
        s.queueOpen (queueOf (mdGet p.w.md 32 0 10) (mdGet p.w.md 32 10 4)) = true → s.descriptorsFree 1 = true →
        ((s.quota (pairOf p.w.md)).valid = true →
          s.quotaUsed (pairOf p.w.md) + ceilDiv p.bytes.length 256 ≤ (s.quota (pairOf p.w.md)).cells →
          ∃ (t : State) (c : Copy) (q : Pkt), exec (.admission p.id) s = .next t ∧ t.pk.copies = s.pk.copies ++ [c] ∧
            c.id = s.pk.nextCopy ∧ c.pkt = p.id ∧ c.queue = queueOf (mdGet p.w.md 32 0 10) (mdGet p.w.md 32 10 4) ∧
            c.at' = .queued ∧ c.pooled = false ∧ c.admitAt = s.wrapNow ∧ c.read = 0 ∧ t.pkt p.id = some q ∧
            q.admitted = true ∧ q.charge = .quota (pairOf p.w.md) ∧ q.charged = ceilDiv p.bytes.length 256 ∧
            t.quotaUsed (pairOf p.w.md) = s.quotaUsed (pairOf p.w.md) + ceilDiv p.bytes.length 256 ∧
            (∀ k, k ≠ pairOf p.w.md → t.quotaUsed k = s.quotaUsed k) ∧
            t.packetCount p.w.pipe = s.packetCount p.w.pipe + 1 ∧ q.copies = 1 ∧
            t.buf = { s.buf with quotaUsed := t.buf.quotaUsed, packets := t.buf.packets } ∧
            t.get (BUF_PIPE_STAT0.admitted p.w.pipe) = satAdd 48 (s.get (BUF_PIPE_STAT0.admitted p.w.pipe)) 1 ∧
            s.SameCounting [.pk, .buf, .mtr] t ∧
            s.Frame (fun k => perfRegs (perfBlock p.w.pipe 36) k ∨ ∃ x ∈ p.w.notes, perfRegs x.block k) [BUF_PIPE_STAT0.admitted p.w.pipe] t) ∧
        (∀ k < 8, (s.quota (pairOf p.w.md)).valid = false → bitsOf (s.get BUF_G_ACTIVE.class_pool) (3 * mdClass p.w.md) 3 = k →
          (s.get (BUF_POOL_STAT.used k) + ceilDiv p.bytes.length 256 ≤ s.get (BUF_POOL_STAT.size_active k) →
            s.get (BUF_POOL_STAT.code_active k) = 0 →
            ∃ (t : State) (c : Copy), exec (.admission p.id) s = .next t ∧ t.pk.copies = s.pk.copies ++ [c] ∧
              c.pkt = p.id ∧ c.queue = queueOf (mdGet p.w.md 32 0 10) (mdGet p.w.md 32 10 4) ∧ c.pooled = true ∧
              t.get (BUF_POOL_STAT.used k) = s.get (BUF_POOL_STAT.used k) + ceilDiv p.bytes.length 256 ∧
              t.get (BUF_POOL_DROP.hwm k) =
                max (s.get (BUF_POOL_DROP.hwm k)) (s.get (BUF_POOL_STAT.used k) + ceilDiv p.bytes.length 256) ∧
              t.get (BUF_PIPE_STAT0.admitted p.w.pipe) = satAdd 48 (s.get (BUF_PIPE_STAT0.admitted p.w.pipe)) 1 ∧
              t.buf = { s.buf with packets := t.buf.packets } ∧ s.SameCounting [.pk, .buf, .mtr] t ∧ s.Frame (fun k => perfRegs (perfBlock p.w.pipe 36) k ∨ ∃ x ∈ p.w.notes, perfRegs x.block k)
                [BUF_PIPE_STAT0.admitted p.w.pipe, BUF_POOL_STAT.used k, BUF_POOL_DROP.hwm k] t) ∧
          (s.get (BUF_POOL_STAT.size_active k) < s.get (BUF_POOL_STAT.used k) + ceilDiv p.bytes.length 256 →
            (s.headroom (mdIngress p.w.md) (mdClass p.w.md)).valid = false →
            ∃ t, exec (.admission p.id) s = .next t ∧ t.pkt p.id = none ∧ t.pk.copies = s.pk.copies ∧
              smGet natZero t.buf.queueDrops (queueOf (mdGet p.w.md 32 0 10) (mdGet p.w.md 32 10 4)) =
                satAdd 32 (smGet natZero s.buf.queueDrops (queueOf (mdGet p.w.md 32 0 10) (mdGet p.w.md 32 10 4))) 1 ∧
              t.buf.quotaUsed = s.buf.quotaUsed ∧ t.get (BUF_POOL_STAT.used k) = s.get (BUF_POOL_STAT.used k)))))

/-- 08_shared_buffer.md R292-R295, R298-R302, R312, 10_telemetry_metering.md R373: an admitted packet's next cell as
written and chained, the packet ended by a write stall, the reference that a departing copy presents, the Rake's
refills, trims and rebalances of the pipes' lists, and the peaks sampled. -/
def Obligations.CellsAreWrittenReadAndReturned : Prop :=
  ∀ s : State, s.Inv →
    (∀ (pipe : Fin 32) (prev : Option Nat) (waiting : List Nat),
      (∀ g, s.chooseGroup pipe prev waiting = some g → g < 32 ∧ s.ptrs pipe g ≠ [] ∧ prev ≠ some g ∧
        (∀ h < 32, s.ptrs pipe h ≠ [] → prev ≠ some h →
          nth waiting (8 * g + ptrCell ((s.ptrs pipe g).headD 0) % 8) ≤ nth waiting (8 * h + ptrCell ((s.ptrs pipe h).headD 0) % 8))) ∧
      (s.chooseGroup pipe prev waiting = none → ∀ h < 32, s.ptrs pipe h = [] ∨ prev = some h)) ∧
    (∀ (p : Pkt) (writes reads : List Nat) (g ptr n : Nat) (last : Bool) (rest : List Nat), s.pkt p.id = some p →
      nextCell p = some (n, last) → s.mayWrite p = true → p.w.pipe < 32 → p.gone = [] → p.copies < 2 ^ 11 →
      s.chooseGroup p.w.pipe (p.cells.getLast?.map (fun x => ptrGroup x.1)) (waitingAt writes reads) = some g →
      s.ptrs p.w.pipe g = ptr :: rest → p.cells.length < p.reserved → ptr < 2 ^ 21 →
      (∀ x : Nat × Nat, p.cells.getLast? = some x → x.1 ≠ ptr) →
      ∃ (t : State) (q : Pkt), exec (.cellWrite p.id writes reads) s = .next t ∧ t.pkt p.id = some q ∧
        q.cells = p.cells ++ [(ptr, (cellEpoch (s.cell ptr) + 1) % 16)] ∧ q.last = last ∧
        q.charged = p.charged - (if last then min (p.reserved - (p.cells.length + 1)) p.charged else 0) ∧
        cellRefs (t.cell ptr) = p.copies ∧ cellOwner (t.cell ptr) = p.w.pipe ∧
        cellEpoch (t.cell ptr) = (cellEpoch (s.cell ptr) + 1) % 16 ∧
        bitAt (t.cell ptr) 20 = last ∧ bitsOf (t.cell ptr) 46 8 = (n - 1) % 256 ∧
        (∀ x : Nat × Nat, p.cells.getLast? = some x → bitsOf (t.cell x.1) 21 21 = ptr ∧
          cellRefs (t.cell x.1) = cellRefs (s.cell x.1)) ∧
        (∀ a, a ≠ ptr → (∀ x : Nat × Nat, p.cells.getLast? = some x → a ≠ x.1) → t.cell a = s.cell a) ∧
        t.ptrs p.w.pipe g = rest ∧ (∀ q r : Fin 32, (q.val ≠ p.w.pipe ∨ r.val ≠ g) → t.ptrs q r = s.ptrs q r) ∧
        s.SameCounting [.pk, .buf, .flt] t) ∧
    (∀ (pipe : Fin 32) (p : Pkt),
      s.pk.pkts.find? (fun p => decide (p.w.pipe = pipe.val) && p.admitted && !p.last && !p.ended && (nextCell p).isSome) = some p →
      s.noPointers = true → (∀ c ∈ s.pk.copies, c.pkt = p.id → c.wire = none) →
      ∃ (t : State) (q : Pkt), exec (.writeStallEnd pipe) s = .next t ∧ t.pkt p.id = some q ∧ q.ended = true ∧
        q.err = true ∧ q.cells = p.cells ∧ t.pk.copies = s.pk.copies ∧
        t.get (BUF_PIPE_STAT4.stall_ends pipe) = satAdd 16 (s.get (BUF_PIPE_STAT4.stall_ends pipe)) 1 ∧
        (∀ a, t.cell a = s.cell a) ∧ s.Same [.pk, .buf] t) ∧
    (∀ (c : Copy) (p : Pkt) (ptr e : Nat), s.copy c.id = some c → s.pkt c.pkt = some p →
      p.cells[c.read]? = some (ptr, e) → c.at' ≠ .queued → isPortQueue c.queue = true → s.slotsRun c.w.pipe = true →
      c.wire = none → ptrInvalid ptr = false →
      s.chReady c.w.pipe true (chData (s.isLossless (c.queue / 16) (mdClass c.w.md))) = true →
      (ptr ∈ s.buf.bad → ∃ t, exec (.cellRead c.id none 0) s = .next t ∧ ∀ d ∈ t.pk.copies, d.id ≠ c.id) ∧
      (ptr ∉ s.buf.bad →
      (cellOwner (s.cell ptr) = p.w.pipe → cellEpoch (s.cell ptr) = e →
        (2 ≤ cellRefs (s.cell ptr) →
          ∃ t, exec (.cellRead c.id none 0) s = .next t ∧ t.cell ptr = s.cell ptr - 1 ∧
            t.copy c.id = some { c with read := c.read + 1 } ∧ (∀ i, i ≠ c.id → t.copy i = s.copy i) ∧
            (∀ a, a ≠ ptr → t.cell a = s.cell a) ∧ t.buf = { s.buf with cellState := t.buf.cellState } ∧
            t.pk = { s.pk with copies := t.pk.copies } ∧ s.Same [.pk, .buf, .flt] t ∧ t.regs = s.regs) ∧
        (cellRefs (s.cell ptr) = 1 → s.cached (s.copyPipe c) (ptrGroup ptr) < 64 →
          ∃ t, exec (.cellRead c.id none 0) s = .next t ∧ t.cell ptr = s.cell ptr - 1 ∧
            t.copy c.id = some { c with read := c.read + 1 } ∧ (∀ a, a ≠ ptr → t.cell a = s.cell a) ∧
            t.cached (s.copyPipe c) (ptrGroup ptr) = s.cached (s.copyPipe c) (ptrGroup ptr) + 1 ∧
            t.buf.subring = s.buf.subring ∧ s.Same [.pk, .buf, .pl, .flt] t)) ∧
      (cellRefs (s.cell ptr) = 0 →
        ∃ t, exec (.cellRead c.id none 0) s = .next t ∧ (∀ a, t.cell a = s.cell a) ∧
          t.copy c.id = some { c with read := c.read + 1 } ∧
          t.get BUF_FAULT_CNT.count_zero = satAdd 32 (s.get BUF_FAULT_CNT.count_zero) 1 ∧
          t.get BUF_FAULT_LAST.kind = 1 ∧ t.buf = s.buf ∧ s.Same [.pk, .out, .hif, .flt] t))) ∧
    (∀ (g p : Fin 32), s.seqRuns 1 = true → s.buf.ringInit = true →
      (s.cached p g < 16 → 48 - s.cached p g < s.subring g →
        ∃ t, exec (.rakeRefill g [p] []) s = .next t ∧ t.cached p g = 48 ∧
          t.ptrs p g = s.ptrs p g ++ (takeRuns (48 - s.cached p g) (s.runs g)).1 ∧
          t.subring g = s.subring g - (48 - s.cached p g) ∧
          (p.val + 1 < 32 → smGet natZero t.buf.grant g = p + 1) ∧
          (∀ q r : Fin 32, (q ≠ p ∨ r ≠ g) → t.cached q r = s.cached q r) ∧
          (∀ r, r ≠ g.val → t.subring r = s.subring r) ∧
          t.buf = { s.buf with cache := t.buf.cache, subring := t.buf.subring, grant := t.buf.grant } ∧
          s.SameCounting [.buf] t ∧ s.Frame (perfRegs rakeBlock) [] t) ∧
      (s.cached p g < 16 → s.subring g = 0 →
        ∃ t, exec (.rakeRefill g [p] []) s = .next t ∧
          t.get (BUF_PIPE_STAT3.no_cell p) = satAdd 32 (s.get (BUF_PIPE_STAT3.no_cell p)) 1 ∧
          t.get BUF_RAKE_STAT.no_cell = satAdd 32 (s.get BUF_RAKE_STAT.no_cell) 1 ∧ s.Same [] t ∧
          s.Frame noRegs [BUF_PIPE_STAT3.no_cell p, BUF_RAKE_STAT.no_cell] t) ∧
      (16 ≤ s.cached p g → s.cached p g ≤ 56 → exec (.rakeRefill g [p] [p]) s = .next s) ∧
      (56 < s.cached p g →
        ∃ t, exec (.rakeRefill g [] [p]) s = .next t ∧ t.cached p g = 48 ∧
          t.subring g = s.subring g + (s.cached p g - 48) ∧
          (∀ q r : Fin 32, (q ≠ p ∨ r ≠ g) → t.cached q r = s.cached q r) ∧
          t.buf = { s.buf with cache := t.buf.cache, subring := t.buf.subring } ∧
          s.SameCounting [.buf] t ∧ s.Frame (perfRegs rakeBlock) [] t)) ∧
    (∀ (p : Fin 32) (k n : Nat), s.seqRuns 1 = true → (∀ g < 32, s.cached p g = 0) → s.fullest p = some (k, n) → 2 ≤ n →
      k < 1024 →
      ∃ t, exec (.rakeRebalance p) s = .next t ∧ k / 32 ≠ p.val ∧ (∀ x ∈ s.buf.cache, x.1 / 32 ≠ p.val → s.cached (x.1 / 32) (x.1 % 32) ≤ n) ∧
        t.cached p (k % 32) = (n + 1) / 2 ∧ t.cached (k / 32) (k % 32) = n / 2 ∧
        (∀ q r : Fin 32, (q ≠ p ∨ r.val ≠ k % 32) → (q * 32 + r ≠ k) → t.cached q r = s.cached q r) ∧
        t.get BUF_RAKE_STAT.rebalances = satAdd 16 (s.get BUF_RAKE_STAT.rebalances) 1 ∧
        t.buf = { s.buf with cache := t.buf.cache } ∧ s.SameCounting [.buf] t ∧
        s.Frame (perfRegs rakeBlock) [BUF_RAKE_STAT.rebalances] t) ∧
    (∃ t, exec .peakSample s = .next t ∧
      (∀ pair < 16384, (∃ p ∈ s.pk.pkts, p.charge ≠ .none ∧ pairOf p.w.md = pair) →
        t.meter (meterKey 0 s.mtr.bank pair) = { s.meter (meterKey 0 s.mtr.bank pair) with
          peak := max (s.meter (meterKey 0 s.mtr.bank pair)).peak (min (s.pairCells pair) (2 ^ 21 - 1)) }) ∧
      (∀ pair, (∀ p ∈ s.pk.pkts, p.charge = .none ∨ pairOf p.w.md ≠ pair) →
        t.meter (meterKey 0 s.mtr.bank pair) = s.meter (meterKey 0 s.mtr.bank pair)) ∧
      t.mtr = { s.mtr with meters := t.mtr.meters } ∧ s.Same [.mtr] t ∧ t.regs = s.regs)

/-- 09_scheduling_shaping.md R338-R345, R353, R358, R359, R352, R355, R357, 11_serial_lanes.md R411, R412: which queue of
a node a decision takes by strict priority or by its current turn, how the chosen copy enters stage 20, what starts,
waits or is discarded at the port, which starved queues are promoted, and what the gates show as a list runs or takes
over. -/
def Obligations.DeparturesAreChosenStartedAndGated : Prop :=
  ∀ s : State, s.Inv →
    (∀ port : Fin 1024, (s.pwrState < 2 → s.portUp port = true → s.rootEligible port = false →
        exec (.schedDecide port) s = .next s) ∧
      (∀ (m q : Nat) (c : Copy) (p : Pkt), s.pwrState < 2 → s.portUp port = true → s.rootEligible port = true →
        s.eligible port 0xFF = [16 + m] → m < 64 → (s.schNode (port * 64 + m)).quantum = 0 → q < 16 →
        q ∈ s.eligible port m →
        (∀ k ∈ s.eligible port m, k < 16 ∧ (s.schQueue (queueOf port k)).promoted = false) →
        ((∀ k ∈ s.eligible port m, (s.schQueue (queueOf port k)).quantum = 0 ∧ k ≤ q) ∨
          ((∀ k ∈ s.eligible port m, (s.schQueue (queueOf port k)).quantum ≠ 0) ∧ s.curOf port m = some q ∧
            0 < (s.schQueue (queueOf port q)).deficit)) →
        s.head (queueOf port q) = some c → s.pkt c.pkt = some p →
        ∃ (t : State) (d : Copy), exec (.schedDecide port) s = .next t ∧ t.copy c.id = some d ∧ d.at' = .stages ∧
          d.queue = c.queue ∧ d.w.stage = 20 ∧ d.w.pipe = s.pipeOf port ∧ d.w.port = port ∧
          (p.w.md.length = 128 → nth d.w.md 27 = c.idx + c.data * 2 ^ 16 ∧
            nth d.w.md 4 = c.queue / 16 + c.queue % 16 * 2 ^ 10 + c.idx * 2 ^ 14 ∧ mdGet d.w.md 2 23 1 = b2n c.ecn) ∧
          (∀ i, i ≠ c.id → t.copy i = s.copy i) ∧
          ((∃ x ∈ s.queued (queueOf port q), x.id ≠ c.id) → (s.schQueue (queueOf port q)).quantum ≠ 0 →
            (t.schQueue (queueOf port q)).deficit =
              (s.schQueue (queueOf port q)).deficit - (s.schedCharge port p : Int)) ∧
          t.pk = { s.pk with copies := t.pk.copies } ∧
          t.sch = { s.sch with queues := t.sch.queues, nodes := t.sch.nodes, roots := t.sch.roots } ∧
          t.get (PORT_STATUS.lpi_tx (s.laneOf port)) = 0 ∧ s.Same [.pk, .sch] t ∧
          s.Frame noRegs [SCHED_PORT_STAT.promoted port, PORT_STATUS.lpi_tx (s.laneOf port)] t)) ∧
    (∀ (port : Fin 1024) (q : Fin 16) (c : Copy) (p : Pkt), s.nextHeld (queueOf port q) = some c →
      s.pkt c.pkt = some p → s.pwrState < 2 → s.pin.stopped = false → s.channelRuns (s.pipeOf port) = true →
      s.portUp port = true → s.txFree port = true → s.overtakes c = false → s.isRistlink port = false →
      s.pfcFirst port = false →
      (s.gateOpen port q s.wrapNow = false ∨ s.pfcHeld port q = true → exec (.txStart port q) s = .next s) ∧
      (s.gateOpen port q s.wrapNow = true → s.pfcHeld port q = false →
        (p.err = true →
          ∃ t, exec (.txStart port q) s = .next t ∧ t.copy c.id = none ∧
            t.get (PORT_TX2.errored_discards (s.laneOf port)) =
              satAdd 32 (s.get (PORT_TX2.errored_discards (s.laneOf port))) 1) ∧
        (p.err = false → s.guardOk port q (s.departLen port p c) = false → c.guarded = false → s.pipeOf port < 32 →
          ∃ t, exec (.txStart port q) s = .next t ∧ t.copy c.id = some { c with guarded := true } ∧
            (∀ i, i ≠ c.id → t.copy i = s.copy i) ∧
            t.get (SCHED_PIPE_STAT1.guard_holds (s.pipeOf port)) =
              satAdd 32 (s.get (SCHED_PIPE_STAT1.guard_holds (s.pipeOf port))) 1 ∧
            t.pk = { s.pk with copies := t.pk.copies } ∧ s.Same [.pk] t ∧
            s.Frame noRegs [SCHED_PIPE_STAT1.guard_holds (s.pipeOf port)] t) ∧
        (p.err = false → s.guardOk port q (s.departLen port p c) = true → p.whole = true → 4 ≤ p.bytes.length → c.ecn = false →
          s.get PL_IOAM_CFG.enable = 0 → s.ptpEvent port p.bytes = none →
          (c.read < p.cells.length →
            ∃ t, exec (.txStart port q) s = .next t ∧ t.out = s.out ∧
              t.copy c.id = some { c with
                at' := .sending
                wire := some ⟨s.stamp (s.get (TIME_PORT.tx_adj port)), s.get PL_FAB_STATUS.own_throttle,
                  ceilDiv p.bytes.length 256, false⟩ } ∧
              (∀ i, i ≠ c.id → t.copy i = s.copy i) ∧
              t.pk = { s.pk with copies := t.pk.copies } ∧
              t.mtr = { s.mtr with meters := t.mtr.meters } ∧
              t.meter (meterKey c.w.pipe s.mtr.bank (pairOf c.w.md)) =
                { s.meter (meterKey c.w.pipe s.mtr.bank (pairOf c.w.md)) with
                  txPkts := satAdd 64 (s.meter (meterKey c.w.pipe s.mtr.bank (pairOf c.w.md))).txPkts 1
                  txBytes := satAdd 64 (s.meter (meterKey c.w.pipe s.mtr.bank (pairOf c.w.md))).txBytes p.bytes.length } ∧
              s.SameCounting [.pk, .mtr] t ∧
              s.Frame (perfRegs (perfBlock c.w.pipe 33)) [] t) ∧
          (p.last = true → c.read = p.cells.length →
            ∃ t, exec (.txStart port q) s = .next t ∧ t.out = .frame port p.bytes :: s.out ∧ t.copy c.id = none ∧
              t.get (PORT_TX0.tx_frames (s.laneOf port)) = satAdd 48 (s.get (PORT_TX0.tx_frames (s.laneOf port))) 1 ∧
              t.get (PORT_TX1.tx_bytes (s.laneOf port)) =
                satAdd 48 (s.get (PORT_TX1.tx_bytes (s.laneOf port))) p.bytes.length)))) ∧
    (s.pwrState < 2 →
      ∃ t, exec .starvationCheck s = .next t ∧
        (∀ (k : Nat) (c : Copy), k ∈ s.sch.queues.map (·.1) → s.head k = some c → (s.schQueue k).starve ≠ 0 →
          s.get SCHED_G_CFG.promo_en = 1 → (s.schQueue k).promoted = false →
          ((s.schQueue k).starve * 1000 : Int) < wrapDiff s.wrapNow c.admitAt →
          t.schQueue k = { s.schQueue k with
            promoted := true
            promoLeft := if (s.schQueue k).quantum = 0 then 1 else ((s.schQueue k).quantum : Int) }) ∧
        (∀ k : Nat, (s.head k = none ∨ (s.schQueue k).starve = 0 ∨ s.get SCHED_G_CFG.promo_en = 0 ∨
            (s.schQueue k).promoted = true ∨
            (∃ c, s.head k = some c ∧ wrapDiff s.wrapNow c.admitAt ≤ ((s.schQueue k).starve * 1000 : Int))) →
          t.schQueue k = s.schQueue k) ∧
        t.sch = { s.sch with queues := t.sch.queues } ∧ s.Same [.sch] t) ∧
    (∀ port : Fin 1024,
      (s.gateList port = none → exec (.gateEntryChange port) s = .next s) ∧
      (s.gated = true → exec (.gateEntryChange port) s = .next s ∧ exec (.gateTakeover port) s = .next s) ∧
      (∀ l : GateList, s.gateList port = some l → s.gated = false →
        ∃ t, exec (.gateEntryChange port) s = .next t ∧
          t.get (SCHED_PORT_STAT.gates port) =
            gateMask (s.gateEntry port l.bank (s.gatePlace port l s.wrapNow).1) ∧
          t.get (SCHED_PORT_STAT.running port) = 1 ∧ t.get (SCHED_PORT_STAT.bank port) = l.bank % 2 ∧
          t.get (SCHED_PORT_STAT.entry port) = (s.gatePlace port l s.wrapNow).1 % 256 ∧ s.Same [] t ∧
          s.Frame noRegs [SCHED_PORT_STAT.gates port, SCHED_PORT_STAT.running port, SCHED_PORT_STAT.bank port,
            SCHED_PORT_STAT.entry port] t) ∧
      (∀ l : GateList, s.gatePend port = some l → s.gated = false →
        (wrapReached s.wrapNow l.base = false → exec (.gateTakeover port) s = .next s) ∧
        (wrapReached s.wrapNow l.base = true → l.openAll = false →
          ∃ t, exec (.gateTakeover port) s = .next t ∧ t.gateList port = some l ∧
            (∀ p, p ≠ port.val → t.gateList p = s.gateList p) ∧ t.get (SCHED_PORT_STAT.pending port) = 0 ∧
            t.get (SCHED_PORT_STAT.running port) = 1 ∧ t.get (SCHED_PORT_STAT.gates port) = gateMask (s.gateEntry port l.bank (s.gatePlace port l s.wrapNow).1) ∧
            t.get SCHED_STAT.takeovers = satAdd 32 (s.get SCHED_STAT.takeovers) 1 ∧
            t.sch = { s.sch with lists := t.sch.lists, pend := t.sch.pend } ∧ s.Same [.sch] t) ∧
        (wrapReached s.wrapNow l.base = true → l.openAll = true →
          (s.sch.lists.filter (fun x => x.1 = port.val)).length ≤ 1 →
          ∃ t, exec (.gateTakeover port) s = .next t ∧ t.gateList port = none ∧
            t.get (SCHED_PORT_STAT.pending port) = 0 ∧ t.get (SCHED_PORT_STAT.running port) = 0 ∧
            t.get (SCHED_PORT_STAT.gates port) = 0xFFFF ∧
            t.get SCHED_STAT.takeovers = satAdd 32 (s.get SCHED_STAT.takeovers) 1 ∧
            t.sch = { s.sch with lists := t.sch.lists, pend := t.sch.pend } ∧ s.Same [.sch] t)))

/-- 08_shared_buffer.md R320-R322, R324, R325, 09_scheduling_shaping.md R360: the PFC frames that a port owes or repeats,
what a received PFC or PAUSE frame does to the pause timers and how they end, and a port's stop, its drain and the
flush of what still waits. -/
def Obligations.PortsPauseStopAndDrain : Prop :=
  ∀ (s : State) (port : Fin 1024), s.Inv →
    (s.isRistlink port = false → s.portUp port = true → s.txFree port = true →
      (∀ mask : Nat, mask = smGet natZero s.buf.pfcSet port ||| smGet natZero s.buf.pfcClear port →
        (mask = 0 → exec (.pfcFrameSend port) s = .next s) ∧
        (mask ≠ 0 →
          ∃ t, exec (.pfcFrameSend port) s = .next t ∧ t.out = .frame port (s.pfcFrame port mask) :: s.out ∧
            t.get (PORT_TX0.tx_frames (s.laneOf port)) = satAdd 48 (s.get (PORT_TX0.tx_frames (s.laneOf port))) 1 ∧
            t.get (PORT_TX1.tx_bytes (s.laneOf port)) = satAdd 48 (s.get (PORT_TX1.tx_bytes (s.laneOf port))) 64 ∧
            (∀ c < 4, s.get (BUF_PORT_CFG2.xon_cells port) < s.headUsed (port * 4 + c) →
              s.xoffOf (port * 4 + c) = 1 ∨ s.xoffOf (port * 4 + c) = 2 → t.xoffOf (port * 4 + c) = 2) ∧
            (∀ k, k / 4 ≠ port.val → t.xoffOf k = s.xoffOf k) ∧
            t.buf = { s.buf with xoff := t.buf.xoff, pfcSet := t.buf.pfcSet, pfcClear := t.buf.pfcClear } ∧
            s.SameCounting [.buf, .out] t ∧ s.Frame (perfRegs (lmBase (s.laneOf port))) [PORT_TX0.tx_frames (s.laneOf port),
              PORT_TX1.tx_bytes (s.laneOf port), BUF_PORT_CFG2.xoff port] t)) ∧
      (s.get (BUF_PORT_CFG2.xoff port) ≠ 0 → s.get (BUF_PORT_CFG2.refresh_us port) ≠ 0 →
        ∃ t, exec (.pfcRefresh port) s = .next t ∧
          t.out = .frame port (s.pfcFrame port (s.get (BUF_PORT_CFG2.xoff port) ||| smGet natZero s.buf.pfcClear port)) :: s.out ∧
          t.get (PORT_TX0.tx_frames (s.laneOf port)) = satAdd 48 (s.get (PORT_TX0.tx_frames (s.laneOf port))) 1 ∧
          t.buf = { s.buf with xoff := t.buf.xoff, pfcSet := t.buf.pfcSet, pfcClear := t.buf.pfcClear } ∧
          s.SameCounting [.buf, .out] t ∧ s.Frame (perfRegs (lmBase (s.laneOf port))) [PORT_TX0.tx_frames (s.laneOf port),
            PORT_TX1.tx_bytes (s.laneOf port), BUF_PORT_CFG2.xoff port] t) ∧
      (s.get (BUF_PORT_CFG2.xoff port) = 0 ∨ s.get (BUF_PORT_CFG2.refresh_us port) = 0 →
        exec (.pfcRefresh port) s = .next s)) ∧
    (∀ b : List Byte, s.isRistlink port = false → s.portUp port = true → s.pwrState = 0 → s.get STRUCT_STATUS.state = 3 →
      b.length ≤ s.get (PORT_CFG.max_frame (s.laneOf port)) → fcsOk b = true → beAt b 12 2 = 0x8808 →
      (beAt b 0 6 = 0x0180C2000001 → beAt b 14 2 = 0x0101 →
        ∃ t, exec (.pfcReceive port b) s = .next t ∧
          (∀ i < 8, bitAt (beAt b 16 2) i = true → beAt b (18 + 2 * i) 2 ≠ 0 →
            t.pauseEnd port i = s.clk + s.quantaClocks port (beAt b (18 + 2 * i) 2)) ∧
          (∀ i < 8, bitAt (beAt b 16 2) i = true → beAt b (18 + 2 * i) 2 = 0 →
            (s.sch.pause.filter (fun x => x.1 = port * 8 + i)).length ≤ 1 → t.pauseEnd port i = 0) ∧
          (∀ i < 8, bitAt (beAt b 16 2) i = false → t.pauseEnd port i = s.pauseEnd port i) ∧
          (∀ k, k / 8 ≠ port.val → smGet natZero t.sch.pause k = smGet natZero s.sch.pause k) ∧
          (∀ q < 16, bitAt (t.get (SCHED_PORT_STAT.paused port)) q = t.pfcHeld port q) ∧
          (s.pipeOf port < 32 → t.get (SCHED_PIPE_STAT0.pfc_rx (s.pipeOf port)) =
            satAdd 32 (s.get (SCHED_PIPE_STAT0.pfc_rx (s.pipeOf port))) 1) ∧
          t.sch = { s.sch with pause := t.sch.pause } ∧ s.SameCounting [.sch] t) ∧
      (beAt b 14 2 = 1 →
        ∃ t, exec (.pauseReceive port b) s = .next t ∧
          t.get SCHED_STAT.pause_discards = satAdd 32 (s.get SCHED_STAT.pause_discards) 1 ∧ s.SameCounting [] t ∧
          s.Frame (perfRegs (lmBase (s.laneOf port))) [PORT_RX0.rx_frames (s.laneOf port),
            PORT_RX1.rx_bytes (s.laneOf port), SCHED_STAT.pause_discards] t)) ∧
    (∀ i : Fin 8,
      (s.pauseEnd port i = 0 ∨ s.clk < s.pauseEnd port i → exec (.pauseTimerExpire port i) s = .next s) ∧
      (s.pauseEnd port i ≠ 0 → s.pauseEnd port i ≤ s.clk →
        (s.sch.pause.filter (fun x => x.1 = port.val * 8 + i.val)).length ≤ 1 →
        ∃ t, exec (.pauseTimerExpire port i) s = .next t ∧ t.pauseEnd port i = 0 ∧
          (∀ k, k ≠ port.val * 8 + i.val → smGet natZero t.sch.pause k = smGet natZero s.sch.pause k) ∧
          (∀ q < 16, bitAt (t.get (SCHED_PORT_STAT.paused port)) q = t.pfcHeld port q) ∧
          t.sch = { s.sch with pause := t.sch.pause } ∧ s.Same [.sch] t ∧
          s.Frame noRegs [SCHED_PORT_STAT.paused port] t)) ∧
    (s.pwrState < 2 →
      (s.get (BUF_PORT_CFG2.drain_us port) ≠ 0 →
        ∃ t, exec (.portStop port) s = .next t ∧ t.get (BUF_PORT_CFG.stop port) = 1 ∧
          t.buf = { s.buf with drains := s.buf.drains.filter (fun x => x.1 ≠ port.val) ++ [(port.val, s.clk)] } ∧
          s.Same [.buf] t ∧ s.Frame noRegs [BUF_PORT_CFG.stop port] t) ∧
      (s.get (BUF_PORT_CFG2.drain_us port) = 0 →
        ∃ t, exec (.portStop port) s = .next t ∧
          t.get (BUF_PORT_CFG.stop port) = 1 ∧
          (∀ c ∈ t.pk.copies, c ∈ s.pk.copies ∧ (c.queue / 16 = port.val → c.queue < 16384 → c.at' ≠ .queued)) ∧
          (∀ c ∈ s.pk.copies, (∀ d ∈ s.pk.copies, d.id = c.id → d.queue / 16 ≠ port.val ∨ 16384 ≤ d.queue ∨ d.at' ≠ .queued) →
            c ∈ t.pk.copies)) ∧
      (∃ t, exec (.portStopClear port) s = .next t ∧ t.get (BUF_PORT_CFG.stop port) = 0 ∧
        t.buf = { s.buf with drains := s.buf.drains.filter (fun x => x.1 ≠ port.val) } ∧ s.Same [.buf] t ∧
        s.Frame noRegs [BUF_PORT_CFG.stop port] t)) ∧
    (s.buf.drains.find? (fun x => x.1 = port.val) = none → exec (.stopDrainEnd port) s = .next s) ∧
    (∀ x : Nat × Nat, s.buf.drains.find? (fun y => y.1 = port.val) = some x →
      (s.clk < x.2 + s.get (BUF_PORT_CFG2.drain_us port) * clkPerUs → exec (.stopDrainEnd port) s = .next s) ∧
      (x.2 + s.get (BUF_PORT_CFG2.drain_us port) * clkPerUs ≤ s.clk →
        ∃ t, exec (.stopDrainEnd port) s = .next t ∧
          t.buf.drains = s.buf.drains.filter (fun y => y.1 ≠ port.val) ∧
          (∀ c ∈ t.pk.copies, c ∈ s.pk.copies ∧ (c.queue / 16 = port.val → c.queue < 16384 → c.at' ≠ .queued)) ∧
          (∀ c ∈ s.pk.copies, (∀ d ∈ s.pk.copies, d.id = c.id → d.queue / 16 ≠ port.val ∨ 16384 ≤ d.queue ∨ d.at' ≠ .queued) →
            c ∈ t.pk.copies)))

/-- 11_serial_lanes.md R409, R410, R413, R414, R416, R419, R420, R427, R430, R436, R438: how an enabled port comes up,
fails an attempt and tries again, what takes it down with which cause, how it is disabled, falls to keep-alive rate
and enters LPI. -/
def Obligations.PortsComeUpAndGoDown : Prop :=
  ∀ (s : State) (port : Fin 1024) (r : PortRec), s.Inv → s.enabledRec port = some r → r.port = port → r.first + r.lanes ≤ 1024 →
    (s.get (PORT_STATUS.state r.first) = 3 → r.link = 1 → (s.port port).rate ≠ 2 →
      ∃ t, exec (.alignComplete port []) s = .next t ∧ t.get (PORT_STATUS.state r.first) = 4 ∧
        t.out = (if (s.port port).fault then .fault port false :: s.out else s.out) ∧ (t.port port).fault = false ∧
        t.get (PORT_STATUS.up r.first) = 1 ∧ t.get (PORT_STATUS.lpi_tx r.first) = 0 ∧
        t.get (PORT_STATUS.lpi_rx r.first) = 0 ∧ (t.port port).linked = true ∧ (t.port port).rate = 0 ∧
        (s.get (PORT_CFG.an_en r.first) = 0 → t.get (PORT_STATUS.speed r.first) = r.speed % 32 ∧
          t.get (PORT_STATUS.fec_active r.first) = fecOf (rateKind r.speed r.lanes) (s.get (PORT_CFG.fec r.first)) ∧
          t.get (PORT_STATUS.eee_active r.first) = s.get (PORT_CFG.eee_en r.first)) ∧
        (s.get (PORT_CFG.an_en r.first) = 1 → s.get (PORT_CFG.media r.first) = 0 → s.get (PORT_CFG.pcs_loop r.first) = 0 →
          t.get (PORT_STATUS.speed r.first) = s.get (PORT_STATUS.speed r.first) ∧
          t.get (PORT_STATUS.fec_active r.first) = s.get (PORT_STATUS.fec_active r.first) ∧
          t.get (PORT_STATUS.eee_active r.first) =
            (if (s.port port).eee then s.get (PORT_CFG.eee_en r.first) else 0)) ∧
        s.Same [.io, .out] t ∧ s.Frame noRegs [PORT_STATUS.state r.first, PORT_STATUS.up r.first, PORT_STATUS.speed r.first,
          PORT_STATUS.fec_active r.first, PORT_STATUS.eee_active r.first, PORT_STATUS.lpi_tx r.first,
          PORT_STATUS.lpi_rx r.first, PORT_STATUS.low_margin r.first] t) ∧
    (∀ fields : List (Fin 8), s.get (PORT_STATUS.state r.first) = 3 → r.link = 2 →
      ((∃ i < r.lanes, i ∉ fields.map (·.val)) →
        ∃ t, exec (.alignComplete port fields) s = .next t ∧ t.get (PORT_STATUS.state r.first) = 5 ∧
          t.get (PORT_STATUS.down_cause r.first) = 3 ∧ s.Same [.io] t ∧
          s.Frame noRegs [PORT_STATUS.state r.first, PORT_STATUS.down_cause r.first] t) ∧
      (fields.length = r.lanes → (∀ i < r.lanes, i ∈ fields.map (·.val)) → 
        (s.get (PORT_CFG.pcs_loop r.first) = 1 ∨ ∀ l ∈ lanesOf r, (s.lane l).partner = true ∧ (s.lane l).locked = true) →
        ∃ t, exec (.alignComplete port fields) s = .next t ∧
          t.get (PORT_STATUS.state r.first) = (if (s.port port).rate = 2 then 6 else 4) ∧
          ((s.port port).rate ≠ 2 → t.get (PORT_STATUS.up r.first) = 1 ∧ (t.port port).linked = true ∧
            port.val ∈ t.pl.initOwed) ∧ s.Same [.io, .pl] t) ∧
      (fields.length = r.lanes → (∀ i < r.lanes, i ∈ fields.map (·.val)) → s.get (PORT_CFG.pcs_loop r.first) = 0 →
        (∃ l ∈ lanesOf r, (s.lane l).partner = false ∨ (s.lane l).locked = false) →
        exec (.alignComplete port fields) s = .next s)) ∧
    (s.get (PORT_STATUS.state r.first) = 3 →
      ∃ t, exec (.alignTimeout port) s = .next t ∧ t.get (PORT_STATUS.state r.first) = 5 ∧
        t.get (PORT_STATUS.down_cause r.first) = (if ∀ l ∈ lanesOf r, s.get (LANE_STATUS.signal l) = 1 then
          (if ∃ l ∈ lanesOf r, (s.lane l).bad = true then 5 else 3) else 2) ∧
        t.out = (if r.link = 1 ∧ (s.port port).fault = false then .fault port true :: s.out else s.out) ∧
        (r.link = 1 → (t.port port).fault = true) ∧ s.Same [.io, .out] t ∧
        s.Frame noRegs [PORT_STATUS.state r.first, PORT_STATUS.down_cause r.first] t) ∧
    (s.get (PORT_STATUS.state r.first) = 2 → (∀ l ∈ lanesOf r, s.get (LANE_CFG.loop l) ≠ 2) →
      ∃ t, exec (.trainTimeout port) s = .next t ∧ t.get (PORT_STATUS.state r.first) = 5 ∧
        t.get (PORT_STATUS.down_cause r.first) = (if ∀ l ∈ lanesOf r, s.get (LANE_STATUS.signal l) = 1 then
          (if ∃ l ∈ lanesOf r, (s.lane l).bad = true then 5 else 3) else 2) ∧ s.Same [.io, .out] t ∧
        s.Frame noRegs [PORT_STATUS.state r.first, PORT_STATUS.down_cause r.first] t) ∧
    (s.get (PORT_STATUS.state r.first) = 5 →
      (s.get (PORT_CFG.auto_restart r.first) = 0 → exec (.retryTimer port) s = .next s) ∧
      (s.get (PORT_CFG.auto_restart r.first) = 1 → s.get (LM_STATUS.pll_lock (macroOf r.first)) = 1 →
        ∃ t, exec (.retryTimer port) s = .next t ∧
          t.get (PORT_STATUS.state r.first) =
            (if s.get (PORT_CFG.pcs_loop r.first) = 1 then 3
            else if r.link = 1 ∧ s.get (PORT_CFG.an_en r.first) = 1 ∧ s.get (PORT_CFG.media r.first) = 0 then 1 else 2) ∧
          (t.get (PORT_STATUS.state r.first) = 2 → ∀ l ∈ lanesOf r, (t.lane l).phase = 1 ∧ (t.lane l).locked = false) ∧
          (t.get (PORT_STATUS.state r.first) = 1 →
            .abilities port (sumNat ((s.advertised r).map (fun c => 2 ^ (c - 1))))
              ((s.advertised r).any (fun c => rateKind c r.lanes = 1 && fecOf 1 (s.get (PORT_CFG.fec r.first)) = 2))
              (s.get (PORT_CFG.eee_en r.first) = 1) ∈ t.out) ∧ s.Same [.io, .out] t)) ∧
    (s.get (PORT_STATUS.state r.first) = 1 →
      (∃ t, exec (.anComplete port none) s = .next t ∧ t.get (PORT_STATUS.state r.first) = 5 ∧ s.Same [.io, .out] t ∧
        s.Frame noRegs [PORT_STATUS.state r.first, PORT_STATUS.down_cause r.first] t) ∧
      (∀ (speeds : Fin 256) (fec eee : Bool) (c : Nat),
        ((s.advertised r).filter (fun c => bitAt speeds (c - 1))).max? = some c →
        ∃ t, exec (.anComplete port (some (speeds, fec, eee))) s = .next t ∧ t.get (PORT_STATUS.state r.first) = 2 ∧
          t.get (PORT_STATUS.speed r.first) = c ∧
          t.get (PORT_STATUS.fec_active r.first) = (if rateKind c r.lanes = 1 ∧ fec = true then 2
            else fecOf (rateKind c r.lanes) (if fecAllowed (rateKind c r.lanes) (s.get (PORT_CFG.fec r.first)) then
              s.get (PORT_CFG.fec r.first) else 0)) ∧
          (t.port port).eee = (eee && decide (s.get (PORT_CFG.eee_en r.first) = 1)) ∧
          (∀ l ∈ lanesOf r, (t.lane l).phase = 1) ∧ s.Same [.io, .out] t)) ∧
    (∀ (lane : Fin 1024), s.portRegs lane = some r → s.get (PORT_STATUS.state r.first) = 4 →
      ∃ t, exec (.portRetrain lane) s = .next t ∧ t.get (PORT_STATUS.state r.first) = 5 ∧
        t.get (PORT_STATUS.up r.first) = 0 ∧ t.get (PORT_STATUS.down_cause r.first) = 7 ∧
        (r.link = 1 → (s.port port).fault = false → .fault port true ∈ t.out) ∧
        t.get (PORT_STATUS.flaps r.first) = satAdd 16 (s.get (PORT_STATUS.flaps r.first)) 1 ∧
        (∀ c ∈ t.pk.copies, c.queue < 16384 → c.queue / 16 ≠ port.val)) ∧
    (∀ (lane : Fin 1024), s.portAt lane = some r → s.get (PORT_STATUS.state r.first) = 4 →
      ∃ t, exec (.lossOfSignal lane) s = .next t ∧ t.get (PORT_STATUS.state r.first) = 5 ∧
        t.get (PORT_STATUS.up r.first) = 0 ∧ t.get (PORT_STATUS.down_cause r.first) = 2 ∧
        t.get (LANE_STATUS.signal lane) = 0 ∧ t.get (LANE_STATUS.cdr_lock lane) = 0 ∧
        t.get (PORT_STATUS.flaps r.first) = satAdd 16 (s.get (PORT_STATUS.flaps r.first)) 1 ∧
        (∀ c ∈ t.pk.copies, c.queue < 16384 → c.queue / 16 ≠ port.val)) ∧
    (s.get (PORT_STATUS.state r.first) = 4 → r.link = 1 →
      (∃ t, exec (.pcsLockLoss port) s = .next t ∧ t.get (PORT_STATUS.state r.first) = 5 ∧
        t.get (PORT_STATUS.up r.first) = 0 ∧ t.get (PORT_STATUS.down_cause r.first) = 3 ∧
        (∀ c ∈ t.pk.copies, c.queue < 16384 → c.queue / 16 ≠ port.val)) ∧
      (∃ t, exec (.remoteFault port) s = .next t ∧ t.get (PORT_STATUS.state r.first) = 5 ∧
        t.get (PORT_STATUS.up r.first) = 0 ∧ t.get (PORT_STATUS.down_cause r.first) = 4 ∧
        (∀ c ∈ t.pk.copies, c.queue < 16384 → c.queue / 16 ≠ port.val))) ∧
    (r.link = 2 → exec (.pcsLockLoss port) s = .next s ∧ exec (.remoteFault port) s = .next s) ∧
    (∀ (lane : Fin 1024), s.portRegs lane = some r →
      (s.get (esBusy (PORT_ENABLE_STATUS.regOff lane)) = 1 →
        ∃ t, exec (.portDisable lane) s = .next t ∧ (t.port port).disable = true ∧ s.Same [.io] t ∧ t.regs = s.regs) ∧
      (s.get (esBusy (PORT_ENABLE_STATUS.regOff lane)) = 0 → s.get (PORT_STATUS.state r.first) ≠ 0 →
        s.get (PORT_STATUS.state r.first) ≠ 7 → s.get (BUF_PORT_CFG2.drain_us port) ≠ 0 →
        ∃ t, exec (.portDisable lane) s = .next t ∧ t.get (PORT_STATUS.state r.first) = 7 ∧
          t.get (PORT_STATUS.up r.first) = 0 ∧ t.get (BUF_PORT_CFG.stop port) = 1 ∧
          t.buf = { s.buf with drains := s.buf.drains.filter (fun x => x.1 ≠ port.val) ++ [(port.val, s.clk)] } ∧
          s.Same [.io, .buf] t ∧
          s.Frame noRegs [PORT_STATUS.state r.first, PORT_STATUS.up r.first, BUF_PORT_CFG.stop port] t)) ∧
    (s.get (PORT_STATUS.state r.first) = 7 →
      (s.portHolds port = true → (∃ x, s.buf.drains.find? (fun x => x.1 = port.val) = some x ∧
          s.clk < x.2 + s.get (BUF_PORT_CFG2.drain_us port) * clkPerUs) → exec (.disableDrainEnd port) s = .next s) ∧
      (s.portHolds port = false →
        ∃ t, exec (.disableDrainEnd port) s = .next t ∧ t.get (PORT_STATUS.state r.first) = 0 ∧
          t.get (PORT_STATUS.speed r.first) = 0 ∧ t.get (PORT_STATUS.down_cause r.first) = 1 ∧
          ((s.port port).linked = true → t.get (PORT_STATUS.up r.first) = 0) ∧
          ((s.io.records.filter (fun x => x.1 = port.val)).length ≤ 1 → t.enabledRec port = none) ∧
          (∀ l ∈ lanesOf r, t.get (LANE_STATUS.signal l) = 0) ∧ (∀ x ∈ t.buf.drains, x.1 ≠ port.val))) ∧
    (r.link = 2 → s.get (PORT_STATUS.state r.first) = 4 → (s.port port).rate = 1 → (s.port port).heard = false →
      (s.clk < (s.port port).since + 8000 → exec (.keepaliveTimeout port) s = .next s) ∧
      ((s.port port).since + 8000 ≤ s.clk →
        ∃ t, exec (.keepaliveTimeout port) s = .next t ∧ t.get (PORT_STATUS.state r.first) = 2 ∧
          t.get (PORT_STATUS.up r.first) = 0 ∧ t.get (PORT_STATUS.down_cause r.first) = 8 ∧
          (t.port port).rate = 2 ∧ (t.port port).linked = false ∧
          (∀ l ∈ lanesOf r, (t.lane l).phase = 1 ∧ (t.lane l).full = s.get (LANE_STATUS.ctle l)) ∧
          (∀ c ∈ t.pk.copies, c.queue < 16384 → c.queue / 16 ≠ port.val))) ∧
    (s.get (PORT_STATUS.state r.first) = 4 → s.get (PORT_STATUS.eee_active r.first) = 1 →
      (s.portHolds port = true → exec (.lpiEnter port) s = .next s) ∧
      (s.portHolds port = false →
        ∃ t, exec (.lpiEnter port) s = .next t ∧ t.get (PORT_STATUS.lpi_tx r.first) = 1 ∧ s.Same [] t ∧
          s.Frame noRegs [PORT_STATUS.lpi_tx r.first] t) ∧
      (∀ enter : Bool, ∃ t, exec (.partnerLpi port enter) s = .next t ∧
        t.get (PORT_STATUS.lpi_rx r.first) = b2n enter ∧ s.Same [] t ∧ s.Frame noRegs [PORT_STATUS.lpi_rx r.first] t)) ∧
    ((s.port port).heard = true → exec (.keepaliveTimeout port) s = .next s) ∧
    (s.get (PORT_STATUS.eee_active r.first) = 0 → exec (.lpiEnter port) s = .next s ∧
      (∀ enter : Bool, exec (.partnerLpi port enter) s = .next s))

/-- 11_serial_lanes.md R415-R418, R421-R429, R434, R435: what a lane's sweep, its partner's training frames and timeouts
do, how a lane adapts in UP, what a Ristlink codeword does to its lane and port and which codeword leaves, and the
test features. -/
def Obligations.LanesTrainAdaptReceiveAndTest : Prop :=
  ∀ (s : State) (lane : Fin 1024) (r : PortRec), s.Inv → s.portAt lane = some r → r.first + r.lanes ≤ 1024 →
    (∀ (ws : List (List (Int × Nat))) (fom i : Nat), s.get (PORT_STATUS.state r.first) = 2 → (s.lane lane).phase = 1 →
      ws.length = (s.lane lane).hi + 1 - (s.lane lane).lo → ws ≠ [] → (s.lane lane).hi ≤ 31 →
      (ws.map (figure (s.nrz r)))[i]? = some fom → (∀ x ∈ ws.map (figure (s.nrz r)), x ≤ fom) →
      (∀ x ∈ (ws.map (figure (s.nrz r))).take i, x < fom) →
      (s.get (LANE_EQ.adapt_en lane) = 1 → s.get (LANE_EQ.fom_thr lane) ≤ fom →
        ∃ t, exec (.ctleSweepDone lane ws) s = .next t ∧ t.get (LANE_STATUS.ctle lane) = (s.lane lane).lo + i ∧
          t.get (LANE_STATUS.fom lane) = fom ∧ t.get (LANE_STATUS.signal lane) = 1 ∧
          t.get (LANE_STATUS.cdr_lock lane) = 1 ∧ (t.lane lane).phase = 4 ∧
          t.get (PORT_STATUS.state r.first) = (if (∀ l ∈ lanesOf r, l ≠ lane.val → (s.lane l).phase = 4) ∧
            (∀ l ∈ lanesOf r, s.get (LANE_CFG.loop l) ≠ 2) then 3 else 2) ∧
          (r.link = 1 → s.trains r = true → .train lane trainReady ∈ t.out) ∧
          s.Same [.io, .out] t ∧ s.Frame noRegs [LANE_STATUS.ctle lane, LANE_STATUS.fom lane, LANE_STATUS.signal lane,
            LANE_STATUS.cdr_lock lane, PORT_STATUS.state r.first] t) ∧
      (s.get (LANE_EQ.adapt_en lane) = 1 → fom < s.get (LANE_EQ.fom_thr lane) → s.trains r = true →
        (s.port r.port).rate < 2 → ∀ k, nextPlace (s.lane lane).far (s.lane lane).tap = some k →
        ∃ t, exec (.ctleSweepDone lane ws) s = .next t ∧
          (r.link ≠ 2 → t.out = .train lane (trainWord 1 (2 - k) (((s.lane lane).seq + 1) % 256) false) :: s.out) ∧
          (r.link = 2 → t.out = s.out ∧
            (t.lane lane).asks = (s.lane lane).asks ++ [(2 - k, 1, ((s.lane lane).seq + 1) % 256)]) ∧
          (t.lane lane).phase = 2 ∧ (t.lane lane).tap = k ∧ (t.lane lane).best = (s.lane lane).lo + i ∧
          (t.lane lane).fom = fom ∧ t.get (LANE_STATUS.fallback_used lane) = 1 ∧ s.Same [.io, .out] t) ∧
      (s.get (LANE_EQ.adapt_en lane) = 0 → s.get (LANE_EQ.fom_min lane) ≤ fom →
        ∃ t, exec (.ctleSweepDone lane ws) s = .next t ∧ t.get (LANE_STATUS.low_margin lane) = 1 ∧
          (t.lane lane).phase = 4 ∧ s.Same [.io, .out] t) ∧
      (s.get (LANE_EQ.adapt_en lane) = 0 → fom < s.get (LANE_EQ.fom_min lane) →
        ∃ t, exec (.ctleSweepDone lane ws) s = .next t ∧ t.get (PORT_STATUS.state r.first) = 5 ∧ s.Same [.io, .out] t)) ∧
    (s.get (PORT_STATUS.state r.first) = 2 → r.link = 1 → s.trains r = true →
      (∃ t, exec (.trainFrameReceive lane none none true) s = .next t ∧ t.lane lane = { s.lane lane with partner := true } ∧
        s.Same [.io] t ∧ t.regs = s.regs) ∧
      ((s.lane lane).phase = 2 →
        ∃ t, exec (.trainFrameReceive lane (some true) none true) s = .next t ∧
          t.lane lane = { s.lane lane with
            partner := true, phase := 3, lo := (s.lane lane).best - 2, hi := min 31 ((s.lane lane).best + 2)
            far := setAt (s.lane lane).far (2 - (s.lane lane).tap) (nth (s.lane lane).far (2 - (s.lane lane).tap) + 1) } ∧
          s.Same [.io] t ∧ t.regs = s.regs) ∧
      (∀ (k : Fin 3) (v w : Int), v = signed 6 (s.get (tapField lane k)) → v ≠ 0 → w = v + (if 0 < v then 1 else -1) →
        (tapInRange k w = true →
          ∃ t, exec (.trainFrameReceive lane none (some (k, 1)) true) s = .next t ∧
            signed 6 (t.get (tapField lane k)) = w ∧ t.out = .train lane (trainWord 0 k 0 false) :: s.out ∧
            s.Same [.io, .out] t ∧ s.Frame noRegs [tapField lane k] t) ∧
        (tapInRange k w = false →
          ∃ t, exec (.trainFrameReceive lane none (some (k, 1)) true) s = .next t ∧
            t.out = .train lane (trainWord 0 k 0 true) :: s.out ∧ s.Same [.io, .out] t ∧ t.regs = s.regs)) ∧
      (∀ k : Fin 3, ∃ t, exec (.trainFrameReceive lane none (some (k, 3)) true) s = .next t ∧
        (∀ j < 3, t.get (tapField lane j) = s.get (presetField lane j)) ∧
        t.out = .train lane (trainWord 0 k 0 false) :: s.out ∧ s.Same [.io, .out] t)) ∧
    (∀ k, s.get (PORT_STATUS.state r.first) = 2 → (s.lane lane).phase = 2 →
      nextPlace (s.lane lane).far ((s.lane lane).tap + 1) = some k →
      ∃ t, exec (.tapAckTimeout lane) s = .next t ∧
        t.lane lane = { s.lane lane with
          tap := k, steps := 0, seq := ((s.lane lane).seq + 1) % 256
          asks := if r.link = 2 then [(2 - k, 1, ((s.lane lane).seq + 1) % 256)] else [] } ∧
        t.out = (if r.link = 2 then s.out else
          .train lane (trainWord 1 (2 - k) (((s.lane lane).seq + 1) % 256) false) :: s.out) ∧
        s.Same [.io, .out] t ∧ s.Frame noRegs [LANE_STATUS.fallback_used lane] t) ∧
    (∀ below above : List (Int × Nat), s.get (PORT_STATUS.state r.first) = 4 → s.get (LANE_EQ.cont_en lane) = 1 →
      (s.get (LANE_STATUS.ctle lane) ≠ 0 → s.get (LANE_STATUS.fom lane) + 4 ≤ figure (s.nrz r) below → figure (s.nrz r) above ≤ figure (s.nrz r) below →
        ∃ t, exec (.contAdapt lane below above) s = .next t ∧
          t.get (LANE_STATUS.ctle lane) = s.get (LANE_STATUS.ctle lane) - 1 ∧ t.get (LANE_STATUS.fom lane) = figure (s.nrz r) below ∧
          s.Same [.io] t ∧ s.Frame noRegs [LANE_STATUS.ctle lane, LANE_STATUS.fom lane] t) ∧
      (s.get (LANE_STATUS.ctle lane) ≠ 31 → s.get (LANE_STATUS.fom lane) + 4 ≤ figure (s.nrz r) above → figure (s.nrz r) below < figure (s.nrz r) above →
        ∃ t, exec (.contAdapt lane below above) s = .next t ∧
          t.get (LANE_STATUS.ctle lane) = s.get (LANE_STATUS.ctle lane) + 1 ∧ t.get (LANE_STATUS.fom lane) = figure (s.nrz r) above ∧
          s.Same [.io] t ∧ s.Frame noRegs [LANE_STATUS.ctle lane, LANE_STATUS.fom lane] t) ∧
      (figure (s.nrz r) below < s.get (LANE_STATUS.fom lane) + 4 → figure (s.nrz r) above < s.get (LANE_STATUS.fom lane) + 4 →
        exec (.contAdapt lane below above) s = .next s)) ∧
    (∀ (line : List (Fin 4)) (w : List Nat), r.link = 2 →
      w = lineCodeword (s.nrz r) (polar (s.get (LANE_CFG.rx_invert lane) = 1) (s.nrz r) (line.map (·.val))) →
      (s.get (PORT_STATUS.state r.first) = 4 →
        (syncOf (codewordBits w) ≠ 0xD2B4 → 3 ≤ (s.lane lane).miss →
          ∃ t, exec (.rlCodewordReceive lane line) s = .next t ∧
            t.get (PORT_RX3.rl_sync_loss r.first) = satAdd 16 (s.get (PORT_RX3.rl_sync_loss r.first)) 1 ∧
            t.get (PORT_STATUS.state r.first) = 5 ∧ t.get (PORT_STATUS.down_cause r.first) = 3) ∧
        (syncOf (codewordBits w) = 0xD2B4 → rsDecode w = none →
          ∃ t, exec (.rlCodewordReceive lane line) s = .next t ∧
            t.get (PORT_FEC0.cw_uncorrectable r.first) = satAdd 32 (s.get (PORT_FEC0.cw_uncorrectable r.first)) 1 ∧
            t.get (PORT_STATUS.state r.first) = 5 ∧ t.get (PORT_STATUS.down_cause r.first) = 5)) ∧
      (∀ (d : List Nat) (n : Nat), rsDecode w = some (d, n) → syncOf (codewordBits w) = 0xD2B4 →
        (s.get (PORT_STATUS.state r.first) = 2 →
          (rlWord (descramble (s.lane lane).hist (codewordBits d))).state ≠ 3 →
          ∃ t, exec (.rlCodewordReceive lane line) s = .next t ∧
            t.lane lane = { s.lane lane with
              miss := 0, hits := min 4 ((s.lane lane).hits + 1), hist := codewordBits d % 2 ^ 58
              locked := (s.lane lane).locked || decide (3 ≤ (s.lane lane).hits)
              bad := !(rlWord (descramble (s.lane lane).hist (codewordBits d))).ok, sent := (s.lane lane).sent + 1
              txHist := (rlCodeword (s.lane lane).txHist (rlHeader (lane - r.first)
                ((s.lane lane).sent * r.lanes + (lane - r.first)) 3 16 []) (s.ownBlock lane ++ List.replicate 628 0)).2 } ∧
            t.out = .codeword lane (polar (s.get (LANE_CFG.tx_invert lane) = 1) (s.nrz r) (codewordLine (s.nrz r)
              (rlCodeword (s.lane lane).txHist (rlHeader (lane - r.first)
                ((s.lane lane).sent * r.lanes + (lane - r.first)) 3 16 []) (s.ownBlock lane ++ List.replicate 628 0)).1)) ::
                s.out ∧
            (n ≠ 0 → t.get (PORT_FEC0.cw_corrected r.first) = satAdd 32 (s.get (PORT_FEC0.cw_corrected r.first)) 1) ∧
            s.SameCounting [.io, .out] t ∧ (n = 0 → s.Frame (perfRegs (lmBase (s.laneOf r.port))) [] t)) ∧
        (∀ (h : RlWord) (f : RlFill), h = rlWord (descramble (s.lane lane).hist (codewordBits d)) →
          f = rlFill (s.port r.port).stream 0 (s.port r.port).off → s.get (PORT_STATUS.state r.first) = 4 → h.ok = true →
          h.state = 0 → h.seq ≠ (s.port r.port).next → (s.port r.port).rate = 0 → (s.port r.port).told = 0 → 0 < r.lanes →
          (∀ c ∈ (s.port r.port).chunks, c.1 ≠ (s.port r.port).next) →
          ∃ t, exec (.rlCodewordReceive lane line) s = .next t ∧
            t.port r.port = { s.port r.port with
              agreed := 0, stream := f.rest, off := f.part, sent := (s.port r.port).sent + 1
              chunks := (s.port r.port).chunks.filter (fun c => c.1 ≠ h.seq) ++ [(h.seq, h.first, h.ends, h.chunk)] } ∧
            t.out = .codeword (r.first + (s.port r.port).sent % r.lanes) (polar
              (s.get (LANE_CFG.tx_invert (r.first + (s.port r.port).sent % r.lanes)) = 1) (s.nrz r)
              (codewordLine (s.nrz r) (rlCodeword (s.lane (r.first + (s.port r.port).sent % r.lanes)).txHist
                (rlHeader ((s.port r.port).sent % r.lanes) (s.port r.port).sent 0 f.first f.ends) f.chunk).1)) :: s.out ∧
            s.SameCounting [.io, .out] t))) ∧
    (s.get (LANE_PRBS.gen_en lane) = 1 → s.get (LANE_PRBS.gen_pat lane) ≤ 9 →
      exec (.prbsInjectOnce lane) s = .next { s with out := .flip lane :: s.out }) ∧
    (s.get (LANE_PRBS.gen_en lane) = 0 → exec (.prbsInjectOnce lane) s = .next s) ∧
    (r.first = lane → s.get (PORT_STATUS.state lane) = 4 → s.get (PORT_INJ.symbols lane) ≠ 0 →
      s.get (PORT_STATUS.fec_active lane) ≠ 1 →
      (s.get (PORT_INJ.period lane) = 0 →
        exec (.fecInjectGo lane) s = .next { s with out := .corrupt r.port (s.get (PORT_INJ.symbols lane)) :: s.out }) ∧
      (s.get (PORT_INJ.period lane) ≠ 0 →
        ∃ t, exec (.fecInjectGo lane) s = .next t ∧ t.get (PORT_INJ.active lane) = 1 ∧ s.Same [] t ∧
          s.Frame noRegs [PORT_INJ.active lane] t)) ∧
    (∃ t, exec (.fecInjectStop lane) s = .next t ∧ t.get (PORT_INJ.active lane) = 0 ∧ s.Same [] t ∧
      s.Frame noRegs [PORT_INJ.active lane] t) ∧
    (∀ (locked : Bool) (errors mbits : Nat), s.get (LANE_PRBS.chk_en lane) = 1 → s.get (LANE_PRBS.chk_pat lane) ≤ 9 →
      ∃ t, exec (.prbsCheckerLock lane locked errors mbits) s = .next t ∧
        t.get (LANE_PRBS.chk_lock lane) = b2n locked ∧
        t.get (LANE_PRBS_CNT.errors lane) = (if s.get (LANE_PRBS.chk_lock lane) = 1 then
          satAdd 32 (s.get (LANE_PRBS_CNT.errors lane)) errors else s.get (LANE_PRBS_CNT.errors lane)) ∧
        t.get (LANE_PRBS_CNT.mbits lane) = (if s.get (LANE_PRBS.chk_lock lane) = 1 then
          satAdd 32 (s.get (LANE_PRBS_CNT.mbits lane)) mbits else s.get (LANE_PRBS_CNT.mbits lane)) ∧
        s.Same [] t ∧ s.Frame noRegs [LANE_PRBS.chk_lock lane, LANE_PRBS_CNT.errors lane, LANE_PRBS_CNT.mbits lane] t)

/-- 10_telemetry_metering.md R379-R384, R387-R391, R395, R398, 16_cipher_engine.md R573: what a harvest edge snapshots and
starts, also while one is under delivery, how a batch is delivered, refused, kept for another entry or lost, the
summary of what a virtual function lost, how a harvest ends, the final one too, and the frames of the postcard
exporter. -/
def Obligations.HarvestsDeliverAndPostcardsExport : Prop :=
  ∀ s : State, s.Inv →
    (s.pwrState < 2 → s.get MTR_STATUS.enabled = 1 →
      (s.nowNs < s.mtr.nextAt → s.mtr.now = false → exec .harvestEdge s = .next s) ∧
      (s.mtr.nextAt ≤ s.nowNs ∨ s.mtr.now = true →
        ∃ t, exec .harvestEdge s = .next t ∧ t.get MTR_LAST0.sec = s.time.total / 2 ^ 40 / 10 ^ 9 ∧
          t.get MTR_LAST1.ns = s.time.total / 2 ^ 40 % 10 ^ 9 ∧ t.mtr.now = false ∧
          t.mtr.nextAt = (if s.mtr.nextAt ≤ s.nowNs then s.nextBoundary s.nowNs else s.mtr.nextAt) ∧
          (∀ b ∈ s.perfBlocks, ∀ k < 4, t.raw (PERF_SNAP.regOff b k) = s.raw (PERF_CNT.regOff b k) ∧
            (s.get (PERF_SEL.harvest_clear b k) = 1 → t.get (PERF_CNT.value b k) = 0)) ∧
          t.mtr.meters = s.mtr.meters ∧ t.mtr.flows = s.mtr.flows ∧
          (s.get MTR_STATUS.busy = 1 → t.mtr.delivery = s.mtr.delivery ∧ t.mtr.bank = s.mtr.bank ∧
            t.get MTR_STAT.merged = satAdd 16 (s.get MTR_STAT.merged) 1 ∧ t.get MTR_STATUS.seq = s.get MTR_STATUS.seq) ∧
          (s.get MTR_STATUS.busy = 0 → t.get MTR_STATUS.busy = 1 ∧ t.get MTR_STATUS.stalled = 0 ∧
            t.get MTR_STATUS.seq = (s.get MTR_STATUS.seq + 1) % 2 ^ 32 ∧ t.mtr.bank = 1 - s.mtr.bank ∧
            (∃ d, t.mtr.delivery = some d ∧ d.seq = t.get MTR_STATUS.seq ∧ d.start = s.mtr.lastEnd ∧
              d.stop = s.time.total ∧ d.onDemand = s.mtr.now ∧ d.pair = 0 ∧ d.batch = 0 ∧ d.held = none ∧
              d.vfs = s.meterVfs)) ∧
          s.Same [.mtr, .time] t)) ∧
    (∀ (n r : Nat) (w : List Word) (b : Batch), s.seqRuns 2 = true → s.summaryDue = some (n, r) →
      s.headCopy r = (s, some w) → meterBad w = false →
      (smGet noSum s.mtr.sums n = some b ∨ (smGet noSum s.mtr.sums n = none ∧ s.lockOwner = 3 ∧
        b = s.summaryBatch n ((smGet noLoss s.mtr.losses n).getD ⟨0, 0, 0, 0⟩))) →
      (∃ t, exec (.meterBatchSend false) s = .next t ∧
        t.mtr = { s.mtr with
          sums := smPut noSum s.mtr.sums n none
          losses := if smGet noSum s.mtr.sums n = none then smPut noLoss s.mtr.losses n none else s.mtr.losses } ∧
        (s.canSend (s.ringFunc r) = true → ∀ x ∈ requests s.payloadSize b.bytes.length (wordAt w 2) b.bytes.length,
          .hostWrite (s.ringFunc r) x.1 ((b.bytes.drop (x.1 - wordAt w 2)).take x.2) ∈ t.out)) ∧
      (∃ t, exec (.meterBatchSend true) s = .next t ∧ smGet noSum t.mtr.sums n = some b ∧
        t.get MTR_STAT.faults = satAdd 16 (s.get MTR_STAT.faults) 1)) ∧
    (∀ d : Delivery, s.mtr.delivery = some d → s.seqRuns 2 = true →
      (d.pair < 16384 → d.waits = false → s.summaryDue = none →
        (s.meterRing 0 (s.get MTR_CFG.pf_ring) = false →
          ∀ fails : Bool, ∃ t, exec (.meterBatchSend fails) s = .next t ∧
            t.mtr = { s.mtr with delivery := some { d with stalled := true } } ∧ t.get MTR_STATUS.stalled = 1 ∧
            s.Same [.mtr] t ∧ s.Frame noRegs [MTR_STATUS.stalled] t) ∧
        (∀ w : List Word, s.meterRing 0 (s.get MTR_CFG.pf_ring) = true →
          s.headCopy (s.get MTR_CFG.pf_ring) = (s, some w) →
          (meterBad w = true →
            ∀ fails : Bool, ∃ t, exec (.meterBatchSend fails) s = .next t ∧
              t.get MTR_STAT.refused = satAdd 16 (s.get MTR_STAT.refused) 1 ∧ t.mtr = s.mtr) ∧
          (meterBad w = false → (s.keySlot (s.get MTR_CFG.key_slot)).valid = true → d.held = none → s.lockOwner ≠ 3 →
            ∀ fails : Bool, ∃ t, exec (.meterBatchSend fails) s = .next t ∧ t.cip.waitHarvester = true ∧
              t.mtr = s.mtr ∧ s.Same [.cip] t) ∧
          (∀ b : Batch, meterBad w = false →
            (d.held = some b ∨ (d.held = none ∧ s.lockOwner = 3 ∧
              (s.keySlot (s.get MTR_CFG.key_slot)).valid = true ∧ b = s.pfBatch d (s.batchRoom w))) →
            (∃ t, exec (.meterBatchSend false) s = .next t ∧
              t.mtr = { s.mtr with
                delivery := some { d with pair := b.nextPair, batch := d.batch + 1, held := none, tries := 0 } } ∧
              t.get MTR_STATUS.stalled = 0 ∧
              (s.canSend 0 = true → ∀ x ∈ requests s.payloadSize b.bytes.length (wordAt w 2) b.bytes.length,
                .hostWrite 0 x.1 ((b.bytes.drop (x.1 - wordAt w 2)).take x.2) ∈ t.out) ∧
              (d.held = none → t.get CIPHER_LOCK.owner = 0 ∧
                ∀ k < 4, s.get (PERF_SEL.event (perfBlock 32 6) k) = 0x0E → s.perfPass (perfBlock 32 6) k {} = true →
                  t.get (PERF_CNT.value (perfBlock 32 6) k) =
                    (s.get (PERF_CNT.value (perfBlock 32 6) k) + (b.bytes.length - 80) / 64) % 2 ^ 48)) ∧
            (∃ t, exec (.meterBatchSend true) s = .next t ∧
              t.mtr = { s.mtr with delivery := some { d with held := some b } } ∧
              t.get MTR_STAT.faults = satAdd 16 (s.get MTR_STAT.faults) 1)))) ∧
      (∀ (n : Fin 64) (r u : Nat) (l : List (Nat × Nat × Nat)) (fails : Bool), 16384 ≤ d.pair → d.vfs = (n.val, r, u) :: l →
        s.summaryDue = none → s.meterRing n r = false →
        ∃ t, exec (.meterBatchSend fails) s = .next t ∧
          t.mtr.delivery = some { d with vfs := d.vfs.filter (fun v => v.1 ≠ n.val), held := none, tries := 0 } ∧
          t.get (MTR_VF.lost n) = satAdd 16 (s.get (MTR_VF.lost n)) 1 ∧
          t.get MTR_STAT.vf_lost = satAdd 16 (s.get MTR_STAT.vf_lost) 1 ∧
          (∃ x, smGet noLoss t.mtr.losses n = some x ∧ x.seq = d.seq ∧ x.last = d.stop) ∧ s.Same [.mtr] t ∧
          s.Frame noRegs [MTR_VF.lost n, MTR_STAT.vf_lost] t) ∧
      (16384 ≤ d.pair → d.vfs = [] →
        ∃ t, exec .harvestDone s = .next t ∧ t.get MTR_STATUS.stalled = 0 ∧
          (∀ k, t.meter k = if k / 16384 % 2 = s.mtr.bank then s.meter k else {}) ∧
          (s.mtr.final = 1 → t.mtr.final = 2 ∧ t.mtr.delivery.isSome = true ∧ t.get MTR_STATUS.busy = 1 ∧
            t.mtr.bank = 1 - s.mtr.bank) ∧
          (s.mtr.final = 2 → t.mtr.final = 0 ∧ t.get MTR_STATUS.enabled = 0) ∧
          (s.mtr.final ≠ 1 → t.mtr.delivery = none ∧ t.mtr.bank = s.mtr.bank ∧ t.get MTR_STATUS.busy = 0 ∧
            (s.mtr.final ≠ 2 → t.get MTR_STATUS.enabled = s.get MTR_STATUS.enabled) ∧
            (s.get MTR_CFG2.event_en = 0 → s.Same [.mtr] t ∧
              s.Frame noRegs [MTR_STATUS.enabled, MTR_STATUS.busy, MTR_STATUS.stalled] t))) ∧
      (d.waits = true →
        ∃ t, exec .harvestRetryTimer s = .next t ∧
          t = { s with mtr := { s.mtr with delivery := some { d with waits := false, tries := 2 } } }) ∧
      (d.waits = false → exec .harvestRetryTimer s = .next s)) ∧
    (s.frameDue = false → exec .postcardFrameSend s = .next s) ∧
    (s.frameDue = true →
      ∃ t, exec .postcardFrameSend s = .next t ∧ t.mtr = { s.mtr with
          posts := s.mtr.posts.drop s.nextItems.length, postSeq := s.mtr.postSeq + 1 } ∧
        t.hif = { s.hif with inject := s.hif.inject ++ [
          { ring := 1024, index := 0, pipe := s.get POST_CFG.inj_pipe, tenant := 0, bd := s.get POST_CFG.bd
            bclass := s.get POST_CFG.bclass, post := false, exported := true
            bytes := withFcs (s.patchFrame (s.template ++ s.exportHeader (sumNat (s.nextItems.map itemSlots)) ++
              (s.nextItems.map (·.bytes)).flatten)) }] } ∧
        t.get POST_STAT.frames = satAdd 32 (s.get POST_STAT.frames) 1 ∧ s.Same [.mtr, .hif] t ∧
        s.Frame noRegs [POST_STAT.frames] t)

/-- 10_telemetry_metering.md R376-R378, R392: each of a block's four counters that selects an event and whose filters it
passes adds it, wraps to 0 and sets overflow; a wrap that asks for a record queues it for the EVENT ring. -/
def Obligations.PerformanceCountersAddWrapAndReport : Prop :=
  ∀ (s t : State) (u b code n : Nat) (a : PerfAttr), s.Inv → u ≤ 32 → b < 64 → code ≠ 0 → t = s.perf (perfBlock u b) code a n →
    (∀ k < 4,
      (s.get (PERF_SEL.event (perfBlock u b) k) = code → s.perfPass (perfBlock u b) k a = true →
        t.get (PERF_CNT.value (perfBlock u b) k) = (s.get (PERF_CNT.value (perfBlock u b) k) + n) % 2 ^ 48 ∧
        t.get (PERF_CNT.overflow (perfBlock u b) k) =
          (if 2 ^ 48 ≤ s.get (PERF_CNT.value (perfBlock u b) k) + n then 1
          else s.get (PERF_CNT.overflow (perfBlock u b) k)) ∧
        (2 ^ 48 ≤ s.get (PERF_CNT.value (perfBlock u b) k) + n → s.get (PERF_SEL.ov_event (perfBlock u b) k) = 1 →
          s.get MTR_CFG2.event_en = 1 → s.ringEnabled (s.get MTR_CFG2.event_ring) = true →
          s.ringFunc (s.get MTR_CFG2.event_ring) = 0 → s.ringKind (s.get MTR_CFG2.event_ring) = 4 →
          record 0x11 (PERF_CNT.regOff (perfBlock u b) k) s.wrapNow 0 ∈ (t.ring (s.get MTR_CFG2.event_ring)).dueEvents)) ∧
      (s.get (PERF_SEL.event (perfBlock u b) k) ≠ code ∨ s.perfPass (perfBlock u b) k a = false →
        t.get (PERF_CNT.value (perfBlock u b) k) = s.get (PERF_CNT.value (perfBlock u b) k) ∧
        t.get (PERF_CNT.overflow (perfBlock u b) k) = s.get (PERF_CNT.overflow (perfBlock u b) k))) ∧
    s.SameCounting [] t ∧ s.Frame (perfRegs (perfBlock u b)) [] t

/-- 11_serial_lanes.md R421-R423, R425: the line symbols of a codeword give back its symbols, descrambling gives back its
header and chunk, and the header its fields. -/
def Obligations.CodewordsReadBackFromTheLine : Prop :=
  (∀ (nrz : Bool) (w : List Nat), w.length = 544 → (∀ x ∈ w, x < 1024) → lineCodeword nrz (codewordLine nrz w) = w) ∧
  (∀ (nrz : Bool) (w : List Nat), w.length = 544 → (codewordLine nrz w).length ≤ (if nrz then 5440 else 2720) + (if nrz then 85 else 42)) ∧
  (∀ (hist h : Nat) (chunk : List Byte), hist < 2 ^ 58 → h < 2 ^ 112 → chunk.length = 644 →
    (rlCodeword hist h chunk).1.length = 544 ∧ (∀ x ∈ (rlCodeword hist h chunk).1, x < 1024) ∧
    syncOf (codewordBits (rlCodeword hist h chunk).1) = 0xD2B4 ∧
    codewordBits (rlCodeword hist h chunk).1 % 2 ^ 58 = (rlCodeword hist h chunk).2 ∧
    descramble hist (codewordBits (rlCodeword hist h chunk).1) = h * 2 ^ 5152 + beAt chunk 0 644) ∧
  (∀ (lane seq st first : Nat) (ends : List Nat) (chunk : List Byte), lane < 8 → seq < 256 → st < 4 → first < 1024 →
    ends.length ≤ 8 → (∀ x ∈ ends, x < 1024) → ascending ends = true → chunk.length = 644 →
    rlWord (rlHeader lane seq st first ends * 2 ^ 5152 + beAt chunk 0 644) = ⟨lane, seq, st, first, ends, true, chunk⟩)
end

