-- ==== Sys2Proof/Laws/Memory.lean ====
section
/-! SUPPORT. Laws of the sparse memories and of bit fields: a read after a write, every other key left alone, and the
canonical form kept by every operation; the same for the fields of a number. -/

-- One declaration at a time: the package is compiled as one text, and a thread for each would not fit.
set_option Elab.async false

namespace Sys2Proof.Machine

variable {α : Type}

/-! ### Sparse memories -/

theorem smGet_smErase_other (d : Nat → α) (m : List (Nat × α)) {k j : Nat} (h : j ≠ k) :
    smGet d (smErase m k) j = smGet d m j := by
  induction m with
  | nil => rfl
  | cons x t ih =>
    obtain ⟨a, v⟩ := x
    by_cases hk : k = a
    · subst hk; simp [smErase, smGet, h, ih]
    · simp [smErase, smGet, hk, ih]

theorem smGet_smInsert_same (d : Nat → α) (m : List (Nat × α)) (k : Nat) (v : α) :
    smGet d (smInsert m k v) k = v := by
  induction m with
  | nil => simp [smInsert, smGet]
  | cons x t ih =>
    obtain ⟨a, w⟩ := x
    simp only [smInsert]
    split
    · simp [smGet]
    · split
      · simp [smGet]
      · simp [smGet, *]

theorem smGet_smInsert_other (d : Nat → α) (m : List (Nat × α)) {k j : Nat} (v : α) (h : j ≠ k) :
    smGet d (smInsert m k v) j = smGet d m j := by
  induction m with
  | nil => simp [smInsert, smGet, h]
  | cons x t ih =>
    obtain ⟨a, w⟩ := x
    simp only [smInsert]
    split
    · simp [smGet, h]
    · split
      · rename_i e; subst e; simp [smGet, h]
      · simp [smGet, ih]

variable [DecidableEq α]

/-- Every key of a memory in canonical form above `lo` reads its default at `lo` and below. -/
theorem smGet_below (d : Nat → α) (m : List (Nat × α)) {lo k : Nat} (h : smWf d m (some lo) = true) (hk : k ≤ lo) :
    smGet d m k = d k := by
  induction m generalizing lo with
  | nil => rfl
  | cons x t ih =>
    obtain ⟨a, v⟩ := x
    simp [smWf] at h
    have : k ≠ a := by omega
    simp [smGet, this, ih h.2 (by omega)]

theorem smWf_weaken (d : Nat → α) (m : List (Nat × α)) {lo : Nat} {b : Option Nat}
    (h : smWf d m (some lo) = true) (hb : ∀ c, b = some c → c ≤ lo) : smWf d m b = true := by
  cases m with
  | nil => rfl
  | cons x t =>
    obtain ⟨a, v⟩ := x
    simp [smWf] at h ⊢
    refine ⟨⟨?_, h.1.2⟩, h.2⟩
    cases b with
    | none => rfl
    | some c => have := hb c rfl; simp; omega

theorem smWf_smErase (d : Nat → α) (m : List (Nat × α)) (k : Nat) {b : Option Nat} (h : smWf d m b = true) :
    smWf d (smErase m k) b = true := by
  induction m generalizing b with
  | nil => rfl
  | cons x t ih =>
    obtain ⟨a, v⟩ := x
    simp [smWf] at h
    by_cases hk : k = a
    · simp only [smErase, hk, if_true]
      refine smWf_weaken d _ (hk ▸ ih h.2) (fun c hc => ?_)
      subst hc; simp at h; omega
    · simp [smErase, hk, smWf, h.1.2, ih h.2]; exact h.1.1

theorem smWf_smInsert (d : Nat → α) (m : List (Nat × α)) (k : Nat) {v : α} {b : Option Nat} (h : smWf d m b = true)
    (hv : v ≠ d k) (hb : ∀ c, b = some c → c < k) : smWf d (smInsert m k v) b = true := by
  induction m generalizing b with
  | nil => cases b <;> simp_all [smInsert, smWf]
  | cons x t ih =>
    obtain ⟨a, w⟩ := x
    have hh := h
    simp [smWf] at h
    simp only [smInsert]
    split
    · rename_i ha
      simp [smWf, hv, ha, h.1.2, h.2]
      cases b with
      | none => rfl
      | some c => simpa using hb c rfl
    · split
      · rename_i e; subst e
        simp [smWf, hv, h.2]; exact h.1.1
      · simp [smWf, h.1.2]
        exact ⟨h.1.1, ih h.2 (fun c hc => by cases hc; omega)⟩

/-- Writing keeps the canonical form. -/
theorem smWf_smPut (d : Nat → α) (m : List (Nat × α)) (k : Nat) (v : α) (h : smWf d m none = true) :
    smWf d (smPut d m k v) none = true := by
  unfold smPut
  split
  · exact smWf_smErase d m k h
  · exact smWf_smInsert d m k h ‹_› (by simp)

omit [DecidableEq α] in
theorem smGet_smErase_same (d : Nat → α) (m : List (Nat × α)) (k : Nat) : smGet d (smErase m k) k = d k := by
  induction m with
  | nil => rfl
  | cons x t ih =>
    obtain ⟨a, v⟩ := x
    by_cases hk : k = a
    · simpa [smErase, hk] using hk ▸ ih
    · simp [smErase, smGet, hk, ih]

/-- A read after a write to the same key gives the value written. -/
theorem smGet_smPut_same (d : Nat → α) (m : List (Nat × α)) (k : Nat) (v : α) :
    smGet d (smPut d m k v) k = v := by
  unfold smPut
  split
  · rename_i e; rw [smGet_smErase_same d m k, e]
  · exact smGet_smInsert_same d m k v

/-- A write leaves every other key alone. -/
theorem smGet_smPut_other (d : Nat → α) (m : List (Nat × α)) {k j : Nat} (v : α) (h : j ≠ k) :
    smGet d (smPut d m k v) j = smGet d m j := by
  unfold smPut
  split
  · exact smGet_smErase_other d m h
  · exact smGet_smInsert_other d m v h

/-- Leaving entries out keeps the canonical form. -/
theorem smWf_filter (d : Nat → α) (m : List (Nat × α)) (p : Nat × α → Bool) {b : Option Nat} (h : smWf d m b = true) :
    smWf d (m.filter p) b = true := by
  induction m generalizing b with
  | nil => rfl
  | cons x t ih =>
    obtain ⟨a, v⟩ := x
    simp [smWf] at h
    by_cases hp : p (a, v) = true
    · simp [hp, smWf, h.1.2, ih h.2]; exact h.1.1
    · simp only [List.filter_cons, hp]
      refine smWf_weaken d _ (ih h.2) (fun c hc => ?_)
      subst hc; simp at h; omega

/-- Rewriting values in place keeps the canonical form where no value becomes its default. -/
theorem smWf_map (d : Nat → α) (m : List (Nat × α)) (f : Nat × α → Nat × α) {b : Option Nat} (h : smWf d m b = true)
    (hk : ∀ x, (f x).1 = x.1) (hv : ∀ x, x.2 ≠ d x.1 → (f x).2 ≠ d x.1) : smWf d (m.map f) b = true := by
  induction m generalizing b with
  | nil => rfl
  | cons x t ih =>
    obtain ⟨a, v⟩ := x
    simp [smWf] at h
    have e : f (a, v) = (a, (f (a, v)).2) := Prod.ext (hk _) rfl
    rw [List.map_cons, e]
    simp [smWf, hv (a, v) h.1.2, ih h.2]; exact h.1.1

/-- Rewriting or dropping entries in place keeps the canonical form where what stays keeps its key and is no
default. -/
theorem smWf_filterMap (d : Nat → α) (m : List (Nat × α)) (f : Nat × α → Option (Nat × α)) {b : Option Nat}
    (h : smWf d m b = true) (hf : ∀ x y, f x = some y → y.1 = x.1 ∧ y.2 ≠ d y.1) :
    smWf d (m.filterMap f) b = true := by
  induction m generalizing b with
  | nil => rfl
  | cons x t ih =>
    obtain ⟨a, v⟩ := x
    simp [smWf] at h
    cases e : f (a, v) with
    | none =>
      simp only [List.filterMap_cons, e]
      refine smWf_weaken d _ (ih h.2) (fun c hc => ?_)
      subst hc; simp at h; omega
    | some y =>
      obtain ⟨k, w⟩ := y
      obtain ⟨h1, h2⟩ := hf _ _ e
      simp only [List.filterMap_cons, e]
      simp only at h1 h2
      subst h1
      simp [smWf, h2, ih h.2]; exact h.1.1

/-! ### Bit fields of numbers -/

omit [DecidableEq α] in
theorem bitsOf_lt (v lo w : Nat) : bitsOf v lo w < 2 ^ w := Nat.mod_lt _ (by positivity)

theorem setBits_eq (v lo w x : Nat) :
    setBits v lo w x = v / 2 ^ (lo + w) * 2 ^ (lo + w) + (x % 2 ^ w * 2 ^ lo + v % 2 ^ lo) := by
  unfold setBits bitsOf
  have e : v = (v / 2 ^ lo / 2 ^ w * 2 ^ w + v / 2 ^ lo % 2 ^ w) * 2 ^ lo + v % 2 ^ lo := by
    rw [Nat.div_add_mod', Nat.div_add_mod']
  have e2 : v / 2 ^ (lo + w) = v / 2 ^ lo / 2 ^ w := by rw [pow_add, Nat.div_div_eq_div_mul]
  rw [e2, pow_add]
  generalize v / 2 ^ lo / 2 ^ w = a at *
  generalize v / 2 ^ lo % 2 ^ w = c at *
  generalize v % 2 ^ lo = r at *
  generalize x % 2 ^ w = y
  subst e
  have : (a * 2 ^ w + c) * 2 ^ lo + r = c * 2 ^ lo + (a * (2 ^ lo * 2 ^ w) + r) := by ring
  rw [this, Nat.add_sub_cancel_left]; ring


theorem testBit_bitsOf (v lo w i : Nat) : (bitsOf v lo w).testBit i = (decide (i < w) && v.testBit (lo + i)) := by
  unfold bitsOf
  rw [Nat.testBit_mod_two_pow, Nat.testBit_div_two_pow, Nat.add_comm]

theorem testBit_setBits (v lo w x i : Nat) :
    (setBits v lo w x).testBit i = if lo ≤ i ∧ i < lo + w then x.testBit (i - lo) else v.testBit i := by
  have h1 : v % 2 ^ lo < 2 ^ lo := Nat.mod_lt _ (by positivity)
  have h2 : x % 2 ^ w < 2 ^ w := Nat.mod_lt _ (by positivity)
  have h3 : x % 2 ^ w * 2 ^ lo + v % 2 ^ lo < 2 ^ (lo + w) := by
    have := Nat.mul_le_mul_right (2 ^ lo) (Nat.succ_le_of_lt h2)
    rw [Nat.succ_mul, Nat.mul_comm (2 ^ w)] at this
    rw [pow_add]; omega
  rw [setBits_eq, Nat.mul_comm (v / _), Nat.testBit_two_pow_mul_add _ h3, Nat.mul_comm (x % _),
    Nat.testBit_two_pow_mul_add _ h1]
  simp only [Nat.testBit_mod_two_pow, Nat.testBit_div_two_pow]
  by_cases a : i < lo + w
  · by_cases b : i < lo
    · simp [a, b, show ¬ lo ≤ i by omega]
    · simp [a, b, show lo ≤ i by omega, show i - lo < w by omega]
  · simp [a, show i - (lo + w) + (lo + w) = i by omega]

/-- A field reads what was put into it, cut to its width. -/
theorem bitsOf_setBits_same (v lo w x : Nat) : bitsOf (setBits v lo w x) lo w = x % 2 ^ w := by
  refine Nat.eq_of_testBit_eq (fun i => ?_)
  rw [testBit_bitsOf, testBit_setBits, Nat.testBit_mod_two_pow]
  by_cases h : i < w <;> simp [h]

/-- A field put leaves every other field of the number alone. -/
theorem bitsOf_setBits_other (v lo w x : Nat) {l n : Nat} (h : l + n ≤ lo ∨ lo + w ≤ l) :
    bitsOf (setBits v lo w x) l n = bitsOf v l n := by
  refine Nat.eq_of_testBit_eq (fun i => ?_)
  rw [testBit_bitsOf, testBit_bitsOf, testBit_setBits]
  by_cases hi : i < n
  · simp only [hi, decide_true, Bool.true_and]
    rw [if_neg (by omega)]
  · simp [hi]

theorem setBits_lt (v lo w x : Nat) {n : Nat} (hv : v < 2 ^ n) (h : lo + w ≤ n) : setBits v lo w x < 2 ^ n := by
  refine Nat.lt_pow_two_of_testBit _ (fun i hi => ?_)
  rw [testBit_setBits, if_neg (by omega)]
  exact Nat.testBit_lt_two_pow (lt_of_lt_of_le hv (Nat.pow_le_pow_right (by norm_num) hi))

end Sys2Proof.Machine
end

