-- ==== Sys2Proof/Laws/Keep.lean ====
section
/-! SUPPORT. What every operation of the block keeps, said once: `Keep a t` holds of every state `t` that an operation
reaches from `a`. Each later lemma carries it over one more operation, so a proof about a command cites the lemma of its
meaning and unfolds nothing. -/

-- One declaration at a time: the package is compiled as one text, and a thread for each would not fit.
set_option Elab.async false

namespace Sys2Proof.Machine

/-- `t` extends `a`, keeps the fuses of slot 2 and the block's invariant. -/
structure Keep (a t : State) : Prop where
  extends' : a.Extends t
  fuse2 : t.cip.fuse2 = a.cip.fuse2
  inv : a.Inv → t.Inv

theorem Keep.refl (a : State) : Keep a a := ⟨⟨rfl, rfl, le_refl _, List.suffix_refl _⟩, rfl, id⟩

/-- An update that changes no field that `Keep` speaks of, but for those whose premise says so. -/
theorem Keep.upd {a s t : State} (h : Keep a s) (pending : t.pending = s.pending) (clk : t.clk = s.clk)
    (free : s.free ≤ t.free) (out : s.out <:+ t.out) (fuse2 : t.cip.fuse2 = s.cip.fuse2)
    (canonical : s.Canonical → t.Canonical) (time : s.TimeOk → t.TimeOk) : Keep a t where
  extends' := ⟨pending.trans h.extends'.pending, clk.trans h.extends'.clk, le_trans h.extends'.free free,
    h.extends'.out.trans out⟩
  fuse2 := fuse2.trans h.fuse2
  inv i := ⟨canonical (h.inv i).canonical, time (h.inv i).timeOk⟩

/-- Any other update of plain fields. -/
theorem Keep.plain {a s : State} (h : Keep a s) {checks flt hif pwr cip boot pin img tbl pk buf mtr sch pl io}
    {time : TimeSt} {readVal : Word} (fuse2 : cip.fuse2 = s.cip.fuse2 := by rfl)
    (entries : tbl.entries = s.tbl.entries := by rfl) (cells : buf.cellState = s.buf.cellState := by rfl)
    (meters : mtr.meters = s.mtr.meters := by rfl) (flows : mtr.flows = s.mtr.flows := by rfl)
    (gates : sch.gates = s.sch.gates := by rfl) (profiles : sch.profiles = s.sch.profiles := by rfl)
    (policers : sch.policers = s.sch.policers := by rfl) (groups : pl.groups = s.pl.groups := by rfl)
    (members : pl.members = s.pl.members := by rfl) (total : time.total = s.time.total := by rfl)
    (quarter : time.quarter = s.time.quarter := by rfl) :
    Keep a ⟨s.pending, s.regs, s.clk, s.free, readVal, s.out, checks, time, flt, hif, pwr, cip, boot, pin, img, tbl,
      pk, buf, mtr, sch, pl, io⟩ :=
  h.upd rfl rfl (le_refl _) (List.suffix_refl _) fuse2
    (fun c => ⟨c.regs, by rw [cells]; exact c.cells, by rw [entries]; exact c.entries, by rw [meters]; exact c.meters,
      by rw [flows]; exact c.flows, by rw [gates]; exact c.gates, by rw [profiles]; exact c.profiles,
      by rw [policers]; exact c.policers, by rw [groups]; exact c.groups, by rw [members]; exact c.members⟩)
    (fun o => ⟨by rw [total]; exact o.total, by rw [quarter]; exact o.quarter⟩)

theorem Keep.ite {a s t : State} {p : Prop} [Decidable p] (h : Keep a s) (g : Keep a t) :
    Keep a (if p then s else t) := by split <;> assumption

theorem Keep.ite1 {a : State} {β : Type} {x y : State × β} {p : Prop} [Decidable p] (h : Keep a x.1) (g : Keep a y.1) :
    Keep a (if p then x else y).1 := by split <;> assumption

theorem Keep.ite2 {a : State} {β : Type} {x y : β × State} {p : Prop} [Decidable p] (h : Keep a x.2) (g : Keep a y.2) :
    Keep a (if p then x else y).2 := by split <;> assumption

theorem Keep.of1 {a t : State} {β : Type} {p : State × β} {y : β} (e : p = (t, y)) (h : Keep a p.1) : Keep a t := by
  subst e; exact h

theorem Keep.foldl {a s : State} {α : Type} {f : State → α → State} {l : List α} (h : Keep a s)
    (hf : ∀ t x, Keep a t → Keep a (f t x)) : Keep a (l.foldl f s) := by
  induction l generalizing s with
  | nil => exact h
  | cons x t ih => exact ih (hf s x h)

/-! ### The register file -/

theorem State.setRaw_keep {a s : State} (h : Keep a s) {k w} : Keep a (s.setRaw k w) :=
  h.upd rfl rfl (le_refl _) (List.suffix_refl _) rfl (fun c => { c with regs := smWf_smPut _ _ _ _ c.regs })
    (fun o => ⟨o.total, o.quarter⟩)

theorem State.put_keep {a s : State} (h : Keep a s) {f v} : Keep a (s.put f v) := State.setRaw_keep h

theorem State.bump_keep {a s : State} (h : Keep a s) {f n} : Keep a (s.bump f n) := State.put_keep h

theorem State.bumpWrap_keep {a s : State} (h : Keep a s) {f n} : Keep a (s.bumpWrap f n) := State.put_keep h

theorem State.putFlag_keep {a s : State} (h : Keep a s) {f b} : Keep a (s.putFlag f b) := State.put_keep h

theorem State.puts_keep {a s : State} (h : Keep a s) {l} : Keep a (s.puts l) := by
  induction l generalizing s with
  | nil => exact h
  | cons x t ih => exact ih (State.put_keep h)

/-! ### What is sent and drawn -/

theorem State.send_keep {a s : State} (h : Keep a s) {o} : Keep a (s.send o) :=
  h.upd rfl rfl (le_refl _) (List.suffix_cons _ _) rfl (fun c => ⟨c.regs, c.cells, c.entries, c.meters, c.flows, c.gates,
    c.profiles, c.policers, c.groups, c.members⟩) (fun o => ⟨o.total, o.quarter⟩)

theorem State.draw_keep' {a s : State} (h : Keep a s) : Keep a s.draw.2 :=
  h.upd rfl rfl (Nat.le_succ _) (List.suffix_refl _) rfl (fun c => ⟨c.regs, c.cells, c.entries, c.meters, c.flows, c.gates,
    c.profiles, c.policers, c.groups, c.members⟩) (fun o => ⟨o.total, o.quarter⟩)

theorem State.draw_keep {a s t : State} {y} (e : s.draw = (y, t)) (h : Keep a s) : Keep a t := by
  have g := congrArg Prod.snd e; dsimp only at g; rw [← g]; exact State.draw_keep' h

/-! ### The lookup tables, device time and a warm reset -/

/-- Rewriting entries in place keeps them. -/
theorem State.mapEntries_keep {a s : State} (h : Keep a s) (f : Nat × Option Entry → Nat × Option Entry)
    (hk : ∀ x, (f x).1 = x.1) (hv : ∀ x, x.2 ≠ none → (f x).2 ≠ none) :
    Keep a { s with tbl := { s.tbl with entries := s.tbl.entries.map f } } :=
  h.upd rfl rfl (le_refl _) (List.suffix_refl _) rfl
    (fun c => ⟨c.regs, c.cells, smWf_map _ _ f c.entries hk hv, c.meters, c.flows, c.gates, c.profiles, c.policers,
      c.groups, c.members⟩) (fun o => ⟨o.total, o.quarter⟩)

theorem timeModulus_pos : 0 < timeModulus := by unfold timeModulus; positivity

theorem smWf_keepRegs (m : List (Nat × Word)) (h : smWf regReset m none = true) :
    smWf regReset (keepRegs m) none = true := by
  refine smWf_filterMap _ _ _ h (fun x y e => ?_)
  dsimp only at e
  split at e
  · cases e
  · cases e; exact ⟨rfl, ‹_›⟩

end Sys2Proof.Machine
end

