-- ==== Sys2Proof/Laws/KeepTables.lean ====
section
/-! SUPPORT. What each operation of rings, tables, the command engine and learning keeps (see Keep in
Sys2Proof/Laws/Keep.lean): one lemma per operation. -/

-- One declaration at a time: the package is compiled as one text, and a thread for each would not fit.
set_option Elab.async false

set_option linter.unusedTactic false
set_option linter.unreachableTactic false

namespace Sys2Proof.Machine

/-! ### Machine/Ops.lean -/

theorem State.setFn_keep {a s : State} (h : Keep a s) {x0 x1} : Keep a (State.setFn s x0 x1) := Keep.plain h

theorem State.setPort_keep {a s : State} (h : Keep a s) {x0 x1} : Keep a (State.setPort s x0 x1) := Keep.plain h

theorem State.sendStream_keep {a s : State} (h : Keep a s) {x0 x1 x2} : Keep a (State.sendStream s x0 x1 x2) := by
  unfold State.sendStream
  repeat' first | (with_reducible first | assumption | apply State.send_keep | apply State.setPort_keep | apply Keep.ite | refine Keep.foldl ?_ (fun _ _ _ => ?_)) | (lift_lets; intro x; first | (refine suffices hx : Keep a x from ?_; ?_; on_goal 1 => unfold x; on_goal 2 => clear_value x) | skip) | (fail_if_no_progress with_reducible refine Keep.plain ?_) | split | dsimp only

theorem State.hostSend_keep {a s : State} (h : Keep a s) {x0 x1} : Keep a (State.hostSend s x0 x1) := by
  unfold State.hostSend
  repeat' first | (with_reducible first | assumption | apply State.send_keep | apply State.bump_keep | apply Keep.ite) | (fail_if_no_progress with_reducible refine Keep.plain ?_)

theorem State.writeHost_keep {a s : State} (h : Keep a s) {x0 x1 x2} : Keep a (State.writeHost s x0 x1 x2) := by
  unfold State.writeHost
  repeat' first | (with_reducible first | assumption | apply State.hostSend_keep | apply Keep.ite | refine Keep.foldl ?_ (fun _ _ _ => ?_)) | (lift_lets; intro x; first | (refine suffices hx : Keep a x from ?_; ?_; on_goal 1 => unfold x; on_goal 2 => clear_value x) | skip) | (fail_if_no_progress with_reducible refine Keep.plain ?_) | split | dsimp only

theorem State.readHost_keep {a s : State} (h : Keep a s) {x0 x1 x2} : Keep a (State.readHost s x0 x1 x2) := by
  unfold State.readHost
  repeat' first | (with_reducible first | assumption | apply State.send_keep | apply State.hostRead_keep | apply Keep.ite | refine Keep.foldl ?_ (fun _ _ _ => ?_)) | (lift_lets; intro x; first | (refine suffices hx : Keep a x from ?_; ?_; on_goal 1 => unfold x; on_goal 2 => clear_value x) | skip) | (fail_if_no_progress with_reducible refine Keep.plain ?_) | split | dsimp only

theorem State.msixPend_keep {a s : State} (h : Keep a s) {x0 x1 x2} : Keep a (State.msixPend s x0 x1 x2) :=
  Keep.plain h

theorem State.setRing_keep {a s : State} (h : Keep a s) {x0 x1} : Keep a (State.setRing s x0 x1) := by
  unfold State.setRing
  repeat' first | (with_reducible first | assumption | apply Keep.ite | refine Keep.foldl ?_ (fun _ _ _ => ?_)) | (lift_lets; intro x; first | (refine suffices hx : Keep a x from ?_; ?_; on_goal 1 => unfold x; on_goal 2 => clear_value x) | skip) | (fail_if_no_progress with_reducible refine Keep.plain ?_) | split | dsimp only

theorem State.queueEvent_keep {a s : State} (h : Keep a s) {x0 x1} : Keep a (State.queueEvent s x0 x1) := by
  unfold State.queueEvent
  repeat' (with_reducible first | assumption | apply State.setRing_keep | apply State.bump_keep | apply Keep.ite)

theorem State.perfOne_keep {a s : State} (h : Keep a s) {x0 x1 x2 x3 x4} : Keep a (State.perfOne s x0 x1 x2 x3 x4)
  := by
  unfold State.perfOne
  repeat' (with_reducible first | assumption | apply State.put_keep | apply State.queueEvent_keep | apply Keep.ite)

theorem State.perf_keep {a s : State} (h : Keep a s) {x0 x1 x2 x3} : Keep a (State.perf s x0 x1 x2 x3) := by
  unfold State.perf
  repeat' (with_reducible first | assumption | apply State.perfOne_keep)

theorem State.msix_keep {a s : State} (h : Keep a s) {x0 x1} : Keep a (State.msix s x0 x1) := by
  unfold State.msix
  repeat' (with_reducible first | assumption | apply State.perf_keep | apply State.send_keep | apply State.msixPend_keep | apply State.hostSend_keep | apply Keep.ite)

theorem State.afterCompletion_keep {a s : State} (h : Keep a s) {x0 x1} : Keep a (State.afterCompletion s x0 x1) := by
  unfold State.afterCompletion
  repeat' (with_reducible first | assumption | apply State.perf_keep | apply State.bump_keep | apply State.msix_keep | apply State.setRing_keep | apply Keep.ite)

theorem State.writeEntry_keep {a s : State} (h : Keep a s) {x0 x1 x2} : Keep a (State.writeEntry s x0 x1 x2) := by
  unfold State.writeEntry
  repeat' (with_reducible first | assumption | apply State.hostSend_keep | apply State.afterCompletion_keep)

theorem State.drainRing_keep {a s : State} (h : Keep a s) {x0 x1} : Keep a (State.drainRing s x0 x1) := by
  induction x1 generalizing s  with
  | zero =>
    unfold State.drainRing
    repeat' first | (with_reducible first | assumption | apply State.setRing_keep | apply State.writeEntry_keep) | split | dsimp only
  | succ n ih =>
    unfold State.drainRing
    repeat' first | (with_reducible first | assumption | apply ih | apply State.setRing_keep | apply State.writeEntry_keep) | split | dsimp only

theorem State.drain_keep {a s : State} (h : Keep a s) {x0} : Keep a (State.drain s x0) := by
  unfold State.drain
  repeat' (with_reducible first | assumption | apply State.drainRing_keep)

theorem State.takeCopy_keep {a s : State} (h : Keep a s) {x0 x1} : Keep a (State.takeCopy s x0 x1) := by
  unfold State.takeCopy
  repeat' first | (with_reducible first | assumption | apply State.perf_keep | apply State.setRing_keep) | (lift_lets; intro x; first | (refine suffices hx : Keep a x from ?_; ?_; on_goal 1 => unfold x; on_goal 2 => clear_value x) | skip) | split | dsimp only

theorem State.refuseWrongKind_keep {a s : State} (h : Keep a s) {x0 x1} : Keep a (State.refuseWrongKind s x0 x1) := by
  induction x1 generalizing s  with
  | zero =>
    unfold State.refuseWrongKind
    repeat' first | (with_reducible first | assumption | apply State.drain_keep | apply State.takeCopy_keep | apply Keep.ite) | split | dsimp only
  | succ n ih =>
    unfold State.refuseWrongKind
    repeat' first | (with_reducible first | assumption | apply ih | apply State.drain_keep | apply State.takeCopy_keep | apply Keep.ite) | split | dsimp only

theorem State.headCopy_keep' {a s : State} (h : Keep a s) {x0} : Keep a (State.headCopy s x0).1 := by
  unfold State.headCopy
  repeat' (with_reducible first | assumption | apply State.refuseWrongKind_keep | apply Keep.ite1 | apply Keep.ite)
theorem State.headCopy_keep {a s t : State} {x0} {y} (e : (State.headCopy s x0) = (t, y)) (h : Keep a s) : Keep a t
  := by
  have g := congrArg Prod.fst e; dsimp only at g; rw [← g]; exact State.headCopy_keep' h

theorem State.fillEntry_keep {a s : State} (h : Keep a s) {x0 x1 x2} : Keep a (State.fillEntry s x0 x1 x2) := by
  unfold State.fillEntry
  repeat' (with_reducible first | assumption | apply State.drain_keep | apply State.takeCopy_keep)

theorem State.writeSummary_keep {a s : State} (h : Keep a s) {x0 x1} : Keep a (State.writeSummary s x0 x1) := by
  unfold State.writeSummary
  repeat' first | (with_reducible first | assumption | apply State.setRing_keep | apply State.fillEntry_keep | apply Keep.ite | refine Keep.foldl ?_ (fun _ _ _ => ?_)) | (lift_lets; intro x; first | (refine suffices hx : Keep a x from ?_; ?_; on_goal 1 => unfold x; on_goal 2 => clear_value x) | skip) | (fail_if_no_progress with_reducible refine Keep.plain ?_) | split | dsimp only

theorem State.serveEvents_keep {a s : State} (h : Keep a s) {x0 x1} : Keep a (State.serveEvents s x0 x1) := by
  induction x1 generalizing s x0 with
  | zero =>
    unfold State.serveEvents
    repeat' first | (with_reducible first | assumption | refine State.headCopy_keep (by assumption) ?_ | apply State.headCopy_keep' | apply State.writeSummary_keep | apply State.setRing_keep | apply State.fillEntry_keep | apply State.bump_keep | apply Keep.ite | refine Keep.foldl ?_ (fun _ _ _ => ?_)) | (lift_lets; intro x; first | (refine suffices hx : Keep a x from ?_; ?_; on_goal 1 => unfold x; on_goal 2 => clear_value x) | skip) | (fail_if_no_progress with_reducible refine Keep.plain ?_) | split | dsimp only
  | succ n ih =>
    unfold State.serveEvents
    repeat' first | (with_reducible first | assumption | apply ih | refine State.headCopy_keep (by assumption) ?_ | apply State.headCopy_keep' | apply State.writeSummary_keep | apply State.setRing_keep | apply State.fillEntry_keep | apply State.bump_keep | apply Keep.ite | refine Keep.foldl ?_ (fun _ _ _ => ?_)) | (lift_lets; intro x; first | (refine suffices hx : Keep a x from ?_; ?_; on_goal 1 => unfold x; on_goal 2 => clear_value x) | skip) | (fail_if_no_progress with_reducible refine Keep.plain ?_) | split | dsimp only

theorem State.serve_keep {a s : State} (h : Keep a s) {x0} : Keep a (State.serve s x0) := by
  unfold State.serve
  repeat' (with_reducible first | assumption | apply State.serveEvents_keep)

theorem State.serveAll_keep {a s : State} (h : Keep a s) : Keep a (State.serveAll s) := by
  unfold State.serveAll
  repeat' first | (with_reducible first | assumption | apply State.serve_keep | apply Keep.ite | refine Keep.foldl ?_ (fun _ _ _ => ?_)) | (lift_lets; intro x; first | (refine suffices hx : Keep a x from ?_; ?_; on_goal 1 => unfold x; on_goal 2 => clear_value x) | skip) | (fail_if_no_progress with_reducible refine Keep.plain ?_) | split | dsimp only

theorem State.event_keep {a s : State} (h : Keep a s) {x0 x1} : Keep a (State.event s x0 x1) := by
  unfold State.event
  repeat' (with_reducible first | assumption | apply State.serve_keep | apply State.queueEvent_keep)

theorem State.mtrEvent_keep {a s : State} (h : Keep a s) {x0} : Keep a (State.mtrEvent s x0) := by
  unfold State.mtrEvent
  repeat' (with_reducible first | assumption | apply State.event_keep | apply Keep.ite)

theorem State.countChannel_keep {a s : State} (h : Keep a s) {x0} : Keep a (State.countChannel s x0) := by
  unfold State.countChannel
  repeat' first | (with_reducible first | assumption | apply State.bump_keep | apply Keep.ite) | (fail_if_no_progress with_reducible refine Keep.plain ?_)

theorem State.startBlockReset_keep {a s : State} (h : Keep a s) {x0} : Keep a (State.startBlockReset s x0) := by
  unfold State.startBlockReset
  repeat' first | (with_reducible first | assumption | apply State.countChannel_keep | apply Keep.ite) | (lift_lets; intro x; first | (refine suffices hx : Keep a x from ?_; ?_; on_goal 1 => unfold x; on_goal 2 => clear_value x) | skip) | (fail_if_no_progress with_reducible refine Keep.plain ?_) | split | dsimp only

theorem State.recordFault_keep {a s : State} (h : Keep a s) {x0 x1 x2 x3 x4} : Keep a (State.recordFault s x0 x1 x2
  x3 x4) := by
  unfold State.recordFault
  repeat' first | (with_reducible first | assumption | apply State.setRaw_keep | apply State.put_keep | apply State.bump_keep | apply Keep.ite) | (fail_if_no_progress with_reducible refine Keep.plain ?_)

theorem State.urgent_keep {a s : State} (h : Keep a s) : Keep a (State.urgent s) := by
  unfold State.urgent
  repeat' (with_reducible first | assumption | apply State.msix_keep | apply State.put_keep | apply Keep.ite)

theorem State.raiseWith_keep {a s : State} (h : Keep a s) {x0 x1 x2 x3} : Keep a (State.raiseWith s x0 x1 x2 x3) := by
  unfold State.raiseWith
  repeat' first | (with_reducible first | assumption | apply State.recordFault_keep | apply State.bumpWrap_keep | apply State.put_keep | apply State.msix_keep | apply State.urgent_keep | apply State.startBlockReset_keep | apply Keep.ite) | (lift_lets; intro x; first | (refine suffices hx : Keep a x from ?_; ?_; on_goal 1 => unfold x; on_goal 2 => clear_value x) | skip) | (fail_if_no_progress with_reducible refine Keep.plain ?_) | split | dsimp only

theorem State.raise_keep {a s : State} (h : Keep a s) {x0 x1 x2} : Keep a (State.raise s x0 x1 x2) := by
  unfold State.raise
  repeat' (with_reducible first | assumption | apply State.raiseWith_keep)

theorem State.setChQueue_keep {a s : State} (h : Keep a s) {x0 x1} : Keep a (State.setChQueue s x0 x1) := Keep.plain h

theorem State.chSend_keep {a s : State} (h : Keep a s) {x0 x1 x2 x3} : Keep a (State.chSend s x0 x1 x2 x3) := by
  unfold State.chSend
  repeat' first | (with_reducible first | assumption | apply State.setChQueue_keep | apply Keep.ite | refine Keep.foldl ?_ (fun _ _ _ => ?_)) | (lift_lets; intro x; first | (refine suffices hx : Keep a x from ?_; ?_; on_goal 1 => unfold x; on_goal 2 => clear_value x) | skip) | (fail_if_no_progress with_reducible refine Keep.plain ?_) | split | dsimp only

theorem State.chRead_keep' {a s : State} (h : Keep a s) {x0 x1} : Keep a (State.chRead s x0 x1).1 := by
  unfold State.chRead
  repeat' first | (with_reducible first | assumption | apply State.setChQueue_keep | apply Keep.ite1 | apply Keep.ite | refine Keep.foldl ?_ (fun _ _ _ => ?_)) | (lift_lets; intro x; first | (refine suffices hx : Keep a x from ?_; ?_; on_goal 1 => unfold x; on_goal 2 => clear_value x) | skip) | (fail_if_no_progress with_reducible refine Keep.plain ?_) | split | dsimp only
theorem State.chRead_keep {a s t : State} {x0 x1} {y} (e : (State.chRead s x0 x1) = (t, y)) (h : Keep a s) : Keep a t := by
  have g := congrArg Prod.fst e; dsimp only at g; rw [← g]; exact State.chRead_keep' h

theorem State.chCross_keep {a s : State} (h : Keep a s) {x0 x1 x2 x3 x4} : Keep a (State.chCross s x0 x1 x2 x3 x4) := by
  induction x4 generalizing s x0 x1 x2 x3 with
  | zero =>
    unfold State.chCross
    repeat' first | (with_reducible first | assumption | apply State.chSend_keep | refine State.chRead_keep (by assumption) ?_ | apply State.chRead_keep' | apply Keep.ite | refine Keep.foldl ?_ (fun _ _ _ => ?_)) | (lift_lets; intro x; first | (refine suffices hx : Keep a x from ?_; ?_; on_goal 1 => unfold x; on_goal 2 => clear_value x) | skip) | (fail_if_no_progress with_reducible refine Keep.plain ?_) | split | dsimp only
  | succ n ih =>
    unfold State.chCross
    repeat' first | (with_reducible first | assumption | apply ih | apply State.chSend_keep | refine State.chRead_keep (by assumption) ?_ | apply State.chRead_keep' | apply Keep.ite | refine Keep.foldl ?_ (fun _ _ _ => ?_)) | (lift_lets; intro x; first | (refine suffices hx : Keep a x from ?_; ?_; on_goal 1 => unfold x; on_goal 2 => clear_value x) | skip) | (fail_if_no_progress with_reducible refine Keep.plain ?_) | split | dsimp only

theorem State.startCheck_keep {a s : State} (h : Keep a s) {x0 x1 x2} : Keep a (State.startCheck s x0 x1 x2) := by
  unfold State.startCheck
  repeat' first | (with_reducible first | assumption | apply State.put_keep | apply Keep.ite) | (fail_if_no_progress with_reducible refine Keep.plain ?_)

theorem State.endCheck_keep {a s : State} (h : Keep a s) {x0 x1 x2} : Keep a (State.endCheck s x0 x1 x2) := by
  unfold State.endCheck
  repeat' first | (with_reducible first | assumption | apply State.puts_keep | apply State.bumpWrap_keep) | (fail_if_no_progress with_reducible refine Keep.plain ?_)

theorem State.gatedWrite_keep {a s : State} (h : Keep a s) {f} (hf : ∀ t, Keep a t → Keep a (f t)) : Keep a
  (State.gatedWrite s f) := by
  unfold State.gatedWrite
  repeat' (with_reducible first | assumption | apply hf | apply State.bump_keep | apply Keep.ite)

/-! ### Machine/Tables.lean -/

theorem State.putEntry_keep {a s : State} (h : Keep a s) {p t pos e} : Keep a (s.putEntry p t pos e) :=
  h.upd rfl rfl (le_refl _) (List.suffix_refl _) rfl
    (fun c => ⟨c.regs, c.cells, smWf_smPut _ _ _ _ c.entries, c.meters, c.flows, c.gates, c.profiles, c.policers,
      c.groups, c.members⟩) (fun o => ⟨o.total, o.quarter⟩)

theorem State.setNodes_keep {a s : State} (h : Keep a s) {x0 x1 x2} : Keep a (State.setNodes s x0 x1 x2) := by
  unfold State.setNodes
  repeat' first | (with_reducible first | assumption | apply Keep.ite | refine Keep.foldl ?_ (fun _ _ _ => ?_)) | (lift_lets; intro x; first | (refine suffices hx : Keep a x from ?_; ?_; on_goal 1 => unfold x; on_goal 2 => clear_value x) | skip) | (fail_if_no_progress with_reducible refine Keep.plain ?_) | split | dsimp only

theorem State.fitNodes_keep {a s : State} (h : Keep a s) {x0 x1} : Keep a (State.fitNodes s x0 x1) := by
  unfold State.fitNodes
  repeat' first | (with_reducible first | assumption | apply State.setNodes_keep | apply Keep.ite | refine Keep.foldl ?_ (fun _ _ _ => ?_)) | (lift_lets; intro x; first | (refine suffices hx : Keep a x from ?_; ?_; on_goal 1 => unfold x; on_goal 2 => clear_value x) | skip) | (fail_if_no_progress with_reducible refine Keep.plain ?_) | split | dsimp only

theorem State.putUnit_keep {a s : State} (h : Keep a s) {x0 x1 x2 x3} : Keep a (State.putUnit s x0 x1 x2 x3) := by
  unfold State.putUnit
  repeat' first | (with_reducible first | assumption | apply State.putEntry_keep | apply State.fitNodes_keep | apply Keep.ite | refine Keep.foldl ?_ (fun _ _ _ => ?_)) | (lift_lets; intro x; first | (refine suffices hx : Keep a x from ?_; ?_; on_goal 1 => unfold x; on_goal 2 => clear_value x) | skip) | (fail_if_no_progress with_reducible refine Keep.plain ?_) | split | dsimp only

theorem State.portOver_keep {a s : State} (h : Keep a s) {x0} : Keep a (State.portOver s x0) := by
  unfold State.portOver
  repeat' (with_reducible first | assumption | apply State.putFlag_keep)

theorem State.unlearn_keep {a s : State} (h : Keep a s) {x0} : Keep a (State.unlearn s x0) := by
  unfold State.unlearn
  repeat' (with_reducible first | assumption | apply State.portOver_keep | apply State.put_keep)

theorem State.relearn_keep {a s : State} (h : Keep a s) {x0} : Keep a (State.relearn s x0) := by
  unfold State.relearn
  repeat' (with_reducible first | assumption | apply State.portOver_keep | apply State.put_keep)

theorem State.mapCopies_keep {a s : State} (h : Keep a s) {t q f} : Keep a (s.mapCopies t q f) :=
  State.mapEntries_keep h _ (fun x => by split <;> rfl)
    (fun x hx => by split <;> simpa using hx)

theorem State.freeAt_keep {a s : State} (h : Keep a s) {x0 x1 x2} : Keep a (State.freeAt s x0 x1 x2) := by
  unfold State.freeAt
  repeat' first | (with_reducible first | assumption | apply State.putEntry_keep | apply State.fitNodes_keep | apply State.put_keep | apply Keep.ite | refine Keep.foldl ?_ (fun _ _ _ => ?_)) | (lift_lets; intro x; first | (refine suffices hx : Keep a x from ?_; ?_; on_goal 1 => unfold x; on_goal 2 => clear_value x) | skip) | (fail_if_no_progress with_reducible refine Keep.plain ?_) | split | dsimp only

theorem State.pruneMoves_keep {a s : State} (h : Keep a s) : Keep a (State.pruneMoves s) := by
  unfold State.pruneMoves
  repeat' first | (with_reducible first | assumption | apply Keep.ite | refine Keep.foldl ?_ (fun _ _ _ => ?_)) | (lift_lets; intro x; first | (refine suffices hx : Keep a x from ?_; ?_; on_goal 1 => unfold x; on_goal 2 => clear_value x) | skip) | (fail_if_no_progress with_reducible refine Keep.plain ?_) | split | dsimp only

theorem State.freeCopies_keep {a s : State} (h : Keep a s) {x0 x1} : Keep a (State.freeCopies s x0 x1) := by
  unfold State.freeCopies
  repeat' (with_reducible first | assumption | apply State.pruneMoves_keep | apply State.freeAt_keep | apply Keep.ite | refine Keep.foldl ?_ (fun _ _ _ => ?_))

theorem State.showGroup_keep {a s : State} (h : Keep a s) {x0} : Keep a (State.showGroup s x0) := by
  unfold State.showGroup
  repeat' (with_reducible first | assumption | apply State.put_keep)

theorem State.deleteEntry_keep {a s : State} (h : Keep a s) {x0 x1} : Keep a (State.deleteEntry s x0 x1) := by
  unfold State.deleteEntry
  repeat' first | (with_reducible first | assumption | apply State.freeCopies_keep | apply State.unlearn_keep | apply State.showGroup_keep | apply Keep.ite | refine Keep.foldl ?_ (fun _ _ _ => ?_)) | (lift_lets; intro x; first | (refine suffices hx : Keep a x from ?_; ?_; on_goal 1 => unfold x; on_goal 2 => clear_value x) | skip) | (fail_if_no_progress with_reducible refine Keep.plain ?_) | split | dsimp only

theorem State.discardUpTo_keep {a s : State} (h : Keep a s) {x0 x1} : Keep a (State.discardUpTo s x0 x1) := by
  unfold State.discardUpTo
  repeat' first | (with_reducible first | assumption | apply State.freeCopies_keep | apply State.mapCopies_keep | apply State.showGroup_keep | apply Keep.ite | refine Keep.foldl ?_ (fun _ _ _ => ?_)) | (lift_lets; intro x; first | (refine suffices hx : Keep a x from ?_; ?_; on_goal 1 => unfold x; on_goal 2 => clear_value x) | skip) | (fail_if_no_progress with_reducible refine Keep.plain ?_) | split | dsimp only

theorem State.discardDue_keep {a s : State} (h : Keep a s) : Keep a (State.discardDue s) := by
  unfold State.discardDue
  repeat' first | (with_reducible first | assumption | apply State.discardUpTo_keep | apply Keep.ite | refine Keep.foldl ?_ (fun _ _ _ => ?_)) | (lift_lets; intro x; first | (refine suffices hx : Keep a x from ?_; ?_; on_goal 1 => unfold x; on_goal 2 => clear_value x) | skip) | (fail_if_no_progress with_reducible refine Keep.plain ?_) | split | dsimp only

theorem State.discardGroup_keep {a s : State} (h : Keep a s) {x0} : Keep a (State.discardGroup s x0) := by
  unfold State.discardGroup
  repeat' first | (with_reducible first | assumption | apply State.discardDue_keep | apply Keep.ite | refine Keep.foldl ?_ (fun _ _ _ => ?_)) | (lift_lets; intro x; first | (refine suffices hx : Keep a x from ?_; ?_; on_goal 1 => unfold x; on_goal 2 => clear_value x) | skip) | (fail_if_no_progress with_reducible refine Keep.plain ?_) | split | dsimp only

theorem State.copyNode_keep {a s : State} (h : Keep a s) {x0 x1 x2 x3} : Keep a (State.copyNode s x0 x1 x2 x3) := by
  unfold State.copyNode
  repeat' first | (with_reducible first | assumption | apply State.setNodes_keep | apply Keep.ite | refine Keep.foldl ?_ (fun _ _ _ => ?_)) | (lift_lets; intro x; first | (refine suffices hx : Keep a x from ?_; ?_; on_goal 1 => unfold x; on_goal 2 => clear_value x) | skip) | (fail_if_no_progress with_reducible refine Keep.plain ?_) | split | dsimp only

theorem State.dropNode_keep {a s : State} (h : Keep a s) {x0 x1 x2} : Keep a (State.dropNode s x0 x1 x2) := by
  unfold State.dropNode
  repeat' first | (with_reducible first | assumption | apply State.setNodes_keep | apply Keep.ite | refine Keep.foldl ?_ (fun _ _ _ => ?_)) | (lift_lets; intro x; first | (refine suffices hx : Keep a x from ?_; ?_; on_goal 1 => unfold x; on_goal 2 => clear_value x) | skip) | (fail_if_no_progress with_reducible refine Keep.plain ?_) | split | dsimp only

theorem State.startMove_keep {a s : State} (h : Keep a s) {x0 x1 x2 x3 x4} : Keep a (State.startMove s x0 x1 x2 x3 x4) := by
  unfold State.startMove
  repeat' first | (with_reducible first | assumption | apply State.copyNode_keep | apply State.putEntry_keep | apply Keep.ite | refine Keep.foldl ?_ (fun _ _ _ => ?_)) | (lift_lets; intro x; first | (refine suffices hx : Keep a x from ?_; ?_; on_goal 1 => unfold x; on_goal 2 => clear_value x) | skip) | (fail_if_no_progress with_reducible refine Keep.plain ?_) | split | dsimp only

theorem State.endMove_keep {a s : State} (h : Keep a s) {x0} : Keep a (State.endMove s x0) := by
  unfold State.endMove
  repeat' first | (with_reducible first | assumption | apply State.dropNode_keep | apply State.freeAt_keep | apply State.bump_keep | apply Keep.ite | refine Keep.foldl ?_ (fun _ _ _ => ?_)) | (lift_lets; intro x; first | (refine suffices hx : Keep a x from ?_; ?_; on_goal 1 => unfold x; on_goal 2 => clear_value x) | skip) | (fail_if_no_progress with_reducible refine Keep.plain ?_) | split | dsimp only

theorem State.lpmLookup_keep' {a s : State} (h : Keep a s) {x0 x1 x2 x3 x4 x5} : Keep a (State.lpmLookup s x0 x1 x2 x3 x4 x5).1 := by
  unfold State.lpmLookup
  repeat' first | (with_reducible first | assumption | apply State.put_keep | apply Keep.ite1 | apply Keep.ite | refine Keep.foldl ?_ (fun _ _ _ => ?_)) | (lift_lets; intro x; first | (refine suffices hx : Keep a x from ?_; ?_; on_goal 1 => unfold x; on_goal 2 => clear_value x) | skip) | (fail_if_no_progress with_reducible refine Keep.plain ?_) | split | dsimp only
theorem State.lpmLookup_keep {a s t : State} {x0 x1 x2 x3 x4 x5} {y} (e : (State.lpmLookup s x0 x1 x2 x3 x4 x5) = (t, y)) (h : Keep a s) : Keep a t := by
  have g := congrArg Prod.fst e; dsimp only at g; rw [← g]; exact State.lpmLookup_keep' h

theorem State.markHit_keep {a s : State} (h : Keep a s) {p t q} : Keep a (s.markHit p t q) :=
  State.mapEntries_keep h _ (fun x => by split <;> rfl)
    (fun x hx => by split <;> simpa using hx)

theorem State.sweepTag_keep {a s : State} (h : Keep a s) {g} : Keep a (s.sweepTag g) := by
  unfold State.sweepTag
  extract_lets gone t base n1 n2
  have ht : Keep a t := Keep.foldl h (fun _ _ k => State.freeCopies_keep k)
  clear_value t
  exact (State.mapEntries_keep ht (fun x => (x.1, x.2.map base)) (fun _ => rfl) (fun x hx => by simpa using hx)).plain
    rfl rfl rfl rfl rfl rfl rfl rfl rfl rfl rfl rfl

/-! ### Machine/Rings.lean -/

theorem State.doorbell_keep {a s : State} (h : Keep a s) {x0} : Keep a (State.doorbell s x0) := by
  unfold State.doorbell
  repeat' (with_reducible first | assumption | apply State.bump_keep | apply State.perf_keep | apply State.setRing_keep | apply Keep.ite)

theorem State.haltRing_keep {a s : State} (h : Keep a s) {x0} : Keep a (State.haltRing s x0) := by
  unfold State.haltRing
  repeat' (with_reducible first | assumption | apply State.bump_keep | apply State.put_keep | apply State.setRing_keep | apply State.raise_keep)

theorem State.abortFetched_keep {a s : State} (h : Keep a s) {x0 x1} : Keep a (State.abortFetched s x0 x1) := by
  unfold State.abortFetched
  repeat' (with_reducible first | assumption | apply State.setRing_keep | apply State.drain_keep | apply State.bump_keep | apply Keep.ite)

theorem State.scanFetched_keep {a s : State} (h : Keep a s) {x0 x1} : Keep a (State.scanFetched s x0 x1) := by
  unfold State.scanFetched
  repeat' (with_reducible first | assumption | apply State.setRing_keep | apply State.serve_keep | apply Keep.ite)

theorem State.entryFetched_keep {a s : State} (h : Keep a s) {x0 x1 x2} : Keep a (State.entryFetched s x0 x1 x2) := by
  unfold State.entryFetched
  repeat' first | (with_reducible first | assumption | apply State.readHost_keep | apply State.haltRing_keep | apply State.perf_keep | apply State.abortFetched_keep | apply State.scanFetched_keep | apply Keep.ite | refine Keep.foldl ?_ (fun _ _ _ => ?_)) | (lift_lets; intro x; first | (refine suffices hx : Keep a x from ?_; ?_; on_goal 1 => unfold x; on_goal 2 => clear_value x) | skip) | (fail_if_no_progress with_reducible refine Keep.plain ?_) | split | dsimp only

theorem State.ringInval_keep {a s : State} (h : Keep a s) {x0} : Keep a (State.ringInval s x0) := by
  unfold State.ringInval
  repeat' (with_reducible first | assumption | apply State.setRing_keep | apply State.puts_keep)

theorem State.injectTake_keep {a s : State} (h : Keep a s) {x0 x1 x2} : Keep a (State.injectTake s x0 x1 x2) := by
  unfold State.injectTake
  repeat' first | (with_reducible first | assumption | refine State.headCopy_keep (by assumption) ?_ | apply State.headCopy_keep' | apply State.readHost_keep | apply State.bump_keep | apply State.takeCopy_keep | apply State.drain_keep | apply State.perf_keep | apply Keep.ite | refine Keep.foldl ?_ (fun _ _ _ => ?_)) | (lift_lets; intro x; first | (refine suffices hx : Keep a x from ?_; ?_; on_goal 1 => unfold x; on_goal 2 => clear_value x) | skip) | (fail_if_no_progress with_reducible refine Keep.plain ?_) | split | dsimp only

theorem State.finishEntry_keep {a s : State} (h : Keep a s) {x0 x1 x2} : Keep a (State.finishEntry s x0 x1 x2) := by
  unfold State.finishEntry
  repeat' (with_reducible first | assumption | apply State.drain_keep | apply State.setRing_keep | apply Keep.ite)

theorem State.irqTimer_keep {a s : State} (h : Keep a s) {x0} : Keep a (State.irqTimer s x0) := by
  unfold State.irqTimer
  repeat' (with_reducible first | assumption | apply State.msix_keep | apply State.setRing_keep | apply Keep.ite)

theorem State.heldSend_keep {a s : State} (h : Keep a s) {x0} : Keep a (State.heldSend s x0) := by
  unfold State.heldSend
  repeat' first | (with_reducible first | assumption | apply State.send_keep | apply Keep.ite) | (lift_lets; intro x; first | (refine suffices hx : Keep a x from ?_; ?_; on_goal 1 => unfold x; on_goal 2 => clear_value x) | skip) | (fail_if_no_progress with_reducible refine Keep.plain ?_) | split | dsimp only

theorem State.pcieError_keep {a s : State} (h : Keep a s) {x0 x1 x2} : Keep a (State.pcieError s x0 x1 x2) := by
  unfold State.pcieError
  repeat' first | (with_reducible first | assumption | apply State.raise_keep | apply Keep.ite) | (fail_if_no_progress with_reducible refine Keep.plain ?_)

theorem State.msixFlush_keep {a s : State} (h : Keep a s) {x0} : Keep a (State.msixFlush s x0) := by
  unfold State.msixFlush
  repeat' (with_reducible first | assumption | apply State.msix_keep | apply State.msixPend_keep | apply Keep.ite | refine Keep.foldl ?_ (fun _ _ _ => ?_))

theorem State.configRead_keep {a s : State} (h : Keep a s) {x0 x1} : Keep a (State.configRead s x0 x1) := by
  unfold State.configRead
  repeat' (with_reducible first | assumption | apply State.send_keep | refine State.draw_keep (by assumption) ?_ | apply State.draw_keep' | apply Keep.ite)

theorem State.ringEnable_keep {a s : State} (h : Keep a s) {x0} : Keep a (State.ringEnable s x0) := by
  unfold State.ringEnable
  repeat' (with_reducible first | assumption | apply State.startCheck_keep)

theorem State.ringAccepted_keep {a s : State} (h : Keep a s) {x0} : Keep a (State.ringAccepted s x0) := by
  unfold State.ringAccepted
  repeat' (with_reducible first | assumption | apply State.puts_keep | apply State.setRing_keep)

/-! ### Machine/Commands.lean -/

theorem State.tookLearnTurn_keep {a s : State} (h : Keep a s) : Keep a (State.tookLearnTurn s) := Keep.plain h

theorem State.setJob_keep {a s : State} (h : Keep a s) {x0} : Keep a (State.setJob s x0) := Keep.plain h

theorem State.uncover_keep {a s : State} (h : Keep a s) {x0} : Keep a (State.uncover s x0) := Keep.plain h

theorem State.finishJob_keep {a s : State} (h : Keep a s) {x0} : Keep a (State.finishJob s x0) := by
  unfold State.finishJob
  repeat' first | (with_reducible first | assumption | apply State.setJob_keep | apply State.uncover_keep | apply State.discardDue_keep | apply Keep.ite | refine Keep.foldl ?_ (fun _ _ _ => ?_)) | (lift_lets; intro x; first | (refine suffices hx : Keep a x from ?_; ?_; on_goal 1 => unfold x; on_goal 2 => clear_value x) | skip) | (fail_if_no_progress with_reducible refine Keep.plain ?_) | split | dsimp only

theorem State.refuseJob_keep {a s : State} (h : Keep a s) {x0 x1 x2} : Keep a (State.refuseJob s x0 x1 x2) := by
  unfold State.refuseJob
  repeat' (with_reducible first | assumption | apply State.finishJob_keep | apply State.bump_keep | apply Keep.ite)

theorem State.rewrite_keep {a s : State} (h : Keep a s) {x0 x1} : Keep a (State.rewrite s x0 x1) := by
  unfold State.rewrite
  repeat' (with_reducible first | assumption | apply State.mapCopies_keep | apply State.unlearn_keep | apply Keep.ite)

theorem State.rowMove_keep {a s : State} (h : Keep a s) {x0 x1 x2} : Keep a (State.rowMove s x0 x1 x2) := by
  unfold State.rowMove
  repeat' first | (with_reducible first | assumption | apply State.putEntry_keep | refine Keep.foldl ?_ (fun _ _ _ => ?_)) | (lift_lets; intro x; first | (refine suffices hx : Keep a x from ?_; ?_; on_goal 1 => unfold x; on_goal 2 => clear_value x) | skip) | (fail_if_no_progress with_reducible refine Keep.plain ?_) | split | dsimp only

theorem State.retireOld_keep {a s : State} (h : Keep a s) {x0 x1} : Keep a (State.retireOld s x0 x1) := by
  unfold State.retireOld
  repeat' first | (with_reducible first | assumption | apply State.rowMove_keep | apply State.mapCopies_keep | apply Keep.ite | refine Keep.foldl ?_ (fun _ _ _ => ?_)) | (lift_lets; intro x; first | (refine suffices hx : Keep a x from ?_; ?_; on_goal 1 => unfold x; on_goal 2 => clear_value x) | skip) | (fail_if_no_progress with_reducible refine Keep.plain ?_) | split | dsimp only

theorem State.publish_keep {a s : State} (h : Keep a s) {x0} : Keep a (State.publish s x0) := by
  unfold State.publish
  repeat' first | (with_reducible first | assumption | apply State.mapCopies_keep | apply State.retireOld_keep | apply State.showGroup_keep | apply State.finishJob_keep | apply Keep.ite | refine Keep.foldl ?_ (fun _ _ _ => ?_)) | (lift_lets; intro x; first | (refine suffices hx : Keep a x from ?_; ?_; on_goal 1 => unfold x; on_goal 2 => clear_value x) | skip) | (fail_if_no_progress with_reducible refine Keep.plain ?_) | split | dsimp only

theorem State.withdraw_keep {a s : State} (h : Keep a s) {x0} : Keep a (State.withdraw s x0) := by
  unfold State.withdraw
  repeat' (with_reducible first | assumption | apply State.freeCopies_keep)

theorem State.lrnEvent_keep {a s : State} (h : Keep a s) {x0 x1 x2 x3 x4 x5 x6} : Keep a (State.lrnEvent s x0 x1 x2
  x3 x4 x5 x6) := by
  unfold State.lrnEvent
  repeat' (with_reducible first | assumption | apply State.event_keep | apply Keep.ite)

theorem State.placeFailed_keep {a s : State} (h : Keep a s) {x0 x1} : Keep a (State.placeFailed s x0 x1) := by
  unfold State.placeFailed
  repeat' first | (with_reducible first | assumption | apply State.withdraw_keep | apply State.refuseJob_keep | apply State.unlearn_keep | apply State.flushPort_keep | apply State.put_keep | apply State.bump_keep | apply State.lrnEvent_keep | apply Keep.ite | refine Keep.foldl ?_ (fun _ _ _ => ?_)) | (lift_lets; intro x; first | (refine suffices hx : Keep a x from ?_; ?_; on_goal 1 => unfold x; on_goal 2 => clear_value x) | skip) | (fail_if_no_progress with_reducible refine Keep.plain ?_) | split | dsimp only

theorem State.learnDone_keep {a s : State} (h : Keep a s) {x0} : Keep a (State.learnDone s x0) := by
  unfold State.learnDone
  repeat' first | (with_reducible first | assumption | apply State.lrnEvent_keep | apply State.portOver_keep) | (fail_if_no_progress with_reducible refine Keep.plain ?_)

theorem State.placeWrite_keep' {a s : State} (h : Keep a s) {x0 x1 x2 x3} : Keep a (State.placeWrite s x0 x1 x2 x3).1 := by
  unfold State.placeWrite
  repeat' first | (with_reducible first | assumption | apply State.putUnit_keep | apply Keep.ite1 | apply Keep.ite | refine Keep.foldl ?_ (fun _ _ _ => ?_)) | (lift_lets; intro x; first | (refine suffices hx : Keep a x from ?_; ?_; on_goal 1 => unfold x; on_goal 2 => clear_value x) | skip) | (fail_if_no_progress with_reducible refine Keep.plain ?_) | split | dsimp only
theorem State.placeWrite_keep {a s t : State} {x0 x1 x2 x3} {y} (e : (State.placeWrite s x0 x1 x2 x3) = (t, y)) (h : Keep a s) : Keep a t := by
  have g := congrArg Prod.fst e; dsimp only at g; rw [← g]; exact State.placeWrite_keep' h

theorem State.placeFresh_keep' {a s : State} (h : Keep a s) {x0 x1 x2} : Keep a (State.placeFresh s x0 x1 x2).1 := by
  unfold State.placeFresh
  repeat' first | (with_reducible first | assumption | refine State.placeWrite_keep (by assumption) ?_ | apply State.placeWrite_keep' | apply State.startMove_keep | apply Keep.ite1 | apply Keep.ite | refine Keep.foldl ?_ (fun _ _ _ => ?_)) | (lift_lets; intro x; first | (refine suffices hx : Keep a x from ?_; ?_; on_goal 1 => unfold x; on_goal 2 => clear_value x) | skip) | (fail_if_no_progress with_reducible refine Keep.plain ?_) | split | dsimp only
theorem State.placeFresh_keep {a s t : State} {x0 x1 x2} {y} (e : (State.placeFresh s x0 x1 x2) = (t, y)) (h : Keep a s) : Keep a t := by
  have g := congrArg Prod.fst e; dsimp only at g; rw [← g]; exact State.placeFresh_keep' h

theorem State.placeStep_keep' {a s : State} (h : Keep a s) {x0 x1 x2} : Keep a (State.placeStep s x0 x1 x2).1 := by
  unfold State.placeStep
  repeat' first | (with_reducible first | assumption | refine State.placed_keep (by assumption) ?_ | apply State.placed_keep' | refine State.placeFresh_keep (by assumption) ?_ | apply State.placeFresh_keep' | apply State.startMove_keep | refine State.placeWrite_keep (by assumption) ?_ | apply State.placeWrite_keep' | apply Keep.ite1 | apply Keep.ite | refine Keep.foldl ?_ (fun _ _ _ => ?_)) | (lift_lets; intro x; first | (refine suffices hx : Keep a x from ?_; ?_; on_goal 1 => unfold x; on_goal 2 => clear_value x) | skip) | (fail_if_no_progress with_reducible refine Keep.plain ?_) | split | dsimp only
theorem State.placeStep_keep {a s t : State} {x0 x1 x2} {y} (e : (State.placeStep s x0 x1 x2) = (t, y)) (h : Keep a s) : Keep a t := by
  have g := congrArg Prod.fst e; dsimp only at g; rw [← g]; exact State.placeStep_keep' h

theorem State.placeAll_keep {a s : State} (h : Keep a s) {x0 x1 x2 x3} : Keep a (State.placeAll s x0 x1 x2 x3) := by
  induction x2 generalizing s x0 x1 x3 with
  | nil =>
    unfold State.placeAll
    repeat' first | (with_reducible first | assumption | refine State.placed_keep (by assumption) ?_ | apply State.placed_keep' | apply State.setJob_keep | apply State.publish_keep | apply State.learnDone_keep | apply State.placeFailed_keep | refine State.placeStep_keep (by assumption) ?_ | apply State.placeStep_keep' | apply Keep.ite | refine Keep.foldl ?_ (fun _ _ _ => ?_)) | (lift_lets; intro x; first | (refine suffices hx : Keep a x from ?_; ?_; on_goal 1 => unfold x; on_goal 2 => clear_value x) | skip) | (fail_if_no_progress with_reducible refine Keep.plain ?_) | split | dsimp only
  | cons y l ih =>
    unfold State.placeAll
    repeat' first | (with_reducible first | assumption | apply ih | refine State.placed_keep (by assumption) ?_ | apply State.placed_keep' | apply State.setJob_keep | apply State.publish_keep | apply State.learnDone_keep | apply State.placeFailed_keep | refine State.placeStep_keep (by assumption) ?_ | apply State.placeStep_keep' | apply Keep.ite | refine Keep.foldl ?_ (fun _ _ _ => ?_)) | (lift_lets; intro x; first | (refine suffices hx : Keep a x from ?_; ?_; on_goal 1 => unfold x; on_goal 2 => clear_value x) | skip) | (fail_if_no_progress with_reducible refine Keep.plain ?_) | split | dsimp only

theorem State.advance_keep {a s : State} (h : Keep a s) {x0} : Keep a (State.advance s x0) := by
  unfold State.advance
  repeat' first | (with_reducible first | assumption | apply State.placeAll_keep | apply State.refuseJob_keep | apply Keep.ite | refine Keep.foldl ?_ (fun _ _ _ => ?_)) | (lift_lets; intro x; first | (refine suffices hx : Keep a x from ?_; ?_; on_goal 1 => unfold x; on_goal 2 => clear_value x) | skip) | (fail_if_no_progress with_reducible refine Keep.plain ?_) | split | dsimp only

theorem State.beginPlace_keep {a s : State} (h : Keep a s) {x0 x1} : Keep a (State.beginPlace s x0 x1) := by
  unfold State.beginPlace
  repeat' first | (with_reducible first | assumption | apply State.setJob_keep | apply State.advance_keep | apply Keep.ite | refine Keep.foldl ?_ (fun _ _ _ => ?_)) | (lift_lets; intro x; first | (refine suffices hx : Keep a x from ?_; ?_; on_goal 1 => unfold x; on_goal 2 => clear_value x) | skip) | (fail_if_no_progress with_reducible refine Keep.plain ?_) | split | dsimp only

theorem State.addEntry_keep {a s : State} (h : Keep a s) {x0 x1 x2} : Keep a (State.addEntry s x0 x1 x2) := by
  unfold State.addEntry
  repeat' first | (with_reducible first | assumption | apply State.refuseJob_keep | apply State.beginPlace_keep | apply Keep.ite | refine Keep.foldl ?_ (fun _ _ _ => ?_)) | (lift_lets; intro x; first | (refine suffices hx : Keep a x from ?_; ?_; on_goal 1 => unfold x; on_goal 2 => clear_value x) | skip) | (fail_if_no_progress with_reducible refine Keep.plain ?_) | split | dsimp only

theorem State.modifyEntry_keep {a s : State} (h : Keep a s) {x0 x1 x2} : Keep a (State.modifyEntry s x0 x1 x2) := by
  unfold State.modifyEntry
  repeat' first | (with_reducible first | assumption | apply State.beginPlace_keep | apply State.rewrite_keep | apply State.finishJob_keep | apply State.addEntry_keep | apply Keep.ite | refine Keep.foldl ?_ (fun _ _ _ => ?_)) | (lift_lets; intro x; first | (refine suffices hx : Keep a x from ?_; ?_; on_goal 1 => unfold x; on_goal 2 => clear_value x) | skip) | (fail_if_no_progress with_reducible refine Keep.plain ?_) | split | dsimp only

theorem State.deleteJob_keep {a s : State} (h : Keep a s) {x0 x1 x2} : Keep a (State.deleteJob s x0 x1 x2) := by
  unfold State.deleteJob
  repeat' first | (with_reducible first | assumption | apply State.refuseJob_keep | apply State.deleteEntry_keep | apply State.showGroup_keep | apply State.finishJob_keep | apply State.mapCopies_keep | apply Keep.ite | refine Keep.foldl ?_ (fun _ _ _ => ?_)) | (lift_lets; intro x; first | (refine suffices hx : Keep a x from ?_; ?_; on_goal 1 => unfold x; on_goal 2 => clear_value x) | skip) | (fail_if_no_progress with_reducible refine Keep.plain ?_) | split | dsimp only

theorem State.readNext_keep {a s : State} (h : Keep a s) {x0 x1} : Keep a (State.readNext s x0 x1) := by
  unfold State.readNext
  repeat' first | (with_reducible first | assumption | apply State.finishJob_keep | apply Keep.ite | refine Keep.foldl ?_ (fun _ _ _ => ?_)) | (lift_lets; intro x; first | (refine suffices hx : Keep a x from ?_; ?_; on_goal 1 => unfold x; on_goal 2 => clear_value x) | skip) | (fail_if_no_progress with_reducible refine Keep.plain ?_) | split | dsimp only

theorem State.flushJob_keep {a s : State} (h : Keep a s) {x0 x1} : Keep a (State.flushJob s x0 x1) := by
  unfold State.flushJob
  repeat' (with_reducible first | assumption | apply State.deleteEntry_keep | apply State.finishJob_keep | apply Keep.ite | refine Keep.foldl ?_ (fun _ _ _ => ?_))

theorem State.writeJob_keep {a s : State} (h : Keep a s) {x0 x1} : Keep a (State.writeJob s x0 x1) := by
  unfold State.writeJob
  repeat' first | (with_reducible first | assumption | apply State.refuseJob_keep | apply State.addEntry_keep | apply State.modifyEntry_keep | apply State.deleteJob_keep | apply Keep.ite | refine Keep.foldl ?_ (fun _ _ _ => ?_)) | (lift_lets; intro x; first | (refine suffices hx : Keep a x from ?_; ?_; on_goal 1 => unfold x; on_goal 2 => clear_value x) | skip) | (fail_if_no_progress with_reducible refine Keep.plain ?_) | split | dsimp only

theorem State.readJob_keep {a s : State} (h : Keep a s) {x0} : Keep a (State.readJob s x0) := by
  unfold State.readJob
  repeat' first | (with_reducible first | assumption | apply State.refuseJob_keep | apply State.finishJob_keep) | split | dsimp only

theorem State.startJob_keep {a s : State} (h : Keep a s) {x0} : Keep a (State.startJob s x0) := by
  unfold State.startJob
  repeat' first | (with_reducible first | assumption | apply State.refuseJob_keep | apply State.readJob_keep | apply State.readNext_keep | apply State.flushJob_keep | apply State.writeJob_keep | apply Keep.ite) | split | dsimp only

theorem State.runJobs_keep {a s : State} (h : Keep a s) {x0} : Keep a (State.runJobs s x0) := by
  induction x0 generalizing s  with
  | zero =>
    unfold State.runJobs
    repeat' first | (with_reducible first | assumption | apply State.startJob_keep) | split | dsimp only
  | succ n ih =>
    unfold State.runJobs
    repeat' first | (with_reducible first | assumption | apply ih | apply State.startJob_keep) | split | dsimp only

theorem State.kickOnce_keep {a s : State} (h : Keep a s) : Keep a (State.kickOnce s) := by
  unfold State.kickOnce
  repeat' first | (with_reducible first | assumption | apply State.advance_keep | apply State.runJobs_keep | apply Keep.ite | refine Keep.foldl ?_ (fun _ _ _ => ?_)) | (lift_lets; intro x; first | (refine suffices hx : Keep a x from ?_; ?_; on_goal 1 => unfold x; on_goal 2 => clear_value x) | skip) | (fail_if_no_progress with_reducible refine Keep.plain ?_) | split | dsimp only

theorem State.kick_keep {a s : State} (h : Keep a s) : Keep a (State.kick s) := by
  unfold State.kick
  repeat' first | (with_reducible first | assumption | apply State.kickOnce_keep | apply Keep.ite | refine Keep.foldl ?_ (fun _ _ _ => ?_)) | (lift_lets; intro x; first | (refine suffices hx : Keep a x from ?_; ?_; on_goal 1 => unfold x; on_goal 2 => clear_value x) | skip) | (fail_if_no_progress with_reducible refine Keep.plain ?_) | split | dsimp only

theorem State.enter_keep {a s : State} (h : Keep a s) {x0 x1 x2 x3} : Keep a (State.enter s x0 x1 x2 x3) := by
  unfold State.enter
  repeat' first | (with_reducible first | assumption | apply State.bump_keep | apply State.finishJob_keep | apply State.refuseJob_keep | apply State.kick_keep | apply Keep.ite) | (lift_lets; intro x; first | (refine suffices hx : Keep a x from ?_; ?_; on_goal 1 => unfold x; on_goal 2 => clear_value x) | skip) | (fail_if_no_progress with_reducible refine Keep.plain ?_) | split | dsimp only

theorem State.enterCommit_keep {a s : State} (h : Keep a s) {x0} : Keep a (State.enterCommit s x0) := by
  unfold State.enterCommit
  repeat' first | (with_reducible first | assumption | apply State.bump_keep | apply State.finishEntry_keep | apply State.put_keep | apply Keep.ite | refine Keep.foldl ?_ (fun _ _ _ => ?_)) | (lift_lets; intro x; first | (refine suffices hx : Keep a x from ?_; ?_; on_goal 1 => unfold x; on_goal 2 => clear_value x) | skip) | (fail_if_no_progress with_reducible refine Keep.plain ?_) | split | dsimp only

theorem State.acceptRing_keep {a s : State} (h : Keep a s) {x0 x1 x2 x3} : Keep a (State.acceptRing s x0 x1 x2 x3) := by
  unfold State.acceptRing
  repeat' first | (with_reducible first | assumption | refine State.headCopy_keep (by assumption) ?_ | apply State.headCopy_keep' | apply State.takeCopy_keep | apply State.readHost_keep | apply State.perf_keep | apply State.bump_keep | apply State.enterCommit_keep | apply State.enter_keep | apply Keep.ite | refine Keep.foldl ?_ (fun _ _ _ => ?_)) | (lift_lets; intro x; first | (refine suffices hx : Keep a x from ?_; ?_; on_goal 1 => unfold x; on_goal 2 => clear_value x) | skip) | (fail_if_no_progress with_reducible refine Keep.plain ?_) | split | dsimp only

theorem State.acceptRegs_keep {a s : State} (h : Keep a s) {x0} : Keep a (State.acceptRegs s x0) := by
  unfold State.acceptRegs
  repeat' first | (with_reducible first | assumption | apply State.enter_keep | apply Keep.ite) | (lift_lets; intro x; first | (refine suffices hx : Keep a x from ?_; ?_; on_goal 1 => unfold x; on_goal 2 => clear_value x) | skip) | (fail_if_no_progress with_reducible refine Keep.plain ?_) | split | dsimp only

theorem State.accept_keep {a s : State} (h : Keep a s) {x0 x1 x2 x3} : Keep a (State.accept s x0 x1 x2 x3) := by
  unfold State.accept
  repeat' (with_reducible first | assumption | apply State.acceptRegs_keep | apply State.acceptRing_keep | apply Keep.ite)

theorem State.tblGo_keep {a s : State} (h : Keep a s) : Keep a (State.tblGo s) := by
  unfold State.tblGo
  repeat' first | (with_reducible first | assumption | apply State.put_keep | apply Keep.ite) | (fail_if_no_progress with_reducible refine Keep.plain ?_)

theorem State.putRead_keep {a s : State} (h : Keep a s) {x0} : Keep a (State.putRead s x0) := by
  unfold State.putRead
  repeat' (with_reducible first | assumption | apply State.setRaw_keep | refine Keep.foldl ?_ (fun _ _ _ => ?_))

theorem State.completeRegs_keep {a s : State} (h : Keep a s) {x0} : Keep a (State.completeRegs s x0) := by
  unfold State.completeRegs
  repeat' first | (with_reducible first | assumption | apply State.setRaw_keep | apply State.put_keep | apply State.putRead_keep | apply State.puts_keep | apply Keep.ite) | (lift_lets; intro x; first | (refine suffices hx : Keep a x from ?_; ?_; on_goal 1 => unfold x; on_goal 2 => clear_value x) | skip) | split | dsimp only

theorem State.completeRing_keep {a s : State} (h : Keep a s) {x0} : Keep a (State.completeRing s x0) := by
  unfold State.completeRing
  repeat' first | (with_reducible first | assumption | apply State.writeHost_keep | apply State.perf_keep | apply State.finishEntry_keep | apply Keep.ite | refine Keep.foldl ?_ (fun _ _ _ => ?_)) | (lift_lets; intro x; first | (refine suffices hx : Keep a x from ?_; ?_; on_goal 1 => unfold x; on_goal 2 => clear_value x) | skip) | (fail_if_no_progress with_reducible refine Keep.plain ?_) | split | dsimp only

theorem State.cmdComplete_keep {a s : State} (h : Keep a s) {x0 x1} : Keep a (State.cmdComplete s x0 x1) := by
  unfold State.cmdComplete
  repeat' first | (with_reducible first | assumption | apply State.perf_keep | apply State.completeRing_keep | apply State.bump_keep | apply State.completeRegs_keep | apply Keep.ite) | (lift_lets; intro x; first | (refine suffices hx : Keep a x from ?_; ?_; on_goal 1 => unfold x; on_goal 2 => clear_value x) | skip) | (fail_if_no_progress with_reducible refine Keep.plain ?_) | split | dsimp only

theorem State.moveEnd_keep {a s : State} (h : Keep a s) {x0 x1 x2} : Keep a (State.moveEnd s x0 x1 x2) := by
  unfold State.moveEnd
  repeat' first | (with_reducible first | assumption | apply State.endMove_keep | apply State.kick_keep | apply Keep.ite | refine Keep.foldl ?_ (fun _ _ _ => ?_)) | (lift_lets; intro x; first | (refine suffices hx : Keep a x from ?_; ?_; on_goal 1 => unfold x; on_goal 2 => clear_value x) | skip) | (fail_if_no_progress with_reducible refine Keep.plain ?_) | split | dsimp only

theorem State.rebalance_keep {a s : State} (h : Keep a s) {x0 x1 x2} : Keep a (State.rebalance s x0 x1 x2) := by
  unfold State.rebalance
  repeat' first | (with_reducible first | assumption | apply State.startMove_keep | apply Keep.ite | refine Keep.foldl ?_ (fun _ _ _ => ?_)) | (lift_lets; intro x; first | (refine suffices hx : Keep a x from ?_; ?_; on_goal 1 => unfold x; on_goal 2 => clear_value x) | skip) | (fail_if_no_progress with_reducible refine Keep.plain ?_) | split | dsimp only

theorem State.tcamScrub_keep {a s : State} (h : Keep a s) {x0 x1 x2 x3} : Keep a (State.tcamScrub s x0 x1 x2 x3) := by
  unfold State.tcamScrub
  repeat' first | (with_reducible first | assumption | apply Keep.ite | refine Keep.foldl ?_ (fun _ _ _ => ?_)) | (lift_lets; intro x; first | (refine suffices hx : Keep a x from ?_; ?_; on_goal 1 => unfold x; on_goal 2 => clear_value x) | skip) | (fail_if_no_progress with_reducible refine Keep.plain ?_) | split | dsimp only

theorem State.repairAt_keep {a s : State} (h : Keep a s) {x0 x1 x2 x3} : Keep a (State.repairAt s x0 x1 x2 x3) := by
  unfold State.repairAt
  repeat' first | (with_reducible first | assumption | apply State.putEntry_keep | apply Keep.ite | refine Keep.foldl ?_ (fun _ _ _ => ?_)) | (lift_lets; intro x; first | (refine suffices hx : Keep a x from ?_; ?_; on_goal 1 => unfold x; on_goal 2 => clear_value x) | skip) | (fail_if_no_progress with_reducible refine Keep.plain ?_) | split | dsimp only

theorem State.loseAt_keep {a s : State} (h : Keep a s) {x0 x1 x2} : Keep a (State.loseAt s x0 x1 x2) := by
  unfold State.loseAt
  repeat' first | (with_reducible first | assumption | apply State.freeAt_keep | apply State.pruneMoves_keep | apply State.putEntry_keep | apply State.unlearn_keep | apply State.showGroup_keep | apply Keep.ite | refine Keep.foldl ?_ (fun _ _ _ => ?_)) | (lift_lets; intro x; first | (refine suffices hx : Keep a x from ?_; ?_; on_goal 1 => unfold x; on_goal 2 => clear_value x) | skip) | (fail_if_no_progress with_reducible refine Keep.plain ?_) | split | dsimp only

theorem State.repaired_keep {a s : State} (h : Keep a s) {p q t place} : Keep a (State.repaired s p q t place) := by
  unfold State.repaired
  repeat' first | (with_reducible first | assumption | apply State.repairAt_keep | apply State.loseAt_keep | apply State.bump_keep | apply State.put_keep | apply State.raise_keep | apply State.kick_keep | apply Keep.ite) | split | dsimp only

theorem State.unrepaired_keep {a s : State} (h : Keep a s) {p t whr stands place} :
    Keep a (State.unrepaired s p t whr stands place) := by
  unfold State.unrepaired
  repeat' first | (with_reducible first | assumption | apply State.repairAt_keep | apply State.loseAt_keep | apply State.bump_keep | apply State.put_keep | apply State.raise_keep | apply State.kick_keep | apply Keep.ite) | split | dsimp only

theorem State.parityRepair_keep {a s : State} (h : Keep a s) {x0 x1 x2 x3 x4 x5} :
    Keep a (State.parityRepair s x0 x1 x2 x3 x4 x5) := by
  unfold State.parityRepair
  split
  · exact h
  · extract_lets good place stands u
    have hu : Keep a u := State.puts_keep h
    cases good with
    | some q => exact State.repaired_keep hu
    | none => exact State.unrepaired_keep hu

theorem State.sweepDone_keep {a s : State} (h : Keep a s) {x0} : Keep a (State.sweepDone s x0) := by
  unfold State.sweepDone
  repeat' (with_reducible first | assumption | apply State.kick_keep | apply State.sweepTag_keep | apply Keep.ite)

/-! ### Machine/Learn.lean -/

theorem State.setLearnQueue_keep {a s : State} (h : Keep a s) {x0 x1} : Keep a (State.setLearnQueue s x0 x1) :=
  Keep.plain h

theorem State.learnScreen_keep' {a s : State} (h : Keep a s) {x0 x1} : Keep a (State.learnScreen s x0 x1).1 := by
  unfold State.learnScreen
  repeat' (with_reducible first | assumption | apply State.bump_keep | apply State.setLearnQueue_keep | apply Keep.ite1 | apply Keep.ite)
theorem State.learnScreen_keep {a s t : State} {x0 x1} {y} (e : (State.learnScreen s x0 x1) = (t, y)) (h : Keep a
  s) : Keep a t := by
  have g := congrArg Prod.fst e; dsimp only at g; rw [← g]; exact State.learnScreen_keep' h

theorem State.learnNew_keep {a s : State} (h : Keep a s) {x0 x1} : Keep a (State.learnNew s x0 x1) := by
  unfold State.learnNew
  repeat' first | (with_reducible first | assumption | apply State.bump_keep | apply State.relearn_keep | apply State.beginPlace_keep | apply Keep.ite) | (fail_if_no_progress with_reducible refine Keep.plain ?_)

theorem State.learnAccept_keep {a s : State} (h : Keep a s) {x0} : Keep a (State.learnAccept s x0) := by
  unfold State.learnAccept
  repeat' first | (with_reducible first | assumption | apply State.learnNew_keep | apply State.tookLearnTurn_keep | apply State.setLearnQueue_keep | apply Keep.ite) | split | dsimp only

theorem State.moveStation_keep {a s : State} (h : Keep a s) {x0} : Keep a (State.moveStation s x0) := by
  unfold State.moveStation
  repeat' first | (with_reducible first | assumption | apply State.bump_keep | apply State.mapCopies_keep | apply State.lrnEvent_keep | apply State.relearn_keep | apply State.unlearn_keep | apply Keep.ite) | (lift_lets; intro x; first | (refine suffices hx : Keep a x from ?_; ?_; on_goal 1 => unfold x; on_goal 2 => clear_value x) | skip) | split | dsimp only

theorem State.stationMove_keep {a s : State} (h : Keep a s) {x0} : Keep a (State.stationMove s x0) := by
  unfold State.stationMove
  repeat' first | (with_reducible first | assumption | apply State.moveStation_keep | apply State.tookLearnTurn_keep | apply State.setLearnQueue_keep | apply Keep.ite) | split | dsimp only

theorem State.unblock_keep {a s : State} (h : Keep a s) {x0} : Keep a (State.unblock s x0) := by
  unfold State.unblock
  repeat' (with_reducible first | assumption | apply State.put_keep)

theorem State.ageVisit_keep {a s : State} (h : Keep a s) {x0 x1 x2 x3} : Keep a (State.ageVisit s x0 x1 x2 x3) := by
  unfold State.ageVisit
  repeat' first | (with_reducible first | assumption | apply State.mapCopies_keep | apply State.tookLearnTurn_keep | apply State.deleteEntry_keep | apply State.lrnEvent_keep | apply State.kick_keep | apply Keep.ite | refine Keep.foldl ?_ (fun _ _ _ => ?_)) | (lift_lets; intro x; first | (refine suffices hx : Keep a x from ?_; ?_; on_goal 1 => unfold x; on_goal 2 => clear_value x) | skip) | (fail_if_no_progress with_reducible refine Keep.plain ?_) | split | dsimp only

end Sys2Proof.Machine
end

