-- ==== Sys2Proof/Laws/State.lean ====
section
/-! SUPPORT. Reads of the state after each named update: every field that an update leaves alone, and the register file's
laws (a field reads what was put into it; every other field keeps its value). -/

-- One declaration at a time: the package is compiled as one text, and a thread for each would not fit.
set_option Elab.async false

namespace Sys2Proof.Machine

/-! ### The register file -/

theorem State.raw_setRaw_same {s : State} (h : smWf regReset s.regs none = true) (k : Nat) (w : Word) :
    (s.setRaw k w).raw k = w := smGet_smPut_same _ _ _ _

theorem State.raw_setRaw_other {s : State} {k j : Nat} (h : j ≠ k) (w : Word) : (s.setRaw k w).raw j = s.raw j :=
  smGet_smPut_other _ _ _ h

theorem State.raw_put_other {s : State} {f : Fld} {v j : Nat} (h : j ≠ f.off) : (s.put f v).raw j = s.raw j :=
  State.raw_setRaw_other h _

/-- A put keeps the register file's canonical form. -/
theorem State.put_wf {s : State} (h : smWf regReset s.regs none = true) (f : Fld) (v : Nat) :
    smWf regReset (s.put f v).regs none = true := smWf_smPut _ _ _ _ h

theorem State.setRaw_wf {s : State} (h : smWf regReset s.regs none = true) (k : Nat) (w : Word) :
    smWf regReset (s.setRaw k w).regs none = true := smWf_smPut _ _ _ _ h

/-- A field reads what was put into it, cut to its width. -/
theorem State.get_put_same {s : State} (h : smWf regReset s.regs none = true) {f : Fld} (hf : f.lo + f.w ≤ 64) (v : Nat) :
    (s.put f v).get f = v % 2 ^ f.w := by
  unfold State.get State.put
  rw [State.raw_setRaw_same h, BitVec.toNat_ofNat, Nat.mod_eq_of_lt (setBits_lt _ _ _ _ (BitVec.isLt _) hf)]
  exact bitsOf_setBits_same _ _ _ _

/-- A put leaves every field of another register, and every other field of the same register, alone. -/
theorem State.get_put_other {s : State} (h : smWf regReset s.regs none = true) {f g : Fld} (v : Nat)
    (d : g.off ≠ f.off ∨ f.lo + f.w ≤ 64 ∧ (g.lo + g.w ≤ f.lo ∨ f.lo + f.w ≤ g.lo)) :
    (s.put f v).get g = s.get g := by
  unfold State.get
  by_cases e : g.off = f.off
  · obtain ⟨hf, d⟩ := d.resolve_left (by simpa using e)
    rw [e]
    unfold State.put
    rw [State.raw_setRaw_same h, BitVec.toNat_ofNat, Nat.mod_eq_of_lt (setBits_lt _ _ _ _ (BitVec.isLt _) hf)]
    exact bitsOf_setBits_other _ _ _ _ d
  · rw [State.raw_put_other e]

/-- The same for a field of another register, of any state. -/
theorem State.get_put_far {s : State} {f g : Fld} (v : Nat) (d : g.off ≠ f.off) : (s.put f v).get g = s.get g := by
  unfold State.get; rw [State.raw_put_other d]

theorem State.get_setRaw_far {s : State} {k : Nat} {g : Fld} (w : Word) (d : g.off ≠ k) :
    (s.setRaw k w).get g = s.get g := by
  unfold State.get; rw [State.raw_setRaw_other d]

/-- A saturating counter after it counted. -/
theorem State.get_bump_same {s : State} (h : smWf regReset s.regs none = true) {f : Fld} (hf : f.lo + f.w ≤ 64) (n : Nat) :
    (s.bump f n).get f = min (s.get f + n) (2 ^ f.w - 1) := by
  unfold State.bump
  rw [State.get_put_same h hf, satAdd, Nat.mod_eq_of_lt]
  have : 0 < 2 ^ f.w := by positivity
  omega

theorem State.get_lt {s : State} (f : Fld) : s.get f < 2 ^ f.w := bitsOf_lt _ _ _

theorem State.get_congr {s t : State} (h : t.regs = s.regs) (f : Fld) : t.get f = s.get f := by
  unfold State.get State.raw; rw [h]

theorem State.flag_congr {s t : State} (h : t.regs = s.regs) (f : Fld) : t.flag f = s.flag f := by
  unfold State.flag; rw [State.get_congr h]

/-- A list of puts leaves the fields of every register that it does not name alone. -/
theorem State.get_puts_far {s : State} {l : List (Fld × Nat)} {g : Fld} (d : ∀ x ∈ l, g.off ≠ x.1.off) :
    (s.puts l).get g = s.get g := by
  induction l generalizing s with
  | nil => rfl
  | cons x t ih =>
    rw [State.puts, ih (fun y hy => d y (List.mem_cons_of_mem _ hy)), State.get_put_far _ (d x List.mem_cons_self)]

/-! ### Field by field -/

@[simp] theorem State.setRaw_pending {s : State} {k w} : (s.setRaw k w).pending = s.pending := rfl
@[simp] theorem State.setRaw_clk {s : State} {k w} : (s.setRaw k w).clk = s.clk := rfl
@[simp] theorem State.setRaw_free {s : State} {k w} : (s.setRaw k w).free = s.free := rfl
@[simp] theorem State.setRaw_readVal {s : State} {k w} : (s.setRaw k w).readVal = s.readVal := rfl
@[simp] theorem State.setRaw_out {s : State} {k w} : (s.setRaw k w).out = s.out := rfl
@[simp] theorem State.setRaw_checks {s : State} {k w} : (s.setRaw k w).checks = s.checks := rfl
@[simp] theorem State.setRaw_time {s : State} {k w} : (s.setRaw k w).time = s.time := rfl
@[simp] theorem State.setRaw_flt {s : State} {k w} : (s.setRaw k w).flt = s.flt := rfl
@[simp] theorem State.setRaw_hif {s : State} {k w} : (s.setRaw k w).hif = s.hif := rfl
@[simp] theorem State.setRaw_pwr {s : State} {k w} : (s.setRaw k w).pwr = s.pwr := rfl
@[simp] theorem State.setRaw_cip {s : State} {k w} : (s.setRaw k w).cip = s.cip := rfl
@[simp] theorem State.setRaw_boot {s : State} {k w} : (s.setRaw k w).boot = s.boot := rfl
@[simp] theorem State.setRaw_pin {s : State} {k w} : (s.setRaw k w).pin = s.pin := rfl
@[simp] theorem State.setRaw_img {s : State} {k w} : (s.setRaw k w).img = s.img := rfl
@[simp] theorem State.setRaw_tbl {s : State} {k w} : (s.setRaw k w).tbl = s.tbl := rfl
@[simp] theorem State.setRaw_pk {s : State} {k w} : (s.setRaw k w).pk = s.pk := rfl
@[simp] theorem State.setRaw_buf {s : State} {k w} : (s.setRaw k w).buf = s.buf := rfl
@[simp] theorem State.setRaw_mtr {s : State} {k w} : (s.setRaw k w).mtr = s.mtr := rfl
@[simp] theorem State.setRaw_sch {s : State} {k w} : (s.setRaw k w).sch = s.sch := rfl
@[simp] theorem State.setRaw_pl {s : State} {k w} : (s.setRaw k w).pl = s.pl := rfl
@[simp] theorem State.setRaw_io {s : State} {k w} : (s.setRaw k w).io = s.io := rfl

@[simp] theorem State.put_pending {s : State} {f v} : (s.put f v).pending = s.pending := rfl
@[simp] theorem State.put_clk {s : State} {f v} : (s.put f v).clk = s.clk := rfl
@[simp] theorem State.put_free {s : State} {f v} : (s.put f v).free = s.free := rfl
@[simp] theorem State.put_readVal {s : State} {f v} : (s.put f v).readVal = s.readVal := rfl
@[simp] theorem State.put_out {s : State} {f v} : (s.put f v).out = s.out := rfl
@[simp] theorem State.put_checks {s : State} {f v} : (s.put f v).checks = s.checks := rfl
@[simp] theorem State.put_time {s : State} {f v} : (s.put f v).time = s.time := rfl
@[simp] theorem State.put_flt {s : State} {f v} : (s.put f v).flt = s.flt := rfl
@[simp] theorem State.put_hif {s : State} {f v} : (s.put f v).hif = s.hif := rfl
@[simp] theorem State.put_pwr {s : State} {f v} : (s.put f v).pwr = s.pwr := rfl
@[simp] theorem State.put_cip {s : State} {f v} : (s.put f v).cip = s.cip := rfl
@[simp] theorem State.put_boot {s : State} {f v} : (s.put f v).boot = s.boot := rfl
@[simp] theorem State.put_pin {s : State} {f v} : (s.put f v).pin = s.pin := rfl
@[simp] theorem State.put_img {s : State} {f v} : (s.put f v).img = s.img := rfl
@[simp] theorem State.put_tbl {s : State} {f v} : (s.put f v).tbl = s.tbl := rfl
@[simp] theorem State.put_pk {s : State} {f v} : (s.put f v).pk = s.pk := rfl
@[simp] theorem State.put_buf {s : State} {f v} : (s.put f v).buf = s.buf := rfl
@[simp] theorem State.put_mtr {s : State} {f v} : (s.put f v).mtr = s.mtr := rfl
@[simp] theorem State.put_sch {s : State} {f v} : (s.put f v).sch = s.sch := rfl
@[simp] theorem State.put_pl {s : State} {f v} : (s.put f v).pl = s.pl := rfl
@[simp] theorem State.put_io {s : State} {f v} : (s.put f v).io = s.io := rfl

@[simp] theorem State.bump_pending {s : State} {f n} : (s.bump f n).pending = s.pending := rfl
@[simp] theorem State.bump_clk {s : State} {f n} : (s.bump f n).clk = s.clk := rfl
@[simp] theorem State.bump_free {s : State} {f n} : (s.bump f n).free = s.free := rfl
@[simp] theorem State.bump_readVal {s : State} {f n} : (s.bump f n).readVal = s.readVal := rfl
@[simp] theorem State.bump_out {s : State} {f n} : (s.bump f n).out = s.out := rfl
@[simp] theorem State.bump_checks {s : State} {f n} : (s.bump f n).checks = s.checks := rfl
@[simp] theorem State.bump_time {s : State} {f n} : (s.bump f n).time = s.time := rfl
@[simp] theorem State.bump_flt {s : State} {f n} : (s.bump f n).flt = s.flt := rfl
@[simp] theorem State.bump_hif {s : State} {f n} : (s.bump f n).hif = s.hif := rfl
@[simp] theorem State.bump_pwr {s : State} {f n} : (s.bump f n).pwr = s.pwr := rfl
@[simp] theorem State.bump_cip {s : State} {f n} : (s.bump f n).cip = s.cip := rfl
@[simp] theorem State.bump_boot {s : State} {f n} : (s.bump f n).boot = s.boot := rfl
@[simp] theorem State.bump_pin {s : State} {f n} : (s.bump f n).pin = s.pin := rfl
@[simp] theorem State.bump_img {s : State} {f n} : (s.bump f n).img = s.img := rfl
@[simp] theorem State.bump_tbl {s : State} {f n} : (s.bump f n).tbl = s.tbl := rfl
@[simp] theorem State.bump_pk {s : State} {f n} : (s.bump f n).pk = s.pk := rfl
@[simp] theorem State.bump_buf {s : State} {f n} : (s.bump f n).buf = s.buf := rfl
@[simp] theorem State.bump_mtr {s : State} {f n} : (s.bump f n).mtr = s.mtr := rfl
@[simp] theorem State.bump_sch {s : State} {f n} : (s.bump f n).sch = s.sch := rfl
@[simp] theorem State.bump_pl {s : State} {f n} : (s.bump f n).pl = s.pl := rfl
@[simp] theorem State.bump_io {s : State} {f n} : (s.bump f n).io = s.io := rfl

@[simp] theorem State.bumpWrap_pending {s : State} {f n} : (s.bumpWrap f n).pending = s.pending := rfl
@[simp] theorem State.bumpWrap_clk {s : State} {f n} : (s.bumpWrap f n).clk = s.clk := rfl
@[simp] theorem State.bumpWrap_free {s : State} {f n} : (s.bumpWrap f n).free = s.free := rfl
@[simp] theorem State.bumpWrap_readVal {s : State} {f n} : (s.bumpWrap f n).readVal = s.readVal := rfl
@[simp] theorem State.bumpWrap_out {s : State} {f n} : (s.bumpWrap f n).out = s.out := rfl
@[simp] theorem State.bumpWrap_checks {s : State} {f n} : (s.bumpWrap f n).checks = s.checks := rfl
@[simp] theorem State.bumpWrap_time {s : State} {f n} : (s.bumpWrap f n).time = s.time := rfl
@[simp] theorem State.bumpWrap_flt {s : State} {f n} : (s.bumpWrap f n).flt = s.flt := rfl
@[simp] theorem State.bumpWrap_hif {s : State} {f n} : (s.bumpWrap f n).hif = s.hif := rfl
@[simp] theorem State.bumpWrap_pwr {s : State} {f n} : (s.bumpWrap f n).pwr = s.pwr := rfl
@[simp] theorem State.bumpWrap_cip {s : State} {f n} : (s.bumpWrap f n).cip = s.cip := rfl
@[simp] theorem State.bumpWrap_boot {s : State} {f n} : (s.bumpWrap f n).boot = s.boot := rfl
@[simp] theorem State.bumpWrap_pin {s : State} {f n} : (s.bumpWrap f n).pin = s.pin := rfl
@[simp] theorem State.bumpWrap_img {s : State} {f n} : (s.bumpWrap f n).img = s.img := rfl
@[simp] theorem State.bumpWrap_tbl {s : State} {f n} : (s.bumpWrap f n).tbl = s.tbl := rfl
@[simp] theorem State.bumpWrap_pk {s : State} {f n} : (s.bumpWrap f n).pk = s.pk := rfl
@[simp] theorem State.bumpWrap_buf {s : State} {f n} : (s.bumpWrap f n).buf = s.buf := rfl
@[simp] theorem State.bumpWrap_mtr {s : State} {f n} : (s.bumpWrap f n).mtr = s.mtr := rfl
@[simp] theorem State.bumpWrap_sch {s : State} {f n} : (s.bumpWrap f n).sch = s.sch := rfl
@[simp] theorem State.bumpWrap_pl {s : State} {f n} : (s.bumpWrap f n).pl = s.pl := rfl
@[simp] theorem State.bumpWrap_io {s : State} {f n} : (s.bumpWrap f n).io = s.io := rfl

@[simp] theorem State.putFlag_pending {s : State} {f b} : (s.putFlag f b).pending = s.pending := rfl
@[simp] theorem State.putFlag_clk {s : State} {f b} : (s.putFlag f b).clk = s.clk := rfl
@[simp] theorem State.putFlag_free {s : State} {f b} : (s.putFlag f b).free = s.free := rfl
@[simp] theorem State.putFlag_readVal {s : State} {f b} : (s.putFlag f b).readVal = s.readVal := rfl
@[simp] theorem State.putFlag_out {s : State} {f b} : (s.putFlag f b).out = s.out := rfl
@[simp] theorem State.putFlag_checks {s : State} {f b} : (s.putFlag f b).checks = s.checks := rfl
@[simp] theorem State.putFlag_time {s : State} {f b} : (s.putFlag f b).time = s.time := rfl
@[simp] theorem State.putFlag_flt {s : State} {f b} : (s.putFlag f b).flt = s.flt := rfl
@[simp] theorem State.putFlag_hif {s : State} {f b} : (s.putFlag f b).hif = s.hif := rfl
@[simp] theorem State.putFlag_pwr {s : State} {f b} : (s.putFlag f b).pwr = s.pwr := rfl
@[simp] theorem State.putFlag_cip {s : State} {f b} : (s.putFlag f b).cip = s.cip := rfl
@[simp] theorem State.putFlag_boot {s : State} {f b} : (s.putFlag f b).boot = s.boot := rfl
@[simp] theorem State.putFlag_pin {s : State} {f b} : (s.putFlag f b).pin = s.pin := rfl
@[simp] theorem State.putFlag_img {s : State} {f b} : (s.putFlag f b).img = s.img := rfl
@[simp] theorem State.putFlag_tbl {s : State} {f b} : (s.putFlag f b).tbl = s.tbl := rfl
@[simp] theorem State.putFlag_pk {s : State} {f b} : (s.putFlag f b).pk = s.pk := rfl
@[simp] theorem State.putFlag_buf {s : State} {f b} : (s.putFlag f b).buf = s.buf := rfl
@[simp] theorem State.putFlag_mtr {s : State} {f b} : (s.putFlag f b).mtr = s.mtr := rfl
@[simp] theorem State.putFlag_sch {s : State} {f b} : (s.putFlag f b).sch = s.sch := rfl
@[simp] theorem State.putFlag_pl {s : State} {f b} : (s.putFlag f b).pl = s.pl := rfl
@[simp] theorem State.putFlag_io {s : State} {f b} : (s.putFlag f b).io = s.io := rfl

@[simp] theorem State.send_pending {s : State} {o} : (s.send o).pending = s.pending := rfl
@[simp] theorem State.send_regs {s : State} {o} : (s.send o).regs = s.regs := rfl
@[simp] theorem State.send_clk {s : State} {o} : (s.send o).clk = s.clk := rfl
@[simp] theorem State.send_free {s : State} {o} : (s.send o).free = s.free := rfl
@[simp] theorem State.send_readVal {s : State} {o} : (s.send o).readVal = s.readVal := rfl
@[simp] theorem State.send_checks {s : State} {o} : (s.send o).checks = s.checks := rfl
@[simp] theorem State.send_time {s : State} {o} : (s.send o).time = s.time := rfl
@[simp] theorem State.send_flt {s : State} {o} : (s.send o).flt = s.flt := rfl
@[simp] theorem State.send_hif {s : State} {o} : (s.send o).hif = s.hif := rfl
@[simp] theorem State.send_pwr {s : State} {o} : (s.send o).pwr = s.pwr := rfl
@[simp] theorem State.send_cip {s : State} {o} : (s.send o).cip = s.cip := rfl
@[simp] theorem State.send_boot {s : State} {o} : (s.send o).boot = s.boot := rfl
@[simp] theorem State.send_pin {s : State} {o} : (s.send o).pin = s.pin := rfl
@[simp] theorem State.send_img {s : State} {o} : (s.send o).img = s.img := rfl
@[simp] theorem State.send_tbl {s : State} {o} : (s.send o).tbl = s.tbl := rfl
@[simp] theorem State.send_pk {s : State} {o} : (s.send o).pk = s.pk := rfl
@[simp] theorem State.send_buf {s : State} {o} : (s.send o).buf = s.buf := rfl
@[simp] theorem State.send_mtr {s : State} {o} : (s.send o).mtr = s.mtr := rfl
@[simp] theorem State.send_sch {s : State} {o} : (s.send o).sch = s.sch := rfl
@[simp] theorem State.send_pl {s : State} {o} : (s.send o).pl = s.pl := rfl
@[simp] theorem State.send_io {s : State} {o} : (s.send o).io = s.io := rfl

@[simp] theorem State.setRing_pending {s : State} {r x} : (s.setRing r x).pending = s.pending := rfl
@[simp] theorem State.setRing_regs {s : State} {r x} : (s.setRing r x).regs = s.regs := rfl
@[simp] theorem State.setRing_clk {s : State} {r x} : (s.setRing r x).clk = s.clk := rfl
@[simp] theorem State.setRing_free {s : State} {r x} : (s.setRing r x).free = s.free := rfl
@[simp] theorem State.setRing_readVal {s : State} {r x} : (s.setRing r x).readVal = s.readVal := rfl
@[simp] theorem State.setRing_out {s : State} {r x} : (s.setRing r x).out = s.out := rfl
@[simp] theorem State.setRing_checks {s : State} {r x} : (s.setRing r x).checks = s.checks := rfl
@[simp] theorem State.setRing_time {s : State} {r x} : (s.setRing r x).time = s.time := rfl
@[simp] theorem State.setRing_flt {s : State} {r x} : (s.setRing r x).flt = s.flt := rfl
@[simp] theorem State.setRing_pwr {s : State} {r x} : (s.setRing r x).pwr = s.pwr := rfl
@[simp] theorem State.setRing_cip {s : State} {r x} : (s.setRing r x).cip = s.cip := rfl
@[simp] theorem State.setRing_boot {s : State} {r x} : (s.setRing r x).boot = s.boot := rfl
@[simp] theorem State.setRing_pin {s : State} {r x} : (s.setRing r x).pin = s.pin := rfl
@[simp] theorem State.setRing_img {s : State} {r x} : (s.setRing r x).img = s.img := rfl
@[simp] theorem State.setRing_tbl {s : State} {r x} : (s.setRing r x).tbl = s.tbl := rfl
@[simp] theorem State.setRing_pk {s : State} {r x} : (s.setRing r x).pk = s.pk := rfl
@[simp] theorem State.setRing_buf {s : State} {r x} : (s.setRing r x).buf = s.buf := rfl
@[simp] theorem State.setRing_mtr {s : State} {r x} : (s.setRing r x).mtr = s.mtr := rfl
@[simp] theorem State.setRing_sch {s : State} {r x} : (s.setRing r x).sch = s.sch := rfl
@[simp] theorem State.setRing_pl {s : State} {r x} : (s.setRing r x).pl = s.pl := rfl
@[simp] theorem State.setRing_io {s : State} {r x} : (s.setRing r x).io = s.io := rfl

@[simp] theorem State.setFn_pending {s : State} {f c} : (s.setFn f c).pending = s.pending := rfl
@[simp] theorem State.setFn_regs {s : State} {f c} : (s.setFn f c).regs = s.regs := rfl
@[simp] theorem State.setFn_clk {s : State} {f c} : (s.setFn f c).clk = s.clk := rfl
@[simp] theorem State.setFn_free {s : State} {f c} : (s.setFn f c).free = s.free := rfl
@[simp] theorem State.setFn_readVal {s : State} {f c} : (s.setFn f c).readVal = s.readVal := rfl
@[simp] theorem State.setFn_out {s : State} {f c} : (s.setFn f c).out = s.out := rfl
@[simp] theorem State.setFn_checks {s : State} {f c} : (s.setFn f c).checks = s.checks := rfl
@[simp] theorem State.setFn_time {s : State} {f c} : (s.setFn f c).time = s.time := rfl
@[simp] theorem State.setFn_flt {s : State} {f c} : (s.setFn f c).flt = s.flt := rfl
@[simp] theorem State.setFn_pwr {s : State} {f c} : (s.setFn f c).pwr = s.pwr := rfl
@[simp] theorem State.setFn_cip {s : State} {f c} : (s.setFn f c).cip = s.cip := rfl
@[simp] theorem State.setFn_boot {s : State} {f c} : (s.setFn f c).boot = s.boot := rfl
@[simp] theorem State.setFn_pin {s : State} {f c} : (s.setFn f c).pin = s.pin := rfl
@[simp] theorem State.setFn_img {s : State} {f c} : (s.setFn f c).img = s.img := rfl
@[simp] theorem State.setFn_tbl {s : State} {f c} : (s.setFn f c).tbl = s.tbl := rfl
@[simp] theorem State.setFn_pk {s : State} {f c} : (s.setFn f c).pk = s.pk := rfl
@[simp] theorem State.setFn_buf {s : State} {f c} : (s.setFn f c).buf = s.buf := rfl
@[simp] theorem State.setFn_mtr {s : State} {f c} : (s.setFn f c).mtr = s.mtr := rfl
@[simp] theorem State.setFn_sch {s : State} {f c} : (s.setFn f c).sch = s.sch := rfl
@[simp] theorem State.setFn_pl {s : State} {f c} : (s.setFn f c).pl = s.pl := rfl
@[simp] theorem State.setFn_io {s : State} {f c} : (s.setFn f c).io = s.io := rfl

@[simp] theorem State.setPkt_pending {s : State} {p} : (s.setPkt p).pending = s.pending := rfl
@[simp] theorem State.setPkt_regs {s : State} {p} : (s.setPkt p).regs = s.regs := rfl
@[simp] theorem State.setPkt_clk {s : State} {p} : (s.setPkt p).clk = s.clk := rfl
@[simp] theorem State.setPkt_free {s : State} {p} : (s.setPkt p).free = s.free := rfl
@[simp] theorem State.setPkt_readVal {s : State} {p} : (s.setPkt p).readVal = s.readVal := rfl
@[simp] theorem State.setPkt_out {s : State} {p} : (s.setPkt p).out = s.out := rfl
@[simp] theorem State.setPkt_checks {s : State} {p} : (s.setPkt p).checks = s.checks := rfl
@[simp] theorem State.setPkt_time {s : State} {p} : (s.setPkt p).time = s.time := rfl
@[simp] theorem State.setPkt_flt {s : State} {p} : (s.setPkt p).flt = s.flt := rfl
@[simp] theorem State.setPkt_hif {s : State} {p} : (s.setPkt p).hif = s.hif := rfl
@[simp] theorem State.setPkt_pwr {s : State} {p} : (s.setPkt p).pwr = s.pwr := rfl
@[simp] theorem State.setPkt_cip {s : State} {p} : (s.setPkt p).cip = s.cip := rfl
@[simp] theorem State.setPkt_boot {s : State} {p} : (s.setPkt p).boot = s.boot := rfl
@[simp] theorem State.setPkt_pin {s : State} {p} : (s.setPkt p).pin = s.pin := rfl
@[simp] theorem State.setPkt_img {s : State} {p} : (s.setPkt p).img = s.img := rfl
@[simp] theorem State.setPkt_tbl {s : State} {p} : (s.setPkt p).tbl = s.tbl := rfl
@[simp] theorem State.setPkt_buf {s : State} {p} : (s.setPkt p).buf = s.buf := rfl
@[simp] theorem State.setPkt_mtr {s : State} {p} : (s.setPkt p).mtr = s.mtr := rfl
@[simp] theorem State.setPkt_sch {s : State} {p} : (s.setPkt p).sch = s.sch := rfl
@[simp] theorem State.setPkt_pl {s : State} {p} : (s.setPkt p).pl = s.pl := rfl
@[simp] theorem State.setPkt_io {s : State} {p} : (s.setPkt p).io = s.io := rfl

@[simp] theorem State.setCopy_pending {s : State} {c} : (s.setCopy c).pending = s.pending := rfl
@[simp] theorem State.setCopy_regs {s : State} {c} : (s.setCopy c).regs = s.regs := rfl
@[simp] theorem State.setCopy_clk {s : State} {c} : (s.setCopy c).clk = s.clk := rfl
@[simp] theorem State.setCopy_free {s : State} {c} : (s.setCopy c).free = s.free := rfl
@[simp] theorem State.setCopy_readVal {s : State} {c} : (s.setCopy c).readVal = s.readVal := rfl
@[simp] theorem State.setCopy_out {s : State} {c} : (s.setCopy c).out = s.out := rfl
@[simp] theorem State.setCopy_checks {s : State} {c} : (s.setCopy c).checks = s.checks := rfl
@[simp] theorem State.setCopy_time {s : State} {c} : (s.setCopy c).time = s.time := rfl
@[simp] theorem State.setCopy_flt {s : State} {c} : (s.setCopy c).flt = s.flt := rfl
@[simp] theorem State.setCopy_hif {s : State} {c} : (s.setCopy c).hif = s.hif := rfl
@[simp] theorem State.setCopy_pwr {s : State} {c} : (s.setCopy c).pwr = s.pwr := rfl
@[simp] theorem State.setCopy_cip {s : State} {c} : (s.setCopy c).cip = s.cip := rfl
@[simp] theorem State.setCopy_boot {s : State} {c} : (s.setCopy c).boot = s.boot := rfl
@[simp] theorem State.setCopy_pin {s : State} {c} : (s.setCopy c).pin = s.pin := rfl
@[simp] theorem State.setCopy_img {s : State} {c} : (s.setCopy c).img = s.img := rfl
@[simp] theorem State.setCopy_tbl {s : State} {c} : (s.setCopy c).tbl = s.tbl := rfl
@[simp] theorem State.setCopy_buf {s : State} {c} : (s.setCopy c).buf = s.buf := rfl
@[simp] theorem State.setCopy_mtr {s : State} {c} : (s.setCopy c).mtr = s.mtr := rfl
@[simp] theorem State.setCopy_sch {s : State} {c} : (s.setCopy c).sch = s.sch := rfl
@[simp] theorem State.setCopy_pl {s : State} {c} : (s.setCopy c).pl = s.pl := rfl
@[simp] theorem State.setCopy_io {s : State} {c} : (s.setCopy c).io = s.io := rfl

@[simp] theorem State.setLane_pending {s : State} {l x} : (s.setLane l x).pending = s.pending := rfl
@[simp] theorem State.setLane_regs {s : State} {l x} : (s.setLane l x).regs = s.regs := rfl
@[simp] theorem State.setLane_clk {s : State} {l x} : (s.setLane l x).clk = s.clk := rfl
@[simp] theorem State.setLane_free {s : State} {l x} : (s.setLane l x).free = s.free := rfl
@[simp] theorem State.setLane_readVal {s : State} {l x} : (s.setLane l x).readVal = s.readVal := rfl
@[simp] theorem State.setLane_out {s : State} {l x} : (s.setLane l x).out = s.out := rfl
@[simp] theorem State.setLane_checks {s : State} {l x} : (s.setLane l x).checks = s.checks := rfl
@[simp] theorem State.setLane_time {s : State} {l x} : (s.setLane l x).time = s.time := rfl
@[simp] theorem State.setLane_flt {s : State} {l x} : (s.setLane l x).flt = s.flt := rfl
@[simp] theorem State.setLane_hif {s : State} {l x} : (s.setLane l x).hif = s.hif := rfl
@[simp] theorem State.setLane_pwr {s : State} {l x} : (s.setLane l x).pwr = s.pwr := rfl
@[simp] theorem State.setLane_cip {s : State} {l x} : (s.setLane l x).cip = s.cip := rfl
@[simp] theorem State.setLane_boot {s : State} {l x} : (s.setLane l x).boot = s.boot := rfl
@[simp] theorem State.setLane_pin {s : State} {l x} : (s.setLane l x).pin = s.pin := rfl
@[simp] theorem State.setLane_img {s : State} {l x} : (s.setLane l x).img = s.img := rfl
@[simp] theorem State.setLane_tbl {s : State} {l x} : (s.setLane l x).tbl = s.tbl := rfl
@[simp] theorem State.setLane_pk {s : State} {l x} : (s.setLane l x).pk = s.pk := rfl
@[simp] theorem State.setLane_buf {s : State} {l x} : (s.setLane l x).buf = s.buf := rfl
@[simp] theorem State.setLane_mtr {s : State} {l x} : (s.setLane l x).mtr = s.mtr := rfl
@[simp] theorem State.setLane_sch {s : State} {l x} : (s.setLane l x).sch = s.sch := rfl
@[simp] theorem State.setLane_pl {s : State} {l x} : (s.setLane l x).pl = s.pl := rfl

@[simp] theorem State.setPort_pending {s : State} {p x} : (s.setPort p x).pending = s.pending := rfl
@[simp] theorem State.setPort_regs {s : State} {p x} : (s.setPort p x).regs = s.regs := rfl
@[simp] theorem State.setPort_clk {s : State} {p x} : (s.setPort p x).clk = s.clk := rfl
@[simp] theorem State.setPort_free {s : State} {p x} : (s.setPort p x).free = s.free := rfl
@[simp] theorem State.setPort_readVal {s : State} {p x} : (s.setPort p x).readVal = s.readVal := rfl
@[simp] theorem State.setPort_out {s : State} {p x} : (s.setPort p x).out = s.out := rfl
@[simp] theorem State.setPort_checks {s : State} {p x} : (s.setPort p x).checks = s.checks := rfl
@[simp] theorem State.setPort_time {s : State} {p x} : (s.setPort p x).time = s.time := rfl
@[simp] theorem State.setPort_flt {s : State} {p x} : (s.setPort p x).flt = s.flt := rfl
@[simp] theorem State.setPort_hif {s : State} {p x} : (s.setPort p x).hif = s.hif := rfl
@[simp] theorem State.setPort_pwr {s : State} {p x} : (s.setPort p x).pwr = s.pwr := rfl
@[simp] theorem State.setPort_cip {s : State} {p x} : (s.setPort p x).cip = s.cip := rfl
@[simp] theorem State.setPort_boot {s : State} {p x} : (s.setPort p x).boot = s.boot := rfl
@[simp] theorem State.setPort_pin {s : State} {p x} : (s.setPort p x).pin = s.pin := rfl
@[simp] theorem State.setPort_img {s : State} {p x} : (s.setPort p x).img = s.img := rfl
@[simp] theorem State.setPort_tbl {s : State} {p x} : (s.setPort p x).tbl = s.tbl := rfl
@[simp] theorem State.setPort_pk {s : State} {p x} : (s.setPort p x).pk = s.pk := rfl
@[simp] theorem State.setPort_buf {s : State} {p x} : (s.setPort p x).buf = s.buf := rfl
@[simp] theorem State.setPort_mtr {s : State} {p x} : (s.setPort p x).mtr = s.mtr := rfl
@[simp] theorem State.setPort_sch {s : State} {p x} : (s.setPort p x).sch = s.sch := rfl
@[simp] theorem State.setPort_pl {s : State} {p x} : (s.setPort p x).pl = s.pl := rfl

@[simp] theorem State.setKeySlot_pending {s : State} {n k} : (s.setKeySlot n k).pending = s.pending := rfl
@[simp] theorem State.setKeySlot_regs {s : State} {n k} : (s.setKeySlot n k).regs = s.regs := rfl
@[simp] theorem State.setKeySlot_clk {s : State} {n k} : (s.setKeySlot n k).clk = s.clk := rfl
@[simp] theorem State.setKeySlot_free {s : State} {n k} : (s.setKeySlot n k).free = s.free := rfl
@[simp] theorem State.setKeySlot_readVal {s : State} {n k} : (s.setKeySlot n k).readVal = s.readVal := rfl
@[simp] theorem State.setKeySlot_out {s : State} {n k} : (s.setKeySlot n k).out = s.out := rfl
@[simp] theorem State.setKeySlot_checks {s : State} {n k} : (s.setKeySlot n k).checks = s.checks := rfl
@[simp] theorem State.setKeySlot_time {s : State} {n k} : (s.setKeySlot n k).time = s.time := rfl
@[simp] theorem State.setKeySlot_flt {s : State} {n k} : (s.setKeySlot n k).flt = s.flt := rfl
@[simp] theorem State.setKeySlot_hif {s : State} {n k} : (s.setKeySlot n k).hif = s.hif := rfl
@[simp] theorem State.setKeySlot_pwr {s : State} {n k} : (s.setKeySlot n k).pwr = s.pwr := rfl
@[simp] theorem State.setKeySlot_boot {s : State} {n k} : (s.setKeySlot n k).boot = s.boot := rfl
@[simp] theorem State.setKeySlot_pin {s : State} {n k} : (s.setKeySlot n k).pin = s.pin := rfl
@[simp] theorem State.setKeySlot_img {s : State} {n k} : (s.setKeySlot n k).img = s.img := rfl
@[simp] theorem State.setKeySlot_tbl {s : State} {n k} : (s.setKeySlot n k).tbl = s.tbl := rfl
@[simp] theorem State.setKeySlot_pk {s : State} {n k} : (s.setKeySlot n k).pk = s.pk := rfl
@[simp] theorem State.setKeySlot_buf {s : State} {n k} : (s.setKeySlot n k).buf = s.buf := rfl
@[simp] theorem State.setKeySlot_mtr {s : State} {n k} : (s.setKeySlot n k).mtr = s.mtr := rfl
@[simp] theorem State.setKeySlot_sch {s : State} {n k} : (s.setKeySlot n k).sch = s.sch := rfl
@[simp] theorem State.setKeySlot_pl {s : State} {n k} : (s.setKeySlot n k).pl = s.pl := rfl
@[simp] theorem State.setKeySlot_io {s : State} {n k} : (s.setKeySlot n k).io = s.io := rfl

@[simp] theorem State.setCell_pending {s : State} {p v} : (s.setCell p v).pending = s.pending := rfl
@[simp] theorem State.setCell_regs {s : State} {p v} : (s.setCell p v).regs = s.regs := rfl
@[simp] theorem State.setCell_clk {s : State} {p v} : (s.setCell p v).clk = s.clk := rfl
@[simp] theorem State.setCell_free {s : State} {p v} : (s.setCell p v).free = s.free := rfl
@[simp] theorem State.setCell_readVal {s : State} {p v} : (s.setCell p v).readVal = s.readVal := rfl
@[simp] theorem State.setCell_out {s : State} {p v} : (s.setCell p v).out = s.out := rfl
@[simp] theorem State.setCell_checks {s : State} {p v} : (s.setCell p v).checks = s.checks := rfl
@[simp] theorem State.setCell_time {s : State} {p v} : (s.setCell p v).time = s.time := rfl
@[simp] theorem State.setCell_flt {s : State} {p v} : (s.setCell p v).flt = s.flt := rfl
@[simp] theorem State.setCell_hif {s : State} {p v} : (s.setCell p v).hif = s.hif := rfl
@[simp] theorem State.setCell_pwr {s : State} {p v} : (s.setCell p v).pwr = s.pwr := rfl
@[simp] theorem State.setCell_cip {s : State} {p v} : (s.setCell p v).cip = s.cip := rfl
@[simp] theorem State.setCell_boot {s : State} {p v} : (s.setCell p v).boot = s.boot := rfl
@[simp] theorem State.setCell_pin {s : State} {p v} : (s.setCell p v).pin = s.pin := rfl
@[simp] theorem State.setCell_img {s : State} {p v} : (s.setCell p v).img = s.img := rfl
@[simp] theorem State.setCell_tbl {s : State} {p v} : (s.setCell p v).tbl = s.tbl := rfl
@[simp] theorem State.setCell_pk {s : State} {p v} : (s.setCell p v).pk = s.pk := rfl
@[simp] theorem State.setCell_mtr {s : State} {p v} : (s.setCell p v).mtr = s.mtr := rfl
@[simp] theorem State.setCell_sch {s : State} {p v} : (s.setCell p v).sch = s.sch := rfl
@[simp] theorem State.setCell_pl {s : State} {p v} : (s.setCell p v).pl = s.pl := rfl
@[simp] theorem State.setCell_io {s : State} {p v} : (s.setCell p v).io = s.io := rfl

@[simp] theorem State.setSchQueue_pending {s : State} {k x} : (s.setSchQueue k x).pending = s.pending := rfl
@[simp] theorem State.setSchQueue_regs {s : State} {k x} : (s.setSchQueue k x).regs = s.regs := rfl
@[simp] theorem State.setSchQueue_clk {s : State} {k x} : (s.setSchQueue k x).clk = s.clk := rfl
@[simp] theorem State.setSchQueue_free {s : State} {k x} : (s.setSchQueue k x).free = s.free := rfl
@[simp] theorem State.setSchQueue_readVal {s : State} {k x} : (s.setSchQueue k x).readVal = s.readVal := rfl
@[simp] theorem State.setSchQueue_out {s : State} {k x} : (s.setSchQueue k x).out = s.out := rfl
@[simp] theorem State.setSchQueue_checks {s : State} {k x} : (s.setSchQueue k x).checks = s.checks := rfl
@[simp] theorem State.setSchQueue_time {s : State} {k x} : (s.setSchQueue k x).time = s.time := rfl
@[simp] theorem State.setSchQueue_flt {s : State} {k x} : (s.setSchQueue k x).flt = s.flt := rfl
@[simp] theorem State.setSchQueue_hif {s : State} {k x} : (s.setSchQueue k x).hif = s.hif := rfl
@[simp] theorem State.setSchQueue_pwr {s : State} {k x} : (s.setSchQueue k x).pwr = s.pwr := rfl
@[simp] theorem State.setSchQueue_cip {s : State} {k x} : (s.setSchQueue k x).cip = s.cip := rfl
@[simp] theorem State.setSchQueue_boot {s : State} {k x} : (s.setSchQueue k x).boot = s.boot := rfl
@[simp] theorem State.setSchQueue_pin {s : State} {k x} : (s.setSchQueue k x).pin = s.pin := rfl
@[simp] theorem State.setSchQueue_img {s : State} {k x} : (s.setSchQueue k x).img = s.img := rfl
@[simp] theorem State.setSchQueue_tbl {s : State} {k x} : (s.setSchQueue k x).tbl = s.tbl := rfl
@[simp] theorem State.setSchQueue_pk {s : State} {k x} : (s.setSchQueue k x).pk = s.pk := rfl
@[simp] theorem State.setSchQueue_buf {s : State} {k x} : (s.setSchQueue k x).buf = s.buf := rfl
@[simp] theorem State.setSchQueue_mtr {s : State} {k x} : (s.setSchQueue k x).mtr = s.mtr := rfl
@[simp] theorem State.setSchQueue_pl {s : State} {k x} : (s.setSchQueue k x).pl = s.pl := rfl
@[simp] theorem State.setSchQueue_io {s : State} {k x} : (s.setSchQueue k x).io = s.io := rfl

@[simp] theorem State.setSchNode_pending {s : State} {k x} : (s.setSchNode k x).pending = s.pending := rfl
@[simp] theorem State.setSchNode_regs {s : State} {k x} : (s.setSchNode k x).regs = s.regs := rfl
@[simp] theorem State.setSchNode_clk {s : State} {k x} : (s.setSchNode k x).clk = s.clk := rfl
@[simp] theorem State.setSchNode_free {s : State} {k x} : (s.setSchNode k x).free = s.free := rfl
@[simp] theorem State.setSchNode_readVal {s : State} {k x} : (s.setSchNode k x).readVal = s.readVal := rfl
@[simp] theorem State.setSchNode_out {s : State} {k x} : (s.setSchNode k x).out = s.out := rfl
@[simp] theorem State.setSchNode_checks {s : State} {k x} : (s.setSchNode k x).checks = s.checks := rfl
@[simp] theorem State.setSchNode_time {s : State} {k x} : (s.setSchNode k x).time = s.time := rfl
@[simp] theorem State.setSchNode_flt {s : State} {k x} : (s.setSchNode k x).flt = s.flt := rfl
@[simp] theorem State.setSchNode_hif {s : State} {k x} : (s.setSchNode k x).hif = s.hif := rfl
@[simp] theorem State.setSchNode_pwr {s : State} {k x} : (s.setSchNode k x).pwr = s.pwr := rfl
@[simp] theorem State.setSchNode_cip {s : State} {k x} : (s.setSchNode k x).cip = s.cip := rfl
@[simp] theorem State.setSchNode_boot {s : State} {k x} : (s.setSchNode k x).boot = s.boot := rfl
@[simp] theorem State.setSchNode_pin {s : State} {k x} : (s.setSchNode k x).pin = s.pin := rfl
@[simp] theorem State.setSchNode_img {s : State} {k x} : (s.setSchNode k x).img = s.img := rfl
@[simp] theorem State.setSchNode_tbl {s : State} {k x} : (s.setSchNode k x).tbl = s.tbl := rfl
@[simp] theorem State.setSchNode_pk {s : State} {k x} : (s.setSchNode k x).pk = s.pk := rfl
@[simp] theorem State.setSchNode_buf {s : State} {k x} : (s.setSchNode k x).buf = s.buf := rfl
@[simp] theorem State.setSchNode_mtr {s : State} {k x} : (s.setSchNode k x).mtr = s.mtr := rfl
@[simp] theorem State.setSchNode_pl {s : State} {k x} : (s.setSchNode k x).pl = s.pl := rfl
@[simp] theorem State.setSchNode_io {s : State} {k x} : (s.setSchNode k x).io = s.io := rfl

/-- A list of puts changes the register file alone. -/
theorem State.puts_rest {s : State} {l : List (Fld × Nat)} : ∃ r, s.puts l = { s with regs := r } := by
  induction l generalizing s with
  | nil => exact ⟨s.regs, rfl⟩
  | cons x t ih => obtain ⟨r, e⟩ := ih (s := s.put x.1 x.2); exact ⟨r, e⟩

@[simp] theorem State.puts_pending {s : State} {l} : (s.puts l).pending = s.pending := by
  obtain ⟨r, e⟩ := State.puts_rest (s := s) (l := l); rw [e]
@[simp] theorem State.puts_clk {s : State} {l} : (s.puts l).clk = s.clk := by
  obtain ⟨r, e⟩ := State.puts_rest (s := s) (l := l); rw [e]
@[simp] theorem State.puts_free {s : State} {l} : (s.puts l).free = s.free := by
  obtain ⟨r, e⟩ := State.puts_rest (s := s) (l := l); rw [e]
@[simp] theorem State.puts_readVal {s : State} {l} : (s.puts l).readVal = s.readVal := by
  obtain ⟨r, e⟩ := State.puts_rest (s := s) (l := l); rw [e]
@[simp] theorem State.puts_out {s : State} {l} : (s.puts l).out = s.out := by
  obtain ⟨r, e⟩ := State.puts_rest (s := s) (l := l); rw [e]
@[simp] theorem State.puts_checks {s : State} {l} : (s.puts l).checks = s.checks := by
  obtain ⟨r, e⟩ := State.puts_rest (s := s) (l := l); rw [e]
@[simp] theorem State.puts_time {s : State} {l} : (s.puts l).time = s.time := by
  obtain ⟨r, e⟩ := State.puts_rest (s := s) (l := l); rw [e]
@[simp] theorem State.puts_flt {s : State} {l} : (s.puts l).flt = s.flt := by
  obtain ⟨r, e⟩ := State.puts_rest (s := s) (l := l); rw [e]
@[simp] theorem State.puts_hif {s : State} {l} : (s.puts l).hif = s.hif := by
  obtain ⟨r, e⟩ := State.puts_rest (s := s) (l := l); rw [e]
@[simp] theorem State.puts_pwr {s : State} {l} : (s.puts l).pwr = s.pwr := by
  obtain ⟨r, e⟩ := State.puts_rest (s := s) (l := l); rw [e]
@[simp] theorem State.puts_cip {s : State} {l} : (s.puts l).cip = s.cip := by
  obtain ⟨r, e⟩ := State.puts_rest (s := s) (l := l); rw [e]
@[simp] theorem State.puts_boot {s : State} {l} : (s.puts l).boot = s.boot := by
  obtain ⟨r, e⟩ := State.puts_rest (s := s) (l := l); rw [e]
@[simp] theorem State.puts_pin {s : State} {l} : (s.puts l).pin = s.pin := by
  obtain ⟨r, e⟩ := State.puts_rest (s := s) (l := l); rw [e]
@[simp] theorem State.puts_img {s : State} {l} : (s.puts l).img = s.img := by
  obtain ⟨r, e⟩ := State.puts_rest (s := s) (l := l); rw [e]
@[simp] theorem State.puts_tbl {s : State} {l} : (s.puts l).tbl = s.tbl := by
  obtain ⟨r, e⟩ := State.puts_rest (s := s) (l := l); rw [e]
@[simp] theorem State.puts_pk {s : State} {l} : (s.puts l).pk = s.pk := by
  obtain ⟨r, e⟩ := State.puts_rest (s := s) (l := l); rw [e]
@[simp] theorem State.puts_buf {s : State} {l} : (s.puts l).buf = s.buf := by
  obtain ⟨r, e⟩ := State.puts_rest (s := s) (l := l); rw [e]
@[simp] theorem State.puts_mtr {s : State} {l} : (s.puts l).mtr = s.mtr := by
  obtain ⟨r, e⟩ := State.puts_rest (s := s) (l := l); rw [e]
@[simp] theorem State.puts_sch {s : State} {l} : (s.puts l).sch = s.sch := by
  obtain ⟨r, e⟩ := State.puts_rest (s := s) (l := l); rw [e]
@[simp] theorem State.puts_pl {s : State} {l} : (s.puts l).pl = s.pl := by
  obtain ⟨r, e⟩ := State.puts_rest (s := s) (l := l); rw [e]
@[simp] theorem State.puts_io {s : State} {l} : (s.puts l).io = s.io := by
  obtain ⟨r, e⟩ := State.puts_rest (s := s) (l := l); rw [e]

end Sys2Proof.Machine
end

