-- ==== Sys2Proof/Laws/Registers.lean ====
section
/-! SUPPORT. The register file seen as data: reads and writes of fields over the list of registers alone, so that a chain
of updates of which only some write registers is read by simp. -/

-- One declaration at a time: the package is compiled as one text, and a thread for each would not fit.
set_option Elab.async false

namespace Sys2Proof.Machine

/-- A field of a register file. -/
def regGet (m : List (Nat × Word)) (f : Fld) : Nat := bitsOf (smGet regReset m f.off).toNat f.lo f.w

/-- A register file with a field replaced. -/
def regPut (m : List (Nat × Word)) (f : Fld) (v : Nat) : List (Nat × Word) :=
  smPut regReset m f.off (BitVec.ofNat 64 (setBits (smGet regReset m f.off).toNat f.lo f.w v))

/-- The canonical form of a register file. -/
def RegsWf (m : List (Nat × Word)) : Prop := smWf regReset m none = true

theorem State.get_eq (s : State) (f : Fld) : s.get f = regGet s.regs f := rfl

theorem State.flag_eq (s : State) (f : Fld) : s.flag f = decide (regGet s.regs f = 1) := rfl

theorem State.Inv.regsWf {s : State} (h : s.Inv) : RegsWf s.regs := h.canonical.regs

theorem State.put_regs (s : State) (f : Fld) (v : Nat) : (s.put f v).regs = regPut s.regs f v := rfl

theorem State.putFlag_regs (s : State) (f : Fld) (b : Bool) : (s.putFlag f b).regs = regPut s.regs f (b2n b) := rfl

theorem State.bump_regs (s : State) (f : Fld) (n : Nat) :
    (s.bump f n).regs = regPut s.regs f (satAdd f.w (regGet s.regs f) n) := rfl

theorem State.bumpWrap_regs (s : State) (f : Fld) (n : Nat) :
    (s.bumpWrap f n).regs = regPut s.regs f (regGet s.regs f + n) := rfl

theorem State.puts_nil_regs (s : State) : (s.puts []).regs = s.regs := rfl

theorem State.puts_cons_regs (s : State) (f : Fld) (v : Nat) (l : List (Fld × Nat)) :
    (s.puts ((f, v) :: l)).regs = ((s.put f v).puts l).regs := rfl

theorem RegsWf.put {m : List (Nat × Word)} (h : RegsWf m) (f : Fld) (v : Nat) : RegsWf (regPut m f v) :=
  smWf_smPut _ _ _ _ h

theorem State.put_regsWf {s : State} (h : RegsWf s.regs) {f : Fld} {v : Nat} : RegsWf (s.put f v).regs := h.put f v

theorem State.bump_regsWf {s : State} (h : RegsWf s.regs) {f : Fld} {n : Nat} : RegsWf (s.bump f n).regs := h.put f _

theorem State.bumpWrap_regsWf {s : State} (h : RegsWf s.regs) {f : Fld} {n : Nat} : RegsWf (s.bumpWrap f n).regs :=
  h.put f _

theorem State.putFlag_regsWf {s : State} (h : RegsWf s.regs) {f : Fld} {b : Bool} : RegsWf (s.putFlag f b).regs :=
  h.put f _

theorem State.setRaw_regsWf {s : State} (h : RegsWf s.regs) {k : Nat} {w : Word} : RegsWf (s.setRaw k w).regs :=
  smWf_smPut _ _ _ _ h

theorem State.puts_regsWf {s : State} (h : RegsWf s.regs) {l : List (Fld × Nat)} : RegsWf (s.puts l).regs := by
  induction l generalizing s with
  | nil => exact h
  | cons x l ih => exact ih (State.put_regsWf h)

theorem regGet_lt (m : List (Nat × Word)) (f : Fld) : regGet m f < 2 ^ f.w := bitsOf_lt _ _ _

/-- A field reads what was put into it, cut to its width. -/
theorem regGet_regPut_same {m : List (Nat × Word)} (h : RegsWf m) {f : Fld} (hf : f.lo + f.w ≤ 64) (v : Nat) :
    regGet (regPut m f v) f = v % 2 ^ f.w := by
  unfold regGet regPut
  rw [smGet_smPut_same _ _ _ _, BitVec.toNat_ofNat, Nat.mod_eq_of_lt (setBits_lt _ _ _ _ (BitVec.isLt _) hf)]
  exact bitsOf_setBits_same _ _ _ _

/-- A put leaves every field that shares no bit with the one it writes alone. -/
theorem regGet_regPut_apart {m : List (Nat × Word)} (h : RegsWf m) {f g : Fld} (hf : f.lo + f.w ≤ 64) (v : Nat)
    (d : g.Apart f) : regGet (regPut m f v) g = regGet m g := by
  unfold regGet regPut
  by_cases e : g.off = f.off
  · rw [e, smGet_smPut_same _ _ _ _, BitVec.toNat_ofNat,
      Nat.mod_eq_of_lt (setBits_lt _ _ _ _ (BitVec.isLt _) hf)]
    exact bitsOf_setBits_other _ _ _ _ (d.resolve_left (by simpa using e))
  · rw [smGet_smPut_other _ _ _ e]

/-- The same for a field of another register, of any register file. -/
theorem regGet_regPut_far {m : List (Nat × Word)} {f g : Fld} (v : Nat) (d : g.off ≠ f.off) :
    regGet (regPut m f v) g = regGet m g := by
  unfold regGet regPut; rw [smGet_smPut_other _ _ _ d]

/-! ### Updates of registers alone -/

/-- `t` is `s` with other registers. -/
def OnlyRegs (s t : State) : Prop := t = { s with regs := t.regs }

theorem OnlyRegs.refl (s : State) : OnlyRegs s s := rfl

theorem OnlyRegs.trans {s t u : State} (h : OnlyRegs s t) (g : OnlyRegs t u) : OnlyRegs s u := by
  unfold OnlyRegs at *; rw [g, h]

theorem State.put_only (s : State) (f : Fld) (v : Nat) : OnlyRegs s (s.put f v) := rfl

theorem State.setRaw_only (s : State) (k : Nat) (w : Word) : OnlyRegs s (s.setRaw k w) := rfl

theorem OnlyRegs.put {s t : State} (h : OnlyRegs s t) (f : Fld) (v : Nat) : OnlyRegs s (t.put f v) :=
  h.trans (State.put_only _ _ _)

theorem OnlyRegs.putFlag {s t : State} (h : OnlyRegs s t) (f : Fld) (b : Bool) : OnlyRegs s (t.putFlag f b) := h.put _ _

theorem OnlyRegs.bump {s t : State} (h : OnlyRegs s t) (f : Fld) (n : Nat) : OnlyRegs s (t.bump f n) := h.put _ _

theorem OnlyRegs.bumpWrap {s t : State} (h : OnlyRegs s t) (f : Fld) (n : Nat) : OnlyRegs s (t.bumpWrap f n) := h.put _ _

theorem OnlyRegs.setRaw {s t : State} (h : OnlyRegs s t) (k : Nat) (w : Word) : OnlyRegs s (t.setRaw k w) :=
  h.trans (State.setRaw_only _ _ _)

theorem OnlyRegs.puts {s t : State} (h : OnlyRegs s t) (l : List (Fld × Nat)) : OnlyRegs s (t.puts l) := by
  induction l generalizing t with
  | nil => exact h
  | cons x l ih => exact ih (h.put _ _)

theorem OnlyRegs.ite {s t u : State} {p : Prop} [Decidable p] (h : OnlyRegs s t) (g : OnlyRegs s u) :
    OnlyRegs s (if p then t else u) := by split <;> assumption

/-! ### Parts that stay -/

theorem Part.Agrees.refl (s : State) (p : Part) : p.Agrees s s := by cases p <;> rfl

theorem Part.Agrees.trans {s t u : State} {p : Part} (h : p.Agrees s t) (g : p.Agrees t u) : p.Agrees s u := by
  cases p <;> exact Eq.trans g h

theorem State.Same.refl (l : List Part) (s : State) : s.Same l s := fun p _ => Part.Agrees.refl s p

theorem State.Same.trans {l : List Part} {s t u : State} (h : s.Same l t) (g : t.Same l u) : s.Same l u :=
  fun p m => (h p m).trans (g p m)

theorem State.Same.mono {l k : List Part} {s t : State} (h : s.Same l t) (m : ∀ p ∈ l, p ∈ k) : s.Same k t :=
  fun p n => h p (fun x => n (m p x))

theorem OnlyRegs.agrees {s t : State} (h : OnlyRegs s t) (p : Part) : p.Agrees s t := by
  unfold OnlyRegs at h; rw [h]; cases p <;> rfl

theorem OnlyRegs.same {s t : State} (h : OnlyRegs s t) (l : List Part) : s.Same l t := fun p _ => h.agrees p

/-! ### Frames -/

theorem State.Frame.refl (R : Region) (l : List Fld) (s : State) : s.Frame R l s := fun _ _ _ => rfl

theorem State.Frame.trans {R : Region} {l : List Fld} {s t u : State} (h : s.Frame R l t) (g : t.Frame R l u) :
    s.Frame R l u := fun f a b => (g f a b).trans (h f a b)

theorem State.Frame.mono {R S : Region} {l k : List Fld} {s t : State} (h : s.Frame R l t) (hR : ∀ x, R x → S x)
    (hl : ∀ f ∈ l, f ∈ k) : s.Frame S k t := fun f a b => h f (fun x => a (hR _ x)) (fun f m => b f (hl f m))

/-- An update that leaves the registers alone. -/
theorem State.Frame.same {R : Region} {l : List Fld} {s t u : State} (h : s.Frame R l t) (e : u.regs = t.regs) :
    s.Frame R l u := h.trans (fun f _ _ => by rw [State.get_eq, State.get_eq, e])

/-- A put of a field that the frame names. -/
theorem State.Frame.put {R : Region} {l : List Fld} {s t : State} (h : s.Frame R l t) (w : RegsWf t.regs) {f : Fld}
    (m : f ∈ l) (hf : f.lo + f.w ≤ 64) (v : Nat) : s.Frame R l (t.put f v) :=
  h.trans (fun _ _ b => regGet_regPut_apart w hf v (b f m))

theorem State.Frame.bump {R : Region} {l : List Fld} {s t : State} (h : s.Frame R l t) (w : RegsWf t.regs) {f : Fld}
    (m : f ∈ l) (hf : f.lo + f.w ≤ 64) (n : Nat) : s.Frame R l (t.bump f n) := h.put w m hf _

theorem State.Frame.bumpWrap {R : Region} {l : List Fld} {s t : State} (h : s.Frame R l t) (w : RegsWf t.regs) {f : Fld}
    (m : f ∈ l) (hf : f.lo + f.w ≤ 64) (n : Nat) : s.Frame R l (t.bumpWrap f n) := h.put w m hf _

theorem State.Frame.putFlag {R : Region} {l : List Fld} {s t : State} (h : s.Frame R l t) (w : RegsWf t.regs) {f : Fld}
    (m : f ∈ l) (hf : f.lo + f.w ≤ 64) (b : Bool) : s.Frame R l (t.putFlag f b) := h.put w m hf _

/-- A list of puts of fields that the frame names. -/
theorem State.Frame.puts {R : Region} {l : List Fld} {s t : State} (h : s.Frame R l t) (w : RegsWf t.regs)
    {k : List (Fld × Nat)} (m : ∀ x ∈ k, x.1 ∈ l ∧ x.1.lo + x.1.w ≤ 64) : s.Frame R l (t.puts k) := by
  induction k generalizing t with
  | nil => exact h
  | cons x k ih =>
    exact ih (h.put w (m x List.mem_cons_self).1 (m x List.mem_cons_self).2 x.2) (w.put _ _)
      (fun y hy => m y (List.mem_cons_of_mem _ hy))

/-- A put into a register of the frame's set. -/
theorem State.Frame.putIn {R : Region} {l : List Fld} {s t : State} (h : s.Frame R l t) {f : Fld}
    (m : R f.off) (v : Nat) : s.Frame R l (t.put f v) :=
  h.trans (fun _ a _ => regGet_regPut_far v (fun e => a (by rw [e]; exact m)))

theorem State.Frame.setRawIn {R : Region} {l : List Fld} {s t : State} (h : s.Frame R l t) {k : Nat}
    (m : R k) (w : Word) : s.Frame R l (t.setRaw k w) :=
  h.trans (fun _ a _ => State.get_setRaw_far _ (fun e => a (by rw [e]; exact m)))

end Sys2Proof.Machine
end

