-- ==== Sys2Proof/Laws/Raise.lean ====
section
/-! SUPPORT. What the shared operations of Machine/Ops.lean leave alone: performance counting, host memory writes,
interrupts, completions, event records and raising a fault. `Calm R s t` says that `t` came from `s` by operations that
write registers of `R` alone, and that beside registers only what is sent and the state of the host interface and of
fault collection changed. -/

-- One declaration at a time: the package is compiled as one text, and a thread for each would not fit.
set_option Elab.async false

namespace Sys2Proof.Machine

/-- `t` differs from `s` in registers of `R`, what was sent, host interface and fault state alone. -/
structure Calm (R : Region) (s t : State) : Prop where
  same : t = { s with regs := t.regs, out := t.out, hif := t.hif, flt := t.flt }
  frame : s.Frame R [] t

theorem Calm.refl (R : Region) (s : State) : Calm R s s := ⟨rfl, .refl _ _ _⟩

/-- The parts that a calm operation may change. -/
theorem Calm.parts {R : Region} {s t : State} (h : Calm R s t) : s.Same [.out, .hif, .flt] t := by
  intro p m
  rw [h.same]
  cases p <;> first | rfl | exact absurd (by decide) m

theorem Calm.trans {R : Region} {s t u : State} (h : Calm R s t) (g : Calm R t u) : Calm R s u where
  same := by rw [g.same, h.same]
  frame := h.frame.trans g.frame

theorem Calm.mono {R S : Region} {s t : State} (h : Calm R s t) (hR : ∀ x, R x → S x) : Calm S s t :=
  ⟨h.same, h.frame.mono hR (fun _ m => m)⟩

theorem Calm.put {R : Region} {s t : State} (h : Calm R s t) {f : Fld} (m : R f.off) (v : Nat) : Calm R s (t.put f v) where
  same := by rw [h.same]; rfl
  frame := h.frame.putIn m v

theorem Calm.setRaw {R : Region} {s t : State} (h : Calm R s t) {k : Nat} (m : R k) (w : Word) :
    Calm R s (t.setRaw k w) where
  same := by rw [h.same]; rfl
  frame := h.frame.setRawIn m w

theorem Calm.bump {R : Region} {s t : State} (h : Calm R s t) {f : Fld} (m : R f.off) (n : Nat) :
    Calm R s (t.bump f n) := h.put m _

theorem Calm.bumpWrap {R : Region} {s t : State} (h : Calm R s t) {f : Fld} (m : R f.off) (n : Nat) :
    Calm R s (t.bumpWrap f n) := h.put m _

theorem Calm.send {R : Region} {s t : State} (h : Calm R s t) (o : Out) : Calm R s (t.send o) where
  same := by rw [h.same]; rfl
  frame := h.frame.same rfl

theorem Calm.hif {R : Region} {s t : State} (h : Calm R s t) (x : HostSt) : Calm R s { t with hif := x } where
  same := by rw [h.same]
  frame := h.frame.same rfl

theorem Calm.flt {R : Region} {s t : State} (h : Calm R s t) (x : FaultSt) : Calm R s { t with flt := x } where
  same := by rw [h.same]
  frame := h.frame.same rfl

theorem Calm.ite {R : Region} {s t u : State} {p : Prop} [Decidable p] (h : Calm R s t) (g : Calm R s u) :
    Calm R s (if p then t else u) := by split <;> assumption

/-! ### The regions -/

theorem ringStat_mem {r : Nat} (h : r < 1024) : hostRegs (RING_STAT.regOff r) := by
  refine Or.inr (Or.inr ?_); unfold eventRegs RING_STAT.regOff; omega

theorem hostRegs_hifStat : hostRegs HIF_STAT.regOff := Or.inl rfl

theorem hostRegs_perf {k : Nat} (h : perfRegs hifBlock k) : hostRegs k := Or.inr h

theorem perfCnt_mem {b k : Nat} (h : k < 4) : perfRegs b (PERF_CNT.regOff b k) := by
  refine Or.inl ?_; unfold PERF_CNT.regOff; omega

theorem faultRegs_host {k : Nat} (h : hostRegs k) : faultRegs k := Or.inr h

/-! ### Completions, interrupts and host memory writes -/

variable {s : State}

theorem State.hostSend_calm (f : Nat) (o : Out) : Calm hostRegs s (s.hostSend f o) := by
  unfold State.hostSend
  exact .ite ((Calm.refl _ _).send _) (((Calm.refl _ _).hif _).bump hostRegs_hifStat _)

theorem State.get_ring_lt (s : State) : s.get MTR_CFG2.event_ring < 1024 := bitsOf_lt _ _ _

theorem State.queueEvent_calm {r : Nat} (hr : r < 1024) (w : List Word) : Calm hostRegs s (s.queueEvent r w) := by
  unfold State.queueEvent
  exact .ite ((Calm.refl _ _).hif _) ((Calm.refl _ _).bump (ringStat_mem hr) _)

theorem State.perfOne_calm {b k : Nat} (hk : k < 4) (code : Nat) (a : PerfAttr) (n : Nat) :
    Calm (Region.or (perfRegs b) hostRegs) s (s.perfOne b k code a n) := by
  have hp : ∀ {f : Fld}, f.off = PERF_CNT.regOff b k → Region.or (perfRegs b) hostRegs f.off :=
    fun e => Or.inl (by rw [e]; exact perfCnt_mem hk)
  unfold State.perfOne
  refine .ite ?_ (.refl _ _)
  dsimp only
  refine .ite ((Calm.refl _ _).put (hp rfl) _) ?_
  have h2 := ((Calm.refl (Region.or (perfRegs b) hostRegs) s).put (f := PERF_CNT.value b k) (hp rfl)
    (s.get (PERF_CNT.value b k) + n)).put (f := PERF_CNT.overflow b k) (hp rfl) 1
  exact .ite (h2.trans ((State.queueEvent_calm (State.get_ring_lt _) _).mono (fun _ h => Or.inr h))) h2

theorem State.perf_calm {b : Nat} (code : Nat) (a : PerfAttr) (n : Nat) :
    Calm (Region.or (perfRegs b) hostRegs) s (s.perf b code a n) :=
  (((State.perfOne_calm (by decide) _ _ _).trans (State.perfOne_calm (by decide) _ _ _)).trans
    (State.perfOne_calm (by decide) _ _ _)).trans (State.perfOne_calm (by decide) _ _ _)

/-- Counting in the host interface's own counters. -/
theorem State.perfHif_calm (code : Nat) (a : PerfAttr) (n : Nat) : Calm hostRegs s (s.perf hifBlock code a n) :=
  (State.perf_calm _ _ _).mono (fun _ h => h.elim hostRegs_perf id)

theorem State.msix_calm (f v : Nat) : Calm hostRegs s (s.msix f v) := by
  unfold State.msix
  refine .ite (.refl _ _) (.ite (.ite ?_ (.refl _ _)) (.ite ((Calm.refl _ _).hif _) ?_))
  · exact ((Calm.refl _ _).send _).trans (State.perfHif_calm _ _ _)
  · exact (State.hostSend_calm _ _).trans (State.perfHif_calm _ _ _)

/-! ### Raising a fault -/

theorem faultRegs_flt {k : Nat} (h : FLT_CFG.regOff ≤ k ∧ k < FLT_SRC.regOff 2048) : faultRegs k := Or.inl h

theorem State.msixF_calm (f v : Nat) : Calm faultRegs s (s.msix f v) :=
  (State.msix_calm f v).mono (fun _ => faultRegs_host)

theorem State.countChannel_calm {c : Nat} (h : c < 512) : Calm faultRegs s (s.countChannel c) := by
  unfold State.countChannel
  exact ((Calm.refl _ _).flt _).bump (faultRegs_flt (by
    dsimp only [CH_STAT.resets]; unfold CH_STAT.regOff FLT_CFG.regOff FLT_SRC.regOff; omega)) _

/-- A unit whose channel is one of the device's. -/
def SmallUnit : UnitId → Prop
  | .pipe p => p < 512
  | .channel p => p < 512
  | _ => True

theorem State.startBlockReset_calm {u : UnitId} (h : SmallUnit u) : Calm faultRegs s (s.startBlockReset u) := by
  unfold State.startBlockReset
  refine .ite (.refl _ _) ?_
  dsimp only
  split
  · exact .ite ((Calm.refl _ _).flt _) ((((Calm.refl _ _).flt _).flt _).trans (State.countChannel_calm h))
  · exact ((Calm.refl _ _).flt _).trans (State.countChannel_calm h)
  · exact (Calm.refl _ _).flt _

theorem State.recordFault_calm (n cls syn act : Nat) (inj : Bool) : Calm faultRegs s (s.recordFault n cls syn act inj) := by
  have hi : s.get FLT_HIST_PTR.next < 64 := bitsOf_lt _ _ _
  have hm : ∀ j, j < 4 → faultRegs (FLT_HIST.regOff (s.get FLT_HIST_PTR.next) j) := fun j hj => faultRegs_flt (by
    unfold FLT_HIST.regOff FLT_CFG.regOff FLT_SRC.regOff; omega)
  have hp : faultRegs FLT_HIST_PTR.regOff := faultRegs_flt (by decide)
  unfold State.recordFault
  dsimp only
  refine Calm.flt (Calm.ite ?_ ?_) _
  · exact (((((((Calm.refl _ _).setRaw (hm 0 (by decide)) _).setRaw (hm 1 (by decide)) _).setRaw
      (hm 2 (by decide)) _).put hp _).put hp _).bump hp _).put hp _
  · exact (((((Calm.refl _ _).setRaw (hm 0 (by decide)) _).setRaw (hm 1 (by decide)) _).setRaw
      (hm 2 (by decide)) _).put hp _).put hp _

theorem State.urgent_calm : Calm faultRegs s s.urgent := by
  unfold State.urgent
  exact .ite (.refl _ _) (((Calm.refl _ _).put (faultRegs_flt (by decide)) _).trans (State.msixF_calm _ _))

theorem sourceListed_lt {n : Nat} (h : sourceListed n = true) : n < 2048 := by
  unfold sourceListed at h; split at h
  · omega
  · have := of_decide_eq_true h; omega

theorem resetUnit_small {n : Nat} {u : UnitId} (h : resetUnit n = some u) : SmallUnit u := by
  unfold resetUnit at h
  dsimp only at h
  repeat' split at h
  all_goals first
    | exact absurd h (by simp only [reduceCtorEq, not_false_eq_true])
    | (have h := Option.some.inj h; subst h; first | trivial | (show _ < 512; omega))

/-- Raising a fault writes the registers of fault collection and what its interrupts count in, and nothing else but what
is sent and the state of the host interface and of fault collection. -/
theorem State.raiseWith_calm (n cls syn : Nat) (inj : Bool) : Calm faultRegs s (s.raiseWith n cls syn inj) := by
  unfold State.raiseWith
  split
  · exact .refl _ _
  · rename_i hn
    have hn := sourceListed_lt (by simpa using hn)
    have hs : faultRegs (FLT_SRC.regOff n) := faultRegs_flt (by unfold FLT_SRC.regOff FLT_CFG.regOff; omega)
    have hpend : faultRegs (pendField n cls).off := by unfold pendField; split <;> (try split) <;> exact hs
    have hst : faultRegs FLT_STATUS.regOff := faultRegs_flt (by decide)
    dsimp only
    generalize e1 : (if s.withheld n cls = true then _ else _ : State) = s1
    have h1 : Calm faultRegs s s1 := e1 ▸ .ite ((Calm.refl _ _).flt _) (State.recordFault_calm _ _ _ _ _)
    generalize e2 : ((s1.put (pendField n cls) 1).bumpWrap (FLT_SRC.count n) 1) = s2
    have h2 : Calm faultRegs s s2 := e2 ▸ (h1.put hpend _).bumpWrap hs _
    generalize e3 : (if cls = 3 then s2.put FLT_STATUS.last_fatal n else s2) = s3
    have h3 : Calm faultRegs s s3 := e3 ▸ .ite (h2.put hst _) h2
    generalize e4 : (if (bitAt (s.acted n cls) 0 && !s1.flag (pendField n cls)) = true then
      s3.msix 0 (s3.get (FLT_SRC.vector n)) else s3) = s4
    have h4 : Calm faultRegs s s4 := e4 ▸ .ite (h3.trans (State.msixF_calm _ _)) h3
    generalize e5 : (if bitAt (s.acted n cls) 1 = true then s4.urgent else s4) = s5
    have h5 : Calm faultRegs s s5 := e5 ▸ .ite (h4.trans State.urgent_calm) h4
    generalize e6 : (if (bitAt (s.acted n cls) 4 || decide (cls = 3)) = true then s5.put FLT_STATUS.fault_pin 1 else s5) = s6
    have h6 : Calm faultRegs s s6 := e6 ▸ .ite (h5.put hst _) h5
    generalize e7 : (if bitAt (s.acted n cls) 2 = true then
      (match resetUnit n with | some u => s6.startBlockReset u | none => s6) else s6) = s7
    have h7 : Calm faultRegs s s7 := by
      rw [← e7]
      refine .ite ?_ h6
      split
      · rename_i u hu; exact h6.trans (State.startBlockReset_calm (resetUnit_small hu))
      · exact h6
    exact .ite ((h7.put hst _).flt _) h7

/-- The registers of the sources themselves, and FLT_STATUS, are not touched by what follows the pending bit. -/
def afterPend : Region := fun k => hostRegs k ∨ (CH_STAT.regOff 0 ≤ k ∧ k < FLT_SRC.regOff 0)

theorem State.startBlockReset_tail {u : UnitId} (h : SmallUnit u) : Calm afterPend s (s.startBlockReset u) := by
  have hc : ∀ {t : State} {c : Nat}, c < 512 → Calm afterPend t (t.countChannel c) := fun {t c} h => by
    unfold State.countChannel
    exact ((Calm.refl _ _).flt _).bump (Or.inr (by
      dsimp only [CH_STAT.resets]; unfold CH_STAT.regOff FLT_SRC.regOff; omega)) _
  unfold State.startBlockReset
  refine .ite (.refl _ _) ?_
  dsimp only
  split
  · exact .ite ((Calm.refl _ _).flt _) ((((Calm.refl _ _).flt _).flt _).trans (hc h))
  · exact ((Calm.refl _ _).flt _).trans (hc h)
  · exact (Calm.refl _ _).flt _

theorem pendField_off (n cls : Nat) : (pendField n cls).off = FLT_SRC.regOff n := by
  unfold pendField; split <;> (try split) <;> rfl

theorem pendField_fits (n cls : Nat) : (pendField n cls).lo + (pendField n cls).w ≤ 35 ∧ (pendField n cls).w = 1 := by
  unfold pendField; split <;> (try split) <;> exact ⟨Nat.le_of_ble_eq_true rfl, rfl⟩

theorem afterPend_src {n : Nat} : ¬afterPend (FLT_SRC.regOff n) := by
  intro h
  unfold afterPend hostRegs perfRegs eventRegs hifBlock perfBlock at h
  unfold FLT_SRC.regOff HIF_STAT.regOff RING_STAT.regOff PERF_CNT.regOff CH_STAT.regOff at h
  omega

theorem afterPend_status : ¬afterPend FLT_STATUS.regOff := by
  unfold afterPend hostRegs perfRegs eventRegs; decide

/-- An event that the collector takes leaves its pending bit set and its source's count one higher; a FATAL event
asserts the fault pin (R533, R534, R537). -/
theorem State.raiseWith_sets (hi : s.Inv) {n cls : Nat} (hn : sourceListed n = true) (syn : Nat) (inj : Bool) :
    (s.raiseWith n cls syn inj).get (pendField n cls) = 1 ∧
    (s.raiseWith n cls syn inj).get (FLT_SRC.count n) = (s.get (FLT_SRC.count n) + 1) % 2 ^ 16 ∧
    (cls = 3 → (s.raiseWith n cls syn inj).get FLT_STATUS.fault_pin = 1) := by
  have hn' := sourceListed_lt hn
  have hoff := pendField_off n cls
  obtain ⟨hfit, hw⟩ := pendField_fits n cls
  have hneq : FLT_SRC.regOff n ≠ FLT_STATUS.regOff := by unfold FLT_SRC.regOff FLT_STATUS.regOff; omega
  have hrec : ∀ act, Calm (fun k => faultRegs k ∧ k < FLT_SRC.regOff 0) s (s.recordFault n cls syn act inj) := fun act => by
    have hi : s.get FLT_HIST_PTR.next < 64 := bitsOf_lt _ _ _
    have hm : ∀ j, j < 4 → faultRegs (FLT_HIST.regOff (s.get FLT_HIST_PTR.next) j) ∧
        FLT_HIST.regOff (s.get FLT_HIST_PTR.next) j < FLT_SRC.regOff 0 := fun j hj =>
      ⟨faultRegs_flt (by unfold FLT_HIST.regOff FLT_CFG.regOff FLT_SRC.regOff; omega),
        by unfold FLT_HIST.regOff FLT_SRC.regOff; omega⟩
    have hp : faultRegs FLT_HIST_PTR.regOff ∧ FLT_HIST_PTR.regOff < FLT_SRC.regOff 0 :=
      ⟨faultRegs_flt (by decide), by decide⟩
    unfold State.recordFault
    dsimp only
    refine Calm.flt (Calm.ite ?_ ?_) _
    · exact (((((((Calm.refl _ _).setRaw (hm 0 (by decide)) _).setRaw (hm 1 (by decide)) _).setRaw
        (hm 2 (by decide)) _).put hp _).put hp _).bump hp _).put hp _
    · exact (((((Calm.refl _ _).setRaw (hm 0 (by decide)) _).setRaw (hm 1 (by decide)) _).setRaw
        (hm 2 (by decide)) _).put hp _).put hp _
  unfold State.raiseWith
  rw [if_neg (by simp [hn])]
  dsimp only
  generalize e1 : (if s.withheld n cls = true then _ else _ : State) = s1
  have h1 : Keep s s1 ∧ s1.get (FLT_SRC.count n) = s.get (FLT_SRC.count n) := by
    rw [← e1]; split
    · exact ⟨(Keep.refl s).plain, rfl⟩
    · exact ⟨State.recordFault_keep (Keep.refl s), (hrec _).frame _ (fun h => by
        have := h.2; dsimp only [FLT_SRC.count] at this; unfold FLT_SRC.regOff at this; omega) (fun _ h => by cases h)⟩
  generalize e2 : ((s1.put (pendField n cls) 1).bumpWrap (FLT_SRC.count n) 1) = s2
  have hap : (pendField n cls).Apart (FLT_SRC.count n) := Or.inr (Or.inl (by
    show _ ≤ 48; omega))
  have hap' : (FLT_SRC.count n).Apart (pendField n cls) := Or.inr (Or.inr (by show _ ≤ 48; omega))
  have w1 := (h1.1.inv hi).regsWf
  have h2 : Keep s s2 ∧ s2.get (pendField n cls) = 1 ∧
      s2.get (FLT_SRC.count n) = (s.get (FLT_SRC.count n) + 1) % 2 ^ 16 := by
    rw [← e2]
    refine ⟨State.bumpWrap_keep (State.put_keep h1.1), ?_, ?_⟩
    · rw [State.get_eq, State.bumpWrap_regs, State.put_regs,
        regGet_regPut_apart (f := FLT_SRC.count n) (w1.put _ _) (Nat.le_refl 64) _ hap, regGet_regPut_same w1 (by omega), hw]; rfl
    · rw [State.get_eq, State.bumpWrap_regs, State.put_regs,
        regGet_regPut_same (f := FLT_SRC.count n) (w1.put _ _) (Nat.le_refl 64), regGet_regPut_apart w1 (by omega) _ hap', ← State.get_eq, h1.2]; rfl
  -- from here on no register of a source changes, and FLT_STATUS only gains bits
  have keep : ∀ {t u : State}, Calm afterPend t u →
      (∀ g : Fld, g.off = FLT_SRC.regOff n → u.get g = t.get g) ∧ (∀ g : Fld, g.off = FLT_STATUS.regOff → u.get g = t.get g) :=
    fun {t u} h => ⟨fun g e => h.frame g (by rw [e]; exact afterPend_src) (fun _ m => by cases m),
      fun g e => h.frame g (by rw [e]; exact afterPend_status) (fun _ m => by cases m)⟩
  have far : ∀ {t : State} {f : Fld} (v : Nat), f.off = FLT_STATUS.regOff → ∀ g : Fld, g.off = FLT_SRC.regOff n →
      (t.put f v).get g = t.get g := fun v hf g hg => State.get_put_far v (by rw [hg, hf]; exact hneq)
  generalize e3 : (if cls = 3 then s2.put FLT_STATUS.last_fatal n else s2) = s3
  have h3 : Keep s s3 ∧ ∀ g : Fld, g.off = FLT_SRC.regOff n → s3.get g = s2.get g := by
    rw [← e3]; split
    · exact ⟨State.put_keep h2.1, far _ rfl⟩
    · exact ⟨h2.1, fun _ _ => rfl⟩
  generalize e4 : (if (bitAt (s.acted n cls) 0 && !s1.flag (pendField n cls)) = true then
    s3.msix 0 (s3.get (FLT_SRC.vector n)) else s3) = s4
  have h4 : Keep s s4 ∧ ∀ g : Fld, g.off = FLT_SRC.regOff n → s4.get g = s2.get g := by
    rw [← e4]; split
    · exact ⟨State.msix_keep h3.1, fun g hg =>
        ((keep ((State.msix_calm _ _).mono (fun _ h => Or.inl h))).1 g hg).trans (h3.2 g hg)⟩
    · exact h3
  generalize e5 : (if bitAt (s.acted n cls) 1 = true then s4.urgent else s4) = s5
  have h5 : Keep s s5 ∧ ∀ g : Fld, g.off = FLT_SRC.regOff n → s5.get g = s2.get g := by
    rw [← e5]; split
    · unfold State.urgent; split
      · exact h4
      · exact ⟨State.msix_keep (State.put_keep h4.1), fun g hg =>
          (((keep ((State.msix_calm _ _).mono (fun _ h => Or.inl h))).1 g hg).trans (far _ rfl g hg)).trans (h4.2 g hg)⟩
    · exact h4
  generalize e6 : (if (bitAt (s.acted n cls) 4 || decide (cls = 3)) = true then s5.put FLT_STATUS.fault_pin 1 else s5) = s6
  have h6 : Keep s s6 ∧ (∀ g : Fld, g.off = FLT_SRC.regOff n → s6.get g = s2.get g) ∧
      (cls = 3 → s6.get FLT_STATUS.fault_pin = 1) := by
    rw [← e6]; split
    · exact ⟨State.put_keep h5.1, fun g hg => (far _ rfl g hg).trans (h5.2 g hg),
        fun _ => by rw [State.get_eq, State.put_regs, regGet_regPut_same (h5.1.inv hi).regsWf (by decide)]; rfl⟩
    · rename_i hx; exact ⟨h5.1, h5.2, fun h3 => absurd (by simp [h3]) hx⟩
  generalize e7 : (if bitAt (s.acted n cls) 2 = true then
    (match resetUnit n with | some u => s6.startBlockReset u | none => s6) else s6) = s7
  have h7 : (∀ g : Fld, g.off = FLT_SRC.regOff n → s7.get g = s2.get g) ∧
      (cls = 3 → s7.get FLT_STATUS.fault_pin = 1) ∧ Keep s s7 := by
    rw [← e7]; split
    · split
      · rename_i u hu
        have c := State.startBlockReset_tail (s := s6) (resetUnit_small hu)
        exact ⟨fun g hg => ((keep c).1 g hg).trans (h6.2.1 g hg), fun h => ((keep c).2 _ rfl).trans (h6.2.2 h), State.startBlockReset_keep h6.1⟩
      · exact ⟨h6.2.1, h6.2.2, h6.1⟩
    · exact ⟨h6.2.1, h6.2.2, h6.1⟩
  have hc : ∀ g : Fld, g.Apart FLT_STATUS.chip_reset_cause → ∀ x : FaultSt,
      State.get { s7.put FLT_STATUS.chip_reset_cause 1 with flt := x } g = s7.get g := fun g hg x => by
    rw [State.get_congr (t := { s7.put FLT_STATUS.chip_reset_cause 1 with flt := x })
      (s := s7.put FLT_STATUS.chip_reset_cause 1) rfl, State.get_eq, State.put_regs,
      regGet_regPut_apart (h7.2.2.inv hi).regsWf (by decide) _ hg, State.get_eq]
  have h8 := And.intro ((h7.1 _ hoff).trans h2.2.1) (And.intro ((h7.1 (FLT_SRC.count n) rfl).trans h2.2.2) h7.2.1)
  split
  · exact ⟨(hc _ (Or.inl (by rw [hoff]; exact hneq)) _).trans h8.1, (hc _ (Or.inl hneq) _).trans h8.2.1,
      fun h => (hc _ (Or.inr (Or.inl (by decide))) _).trans (h8.2.2 h)⟩
  · exact h8

theorem State.raise_calm (n cls syn : Nat) : Calm faultRegs s (s.raise n cls syn) := State.raiseWith_calm _ _ _ _

/-! ### Ring entries, completions and event records -/

variable {r : Nat}

theorem State.setRing_calm (x : RingSt) : Calm hostRegs s (s.setRing r x) := (Calm.refl _ _).hif _

theorem State.afterCompletion_calm (hr : r < 1024) (status : Nat) : Calm hostRegs s (s.afterCompletion r status) := by
  have h1 := (((Calm.refl hostRegs s).bump (f := RING_STAT.completed r) (ringStat_mem hr) 1).trans
    (State.perfHif_calm 0x61 { func := some (s.ringFunc r) } 1)).trans
    (State.perfHif_calm 0x63 { func := some (s.ringFunc r) } 64)
  unfold State.afterCompletion
  dsimp only
  generalize e2 : (if status = 1 then _ else _ : State) = s2
  have h2 : Calm hostRegs s s2 := e2 ▸ .ite (h1.bump (ringStat_mem hr) _) h1
  refine .ite (.ite ?_ ?_) h2
  · exact (h2.trans (State.setRing_calm _)).trans (State.msix_calm _ _)
  · exact h2.trans (State.setRing_calm _)

theorem State.writeEntry_calm (hr : r < 1024) (i : Nat) (w : List Word) : Calm hostRegs s (s.writeEntry r i w) :=
  ((State.hostSend_calm _ _).trans (State.hostSend_calm _ _)).trans (State.afterCompletion_calm hr _)

theorem State.drainRing_calm (hr : r < 1024) (n : Nat) : Calm hostRegs s (s.drainRing r n) := by
  induction n generalizing s with
  | zero => exact .refl _ _
  | succ n ih =>
    unfold State.drainRing
    dsimp only
    split
    · exact ((State.setRing_calm _).trans (State.writeEntry_calm hr _ _)).trans ih
    · exact .refl _ _

theorem State.drain_calm (hr : r < 1024) : Calm hostRegs s (s.drain r) := State.drainRing_calm hr _

theorem State.takeCopy_calm (res : List Word → Option (List Word)) : Calm hostRegs s (s.takeCopy r res) := by
  unfold State.takeCopy
  dsimp only
  split
  · exact .refl _ _
  · exact (State.setRing_calm _).trans (State.perfHif_calm _ _ _)

theorem State.refuseWrongKind_calm (hr : r < 1024) (n : Nat) : Calm hostRegs s (s.refuseWrongKind r n) := by
  induction n generalizing s with
  | zero => exact .refl _ _
  | succ n ih =>
    unfold State.refuseWrongKind
    split
    · exact .ite (((State.takeCopy_calm _).trans (State.drain_calm hr)).trans ih) (.refl _ _)
    · exact .refl _ _

theorem State.headCopy_calm (hr : r < 1024) : Calm hostRegs s (s.headCopy r).1 := by
  unfold State.headCopy
  dsimp only
  split <;> exact State.refuseWrongKind_calm hr _

theorem State.fillEntry_calm (hr : r < 1024) (status : Nat) (words : List (Nat × Nat)) :
    Calm hostRegs s (s.fillEntry r status words) := (State.takeCopy_calm _).trans (State.drain_calm hr)

theorem State.writeSummary_calm (hr : r < 1024) (w : List Word) : Calm hostRegs s (s.writeSummary r w) :=
  (State.setRing_calm _).trans (State.fillEntry_calm hr _ _)

theorem State.serveEvents_calm (hr : r < 1024) (n : Nat) : Calm hostRegs s (s.serveEvents r n) := by
  induction n generalizing s with
  | zero => exact .refl _ _
  | succ n ih =>
    unfold State.serveEvents
    dsimp only
    generalize e : s.headCopy r = p
    have h : Calm hostRegs s p.1 := e ▸ State.headCopy_calm hr
    obtain ⟨t, o⟩ := p
    split
    · cases o with
      | some w => exact .ite (.refl _ _) (h.trans (State.writeSummary_calm hr _))
      | none => exact .ite (.refl _ _) h
    · cases o with
      | some w =>
        exact .ite ((h.trans (State.writeSummary_calm hr _)).trans ih)
          (((h.trans (State.setRing_calm _)).trans (State.fillEntry_calm hr _ _)).trans ih)
      | none =>
        exact .ite h (((h.trans (State.setRing_calm _)).bump (ringStat_mem hr) _).trans ih)

theorem State.event_calm (hr : r < 1024) (w : List Word) : Calm hostRegs s (s.event r w) :=
  (State.queueEvent_calm hr _).trans (State.serveEvents_calm hr _)

theorem State.mtrEvent_calm (w : List Word) : Calm hostRegs s (s.mtrEvent w) :=
  .ite (State.event_calm (State.get_ring_lt _) _) (.refl _ _)

end Sys2Proof.Machine
end

