-- ==== Sys2Proof/Laws/Checks.lean ====
section
/-! SUPPORT. How a check starts and how it ends (00_scope.md R19-R21), for every unit at once. -/

-- One declaration at a time: the package is compiled as one text, and a thread for each would not fit.
set_option Elab.async false

namespace Sys2Proof.Machine

/-- A check starts: its block is busy, and the check joins those that run. -/
theorem State.startCheck_spec {s : State} (w : RegsWf s.regs) {k : Nat} (h : s.get (esBusy k) = 0) (op : CheckOp)
    (args : List Nat) :
    (s.startCheck k op args).get (esBusy k) = 1 ∧
    (s.startCheck k op args).checks = s.checks ++ [⟨k, op, args⟩] ∧
    s.Same [.checks] (s.startCheck k op args) ∧ s.Frame noRegs [esBusy k] (s.startCheck k op args) := by
  have hb : s.flag (esBusy k) = false := by unfold State.flag; rw [h]; exact decide_eq_false (by omega)
  have e : s.startCheck k op args = { s.put (esBusy k) 1 with checks := (s.put (esBusy k) 1).checks ++ [⟨k, op, args⟩] } := by
    unfold State.startCheck; rw [hb]; simp only [Bool.false_eq_true, if_false]
  have ou : OnlyRegs s (s.put (esBusy k) 1) := (OnlyRegs.refl s).put _ _
  have fu : s.Frame noRegs [esBusy k] (s.put (esBusy k) 1) :=
    (State.Frame.refl _ _ _).put w List.mem_cons_self (f := esBusy k) (Nat.le_of_ble_eq_true rfl) 1
  have gu : (s.put (esBusy k) 1).get (esBusy k) = 1 := State.get_put_same (f := esBusy k) w (Nat.le_of_ble_eq_true rfl) 1
  rw [e]
  generalize s.put (esBusy k) 1 = u at ou fu gu
  refine ⟨gu, congrArg (· ++ _) (ou.agrees .checks), (ou.same _).trans ?_, fu.same rfl⟩
  intro p m; cases p <;> first | rfl | exact absurd (by decide) m

/-- A check that would start while one of the block runs is ignored (R21). -/
theorem State.startCheck_busy {s : State} {k : Nat} (h : s.get (esBusy k) = 1) (op : CheckOp) (args : List Nat) :
    s.startCheck k op args = s := by
  have hb : s.flag (esBusy k) = true := by unfold State.flag; rw [h]; exact decide_eq_true rfl
  unfold State.startCheck; rw [hb]; exact if_pos rfl

/-- A check ends: its result and detail are shown, one more attempt is counted, and the block is no longer busy. -/
theorem State.endCheck_spec {s : State} (w : RegsWf s.regs) (k reason detail : Nat) :
    (s.endCheck k reason detail).get (esReason k) = reason % 2 ^ 16 ∧
    (s.endCheck k reason detail).get (esDetail k) = detail % 2 ^ 16 ∧
    (s.endCheck k reason detail).get (esValid k) = 1 ∧
    (s.endCheck k reason detail).get (esBusy k) = 0 ∧
    (s.endCheck k reason detail).get (esAttempts k) = (s.get (esAttempts k) + 1) % 2 ^ 16 ∧
    (s.endCheck k reason detail).checks = s.checks.filter (fun c => c.key != k) ∧
    s.Same [.checks] (s.endCheck k reason detail) ∧ s.Frame noRegs (esFields k) (s.endCheck k reason detail) := by
  have r0 : (s.endCheck k reason detail).regs = regPut (regPut (regPut (regPut (regPut s.regs (esReason k) reason)
      (esDetail k) detail) (esValid k) 1) (esBusy k) 0) (esAttempts k)
      (regGet (regPut (regPut (regPut (regPut s.regs (esReason k) reason) (esDetail k) detail) (esValid k) 1) (esBusy k) 0)
        (esAttempts k) + 1) := by
    unfold State.endCheck
    simp only [State.bumpWrap_regs, State.puts_cons_regs, State.puts_nil_regs, State.put_regs]
  have fit : ∀ f ∈ esFields k, f.lo + f.w ≤ 64 := by
    intro f hf
    simp only [esFields, List.mem_cons, List.not_mem_nil, or_false] at hf
    rcases hf with rfl | rfl | rfl | rfl | rfl <;> exact Nat.le_of_ble_eq_true rfl
  have w1 := w.put (esReason k) reason
  have w2 := w1.put (esDetail k) detail
  have w3 := w2.put (esValid k) 1
  have w4 := w3.put (esBusy k) 0
  have f1 : (esReason k).lo + (esReason k).w ≤ 64 := Nat.le_of_ble_eq_true rfl
  have f2 : (esDetail k).lo + (esDetail k).w ≤ 64 := Nat.le_of_ble_eq_true rfl
  have f3 : (esValid k).lo + (esValid k).w ≤ 64 := Nat.le_of_ble_eq_true rfl
  have f4 : (esBusy k).lo + (esBusy k).w ≤ 64 := Nat.le_of_ble_eq_true rfl
  have f5 : (esAttempts k).lo + (esAttempts k).w ≤ 64 := Nat.le_of_ble_eq_true rfl
  have lo : ∀ {f g : Fld}, f.lo + f.w ≤ g.lo → f.Apart g := fun h => Or.inr (Or.inl h)
  have hi : ∀ {f g : Fld}, g.lo + g.w ≤ f.lo → f.Apart g := fun h => Or.inr (Or.inr h)
  simp only [State.get_eq, r0]
  refine ⟨?_, ?_, ?_, ?_, ?_, ?_, ?_, ?_⟩
  · rw [regGet_regPut_apart w4 f5 _ (lo (Nat.le_of_ble_eq_true rfl)), regGet_regPut_apart w3 f4 _ (lo (Nat.le_of_ble_eq_true rfl)),
      regGet_regPut_apart w2 f3 _ (lo (Nat.le_of_ble_eq_true rfl)), regGet_regPut_apart w1 f2 _ (lo (Nat.le_of_ble_eq_true rfl)),
      regGet_regPut_same w f1]; rfl
  · rw [regGet_regPut_apart w4 f5 _ (lo (Nat.le_of_ble_eq_true rfl)), regGet_regPut_apart w3 f4 _ (hi (Nat.le_of_ble_eq_true rfl)),
      regGet_regPut_apart w2 f3 _ (hi (Nat.le_of_ble_eq_true rfl)), regGet_regPut_same w1 f2]; rfl
  · rw [regGet_regPut_apart w4 f5 _ (lo (Nat.le_of_ble_eq_true rfl)), regGet_regPut_apart w3 f4 _ (hi (Nat.le_of_ble_eq_true rfl)),
      regGet_regPut_same w2 f3]; rfl
  · rw [regGet_regPut_apart w4 f5 _ (lo (Nat.le_of_ble_eq_true rfl)), regGet_regPut_same w3 f4]; rfl
  · rw [regGet_regPut_same w4 f5, regGet_regPut_apart w3 f4 _ (hi (Nat.le_of_ble_eq_true rfl)),
      regGet_regPut_apart w2 f3 _ (hi (Nat.le_of_ble_eq_true rfl)), regGet_regPut_apart w1 f2 _ (hi (Nat.le_of_ble_eq_true rfl)),
      regGet_regPut_apart w f1 _ (hi (Nat.le_of_ble_eq_true rfl))]; rfl
  · unfold State.endCheck; dsimp only
    have ou : OnlyRegs s ((s.puts [(esReason k, reason), (esDetail k, detail), (esValid k, 1), (esBusy k, 0)]).bumpWrap
        (esAttempts k) 1) := ((OnlyRegs.refl s).puts _).bumpWrap _ _
    exact congrArg (List.filter _) (ou.agrees .checks)
  · unfold State.endCheck; dsimp only
    have ou : OnlyRegs s ((s.puts [(esReason k, reason), (esDetail k, detail), (esValid k, 1), (esBusy k, 0)]).bumpWrap
        (esAttempts k) 1) := ((OnlyRegs.refl s).puts _).bumpWrap _ _
    generalize (s.puts _).bumpWrap _ _ = u at ou ⊢
    refine (ou.same _).trans ?_
    intro p m; cases p <;> first | rfl | exact absurd (by decide) m
  · intro g _ hg
    rw [State.get_eq, r0,
      regGet_regPut_apart w4 f5 _ (hg _ (by simp [esFields])), regGet_regPut_apart w3 f4 _ (hg _ (by simp [esFields])),
      regGet_regPut_apart w2 f3 _ (hg _ (by simp [esFields])), regGet_regPut_apart w1 f2 _ (hg _ (by simp [esFields])),
      regGet_regPut_apart w f1 _ (hg _ (by simp [esFields])), State.get_eq]

end Sys2Proof.Machine
end

