-- ==== Sys2Proof/Laws/KeepPackets.lean ====
section
/-! SUPPORT. What each operation of stages, meters, the buffer, device time, the parser, placement and scheduling keeps (see Keep in
Sys2Proof/Laws/Keep.lean): one lemma per operation. -/

-- One declaration at a time: the package is compiled as one text, and a thread for each would not fit.
set_option Elab.async false

set_option linter.unusedTactic false
set_option linter.unreachableTactic false

namespace Sys2Proof.Machine

/-! ### Machine/Microcode.lean -/

theorem State.countNotes_keep {a s : State} (h : Keep a s) {x0} : Keep a (State.countNotes s x0) := by
  unfold State.countNotes
  repeat' first | (with_reducible first | assumption | apply State.perf_keep | apply Keep.ite | refine Keep.foldl ?_ (fun _ _ _ => ?_)) | (lift_lets; intro x; first | (refine suffices hx : Keep a x from ?_; ?_; on_goal 1 => unfold x; on_goal 2 => clear_value x) | skip) | (fail_if_no_progress with_reducible refine Keep.plain ?_) | split | dsimp only

theorem State.lookStep_keep' {a s : State} (h : Keep a s) {x0 x1 x2 x3 x4} : Keep a (State.lookStep s x0 x1 x2 x3 x4).1 := by
  unfold State.lookStep
  repeat' first | (with_reducible first | assumption | refine State.lpmLookup_keep (by assumption) ?_ | apply State.lpmLookup_keep' | apply Keep.ite1 | apply Keep.ite | refine Keep.foldl ?_ (fun _ _ _ => ?_)) | (lift_lets; intro x; first | (refine suffices hx : Keep a x from ?_; ?_; on_goal 1 => unfold x; on_goal 2 => clear_value x) | skip) | (fail_if_no_progress with_reducible refine Keep.plain ?_) | split | dsimp only
theorem State.lookStep_keep {a s t : State} {x0 x1 x2 x3 x4} {y} (e : (State.lookStep s x0 x1 x2 x3 x4) = (t, y)) (h : Keep a s) : Keep a t := by
  have g := congrArg Prod.fst e; dsimp only at g; rw [← g]; exact State.lookStep_keep' h

theorem State.landEffects_keep' {a s : State} (h : Keep a s) {x0 x1 x2} : Keep a (State.landEffects s x0 x1 x2).1 := by
  unfold State.landEffects
  repeat' first | (with_reducible first | assumption | apply State.bump_keep | apply State.markHit_keep | refine State.learnScreen_keep (by assumption) ?_ | apply State.learnScreen_keep' | apply Keep.ite1 | apply Keep.ite | refine Keep.foldl ?_ (fun _ _ _ => ?_)) | (lift_lets; intro x; first | (refine suffices hx : Keep a x from ?_; ?_; on_goal 1 => unfold x; on_goal 2 => clear_value x) | skip) | (fail_if_no_progress with_reducible refine Keep.plain ?_) | split | dsimp only
theorem State.landEffects_keep {a s t : State} {x0 x1 x2} {y} (e : (State.landEffects s x0 x1 x2) = (t, y)) (h : Keep a s) : Keep a t := by
  have g := congrArg Prod.fst e; dsimp only at g; rw [← g]; exact State.landEffects_keep' h

theorem State.landAll_keep' {a s : State} (h : Keep a s) {x0 x1 x2} : Keep a (State.landAll s x0 x1 x2).1 := by
  induction x1 generalizing s x0 x2 with
  | nil =>
    unfold State.landAll
    repeat' first | (with_reducible first | assumption | refine State.landEffects_keep (by assumption) ?_ | apply State.landEffects_keep' | apply Keep.ite1 | apply Keep.ite | refine Keep.foldl ?_ (fun _ _ _ => ?_)) | (lift_lets; intro x; first | (refine suffices hx : Keep a x from ?_; ?_; on_goal 1 => unfold x; on_goal 2 => clear_value x) | skip) | (fail_if_no_progress with_reducible refine Keep.plain ?_) | split | dsimp only
  | cons y l ih =>
    unfold State.landAll
    repeat' first | (with_reducible first | assumption | apply ih | refine Keep.of1 (by assumption) (ih ?_) | refine State.landEffects_keep (by assumption) ?_ | apply State.landEffects_keep' | apply Keep.ite1 | apply Keep.ite | refine Keep.foldl ?_ (fun _ _ _ => ?_)) | (lift_lets; intro x; first | (refine suffices hx : Keep a x from ?_; ?_; on_goal 1 => unfold x; on_goal 2 => clear_value x) | skip) | (fail_if_no_progress with_reducible refine Keep.plain ?_) | split | dsimp only
theorem State.landAll_keep {a s t : State} {x0 x1 x2} {y} (e : (State.landAll s x0 x1 x2) = (t, y)) (h : Keep a s) : Keep a t := by
  have g := congrArg Prod.fst e; dsimp only at g; rw [← g]; exact State.landAll_keep' h

theorem State.trap_keep' {a s : State} (h : Keep a s) {x0 x1 x2 x3 x4 x5} : Keep a (State.trap s x0 x1 x2 x3 x4
  x5).1 := by
  unfold State.trap
  repeat' first | (with_reducible first | assumption | apply State.bump_keep | apply State.puts_keep) | (lift_lets; intro x; first | (refine suffices hx : Keep a x from ?_; ?_; on_goal 1 => unfold x; on_goal 2 => clear_value x) | skip) | split | dsimp only
theorem State.trap_keep {a s t : State} {x0 x1 x2 x3 x4 x5} {y} (e : (State.trap s x0 x1 x2 x3 x4 x5) = (t, y)) (h
  : Keep a s) : Keep a t := by
  have g := congrArg Prod.fst e; dsimp only at g; rw [← g]; exact State.trap_keep' h

theorem State.request_keep' {a s : State} (h : Keep a s) {x0 x1 x2} : Keep a (State.request s x0 x1 x2).1 := by
  unfold State.request
  repeat' (with_reducible first | assumption | apply State.bump_keep | apply Keep.ite1 | apply Keep.ite)
theorem State.request_keep {a s t : State} {x0 x1 x2} {y} (e : (State.request s x0 x1 x2) = (t, y)) (h : Keep a s)
  : Keep a t := by
  have g := congrArg Prod.fst e; dsimp only at g; rw [← g]; exact State.request_keep' h

theorem State.runWord_keep' {a s : State} (h : Keep a s) {x0 x1 x2 x3} : Keep a (State.runWord s x0 x1 x2 x3).1 := by
  unfold State.runWord
  repeat' first | (with_reducible first | assumption | refine State.trap_keep (by assumption) ?_ | apply State.trap_keep' | refine State.request_keep (by assumption) ?_ | apply State.request_keep' | apply Keep.ite1 | apply Keep.ite | refine Keep.foldl ?_ (fun _ _ _ => ?_)) | (lift_lets; intro x; first | (refine suffices hx : Keep a x from ?_; ?_; on_goal 1 => unfold x; on_goal 2 => clear_value x) | skip) | (fail_if_no_progress with_reducible refine Keep.plain ?_) | split | dsimp only
theorem State.runWord_keep {a s t : State} {x0 x1 x2 x3} {y} (e : (State.runWord s x0 x1 x2 x3) = (t, y)) (h : Keep a s) : Keep a t := by
  have g := congrArg Prod.fst e; dsimp only at g; rw [← g]; exact State.runWord_keep' h

theorem State.storeError_keep {a s : State} (h : Keep a s) {x0 x1 x2 x3} : Keep a (State.storeError s x0 x1 x2 x3)
  := by
  unfold State.storeError
  repeat' (with_reducible first | assumption | apply State.puts_keep | apply State.raise_keep | apply State.bump_keep | apply Keep.ite)

theorem State.lookAll_keep' {a s : State} (h : Keep a s) {x0 x1 x2 x3 x4} : Keep a (State.lookAll s x0 x1 x2 x3 x4).1 := by
  induction x4 generalizing s x0 x1 x2 x3 with
  | nil =>
    unfold State.lookAll
    repeat' first | (with_reducible first | assumption | refine State.lookStep_keep (by assumption) ?_ | apply State.lookStep_keep' | apply Keep.ite1 | apply Keep.ite | refine Keep.foldl ?_ (fun _ _ _ => ?_)) | (lift_lets; intro x; first | (refine suffices hx : Keep a x from ?_; ?_; on_goal 1 => unfold x; on_goal 2 => clear_value x) | skip) | (fail_if_no_progress with_reducible refine Keep.plain ?_) | split | dsimp only
  | cons y l ih =>
    unfold State.lookAll
    repeat' first | (with_reducible first | assumption | apply ih | refine Keep.of1 (by assumption) (ih ?_) | refine State.lookStep_keep (by assumption) ?_ | apply State.lookStep_keep' | apply Keep.ite1 | apply Keep.ite | refine Keep.foldl ?_ (fun _ _ _ => ?_)) | (lift_lets; intro x; first | (refine suffices hx : Keep a x from ?_; ?_; on_goal 1 => unfold x; on_goal 2 => clear_value x) | skip) | (fail_if_no_progress with_reducible refine Keep.plain ?_) | split | dsimp only
theorem State.lookAll_keep {a s t : State} {x0 x1 x2 x3 x4} {y} (e : (State.lookAll s x0 x1 x2 x3 x4) = (t, y)) (h : Keep a s) : Keep a t := by
  have g := congrArg Prod.fst e; dsimp only at g; rw [← g]; exact State.lookAll_keep' h

theorem State.stageStep_keep' {a s : State} (h : Keep a s) {x0 x1 x2 x3} : Keep a (State.stageStep s x0 x1 x2 x3).1 := by
  unfold State.stageStep
  repeat' first | (with_reducible first | assumption | apply State.storeError_keep | refine State.lookAll_keep (by assumption) ?_ | apply State.lookAll_keep' | refine State.landAll_keep (by assumption) ?_ | apply State.landAll_keep' | refine State.runWord_keep (by assumption) ?_ | apply State.runWord_keep' | refine State.trap_keep (by assumption) ?_ | apply State.trap_keep' | apply Keep.ite1 | apply Keep.ite | refine Keep.foldl ?_ (fun _ _ _ => ?_)) | (lift_lets; intro x; first | (refine suffices hx : Keep a x from ?_; ?_; on_goal 1 => unfold x; on_goal 2 => clear_value x) | skip) | (fail_if_no_progress with_reducible refine Keep.plain ?_) | split | dsimp only
theorem State.stageStep_keep {a s t : State} {x0 x1 x2 x3} {y} (e : (State.stageStep s x0 x1 x2 x3) = (t, y)) (h : Keep a s) : Keep a t := by
  have g := congrArg Prod.fst e; dsimp only at g; rw [← g]; exact State.stageStep_keep' h

theorem State.setPkt_keep {a s : State} (h : Keep a s) {x0} : Keep a (State.setPkt s x0) := Keep.plain h

theorem State.setCopy_keep {a s : State} (h : Keep a s) {x0} : Keep a (State.setCopy s x0) := Keep.plain h

theorem State.csRepair_keep {a s : State} (h : Keep a s) {x0 x1 x2 x3 x4} : Keep a (State.csRepair s x0 x1 x2 x3
  x4) := by
  unfold State.csRepair
  repeat' first | (with_reducible first | assumption | apply State.raise_keep | apply State.bump_keep | apply Keep.ite) | (lift_lets; intro x; first | (refine suffices hx : Keep a x from ?_; ?_; on_goal 1 => unfold x; on_goal 2 => clear_value x) | skip) | (fail_if_no_progress with_reducible refine Keep.plain ?_) | split | dsimp only

theorem State.seqRepair_keep {a s : State} (h : Keep a s) {x0 x1 x2} : Keep a (State.seqRepair s x0 x1 x2) := by
  unfold State.seqRepair
  repeat' (with_reducible first | assumption | apply State.puts_keep | apply State.raise_keep | apply State.bump_keep | apply State.put_keep | apply Keep.ite)

/-! ### Machine/Meter.lean -/

theorem State.onMeter_keep {a s : State} (h : Keep a s) {p k f} : Keep a (s.onMeter p k f) :=
  h.upd rfl rfl (le_refl _) (List.suffix_refl _) rfl
    (fun c => ⟨c.regs, c.cells, c.entries, smWf_smPut _ _ _ _ c.meters, c.flows, c.gates, c.profiles, c.policers,
      c.groups, c.members⟩) (fun o => ⟨o.total, o.quarter⟩)

theorem State.setFlow_keep {a s : State} (h : Keep a s) {k v} :
    Keep a { s with mtr := { s.mtr with flows := smPut (fun _ => 0) s.mtr.flows k v } } :=
  h.upd rfl rfl (le_refl _) (List.suffix_refl _) rfl
    (fun c => ⟨c.regs, c.cells, c.entries, c.meters, smWf_smPut _ _ _ _ c.flows, c.gates, c.profiles, c.policers,
      c.groups, c.members⟩) (fun o => ⟨o.total, o.quarter⟩)

theorem State.addFlow_keep {a s : State} (h : Keep a s) {k p b d} : Keep a (s.addFlow k p b d) :=
  State.setFlow_keep h

theorem State.meterDecision_keep {a s : State} (h : Keep a s) {x0 x1 x2 x3 x4} : Keep a (State.meterDecision s x0
  x1 x2 x3 x4) := by
  unfold State.meterDecision
  repeat' (with_reducible first | assumption | apply State.onMeter_keep | apply State.addFlow_keep)

theorem State.meterLate_keep {a s : State} (h : Keep a s) {x0 x1 x2} : Keep a (State.meterLate s x0 x1 x2) := by
  induction x2 generalizing s  with
  | nil =>
    unfold State.meterLate
    repeat' (with_reducible first | assumption | apply State.onMeter_keep | apply State.addFlow_keep | apply Keep.ite)
  | cons y l ih =>
    unfold State.meterLate
    repeat' (with_reducible first | assumption | apply ih | apply State.onMeter_keep | apply State.addFlow_keep | apply Keep.ite)

theorem State.meterRemoved_keep {a s : State} (h : Keep a s) {x0} : Keep a (State.meterRemoved s x0) := by
  unfold State.meterRemoved
  repeat' (with_reducible first | assumption | apply State.onMeter_keep | apply State.setPkt_keep | apply Keep.ite)

theorem State.meterSent_keep {a s : State} (h : Keep a s) {x0 x1 x2 x3} : Keep a (State.meterSent s x0 x1 x2 x3) := by
  unfold State.meterSent
  repeat' (with_reducible first | assumption | apply State.onMeter_keep)

theorem State.meterMarked_keep {a s : State} (h : Keep a s) {x0 x1} : Keep a (State.meterMarked s x0 x1) := by
  unfold State.meterMarked
  repeat' (with_reducible first | assumption | apply State.onMeter_keep)

theorem State.samplePeaks_keep {a s : State} (h : Keep a s) : Keep a (State.samplePeaks s) := by
  unfold State.samplePeaks
  repeat' (with_reducible first | assumption | apply State.onMeter_keep | refine Keep.foldl ?_ (fun _ _ _ => ?_))

theorem State.addVersion_keep {a s : State} (h : Keep a s) {x0 x1} : Keep a (State.addVersion s x0 x1) := Keep.plain h

theorem State.retireVersions_keep {a s : State} (h : Keep a s) : Keep a (State.retireVersions s) := Keep.plain h

theorem State.releaseVersion_keep {a s : State} (h : Keep a s) {x0} : Keep a (State.releaseVersion s x0) := by
  unfold State.releaseVersion
  repeat' (with_reducible first | assumption | apply State.retireVersions_keep | apply State.setPkt_keep | apply State.addVersion_keep | apply Keep.ite)

/-! ### Machine/Shaper.lean -/

theorem State.setSchNode_keep {a s : State} (h : Keep a s) {x0 x1} : Keep a (State.setSchNode s x0 x1) := Keep.plain h

theorem State.setSchQueue_keep {a s : State} (h : Keep a s) {x0 x1} : Keep a (State.setSchQueue s x0 x1) :=
  Keep.plain h

theorem State.setSchRoot_keep {a s : State} (h : Keep a s) {x0 x1} : Keep a (State.setSchRoot s x0 x1) := Keep.plain h

theorem State.setPolBucket_keep {a s : State} (h : Keep a s) {x0 x1 x2} : Keep a (State.setPolBucket s x0 x1 x2) :=
  Keep.plain h

theorem State.rebucketPolicer_keep {a s : State} (h : Keep a s) {x0 x1 x2} : Keep a (State.rebucketPolicer s x0 x1
  x2) := by
  unfold State.rebucketPolicer
  repeat' (with_reducible first | assumption | apply State.setPolBucket_keep | refine Keep.foldl ?_ (fun _ _ _ => ?_))

theorem State.police_keep' {a s : State} (h : Keep a s) {x0 x1 x2} : Keep a (State.police s x0 x1 x2).1 := by
  unfold State.police
  repeat' first | (with_reducible first | assumption | apply State.setPolBucket_keep | apply State.bump_keep | apply Keep.ite1 | apply Keep.ite) | (fail_if_no_progress with_reducible refine Keep.plain ?_)
theorem State.police_keep {a s t : State} {x0 x1 x2} {y} (e : (State.police s x0 x1 x2) = (t, y)) (h : Keep a s) :
  Keep a t := by
  have g := congrArg Prod.fst e; dsimp only at g; rw [← g]; exact State.police_keep' h

theorem State.showGates_keep {a s : State} (h : Keep a s) {x0} : Keep a (State.showGates s x0) := by
  unfold State.showGates
  repeat' first | (with_reducible first | assumption | apply State.puts_keep) | (lift_lets; intro x; first | (refine suffices hx : Keep a x from ?_; ?_; on_goal 1 => unfold x; on_goal 2 => clear_value x) | skip) | split | dsimp only

theorem State.installGates_keep {a s : State} (h : Keep a s) {x0 x1} : Keep a (State.installGates s x0 x1) := by
  unfold State.installGates
  repeat' first | (with_reducible first | assumption | apply State.put_keep | apply State.showGates_keep | apply State.bump_keep | apply Keep.ite | refine Keep.foldl ?_ (fun _ _ _ => ?_)) | (lift_lets; intro x; first | (refine suffices hx : Keep a x from ?_; ?_; on_goal 1 => unfold x; on_goal 2 => clear_value x) | skip) | (fail_if_no_progress with_reducible refine Keep.plain ?_) | split | dsimp only

theorem State.gateTakeover_keep {a s : State} (h : Keep a s) {x0} : Keep a (State.gateTakeover s x0) := by
  unfold State.gateTakeover
  repeat' first | (with_reducible first | assumption | apply State.installGates_keep | apply Keep.ite | refine Keep.foldl ?_ (fun _ _ _ => ?_)) | (lift_lets; intro x; first | (refine suffices hx : Keep a x from ?_; ?_; on_goal 1 => unfold x; on_goal 2 => clear_value x) | skip) | (fail_if_no_progress with_reducible refine Keep.plain ?_) | split | dsimp only

theorem State.gatesStepped_keep {a s : State} (h : Keep a s) : Keep a (State.gatesStepped s) := by
  unfold State.gatesStepped
  repeat' first | (with_reducible first | assumption | apply State.installGates_keep | apply State.showGates_keep | apply Keep.ite | refine Keep.foldl ?_ (fun _ _ _ => ?_)) | (lift_lets; intro x; first | (refine suffices hx : Keep a x from ?_; ?_; on_goal 1 => unfold x; on_goal 2 => clear_value x) | skip) | (fail_if_no_progress with_reducible refine Keep.plain ?_) | split | dsimp only

/-! ### Machine/Buffer.lean -/

theorem State.setXoff_keep {a s : State} (h : Keep a s) {x0 x1} : Keep a (State.setXoff s x0 x1) := by
  unfold State.setXoff
  repeat' first | (with_reducible first | assumption | apply State.put_keep) | (fail_if_no_progress with_reducible refine Keep.plain ?_)

theorem State.xoffSet_keep {a s : State} (h : Keep a s) {x0 x1} : Keep a (State.xoffSet s x0 x1) := by
  unfold State.xoffSet
  repeat' first | (with_reducible first | assumption | apply State.setXoff_keep | apply Keep.ite) | (fail_if_no_progress with_reducible refine Keep.plain ?_)

theorem State.xoffTry_keep {a s : State} (h : Keep a s) {x0} : Keep a (State.xoffTry s x0) := by
  unfold State.xoffTry
  repeat' first | (with_reducible first | assumption | apply State.setXoff_keep | apply Keep.ite) | (fail_if_no_progress with_reducible refine Keep.plain ?_)

theorem State.xoffSweep_keep {a s : State} (h : Keep a s) {x0} : Keep a (State.xoffSweep s x0) := by
  unfold State.xoffSweep
  repeat' (with_reducible first | assumption | apply State.xoffTry_keep | refine Keep.foldl ?_ (fun _ _ _ => ?_))

theorem State.fifoGrown_keep {a s : State} (h : Keep a s) {x0 x1} : Keep a (State.fifoGrown s x0 x1) := by
  unfold State.fifoGrown
  repeat' first | (with_reducible first | assumption | apply State.xoffSet_keep | apply Keep.ite | refine Keep.foldl ?_ (fun _ _ _ => ?_)) | (lift_lets; intro x; first | (refine suffices hx : Keep a x from ?_; ?_; on_goal 1 => unfold x; on_goal 2 => clear_value x) | skip) | (fail_if_no_progress with_reducible refine Keep.plain ?_) | split | dsimp only

theorem State.charge_keep {a s : State} (h : Keep a s) {x0 x1} : Keep a (State.charge s x0 x1) := by
  unfold State.charge
  repeat' first | (with_reducible first | assumption | apply State.put_keep | apply State.chCross_keep | apply State.xoffSet_keep | apply Keep.ite | refine Keep.foldl ?_ (fun _ _ _ => ?_)) | (lift_lets; intro x; first | (refine suffices hx : Keep a x from ?_; ?_; on_goal 1 => unfold x; on_goal 2 => clear_value x) | skip) | (fail_if_no_progress with_reducible refine Keep.plain ?_) | split | dsimp only

theorem State.unchargeCells_keep {a s : State} (h : Keep a s) {x0 x1} : Keep a (State.unchargeCells s x0 x1) := by
  unfold State.unchargeCells
  repeat' first | (with_reducible first | assumption | apply State.put_keep | apply State.xoffTry_keep) | (lift_lets; intro x; first | (refine suffices hx : Keep a x from ?_; ?_; on_goal 1 => unfold x; on_goal 2 => clear_value x) | skip) | (fail_if_no_progress with_reducible refine Keep.plain ?_) | split | dsimp only

theorem State.trimCharge_keep {a s : State} (h : Keep a s) {x0 x1} : Keep a (State.trimCharge s x0 x1) := by
  unfold State.trimCharge
  repeat' (with_reducible first | assumption | apply State.unchargeCells_keep | apply State.setPkt_keep)

theorem State.setCredit_keep {a s : State} (h : Keep a s) {x0 x1} : Keep a (State.setCredit s x0 x1) := Keep.plain h

theorem State.oweCredit_keep {a s : State} (h : Keep a s) {x0} : Keep a (State.oweCredit s x0) := by
  unfold State.oweCredit
  repeat' first | (with_reducible first | assumption | apply State.setCredit_keep | apply Keep.ite | refine Keep.foldl ?_ (fun _ _ _ => ?_)) | (lift_lets; intro x; first | (refine suffices hx : Keep a x from ?_; ?_; on_goal 1 => unfold x; on_goal 2 => clear_value x) | skip) | (fail_if_no_progress with_reducible refine Keep.plain ?_) | split | dsimp only

theorem State.setCell_keep {a s : State} (h : Keep a s) {p v} : Keep a (s.setCell p v) :=
  h.upd rfl rfl (le_refl _) (List.suffix_refl _) rfl
    (fun c => ⟨c.regs, smWf_smPut _ _ _ _ c.cells, c.entries, c.meters, c.flows, c.gates, c.profiles, c.policers,
      c.groups, c.members⟩) (fun o => ⟨o.total, o.quarter⟩)

theorem State.setPtrs_keep {a s : State} (h : Keep a s) {x0 x1 x2} : Keep a (State.setPtrs s x0 x1 x2) := by
  unfold State.setPtrs
  repeat' first | (with_reducible first | assumption | apply Keep.ite | refine Keep.foldl ?_ (fun _ _ _ => ?_)) | (lift_lets; intro x; first | (refine suffices hx : Keep a x from ?_; ?_; on_goal 1 => unfold x; on_goal 2 => clear_value x) | skip) | (fail_if_no_progress with_reducible refine Keep.plain ?_) | split | dsimp only

theorem State.setRuns_keep {a s : State} (h : Keep a s) {x0 x1} : Keep a (State.setRuns s x0 x1) := by
  unfold State.setRuns
  repeat' first | (with_reducible first | assumption | apply Keep.ite | refine Keep.foldl ?_ (fun _ _ _ => ?_)) | (lift_lets; intro x; first | (refine suffices hx : Keep a x from ?_; ?_; on_goal 1 => unfold x; on_goal 2 => clear_value x) | skip) | (fail_if_no_progress with_reducible refine Keep.plain ?_) | split | dsimp only

theorem State.returnPtr_keep {a s : State} (h : Keep a s) {x0 x1} : Keep a (State.returnPtr s x0 x1) := by
  unfold State.returnPtr
  repeat' first | (with_reducible first | assumption | apply State.setPtrs_keep | apply State.setRuns_keep | apply Keep.ite | refine Keep.foldl ?_ (fun _ _ _ => ?_)) | (lift_lets; intro x; first | (refine suffices hx : Keep a x from ?_; ?_; on_goal 1 => unfold x; on_goal 2 => clear_value x) | skip) | (fail_if_no_progress with_reducible refine Keep.plain ?_) | split | dsimp only

theorem State.refuseRef_keep {a s : State} (h : Keep a s) {x0 x1 x2 x3 x4} : Keep a (State.refuseRef s x0 x1 x2 x3
  x4) := by
  unfold State.refuseRef
  repeat' (with_reducible first | assumption | apply State.bump_keep | apply State.puts_keep | apply State.raise_keep | apply Keep.ite)

theorem State.freeCell_keep {a s : State} (h : Keep a s) {x0 x1 x2} : Keep a (State.freeCell s x0 x1 x2) := by
  unfold State.freeCell
  repeat' first | (with_reducible first | assumption | apply State.trimCharge_keep | apply State.oweCredit_keep | apply State.returnPtr_keep | apply Keep.ite | refine Keep.foldl ?_ (fun _ _ _ => ?_)) | (lift_lets; intro x; first | (refine suffices hx : Keep a x from ?_; ?_; on_goal 1 => unfold x; on_goal 2 => clear_value x) | skip) | (fail_if_no_progress with_reducible refine Keep.plain ?_) | split | dsimp only

theorem State.freeRef_keep {a s : State} (h : Keep a s) {x0 x1 x2 x3} : Keep a (State.freeRef s x0 x1 x2 x3) := by
  unfold State.freeRef
  repeat' (with_reducible first | assumption | apply State.refuseRef_keep | apply State.setCell_keep | apply State.freeCell_keep | apply Keep.ite)

theorem State.quarantine_keep {a s : State} (h : Keep a s) {x0} : Keep a (State.quarantine s x0) := by
  unfold State.quarantine
  repeat' first | (with_reducible first | assumption | apply State.raise_keep | apply Keep.ite) | (fail_if_no_progress with_reducible refine Keep.plain ?_)

theorem State.readErrors_keep {a s : State} (h : Keep a s) {x0 x1} : Keep a (State.readErrors s x0 x1) := by
  unfold State.readErrors
  repeat' first | (with_reducible first | assumption | apply State.quarantine_keep | apply State.raise_keep | apply Keep.ite | refine Keep.foldl ?_ (fun _ _ _ => ?_)) | (lift_lets; intro x; first | (refine suffices hx : Keep a x from ?_; ?_; on_goal 1 => unfold x; on_goal 2 => clear_value x) | skip) | (fail_if_no_progress with_reducible refine Keep.plain ?_) | split | dsimp only

theorem State.dropPkt_keep {a s : State} (h : Keep a s) {x0} : Keep a (State.dropPkt s x0) := Keep.plain h

theorem State.settle_keep {a s : State} (h : Keep a s) {x0} : Keep a (State.settle s x0) := by
  unfold State.settle
  repeat' first | (with_reducible first | assumption | apply State.trimCharge_keep | apply State.setPkt_keep | apply State.releaseVersion_keep | apply State.dropPkt_keep | apply State.xoffSweep_keep | apply Keep.ite) | (lift_lets; intro x; first | (refine suffices hx : Keep a x from ?_; ?_; on_goal 1 => unfold x; on_goal 2 => clear_value x) | skip) | split | dsimp only

theorem State.dropCopy_keep {a s : State} (h : Keep a s) {x0} : Keep a (State.dropCopy s x0) := Keep.plain h

theorem State.presentRest_keep {a s : State} (h : Keep a s) {x0} : Keep a (State.presentRest s x0) := by
  unfold State.presentRest
  repeat' first | (with_reducible first | assumption | apply State.setPkt_keep | apply State.freeRef_keep | apply Keep.ite | refine Keep.foldl ?_ (fun _ _ _ => ?_)) | (lift_lets; intro x; first | (refine suffices hx : Keep a x from ?_; ?_; on_goal 1 => unfold x; on_goal 2 => clear_value x) | skip) | (fail_if_no_progress with_reducible refine Keep.plain ?_) | split | dsimp only

theorem State.setChild_keep {a s : State} (h : Keep a s) {x0 x1 x2} : Keep a (State.setChild s x0 x1 x2) := by
  unfold State.setChild
  repeat' (with_reducible first | assumption | apply State.setSchQueue_keep | apply State.setSchNode_keep | apply Keep.ite)

theorem State.setPromoted_keep {a s : State} (h : Keep a s) {x0 x1 x2} : Keep a (State.setPromoted s x0 x1 x2) := by
  unfold State.setPromoted
  repeat' (with_reducible first | assumption | apply State.put_keep)

theorem State.afterChoice_keep {a s : State} (h : Keep a s) {x0 x1} : Keep a (State.afterChoice s x0 x1) := by
  induction x1 generalizing s x0 with
  | nil =>
    unfold State.afterChoice
    repeat' first | (with_reducible first | assumption | apply State.setChild_keep | apply State.setPromoted_keep | apply Keep.ite | refine Keep.foldl ?_ (fun _ _ _ => ?_)) | (lift_lets; intro x; first | (refine suffices hx : Keep a x from ?_; ?_; on_goal 1 => unfold x; on_goal 2 => clear_value x) | skip) | (fail_if_no_progress with_reducible refine Keep.plain ?_) | split | dsimp only
  | cons y l ih =>
    unfold State.afterChoice
    repeat' first | (with_reducible first | assumption | apply ih | apply State.setChild_keep | apply State.setPromoted_keep | apply Keep.ite | refine Keep.foldl ?_ (fun _ _ _ => ?_)) | (lift_lets; intro x; first | (refine suffices hx : Keep a x from ?_; ?_; on_goal 1 => unfold x; on_goal 2 => clear_value x) | skip) | (fail_if_no_progress with_reducible refine Keep.plain ?_) | split | dsimp only

theorem State.settleSched_keep {a s : State} (h : Keep a s) {x0} : Keep a (State.settleSched s x0) := by
  unfold State.settleSched
  repeat' (with_reducible first | assumption | apply State.afterChoice_keep)

theorem State.queueLost_keep {a s : State} (h : Keep a s) {x0} : Keep a (State.queueLost s x0) := by
  unfold State.queueLost
  repeat' first | (with_reducible first | assumption | apply State.settleSched_keep | apply Keep.ite | refine Keep.foldl ?_ (fun _ _ _ => ?_)) | (lift_lets; intro x; first | (refine suffices hx : Keep a x from ?_; ?_; on_goal 1 => unfold x; on_goal 2 => clear_value x) | skip) | (fail_if_no_progress with_reducible refine Keep.plain ?_) | split | dsimp only

theorem State.removeCopy_keep {a s : State} (h : Keep a s) {x0} : Keep a (State.removeCopy s x0) := by
  unfold State.removeCopy
  repeat' first | (with_reducible first | assumption | apply State.presentRest_keep | apply State.dropCopy_keep | apply State.queueLost_keep | apply State.settle_keep | apply Keep.ite | refine Keep.foldl ?_ (fun _ _ _ => ?_)) | (lift_lets; intro x; first | (refine suffices hx : Keep a x from ?_; ?_; on_goal 1 => unfold x; on_goal 2 => clear_value x) | skip) | (fail_if_no_progress with_reducible refine Keep.plain ?_) | split | dsimp only

theorem State.countQueueDrop_keep {a s : State} (h : Keep a s) {x0} : Keep a (State.countQueueDrop s x0) :=
  Keep.plain h

theorem State.discardCopy_keep {a s : State} (h : Keep a s) {x0} : Keep a (State.discardCopy s x0) := by
  unfold State.discardCopy
  repeat' first | (with_reducible first | assumption | apply State.countNotes_keep | apply State.meterRemoved_keep | apply State.removeCopy_keep | apply Keep.ite | refine Keep.foldl ?_ (fun _ _ _ => ?_)) | (lift_lets; intro x; first | (refine suffices hx : Keep a x from ?_; ?_; on_goal 1 => unfold x; on_goal 2 => clear_value x) | skip) | (fail_if_no_progress with_reducible refine Keep.plain ?_) | split | dsimp only

theorem State.flushCopy_keep {a s : State} (h : Keep a s) {x0} : Keep a (State.flushCopy s x0) := by
  unfold State.flushCopy
  repeat' (with_reducible first | assumption | apply State.bump_keep | apply State.discardCopy_keep | apply State.countQueueDrop_keep)

theorem State.flushCopies_keep {a s : State} (h : Keep a s) {x0} : Keep a (State.flushCopies s x0) := by
  unfold State.flushCopies
  repeat' first | (with_reducible first | assumption | apply State.flushCopy_keep | refine Keep.foldl ?_ (fun _ _ _ => ?_)) | split | dsimp only

theorem State.flushQueue_keep {a s : State} (h : Keep a s) {x0} : Keep a (State.flushQueue s x0) := by
  unfold State.flushQueue
  repeat' (with_reducible first | assumption | apply State.flushCopies_keep)

theorem State.flushPort_keep {a s : State} (h : Keep a s) {x0} : Keep a (State.flushPort s x0) := by
  unfold State.flushPort
  repeat' (with_reducible first | assumption | apply State.flushCopies_keep)

theorem State.chainCell_keep {a s : State} (h : Keep a s) {x0 x1 x2} : Keep a (State.chainCell s x0 x1 x2) := by
  unfold State.chainCell
  repeat' first | (with_reducible first | assumption | apply State.setCell_keep) | split | dsimp only

theorem State.markCut_keep {a s : State} (h : Keep a s) {x0} : Keep a (State.markCut s x0) := Keep.plain h

theorem State.putCell_keep {a s : State} (h : Keep a s) {x0 x1 x2 x3} : Keep a (State.putCell s x0 x1 x2 x3) := by
  unfold State.putCell
  repeat' first | (with_reducible first | assumption | apply State.setCell_keep | apply State.chainCell_keep | apply State.charge_keep | apply State.bump_keep | apply State.setPkt_keep | apply State.perf_keep | apply State.trimCharge_keep | apply State.markCut_keep | apply State.freeRef_keep | apply Keep.ite | refine Keep.foldl ?_ (fun _ _ _ => ?_)) | (lift_lets; intro x; first | (refine suffices hx : Keep a x from ?_; ?_; on_goal 1 => unfold x; on_goal 2 => clear_value x) | skip) | (fail_if_no_progress with_reducible refine Keep.plain ?_) | split | dsimp only

theorem State.crossCell_keep {a s : State} (h : Keep a s) {x0} : Keep a (State.crossCell s x0) := by
  unfold State.crossCell
  repeat' first | (with_reducible first | assumption | apply State.chCross_keep | apply Keep.ite | refine Keep.foldl ?_ (fun _ _ _ => ?_)) | (lift_lets; intro x; first | (refine suffices hx : Keep a x from ?_; ?_; on_goal 1 => unfold x; on_goal 2 => clear_value x) | skip) | (fail_if_no_progress with_reducible refine Keep.plain ?_) | split | dsimp only

theorem State.cellWrite_keep {a s : State} (h : Keep a s) {x0 x1} : Keep a (State.cellWrite s x0 x1) := by
  unfold State.cellWrite
  repeat' first | (with_reducible first | assumption | apply State.crossCell_keep | apply State.setPtrs_keep | apply State.putCell_keep | apply State.xoffSweep_keep | apply Keep.ite | refine Keep.foldl ?_ (fun _ _ _ => ?_)) | (lift_lets; intro x; first | (refine suffices hx : Keep a x from ?_; ?_; on_goal 1 => unfold x; on_goal 2 => clear_value x) | skip) | (fail_if_no_progress with_reducible refine Keep.plain ?_) | split | dsimp only

theorem State.rakeMoved_keep {a s : State} (h : Keep a s) {x0 x1} : Keep a (State.rakeMoved s x0 x1) := by
  unfold State.rakeMoved
  repeat' (with_reducible first | assumption | apply State.perf_keep)

theorem State.initRing_keep {a s : State} (h : Keep a s) : Keep a (State.initRing s) := by
  unfold State.initRing
  repeat' first | (with_reducible first | assumption | apply State.setRuns_keep | apply Keep.ite | refine Keep.foldl ?_ (fun _ _ _ => ?_)) | (lift_lets; intro x; first | (refine suffices hx : Keep a x from ?_; ?_; on_goal 1 => unfold x; on_goal 2 => clear_value x) | skip) | (fail_if_no_progress with_reducible refine Keep.plain ?_) | split | dsimp only

theorem State.refillOne_keep {a s : State} (h : Keep a s) {x0 x1} : Keep a (State.refillOne s x0 x1) := by
  unfold State.refillOne
  repeat' first | (with_reducible first | assumption | apply State.bump_keep | apply State.setPtrs_keep | apply State.setRuns_keep | apply State.grant_keep | apply State.rakeMoved_keep | apply Keep.ite | refine Keep.foldl ?_ (fun _ _ _ => ?_)) | (lift_lets; intro x; first | (refine suffices hx : Keep a x from ?_; ?_; on_goal 1 => unfold x; on_goal 2 => clear_value x) | skip) | (fail_if_no_progress with_reducible refine Keep.plain ?_) | split | dsimp only

theorem State.trimOne_keep {a s : State} (h : Keep a s) {x0 x1} : Keep a (State.trimOne s x0 x1) := by
  unfold State.trimOne
  repeat' first | (with_reducible first | assumption | apply State.setPtrs_keep | apply State.setRuns_keep | apply State.rakeMoved_keep | apply Keep.ite | refine Keep.foldl ?_ (fun _ _ _ => ?_)) | (lift_lets; intro x; first | (refine suffices hx : Keep a x from ?_; ?_; on_goal 1 => unfold x; on_goal 2 => clear_value x) | skip) | (fail_if_no_progress with_reducible refine Keep.plain ?_) | split | dsimp only

theorem State.rakeRefill_keep {a s : State} (h : Keep a s) {x0 x1 x2} : Keep a (State.rakeRefill s x0 x1 x2) := by
  unfold State.rakeRefill
  repeat' (with_reducible first | assumption | apply State.initRing_keep | apply State.refillOne_keep | apply State.trimOne_keep | apply Keep.ite | refine Keep.foldl ?_ (fun _ _ _ => ?_))

theorem State.rakeRebalance_keep {a s : State} (h : Keep a s) {x0} : Keep a (State.rakeRebalance s x0) := by
  unfold State.rakeRebalance
  repeat' first | (with_reducible first | assumption | apply State.setPtrs_keep | apply State.bump_keep | apply State.rakeMoved_keep | apply Keep.ite | refine Keep.foldl ?_ (fun _ _ _ => ?_)) | (lift_lets; intro x; first | (refine suffices hx : Keep a x from ?_; ?_; on_goal 1 => unfold x; on_goal 2 => clear_value x) | skip) | (fail_if_no_progress with_reducible refine Keep.plain ?_) | split | dsimp only

theorem State.returnCaches_keep {a s : State} (h : Keep a s) {x0} : Keep a (State.returnCaches s x0) := by
  unfold State.returnCaches
  repeat' first | (with_reducible first | assumption | apply State.setRuns_keep | apply State.setPtrs_keep | apply Keep.ite | refine Keep.foldl ?_ (fun _ _ _ => ?_)) | (lift_lets; intro x; first | (refine suffices hx : Keep a x from ?_; ?_; on_goal 1 => unfold x; on_goal 2 => clear_value x) | skip) | (fail_if_no_progress with_reducible refine Keep.plain ?_) | split | dsimp only

theorem State.portStop_keep {a s : State} (h : Keep a s) {x0} : Keep a (State.portStop s x0) := by
  unfold State.portStop
  repeat' first | (with_reducible first | assumption | apply State.put_keep | apply State.flushPort_keep | apply Keep.ite) | (fail_if_no_progress with_reducible refine Keep.plain ?_)

theorem State.portStopClear_keep {a s : State} (h : Keep a s) {x0} : Keep a (State.portStopClear s x0) := by
  unfold State.portStopClear
  repeat' first | (with_reducible first | assumption | apply State.put_keep) | (fail_if_no_progress with_reducible refine Keep.plain ?_)

theorem State.stopDrainEnd_keep {a s : State} (h : Keep a s) {x0} : Keep a (State.stopDrainEnd s x0) := by
  unfold State.stopDrainEnd
  repeat' first | (with_reducible first | assumption | apply State.flushPort_keep | apply Keep.ite) | (lift_lets; intro x; first | (refine suffices hx : Keep a x from ?_; ?_; on_goal 1 => unfold x; on_goal 2 => clear_value x) | skip) | (fail_if_no_progress with_reducible refine Keep.plain ?_) | split | dsimp only

theorem State.bufApply_keep {a s : State} (h : Keep a s) : Keep a (State.bufApply s) := by
  unfold State.bufApply
  repeat' first | (with_reducible first | assumption | apply State.startCheck_keep | apply Keep.ite) | (fail_if_no_progress with_reducible refine Keep.plain ?_)

theorem State.bufAccepted_keep {a s : State} (h : Keep a s) {x0} : Keep a (State.bufAccepted s x0) := by
  unfold State.bufAccepted
  repeat' first | (with_reducible first | assumption | apply State.puts_keep | refine Keep.foldl ?_ (fun _ _ _ => ?_)) | (fail_if_no_progress with_reducible refine Keep.plain ?_)

theorem State.beginInd_keep {a s : State} (h : Keep a s) {x0 x1 x2 x3 x4} : Keep a (State.beginInd s x0 x1 x2 x3
  x4) := by
  unfold State.beginInd
  repeat' first | (with_reducible first | assumption | apply State.put_keep | apply Keep.ite) | (fail_if_no_progress with_reducible refine Keep.plain ?_)

theorem State.bufIndGo_keep {a s : State} (h : Keep a s) {x0} : Keep a (State.bufIndGo s x0) := by
  unfold State.bufIndGo
  repeat' (with_reducible first | assumption | apply State.beginInd_keep)

theorem State.bufIndWrite_keep {a s : State} (h : Keep a s) {x0 x1 x2} : Keep a (State.bufIndWrite s x0 x1 x2) := by
  unfold State.bufIndWrite
  repeat' first | (with_reducible first | assumption) | (lift_lets; intro x; first | (refine suffices hx : Keep a x from ?_; ?_; on_goal 1 => unfold x; on_goal 2 => clear_value x) | skip) | (fail_if_no_progress with_reducible refine Keep.plain ?_) | split | dsimp only

theorem State.bufIndDone_keep {a s : State} (h : Keep a s) {x0} : Keep a (State.bufIndDone s x0) := by
  unfold State.bufIndDone
  repeat' (with_reducible first | assumption | apply State.bufIndWrite_keep | apply State.setRaw_keep | apply State.puts_keep | apply Keep.ite)

/-! ### Machine/Time.lean -/

theorem State.tickTime_keep {a s : State} (h : Keep a s) : Keep a s.tickTime := by
  unfold State.tickTime
  exact h.upd rfl rfl (le_refl _) (List.suffix_refl _) rfl
    (fun c => ⟨c.regs, c.cells, c.entries, c.meters, c.flows, c.gates, c.profiles, c.policers, c.groups, c.members⟩)
    (fun _ => ⟨Nat.mod_lt _ timeModulus_pos, Nat.mod_lt _ (by norm_num)⟩)

theorem State.setPulse_keep {a s : State} (h : Keep a s) {x0 x1} : Keep a (State.setPulse s x0 x1) := Keep.plain h

theorem State.setTime_keep {a s : State} (h : Keep a s) {x} : Keep a (s.setTime x) := by
  unfold State.setTime
  extract_lets n t new u v
  have hu : Keep a u := State.bump_keep h
  clear_value u
  exact State.gatesStepped_keep (hu.upd rfl rfl (le_refl _) (List.suffix_refl _) rfl
    (fun c => ⟨c.regs, c.cells, c.entries, c.meters, c.flows, c.gates, c.profiles, c.policers, c.groups, c.members⟩)
    (fun o => ⟨Nat.mod_lt _ timeModulus_pos, o.quarter⟩))

theorem State.stepTime_keep {a s : State} (h : Keep a s) {x0} : Keep a (State.stepTime s x0) := by
  unfold State.stepTime
  repeat' (with_reducible first | assumption | apply State.setTime_keep)

theorem State.latchNow_keep {a s : State} (h : Keep a s) : Keep a (State.latchNow s) := by
  unfold State.latchNow
  repeat' (with_reducible first | assumption | apply State.puts_keep)

theorem State.servoDisable_keep {a s : State} (h : Keep a s) : Keep a (State.servoDisable s) := by
  unfold State.servoDisable
  repeat' first | (with_reducible first | assumption | apply State.bump_keep | apply State.put_keep | apply Keep.ite) | (fail_if_no_progress with_reducible refine Keep.plain ?_)

theorem State.hostSample_keep {a s : State} (h : Keep a s) {x0} : Keep a (State.hostSample s x0) := by
  unfold State.hostSample
  repeat' first | (with_reducible first | assumption | apply State.bump_keep | apply Keep.ite) | (fail_if_no_progress with_reducible refine Keep.plain ?_)

theorem State.lockRun_keep {a s : State} (h : Keep a s) {n} :
    Keep a { s with time := { s.time with lockRun := n } } := by
  exact Keep.plain h

theorem State.servoApply_keep {a s : State} (h : Keep a s) {x t} : Keep a (s.servoApply x t) :=
  have hu : Keep a ((s.bump TIME_STAT.samples 1).put TIME_LAST_OFS.offset (toBits 64 x)) :=
    State.put_keep (State.bump_keep h)
  have hb {l} := State.puts_keep (l := l) hu
  Keep.ite (State.lockRun_keep (State.put_keep (State.bump_keep (State.stepTime_keep hu))))
    (Keep.ite (Keep.ite (State.put_keep (State.lockRun_keep hb)) (State.lockRun_keep hb))
      (State.put_keep (State.lockRun_keep (Keep.ite (State.bump_keep hb) hb))))

theorem State.servoSample_keep {a s : State} (h : Keep a s) : Keep a (State.servoSample s) := by
  unfold State.servoSample
  repeat' first | (with_reducible first | assumption | apply State.servoApply_keep | apply Keep.ite) | (lift_lets; intro x; first | (refine suffices hx : Keep a x from ?_; ?_; on_goal 1 => unfold x; on_goal 2 => clear_value x) | skip) | (fail_if_no_progress with_reducible refine Keep.plain ?_) | split | dsimp only

theorem State.fabDisable_keep {a s : State} (h : Keep a s) : Keep a (State.fabDisable s) := by
  unfold State.fabDisable
  repeat' first | (with_reducible first | assumption | apply State.puts_keep) | (fail_if_no_progress with_reducible refine Keep.plain ?_)

theorem State.takeParent_keep {a s : State} (h : Keep a s) {x0} : Keep a (State.takeParent s x0) := by
  unfold State.takeParent
  repeat' first | (with_reducible first | assumption | apply State.puts_keep | apply Keep.ite) | (fail_if_no_progress with_reducible refine Keep.plain ?_)

theorem State.fabSelect_keep {a s : State} (h : Keep a s) : Keep a s.fabSelect := by
  unfold State.fabSelect
  extract_lets best self t m
  have ht : Keep a t := State.puts_keep h
  clear_value best self t
  split
  · exact Keep.ite (State.puts_keep h) (Keep.plain ht)
  · exact Keep.ite (State.puts_keep h) (State.takeParent_keep h)

theorem State.setLink_keep {a s : State} (h : Keep a s) {x0} : Keep a (State.setLink s x0) := Keep.plain h

theorem State.timeItemSend_keep {a s : State} (h : Keep a s) {x0} : Keep a (State.timeItemSend s x0) := by
  unfold State.timeItemSend
  repeat' first | (with_reducible first | assumption | apply State.sendStream_keep | apply Keep.ite | refine Keep.foldl ?_ (fun _ _ _ => ?_)) | (lift_lets; intro x; first | (refine suffices hx : Keep a x from ?_; ?_; on_goal 1 => unfold x; on_goal 2 => clear_value x) | skip) | (fail_if_no_progress with_reducible refine Keep.plain ?_) | split | dsimp only

theorem State.fabSample_keep {a s : State} (h : Keep a s) {x0 x1 x2 x3 x4 x5} : Keep a (State.fabSample s x0 x1 x2
  x3 x4 x5) := by
  unfold State.fabSample
  repeat' first | (with_reducible first | assumption | apply State.bump_keep | apply State.setTime_keep | apply State.puts_keep | apply Keep.ite) | (fail_if_no_progress with_reducible refine Keep.plain ?_)

theorem State.timeItemReceive_keep {a s : State} (h : Keep a s) {x0 x1} : Keep a (State.timeItemReceive s x0 x1) := by
  unfold State.timeItemReceive
  repeat' (with_reducible first | assumption | apply State.bump_keep | apply State.fabSelect_keep | apply State.setLink_keep | apply State.fabSample_keep | apply Keep.ite)

theorem State.timeLinkTimeout_keep {a s : State} (h : Keep a s) {x0} : Keep a (State.timeLinkTimeout s x0) := by
  unfold State.timeLinkTimeout
  repeat' first | (with_reducible first | assumption | apply State.fabSelect_keep | apply Keep.ite) | (fail_if_no_progress with_reducible refine Keep.plain ?_)

theorem State.poArm_keep {a s : State} (h : Keep a s) {x0 x1} : Keep a (State.poArm s x0 x1) := by
  unfold State.poArm
  repeat' (with_reducible first | assumption | apply State.puts_keep | apply State.startCheck_keep)

theorem State.driveTpo_keep {a s : State} (h : Keep a s) {x0 x1} : Keep a (State.driveTpo s x0 x1) := by
  unfold State.driveTpo
  repeat' first | (with_reducible first | assumption | apply State.send_keep) | (fail_if_no_progress with_reducible refine Keep.plain ?_)

theorem State.poOff_keep {a s : State} (h : Keep a s) {x0} : Keep a (State.poOff s x0) := by
  unfold State.poOff
  repeat' (with_reducible first | assumption | apply State.put_keep | apply State.setPulse_keep)

theorem State.poDisarm_keep {a s : State} (h : Keep a s) {x0} : Keep a (State.poDisarm s x0) := by
  unfold State.poDisarm
  repeat' first | (with_reducible first | assumption | apply State.setPulse_keep | apply State.poOff_keep | apply Keep.ite) | split | dsimp only

theorem State.pulseEdge_keep {a s : State} (h : Keep a s) {x0} : Keep a (State.pulseEdge s x0) := by
  unfold State.pulseEdge
  repeat' first | (with_reducible first | assumption | apply State.setPulse_keep | apply State.driveTpo_keep | apply State.poOff_keep | apply Keep.ite | refine Keep.foldl ?_ (fun _ _ _ => ?_)) | (lift_lets; intro x; first | (refine suffices hx : Keep a x from ?_; ?_; on_goal 1 => unfold x; on_goal 2 => clear_value x) | skip) | (fail_if_no_progress with_reducible refine Keep.plain ?_) | split | dsimp only

theorem State.capOverflow_keep {a s : State} (h : Keep a s) {x0} : Keep a (State.capOverflow s x0) := by
  unfold State.capOverflow
  repeat' (with_reducible first | assumption | apply State.put_keep)

theorem State.timeEvent_keep {a s : State} (h : Keep a s) {x0} : Keep a (State.timeEvent s x0) := by
  unfold State.timeEvent
  repeat' (with_reducible first | assumption | apply State.event_keep | apply Keep.ite)

theorem State.capture_keep {a s : State} (h : Keep a s) {x0} : Keep a (State.capture s x0) := by
  unfold State.capture
  repeat' first | (with_reducible first | assumption | apply State.capOverflow_keep | apply State.puts_keep | apply State.timeEvent_keep | apply Keep.ite) | (fail_if_no_progress with_reducible refine Keep.plain ?_)

theorem State.captureEdge_keep {a s : State} (h : Keep a s) {x0 x1} : Keep a (State.captureEdge s x0 x1) := by
  unfold State.captureEdge
  repeat' first | (with_reducible first | assumption | apply State.capOverflow_keep | apply State.capture_keep | apply Keep.ite) | (lift_lets; intro x; first | (refine suffices hx : Keep a x from ?_; ?_; on_goal 1 => unfold x; on_goal 2 => clear_value x) | skip) | (fail_if_no_progress with_reducible refine Keep.plain ?_) | split | dsimp only

theorem State.servoAccepted_keep {a s : State} (h : Keep a s) : Keep a (State.servoAccepted s) := by
  unfold State.servoAccepted
  repeat' (with_reducible first | assumption | apply State.put_keep | apply Keep.ite)

theorem State.fabAccepted_keep {a s : State} (h : Keep a s) : Keep a (State.fabAccepted s) := by
  unfold State.fabAccepted
  repeat' (with_reducible first | assumption | apply State.put_keep)

theorem State.armAccepted_keep {a s : State} (h : Keep a s) {x0 x1 x2 x3 x4 x5} : Keep a (State.armAccepted s x0 x1
  x2 x3 x4 x5) := by
  unfold State.armAccepted
  repeat' (with_reducible first | assumption | apply State.put_keep | apply State.setPulse_keep)

/-! ### Machine/Ptp.lean -/

theorem State.ptpRx_keep {a s : State} (h : Keep a s) {x0 x1 x2} : Keep a (State.ptpRx s x0 x1 x2) := by
  unfold State.ptpRx
  repeat' first | (with_reducible first | assumption | apply State.timeEvent_keep | apply Keep.ite) | split | dsimp only

theorem State.ptpTx_keep' {a s : State} (h : Keep a s) {x0 x1 x2 x3} : Keep a (State.ptpTx s x0 x1 x2 x3).1 := by
  unfold State.ptpTx
  repeat' first | (with_reducible first | assumption | apply State.bump_keep | apply State.timeEvent_keep | apply Keep.ite1 | apply Keep.ite) | (lift_lets; intro x; first | (refine suffices hx : Keep a x from ?_; ?_; on_goal 1 => unfold x; on_goal 2 => clear_value x) | skip) | split | dsimp only
theorem State.ptpTx_keep {a s t : State} {x0 x1 x2 x3} {y} (e : (State.ptpTx s x0 x1 x2 x3) = (t, y)) (h : Keep a
  s) : Keep a t := by
  have g := congrArg Prod.fst e; dsimp only at g; rw [← g]; exact State.ptpTx_keep' h

/-! ### Machine/Parser.lean -/

theorem State.lanePerf_keep {a s : State} (h : Keep a s) {x0 x1 x2} : Keep a (State.lanePerf s x0 x1 x2) := by
  unfold State.lanePerf
  repeat' (with_reducible first | assumption | apply State.perf_keep)

theorem State.badItem_keep {a s : State} (h : Keep a s) {x0} : Keep a (State.badItem s x0) := by
  unfold State.badItem
  repeat' first | (with_reducible first | assumption | apply State.bump_keep) | (lift_lets; intro x; first | (refine suffices hx : Keep a x from ?_; ?_; on_goal 1 => unfold x; on_goal 2 => clear_value x) | skip) | split | dsimp only

theorem State.setFifo_keep {a s : State} (h : Keep a s) {x0 x1} : Keep a (State.setFifo s x0 x1) := Keep.plain h

theorem State.countRx_keep' {a s : State} (h : Keep a s) {x0 x1 x2} : Keep a (State.countRx s x0 x1 x2).1 := by
  unfold State.countRx
  repeat' (with_reducible first | assumption | apply State.lanePerf_keep | apply State.bump_keep | apply Keep.ite1 | apply Keep.ite)
theorem State.countRx_keep {a s t : State} {x0 x1 x2} {y} (e : (State.countRx s x0 x1 x2) = (t, y)) (h : Keep a s)
  : Keep a t := by
  have g := congrArg Prod.fst e; dsimp only at g; rw [← g]; exact State.countRx_keep' h

theorem State.showPaused_keep {a s : State} (h : Keep a s) {x0} : Keep a (State.showPaused s x0) := by
  unfold State.showPaused
  repeat' (with_reducible first | assumption | apply State.put_keep | apply Keep.ite)

theorem State.controlFrame_keep {a s : State} (h : Keep a s) {x0 x1} : Keep a (State.controlFrame s x0 x1) := by
  unfold State.controlFrame
  repeat' first | (with_reducible first | assumption | apply State.showPaused_keep | apply State.bump_keep | apply Keep.ite | refine Keep.foldl ?_ (fun _ _ _ => ?_)) | (lift_lets; intro x; first | (refine suffices hx : Keep a x from ?_; ?_; on_goal 1 => unfold x; on_goal 2 => clear_value x) | skip) | (fail_if_no_progress with_reducible refine Keep.plain ?_) | split | dsimp only

theorem State.rxControl_keep' {a s : State} (h : Keep a s) {x0 x1} : Keep a (State.rxControl s x0 x1).1 := by
  unfold State.rxControl
  repeat' (with_reducible first | assumption | apply State.bump_keep | refine State.countRx_keep (by assumption) ?_ | apply State.countRx_keep' | apply Keep.ite1 | apply Keep.ite)
theorem State.rxControl_keep {a s t : State} {x0 x1} {y} (e : (State.rxControl s x0 x1) = (t, y)) (h : Keep a s) :
  Keep a t := by
  have g := congrArg Prod.fst e; dsimp only at g; rw [← g]; exact State.rxControl_keep' h

theorem State.pfcReceive_keep {a s : State} (h : Keep a s) {x0 x1} : Keep a (State.pfcReceive s x0 x1) := by
  unfold State.pfcReceive
  repeat' first | (with_reducible first | assumption | refine State.rxControl_keep (by assumption) ?_ | apply State.rxControl_keep' | apply State.controlFrame_keep | apply Keep.ite | refine Keep.foldl ?_ (fun _ _ _ => ?_)) | (lift_lets; intro x; first | (refine suffices hx : Keep a x from ?_; ?_; on_goal 1 => unfold x; on_goal 2 => clear_value x) | skip) | (fail_if_no_progress with_reducible refine Keep.plain ?_) | split | dsimp only

theorem State.pauseReceive_keep {a s : State} (h : Keep a s) {x0 x1} : Keep a (State.pauseReceive s x0 x1) := by
  unfold State.pauseReceive
  repeat' first | (with_reducible first | assumption | refine State.rxControl_keep (by assumption) ?_ | apply State.rxControl_keep' | apply State.controlFrame_keep | apply Keep.ite | refine Keep.foldl ?_ (fun _ _ _ => ?_)) | (lift_lets; intro x; first | (refine suffices hx : Keep a x from ?_; ?_; on_goal 1 => unfold x; on_goal 2 => clear_value x) | skip) | (fail_if_no_progress with_reducible refine Keep.plain ?_) | split | dsimp only

theorem State.enqueueRx_keep {a s : State} (h : Keep a s) {x0 x1} : Keep a (State.enqueueRx s x0 x1) := by
  unfold State.enqueueRx
  repeat' first | (with_reducible first | assumption | apply State.bump_keep | apply State.setFifo_keep | apply State.fifoGrown_keep | apply Keep.ite | refine Keep.foldl ?_ (fun _ _ _ => ?_)) | (lift_lets; intro x; first | (refine suffices hx : Keep a x from ?_; ?_; on_goal 1 => unfold x; on_goal 2 => clear_value x) | skip) | (fail_if_no_progress with_reducible refine Keep.plain ?_) | split | dsimp only

theorem State.frameReceive_keep {a s : State} (h : Keep a s) {x0 x1 x2 x3} : Keep a (State.frameReceive s x0 x1 x2 x3) := by
  unfold State.frameReceive
  repeat' first | (with_reducible first | assumption | apply State.bump_keep | apply State.badItem_keep | apply State.enqueueRx_keep | refine State.countRx_keep (by assumption) ?_ | apply State.countRx_keep' | apply State.controlFrame_keep | apply State.ptpRx_keep | apply Keep.ite | refine Keep.foldl ?_ (fun _ _ _ => ?_)) | (lift_lets; intro x; first | (refine suffices hx : Keep a x from ?_; ?_; on_goal 1 => unfold x; on_goal 2 => clear_value x) | skip) | (fail_if_no_progress with_reducible refine Keep.plain ?_) | split | dsimp only

theorem State.payload_keep' {a s : State} (h : Keep a s) {x0 x1 x2 x3 x4 x5} : Keep a (State.payload s x0 x1 x2 x3
  x4 x5).1 := by
  unfold State.payload
  repeat' (with_reducible first | assumption | apply State.bump_keep | apply Keep.ite1 | apply Keep.ite | refine Keep.foldl ?_ (fun _ _ _ => ?_))
theorem State.payload_keep {a s t : State} {x0 x1 x2 x3 x4 x5} {y} (e : (State.payload s x0 x1 x2 x3 x4 x5) = (t,
  y)) (h : Keep a s) : Keep a t := by
  have g := congrArg Prod.fst e; dsimp only at g; rw [← g]; exact State.payload_keep' h

theorem State.countWalk_keep {a s : State} (h : Keep a s) {x0 x1 x2 x3} : Keep a (State.countWalk s x0 x1 x2 x3) := by
  unfold State.countWalk
  repeat' (with_reducible first | assumption | apply State.bump_keep | apply State.puts_keep | apply Keep.ite)

theorem State.parse_keep {a s : State} (h : Keep a s) {x0 x1} : Keep a (State.parse s x0 x1) := by
  unfold State.parse
  repeat' first | (with_reducible first | assumption | refine State.payload_keep (by assumption) ?_ | apply State.payload_keep' | apply State.countWalk_keep | apply State.setPkt_keep | apply Keep.ite | refine Keep.foldl ?_ (fun _ _ _ => ?_)) | (lift_lets; intro x; first | (refine suffices hx : Keep a x from ?_; ?_; on_goal 1 => unfold x; on_goal 2 => clear_value x) | skip) | (fail_if_no_progress with_reducible refine Keep.plain ?_) | split | dsimp only

theorem State.tracerTag_keep' {a s : State} (h : Keep a s) {x0 x1} : Keep a (State.tracerTag s x0 x1).1 := by
  unfold State.tracerTag
  repeat' (with_reducible first | assumption | refine State.draw_keep (by assumption) ?_ | apply State.draw_keep' | apply State.bump_keep | apply Keep.ite1 | apply Keep.ite)
theorem State.tracerTag_keep {a s t : State} {x0 x1} {y} (e : (State.tracerTag s x0 x1) = (t, y)) (h : Keep a s) :
  Keep a t := by
  have g := congrArg Prod.fst e; dsimp only at g; rw [← g]; exact State.tracerTag_keep' h

theorem State.admitPkt_keep {a s : State} (h : Keep a s) {x0} : Keep a (State.admitPkt s x0) := Keep.plain h

theorem State.enterFrame_keep {a s : State} (h : Keep a s) {x0} : Keep a (State.enterFrame s x0) := by
  unfold State.enterFrame
  repeat' first | (with_reducible first | assumption | apply State.setFifo_keep | apply State.chCross_keep | refine State.tracerTag_keep (by assumption) ?_ | apply State.tracerTag_keep' | apply State.admitPkt_keep | apply State.parse_keep | apply Keep.ite | refine Keep.foldl ?_ (fun _ _ _ => ?_)) | (lift_lets; intro x; first | (refine suffices hx : Keep a x from ?_; ?_; on_goal 1 => unfold x; on_goal 2 => clear_value x) | skip) | (fail_if_no_progress with_reducible refine Keep.plain ?_) | split | dsimp only

theorem State.enterInject_keep {a s : State} (h : Keep a s) {x0} : Keep a (State.enterInject s x0) := by
  unfold State.enterInject
  repeat' first | (with_reducible first | assumption | refine State.tracerTag_keep (by assumption) ?_ | apply State.tracerTag_keep' | apply State.parse_keep | apply State.admitPkt_keep | apply State.finishEntry_keep | apply Keep.ite) | (lift_lets; intro x; first | (refine suffices hx : Keep a x from ?_; ?_; on_goal 1 => unfold x; on_goal 2 => clear_value x) | skip) | (fail_if_no_progress with_reducible refine Keep.plain ?_) | split | dsimp only

theorem State.enterRecirc_keep {a s : State} (h : Keep a s) {x0 x1 x2} : Keep a (State.enterRecirc s x0 x1 x2) := by
  unfold State.enterRecirc
  repeat' first | (with_reducible first | assumption | apply State.discardCopy_keep | apply State.readErrors_keep | apply State.presentRest_keep | apply State.dropCopy_keep | apply State.trimCharge_keep | apply State.setPkt_keep | apply State.parse_keep | apply State.xoffSweep_keep | apply Keep.ite | refine Keep.foldl ?_ (fun _ _ _ => ?_)) | (lift_lets; intro x; first | (refine suffices hx : Keep a x from ?_; ?_; on_goal 1 => unfold x; on_goal 2 => clear_value x) | skip) | (fail_if_no_progress with_reducible refine Keep.plain ?_) | split | dsimp only

theorem State.parserEntry_keep {a s : State} (h : Keep a s) {x0 x1 x2} : Keep a (State.parserEntry s x0 x1 x2) := by
  unfold State.parserEntry
  repeat' first | (with_reducible first | assumption | apply State.enterFrame_keep | apply State.enterInject_keep | apply State.enterRecirc_keep | apply Keep.ite | refine Keep.foldl ?_ (fun _ _ _ => ?_)) | (lift_lets; intro x; first | (refine suffices hx : Keep a x from ?_; ?_; on_goal 1 => unfold x; on_goal 2 => clear_value x) | skip) | (fail_if_no_progress with_reducible refine Keep.plain ?_) | split | dsimp only

theorem State.patFlip_keep {a s : State} (h : Keep a s) : Keep a (State.patFlip s) := by
  unfold State.patFlip
  repeat' (with_reducible first | assumption | apply State.put_keep)

theorem State.patGo_keep {a s : State} (h : Keep a s) {x0} : Keep a (State.patGo s x0) := by
  unfold State.patGo
  repeat' (with_reducible first | assumption | apply State.beginInd_keep)

theorem State.patDone_keep {a s : State} (h : Keep a s) {x0} : Keep a (State.patDone s x0) := by
  unfold State.patDone
  repeat' first | (with_reducible first | assumption | apply State.setRaw_keep | apply State.puts_keep | apply Keep.ite | refine Keep.foldl ?_ (fun _ _ _ => ?_)) | (fail_if_no_progress with_reducible refine Keep.plain ?_)

/-! ### Machine/Placement.lean -/

theorem State.levelSnapshot_keep {a s : State} (h : Keep a s) : Keep a (State.levelSnapshot s) := Keep.plain h

theorem State.setFlowlet_keep {a s : State} (h : Keep a s) {x0 x1} : Keep a (State.setFlowlet s x0 x1) := Keep.plain h

theorem State.noMember_keep' {a s : State} (h : Keep a s) {x0} : Keep a (State.noMember s x0).1 := by
  unfold State.noMember
  repeat' (with_reducible first | assumption | apply State.bump_keep | apply State.perf_keep)
theorem State.noMember_keep {a s t : State} {x0} {y} (e : (State.noMember s x0) = (t, y)) (h : Keep a s) : Keep a t
  := by
  have g := congrArg Prod.fst e; dsimp only at g; rw [← g]; exact State.noMember_keep' h

theorem State.placed_keep' {a s : State} (h : Keep a s) {x0 x1 x2 x3 x4 x5 x6} : Keep a (State.placed s x0 x1 x2 x3
  x4 x5 x6).1 := by
  unfold State.placed
  repeat' (with_reducible first | assumption | apply State.setFlowlet_keep)
theorem State.placed_keep {a s t : State} {x0 x1 x2 x3 x4 x5 x6} {y} (e : (State.placed s x0 x1 x2 x3 x4 x5 x6) =
  (t, y)) (h : Keep a s) : Keep a t := by
  have g := congrArg Prod.fst e; dsimp only at g; rw [← g]; exact State.placed_keep' h

theorem State.countChoice_keep {a s : State} (h : Keep a s) {x0 x1 x2 x3} : Keep a (State.countChoice s x0 x1 x2
  x3) := by
  unfold State.countChoice
  repeat' (with_reducible first | assumption | apply State.perf_keep | apply State.bump_keep | apply Keep.ite)

theorem State.place_keep' {a s : State} (h : Keep a s) {x0 x1} : Keep a (State.place s x0 x1).1 := by
  unfold State.place
  repeat' first | (with_reducible first | assumption | apply State.perf_keep | refine State.noMember_keep (by assumption) ?_ | apply State.noMember_keep' | apply State.bump_keep | refine State.placed_keep (by assumption) ?_ | apply State.placed_keep' | apply State.countChoice_keep | apply Keep.ite1 | apply Keep.ite) | (lift_lets; intro x; first | (refine suffices hx : Keep a x from ?_; ?_; on_goal 1 => unfold x; on_goal 2 => clear_value x) | skip) | split | dsimp only
theorem State.place_keep {a s t : State} {x0 x1} {y} (e : (State.place s x0 x1) = (t, y)) (h : Keep a s) : Keep a t
  := by
  have g := congrArg Prod.fst e; dsimp only at g; rw [← g]; exact State.place_keep' h

theorem State.flowletSweep_keep {a s : State} (h : Keep a s) {x0 x1} : Keep a (State.flowletSweep s x0 x1) := by
  unfold State.flowletSweep
  repeat' (with_reducible first | assumption | apply State.setFlowlet_keep | apply Keep.ite)

theorem State.setLive_keep {a s : State} (h : Keep a s) {x0 x1} : Keep a (State.setLive s x0 x1) := by
  unfold State.setLive
  repeat' first | (with_reducible first | assumption | apply State.putFlag_keep | apply State.put_keep | apply Keep.ite) | (fail_if_no_progress with_reducible refine Keep.plain ?_)

theorem State.sendBlock_keep {a s : State} (h : Keep a s) {x0} : Keep a (State.sendBlock s x0) := by
  unfold State.sendBlock
  repeat' first | (with_reducible first | assumption | apply State.sendStream_keep | apply State.bumpWrap_keep | apply Keep.ite | refine Keep.foldl ?_ (fun _ _ _ => ?_)) | (lift_lets; intro x; first | (refine suffices hx : Keep a x from ?_; ?_; on_goal 1 => unfold x; on_goal 2 => clear_value x) | skip) | (fail_if_no_progress with_reducible refine Keep.plain ?_) | split | dsimp only

theorem State.beaconSend_keep {a s : State} (h : Keep a s) {x0} : Keep a (State.beaconSend s x0) := by
  unfold State.beaconSend
  repeat' first | (with_reducible first | assumption | apply State.sendBlock_keep | apply Keep.ite | refine Keep.foldl ?_ (fun _ _ _ => ?_)) | (lift_lets; intro x; first | (refine suffices hx : Keep a x from ?_; ?_; on_goal 1 => unfold x; on_goal 2 => clear_value x) | skip) | (fail_if_no_progress with_reducible refine Keep.plain ?_) | split | dsimp only

theorem State.writeBlock_keep {a s : State} (h : Keep a s) {x0 x1 x2} : Keep a (State.writeBlock s x0 x1 x2) := by
  unfold State.writeBlock
  repeat' first | (with_reducible first | assumption | apply Keep.ite | refine Keep.foldl ?_ (fun _ _ _ => ?_)) | (fail_if_no_progress with_reducible refine Keep.plain ?_)

theorem State.beaconReceive_keep {a s : State} (h : Keep a s) {x0 x1} : Keep a (State.beaconReceive s x0 x1) := by
  unfold State.beaconReceive
  repeat' first | (with_reducible first | assumption | apply State.lanePerf_keep | apply State.badItem_keep | apply State.put_keep | apply State.setLive_keep | apply State.raise_keep | apply State.puts_keep | apply State.writeBlock_keep | apply Keep.ite | refine Keep.foldl ?_ (fun _ _ _ => ?_)) | (lift_lets; intro x; first | (refine suffices hx : Keep a x from ?_; ?_; on_goal 1 => unfold x; on_goal 2 => clear_value x) | skip) | (fail_if_no_progress with_reducible refine Keep.plain ?_) | split | dsimp only

theorem State.neighborTimeout_keep {a s : State} (h : Keep a s) {x0} : Keep a (State.neighborTimeout s x0) := by
  unfold State.neighborTimeout
  repeat' first | (with_reducible first | assumption | apply State.setLive_keep | apply Keep.ite | refine Keep.foldl ?_ (fun _ _ _ => ?_)) | (lift_lets; intro x; first | (refine suffices hx : Keep a x from ?_; ?_; on_goal 1 => unfold x; on_goal 2 => clear_value x) | skip) | (fail_if_no_progress with_reducible refine Keep.plain ?_) | split | dsimp only

theorem State.creditReceive_keep {a s : State} (h : Keep a s) {x0 x1} : Keep a (State.creditReceive s x0 x1) := by
  unfold State.creditReceive
  repeat' first | (with_reducible first | assumption | apply State.lanePerf_keep | apply State.setCredit_keep | apply Keep.ite | refine Keep.foldl ?_ (fun _ _ _ => ?_)) | (lift_lets; intro x; first | (refine suffices hx : Keep a x from ?_; ?_; on_goal 1 => unfold x; on_goal 2 => clear_value x) | skip) | (fail_if_no_progress with_reducible refine Keep.plain ?_) | split | dsimp only

theorem State.creditSend_keep {a s : State} (h : Keep a s) {x0} : Keep a (State.creditSend s x0) := by
  unfold State.creditSend
  repeat' first | (with_reducible first | assumption | apply State.sendStream_keep | apply State.setCredit_keep | apply Keep.ite | refine Keep.foldl ?_ (fun _ _ _ => ?_)) | (lift_lets; intro x; first | (refine suffices hx : Keep a x from ?_; ?_; on_goal 1 => unfold x; on_goal 2 => clear_value x) | skip) | (fail_if_no_progress with_reducible refine Keep.plain ?_) | split | dsimp only

theorem State.creditStart_keep {a s : State} (h : Keep a s) {x0} : Keep a (State.creditStart s x0) := by
  unfold State.creditStart
  repeat' first | (with_reducible first | assumption | apply State.setCredit_keep | refine Keep.foldl ?_ (fun _ _ _ => ?_)) | (fail_if_no_progress with_reducible refine Keep.plain ?_)

theorem State.plEnable_keep {a s : State} (h : Keep a s) : Keep a (State.plEnable s) := by
  unfold State.plEnable
  repeat' (with_reducible first | assumption | apply State.startCheck_keep)

theorem State.clearMap_keep {a s : State} (h : Keep a s) : Keep a (State.clearMap s) := by
  unfold State.clearMap
  repeat' first | (with_reducible first | assumption | apply Keep.ite | refine Keep.foldl ?_ (fun _ _ _ => ?_)) | (lift_lets; intro x; first | (refine suffices hx : Keep a x from ?_; ?_; on_goal 1 => unfold x; on_goal 2 => clear_value x) | skip) | (fail_if_no_progress with_reducible refine Keep.plain ?_) | split | dsimp only

theorem State.plAccepted_keep {a s : State} (h : Keep a s) : Keep a (State.plAccepted s) := by
  unfold State.plAccepted
  repeat' first | (with_reducible first | assumption | apply State.clearMap_keep | apply State.put_keep) | (fail_if_no_progress with_reducible refine Keep.plain ?_)

theorem State.plDisable_keep {a s : State} (h : Keep a s) : Keep a s.plDisable := by
  unfold State.plDisable
  extract_lets t m
  have ht : Keep a t := Keep.foldl h (fun _ _ k => State.put_keep k)
  clear_value t
  refine Keep.ite h (State.put_keep ?_)
  exact Keep.plain ht

theorem State.plIndGo_keep {a s : State} (h : Keep a s) {x0} : Keep a (State.plIndGo s x0) := by
  unfold State.plIndGo
  repeat' (with_reducible first | assumption | apply State.beginInd_keep)

theorem State.setGroup_keep {a s : State} (h : Keep a s) {i v} :
    Keep a { s with pl := { s.pl with groups := smPut natZero s.pl.groups i v } } :=
  h.upd rfl rfl (le_refl _) (List.suffix_refl _) rfl
    (fun c => ⟨c.regs, c.cells, c.entries, c.meters, c.flows, c.gates, c.profiles, c.policers,
      smWf_smPut _ _ _ _ c.groups, c.members⟩) (fun o => ⟨o.total, o.quarter⟩)

theorem State.setMember_keep {a s : State} (h : Keep a s) {i v} :
    Keep a { s with pl := { s.pl with members := smPut natZero s.pl.members i v } } :=
  h.upd rfl rfl (le_refl _) (List.suffix_refl _) rfl
    (fun c => ⟨c.regs, c.cells, c.entries, c.meters, c.flows, c.gates, c.profiles, c.policers, c.groups,
      smWf_smPut _ _ _ _ c.members⟩) (fun o => ⟨o.total, o.quarter⟩)

theorem State.plIndDone_keep {a s : State} (h : Keep a s) {j} : Keep a (s.plIndDone j) := by
  unfold State.plIndDone
  refine State.puts_keep (Keep.ite h (Keep.ite (State.setRaw_keep h) (Keep.ite ?_ (State.setMember_keep h))))
  exact State.setGroup_keep h

/-! ### Machine/Sched.lean -/

theorem State.setCur_keep {a s : State} (h : Keep a s) {x0 x1 x2} : Keep a (State.setCur s x0 x1 x2) := by
  unfold State.setCur
  repeat' (with_reducible first | assumption | apply State.setSchRoot_keep | apply State.setSchNode_keep | apply Keep.ite)

theorem State.turnPass_keep' {a s : State} (h : Keep a s) {x0 x1 x2} : Keep a (State.turnPass s x0 x1 x2).1 := by
  induction x2 generalizing s x0 x1 with
  | nil =>
    unfold State.turnPass
    repeat' first | (with_reducible first | assumption | apply State.setChild_keep | apply State.setCur_keep | apply Keep.ite1 | apply Keep.ite | refine Keep.foldl ?_ (fun _ _ _ => ?_)) | (lift_lets; intro x; first | (refine suffices hx : Keep a x from ?_; ?_; on_goal 1 => unfold x; on_goal 2 => clear_value x) | skip) | (fail_if_no_progress with_reducible refine Keep.plain ?_) | split | dsimp only
  | cons y l ih =>
    unfold State.turnPass
    repeat' first | (with_reducible first | assumption | apply ih | refine Keep.of1 (by assumption) (ih ?_) | apply State.setChild_keep | apply State.setCur_keep | apply Keep.ite1 | apply Keep.ite | refine Keep.foldl ?_ (fun _ _ _ => ?_)) | (lift_lets; intro x; first | (refine suffices hx : Keep a x from ?_; ?_; on_goal 1 => unfold x; on_goal 2 => clear_value x) | skip) | (fail_if_no_progress with_reducible refine Keep.plain ?_) | split | dsimp only
theorem State.turnPass_keep {a s t : State} {x0 x1 x2} {y} (e : (State.turnPass s x0 x1 x2) = (t, y)) (h : Keep a s) : Keep a t := by
  have g := congrArg Prod.fst e; dsimp only at g; rw [← g]; exact State.turnPass_keep' h

theorem State.turn_keep' {a s : State} (h : Keep a s) {x0 x1 x2 x3} : Keep a (State.turn s x0 x1 x2 x3).1 := by
  induction x3 generalizing s  with
  | zero =>
    unfold State.turn
    repeat' first | (with_reducible first | assumption | refine State.turnPass_keep (by assumption) ?_ | apply State.turnPass_keep') | split | dsimp only
  | succ n ih =>
    unfold State.turn
    repeat' first | (with_reducible first | assumption | apply ih | refine Keep.of1 (by assumption) (ih ?_) | refine State.turnPass_keep (by assumption) ?_ | apply State.turnPass_keep') | split | dsimp only
theorem State.turn_keep {a s t : State} {x0 x1 x2 x3} {y} (e : (State.turn s x0 x1 x2 x3) = (t, y)) (h : Keep a s)
  : Keep a t := by
  have g := congrArg Prod.fst e; dsimp only at g; rw [← g]; exact State.turn_keep' h

theorem State.pickChild_keep' {a s : State} (h : Keep a s) {x0 x1} : Keep a (State.pickChild s x0 x1).1 := by
  unfold State.pickChild
  repeat' first | (with_reducible first | assumption | refine State.turn_keep (by assumption) ?_ | apply State.turn_keep' | apply Keep.ite1 | apply Keep.ite | refine Keep.foldl ?_ (fun _ _ _ => ?_)) | (lift_lets; intro x; first | (refine suffices hx : Keep a x from ?_; ?_; on_goal 1 => unfold x; on_goal 2 => clear_value x) | skip) | (fail_if_no_progress with_reducible refine Keep.plain ?_) | split | dsimp only
theorem State.pickChild_keep {a s t : State} {x0 x1} {y} (e : (State.pickChild s x0 x1) = (t, y)) (h : Keep a s) : Keep a t := by
  have g := congrArg Prod.fst e; dsimp only at g; rw [← g]; exact State.pickChild_keep' h

theorem State.pick_keep' {a s : State} (h : Keep a s) {x0 x1 x2 x3} : Keep a (State.pick s x0 x1 x2 x3).1 := by
  induction x1 generalizing s x2 x3 with
  | zero =>
    unfold State.pick
    repeat' first | (with_reducible first | assumption | refine State.pickChild_keep (by assumption) ?_ | apply State.pickChild_keep' | apply Keep.ite1 | apply Keep.ite) | split | dsimp only
  | succ n ih =>
    unfold State.pick
    repeat' first | (with_reducible first | assumption | apply ih | refine Keep.of1 (by assumption) (ih ?_) | refine State.pickChild_keep (by assumption) ?_ | apply State.pickChild_keep' | apply Keep.ite1 | apply Keep.ite) | split | dsimp only
theorem State.pick_keep {a s t : State} {x0 x1 x2 x3} {y} (e : (State.pick s x0 x1 x2 x3) = (t, y)) (h : Keep a s)
  : Keep a t := by
  have g := congrArg Prod.fst e; dsimp only at g; rw [← g]; exact State.pick_keep' h

theorem State.debitPath_keep {a s : State} (h : Keep a s) {x0 x1 x2} : Keep a (State.debitPath s x0 x1 x2) := by
  induction x2 generalizing s  with
  | nil =>
    unfold State.debitPath
    repeat' (with_reducible first | assumption | apply State.setSchRoot_keep | apply State.setChild_keep | apply Keep.ite)
  | cons y l ih =>
    unfold State.debitPath
    repeat' (with_reducible first | assumption | apply ih | apply State.setSchRoot_keep | apply State.setChild_keep | apply Keep.ite)

theorem State.sendToStages_keep {a s : State} (h : Keep a s) {x0 x1 x2} : Keep a (State.sendToStages s x0 x1 x2) := by
  unfold State.sendToStages
  repeat' first | (with_reducible first | assumption | apply Keep.ite | refine Keep.foldl ?_ (fun _ _ _ => ?_)) | (lift_lets; intro x; first | (refine suffices hx : Keep a x from ?_; ?_; on_goal 1 => unfold x; on_goal 2 => clear_value x) | skip) | (fail_if_no_progress with_reducible refine Keep.plain ?_) | split | dsimp only

theorem State.schedDecide_keep {a s : State} (h : Keep a s) {x0} : Keep a (State.schedDecide s x0) := by
  unfold State.schedDecide
  repeat' first | (with_reducible first | assumption | refine State.pick_keep (by assumption) ?_ | apply State.pick_keep' | apply State.debitPath_keep | apply State.sendToStages_keep | apply State.put_keep | apply State.settleSched_keep | apply Keep.ite | refine Keep.foldl ?_ (fun _ _ _ => ?_)) | (lift_lets; intro x; first | (refine suffices hx : Keep a x from ?_; ?_; on_goal 1 => unfold x; on_goal 2 => clear_value x) | skip) | (fail_if_no_progress with_reducible refine Keep.plain ?_) | split | dsimp only

theorem State.starveCheck_keep {a s : State} (h : Keep a s) {x0} : Keep a (State.starveCheck s x0) := by
  unfold State.starveCheck
  repeat' first | (with_reducible first | assumption | apply State.setSchQueue_keep | apply State.setPromoted_keep | apply State.bump_keep | apply Keep.ite | refine Keep.foldl ?_ (fun _ _ _ => ?_)) | (lift_lets; intro x; first | (refine suffices hx : Keep a x from ?_; ?_; on_goal 1 => unfold x; on_goal 2 => clear_value x) | skip) | (fail_if_no_progress with_reducible refine Keep.plain ?_) | split | dsimp only

theorem State.pauseExpire_keep {a s : State} (h : Keep a s) {x0 x1} : Keep a (State.pauseExpire s x0 x1) := by
  unfold State.pauseExpire
  repeat' first | (with_reducible first | assumption | apply State.showPaused_keep | apply Keep.ite) | (fail_if_no_progress with_reducible refine Keep.plain ?_)

theorem State.gateGo_keep {a s : State} (h : Keep a s) : Keep a (State.gateGo s) := by
  unfold State.gateGo
  repeat' (with_reducible first | assumption | apply State.startCheck_keep)

theorem State.gateAccepted_keep {a s : State} (h : Keep a s) {x0} : Keep a (State.gateAccepted s x0) := by
  unfold State.gateAccepted
  repeat' first | (with_reducible first | assumption | apply State.put_keep) | (fail_if_no_progress with_reducible refine Keep.plain ?_)

theorem State.stopGates_keep {a s : State} (h : Keep a s) : Keep a (State.stopGates s) := by
  unfold State.stopGates
  repeat' first | (with_reducible first | assumption | apply State.put_keep | apply State.showGates_keep | refine Keep.foldl ?_ (fun _ _ _ => ?_)) | (fail_if_no_progress with_reducible refine Keep.plain ?_)

theorem State.schedIndGo_keep {a s : State} (h : Keep a s) {x0} : Keep a (State.schedIndGo s x0) := by
  unfold State.schedIndGo
  repeat' (with_reducible first | assumption | apply State.beginInd_keep)

theorem State.setProfile_keep {a s : State} (h : Keep a s) {n d} :
    Keep a { s with sch := { s.sch with profiles := smPut natZero s.sch.profiles n d } } :=
  h.upd rfl rfl (le_refl _) (List.suffix_refl _) rfl
    (fun c => ⟨c.regs, c.cells, c.entries, c.meters, c.flows, c.gates, smWf_smPut _ _ _ _ c.profiles, c.policers,
      c.groups, c.members⟩) (fun o => ⟨o.total, o.quarter⟩)

theorem State.writeProfile_keep {a s : State} (h : Keep a s) {n d} : Keep a (s.writeProfile n d) := by
  unfold State.writeProfile
  extract_lets old fix all ports pols m t u v n
  have ht : Keep a t := by
    exact Keep.plain h
  clear_value t
  have hu : Keep a u := Keep.foldl ht (fun _ _ k => State.setSchRoot_keep k)
  have hv : Keep a v := Keep.foldl hu (fun _ _ k => State.rebucketPolicer_keep k)
  clear_value u v
  exact State.setProfile_keep hv

theorem State.setPolicer_keep {a s : State} (h : Keep a s) {i d} :
    Keep a { s with sch := { s.sch with policers := smPut natZero s.sch.policers i d } } :=
  h.upd rfl rfl (le_refl _) (List.suffix_refl _) rfl
    (fun c => ⟨c.regs, c.cells, c.entries, c.meters, c.flows, c.gates, c.profiles, smWf_smPut _ _ _ _ c.policers,
      c.groups, c.members⟩) (fun o => ⟨o.total, o.quarter⟩)

theorem State.setGate_keep {a s : State} (h : Keep a s) {i d} :
    Keep a { s with sch := { s.sch with gates := smPut natZero s.sch.gates i d } } :=
  h.upd rfl rfl (le_refl _) (List.suffix_refl _) rfl
    (fun c => ⟨c.regs, c.cells, c.entries, c.meters, c.flows, smWf_smPut _ _ _ _ c.gates, c.profiles, c.policers,
      c.groups, c.members⟩) (fun o => ⟨o.total, o.quarter⟩)

theorem State.schedIndWrite_keep {a s : State} (h : Keep a s) : ∀ {t i d}, Keep a (s.schedIndWrite t i d)
  | 0, _, _ => State.writeProfile_keep h
  | 1, _, _ => State.setSchNode_keep h
  | 2, _, _ => State.setSchQueue_keep h
  | 3, _, _ => State.setPolicer_keep (State.rebucketPolicer_keep h)
  | _ + 4, _, _ => State.setGate_keep h

theorem State.schedIndDone_keep {a s : State} (h : Keep a s) {x0} : Keep a (State.schedIndDone s x0) := by
  unfold State.schedIndDone
  repeat' (with_reducible first | assumption | apply State.schedIndWrite_keep | apply State.setRaw_keep | apply State.puts_keep | apply Keep.ite)

theorem State.schedActivate_keep {a s : State} (h : Keep a s) {x0} : Keep a (State.schedActivate s x0) := Keep.plain h

theorem State.schedClear_keep {a s : State} (h : Keep a s) : Keep a (State.schedClear s) := by
  unfold State.schedClear
  repeat' first | (with_reducible first | assumption | apply State.stopGates_keep | apply State.put_keep | refine Keep.foldl ?_ (fun _ _ _ => ?_)) | (fail_if_no_progress with_reducible refine Keep.plain ?_)

/-! ### Machine/Postcard.lean -/

theorem State.takeTokens_keep {a s : State} (h : Keep a s) {x0 x1} : Keep a (State.takeTokens s x0 x1) := Keep.plain h

theorem State.postcard_keep {a s : State} (h : Keep a s) {x0 x1 x2} : Keep a (State.postcard s x0 x1 x2) := by
  unfold State.postcard
  repeat' first | (with_reducible first | assumption | apply State.perf_keep | apply State.bump_keep | apply State.takeTokens_keep | apply Keep.ite) | (fail_if_no_progress with_reducible refine Keep.plain ?_)

theorem State.postSend_keep {a s : State} (h : Keep a s) : Keep a (State.postSend s) := by
  unfold State.postSend
  repeat' first | (with_reducible first | assumption | apply State.bump_keep | apply Keep.ite) | (fail_if_no_progress with_reducible refine Keep.plain ?_)

theorem State.postEnable_keep {a s : State} (h : Keep a s) : Keep a (State.postEnable s) := by
  unfold State.postEnable
  repeat' (with_reducible first | assumption | apply State.startCheck_keep)

theorem State.postAccepted_keep {a s : State} (h : Keep a s) : Keep a (State.postAccepted s) := Keep.plain h

theorem State.postDisable_keep {a s : State} (h : Keep a s) : Keep a (State.postDisable s) := Keep.plain h

theorem State.flowGo_keep {a s : State} (h : Keep a s) : Keep a (State.flowGo s) := by
  unfold State.flowGo
  repeat' (with_reducible first | assumption | apply State.beginInd_keep)

theorem State.flowIndDone_keep {a s : State} (h : Keep a s) {x0} : Keep a (State.flowIndDone s x0) := by
  unfold State.flowIndDone
  repeat' (with_reducible first | assumption | apply State.put_keep | apply State.setRaw_keep)

theorem State.indDone_keep {a s : State} (h : Keep a s) {x0} : Keep a (State.indDone s x0) := by
  unfold State.indDone
  repeat' first | (with_reducible first | assumption | apply State.patDone_keep | apply State.plIndDone_keep | apply State.bufIndDone_keep | apply State.schedIndDone_keep | apply State.flowIndDone_keep | apply Keep.ite) | (lift_lets; intro x; first | (refine suffices hx : Keep a x from ?_; ?_; on_goal 1 => unfold x; on_goal 2 => clear_value x) | skip) | (fail_if_no_progress with_reducible refine Keep.plain ?_) | split | dsimp only

/-! ### Machine/Admission.lean -/

theorem State.countStatus_keep {a s : State} (h : Keep a s) {x0 x1} : Keep a (State.countStatus s x0 x1) := by
  unfold State.countStatus
  repeat' (with_reducible first | assumption | apply State.bump_keep | apply Keep.ite)

theorem State.countRefused_keep {a s : State} (h : Keep a s) {x0 x1} : Keep a (State.countRefused s x0 x1) := by
  unfold State.countRefused
  repeat' (with_reducible first | assumption | apply State.countQueueDrop_keep | apply State.bump_keep | apply Keep.ite | refine Keep.foldl ?_ (fun _ _ _ => ?_))

theorem State.enqueueCopy_keep {a s : State} (h : Keep a s) {x0 x1 x2} : Keep a (State.enqueueCopy s x0 x1 x2) := by
  unfold State.enqueueCopy
  repeat' first | (with_reducible first | assumption | apply State.charge_keep | apply Keep.ite | refine Keep.foldl ?_ (fun _ _ _ => ?_)) | (lift_lets; intro x; first | (refine suffices hx : Keep a x from ?_; ?_; on_goal 1 => unfold x; on_goal 2 => clear_value x) | skip) | (fail_if_no_progress with_reducible refine Keep.plain ?_) | split | dsimp only

theorem State.carryOut_keep {a s : State} (h : Keep a s) {x0 x1 x2 x3 x4} : Keep a (State.carryOut s x0 x1 x2 x3 x4) := by
  unfold State.carryOut
  repeat' first | (with_reducible first | assumption | apply State.charge_keep | apply State.setPkt_keep | apply State.countStatus_keep | apply State.countNotes_keep | apply State.meterDecision_keep | apply State.countRefused_keep | apply State.postcard_keep | apply State.settle_keep | apply State.enqueueCopy_keep | apply Keep.ite | refine Keep.foldl ?_ (fun _ _ _ => ?_)) | (lift_lets; intro x; first | (refine suffices hx : Keep a x from ?_; ?_; on_goal 1 => unfold x; on_goal 2 => clear_value x) | skip) | (fail_if_no_progress with_reducible refine Keep.plain ?_) | split | dsimp only

theorem State.admitForm_keep {a s : State} (h : Keep a s) {x0 x1 x2} : Keep a (State.admitForm s x0 x1 x2) := by
  unfold State.admitForm
  repeat' (with_reducible first | assumption | apply State.carryOut_keep | apply Keep.ite)

theorem State.admitRecirc_keep {a s : State} (h : Keep a s) {x0} : Keep a (State.admitRecirc s x0) := by
  unfold State.admitRecirc
  repeat' (with_reducible first | assumption | apply State.admitForm_keep)

theorem State.placePacket_keep' {a s : State} (h : Keep a s) {x0 x1} : Keep a (State.placePacket s x0 x1).1 := by
  unfold State.placePacket
  repeat' (with_reducible first | assumption | refine State.place_keep (by assumption) ?_ | apply State.place_keep' | apply Keep.ite1 | apply Keep.ite)
theorem State.placePacket_keep {a s t : State} {x0 x1} {y} (e : (State.placePacket s x0 x1) = (t, y)) (h : Keep a
  s) : Keep a t := by
  have g := congrArg Prod.fst e; dsimp only at g; rw [← g]; exact State.placePacket_keep' h

theorem State.policePacket_keep' {a s : State} (h : Keep a s) {x0} : Keep a (State.policePacket s x0).1 := by
  unfold State.policePacket
  repeat' first | (with_reducible first | assumption | refine State.police_keep (by assumption) ?_ | apply State.police_keep' | apply Keep.ite1 | apply Keep.ite | refine Keep.foldl ?_ (fun _ _ _ => ?_)) | (lift_lets; intro x; first | (refine suffices hx : Keep a x from ?_; ?_; on_goal 1 => unfold x; on_goal 2 => clear_value x) | skip) | (fail_if_no_progress with_reducible refine Keep.plain ?_) | split | dsimp only
theorem State.policePacket_keep {a s t : State} {x0} {y} (e : (State.policePacket s x0) = (t, y)) (h : Keep a s) : Keep a t := by
  have g := congrArg Prod.fst e; dsimp only at g; rw [← g]; exact State.policePacket_keep' h

theorem State.admission_keep {a s : State} (h : Keep a s) {x0} : Keep a (State.admission s x0) := by
  unfold State.admission
  repeat' first | (with_reducible first | assumption | apply State.admitRecirc_keep | refine State.placePacket_keep (by assumption) ?_ | apply State.placePacket_keep' | refine State.policePacket_keep (by assumption) ?_ | apply State.policePacket_keep' | apply State.admitForm_keep | apply Keep.ite) | (lift_lets; intro x; first | (refine suffices hx : Keep a x from ?_; ?_; on_goal 1 => unfold x; on_goal 2 => clear_value x) | skip) | split | dsimp only

end Sys2Proof.Machine
end

