-- ==== Sys2Proof/Laws/KeepPorts.lean ====
section
/-! SUPPORT. What each operation of resets, transmission, the cipher engine, the harvest, lanes and ports keeps (see Keep in
Sys2Proof/Laws/Keep.lean): one lemma per operation. -/

-- One declaration at a time: the package is compiled as one text, and a thread for each would not fit.
set_option Elab.async false

set_option linter.unusedTactic false
set_option linter.unreachableTactic false

namespace Sys2Proof.Machine

/-! ### Machine/Boot.lean -/

theorem State.coldStart_keep {a s : State} (h : Keep a s) : Keep a s.coldStart :=
  h.upd rfl rfl (le_refl _) (List.suffix_refl _) rfl (fun _ => ⟨rfl, rfl, rfl, rfl, rfl, rfl, rfl, rfl, rfl, rfl⟩)
    (fun _ => ⟨timeModulus_pos, Nat.zero_lt_succ 3⟩)

theorem State.reachReady_keep {a s : State} (h : Keep a s) : Keep a s.reachReady := by
  have ht : Keep a { s with time := { s.time with total := 0, quarter := 0 } } :=
    h.upd rfl rfl (le_refl _) (List.suffix_refl _) rfl
      (fun c => ⟨c.regs, c.cells, c.entries, c.meters, c.flows, c.gates, c.profiles, c.policers, c.groups, c.members⟩)
      (fun _ => ⟨timeModulus_pos, Nat.zero_lt_succ 3⟩)
  exact State.put_keep ht

theorem State.drawNonce_keep {a s : State} (h : Keep a s) : Keep a s.drawNonce :=
  h.upd rfl rfl (Nat.le_succ _) (List.suffix_refl _) rfl
    (fun c => ⟨c.regs, c.cells, c.entries, c.meters, c.flows, c.gates, c.profiles, c.policers, c.groups, c.members⟩)
    (fun o => ⟨o.total, o.quarter⟩)

theorem State.fuseDone_keep {a s : State} (h : Keep a s) {x0 x1 x2} : Keep a (State.fuseDone s x0 x1 x2) := by
  unfold State.fuseDone
  repeat' first | (with_reducible first | assumption | apply State.put_keep | apply State.putFlag_keep | apply Keep.ite) | (fail_if_no_progress with_reducible refine Keep.plain ?_)

theorem State.selftestDone_keep {a s : State} (h : Keep a s) {x0 x1 x2 x3} : Keep a (State.selftestDone s x0 x1 x2
  x3) := by
  unfold State.selftestDone
  repeat' (with_reducible first | assumption | apply State.puts_keep | apply State.reachReady_keep | apply State.drawNonce_keep)

theorem State.warmStart_keep {a s : State} (h : Keep a s) {c} : Keep a (s.warmStart c) := by
  unfold State.warmStart
  dsimp only
  refine State.put_keep (State.bump_keep (State.drawNonce_keep ?_))
  exact h.upd rfl rfl (le_refl _) (List.suffix_refl _) rfl
    (fun c => ⟨smWf_keepRegs _ c.regs, rfl, rfl, rfl, rfl, rfl, rfl, rfl, rfl, rfl⟩)
    (fun _ => ⟨timeModulus_pos, Nat.zero_lt_succ 3⟩)

theorem State.warmReset_keep {a s : State} (h : Keep a s) {x0} : Keep a (State.warmReset s x0) := by
  unfold State.warmReset
  repeat' (with_reducible first | assumption | apply State.warmStart_keep | apply Keep.ite)

theorem State.perstAssert_keep {a s : State} (h : Keep a s) : Keep a (State.perstAssert s) := by
  unfold State.perstAssert
  repeat' first | (with_reducible first | assumption | apply State.warmReset_keep | apply Keep.ite) | (fail_if_no_progress with_reducible refine Keep.plain ?_)

theorem State.warmEnd_keep {a s : State} (h : Keep a s) : Keep a (State.warmEnd s) := by
  unfold State.warmEnd
  repeat' first | (with_reducible first | assumption | apply State.reachReady_keep) | (fail_if_no_progress with_reducible refine Keep.plain ?_)

theorem State.warmDone_keep {a s : State} (h : Keep a s) : Keep a (State.warmDone s) := by
  unfold State.warmDone
  repeat' first | (with_reducible first | assumption | apply State.warmEnd_keep | apply Keep.ite) | (fail_if_no_progress with_reducible refine Keep.plain ?_)

theorem State.perstRelease_keep {a s : State} (h : Keep a s) : Keep a (State.perstRelease s) := by
  unfold State.perstRelease
  repeat' first | (with_reducible first | assumption | apply State.warmEnd_keep | apply Keep.ite) | (fail_if_no_progress with_reducible refine Keep.plain ?_)

theorem State.phaseDone_keep {a s : State} (h : Keep a s) {x0} : Keep a (State.phaseDone s x0) := by
  unfold State.phaseDone
  repeat' first | (with_reducible first | assumption | apply State.put_keep | apply State.fuseDone_keep | apply State.selftestDone_keep | apply State.warmDone_keep | apply Keep.ite) | split | dsimp only

theorem State.chipReset_keep {a s : State} (h : Keep a s) : Keep a (State.chipReset s) := by
  unfold State.chipReset
  repeat' first | (with_reducible first | assumption | apply State.warmReset_keep | apply Keep.ite) | split | dsimp only

theorem State.linkTrain_keep {a s : State} (h : Keep a s) {x0 x1} : Keep a (State.linkTrain s x0 x1) := by
  unfold State.linkTrain
  repeat' (with_reducible first | assumption | apply State.puts_keep | apply Keep.ite)

/-! ### Machine/Transmit.lean -/

theorem State.egressRecirc_keep {a s : State} (h : Keep a s) {x0 x1} : Keep a (State.egressRecirc s x0 x1) := by
  unfold State.egressRecirc
  repeat' first | (with_reducible first | assumption | apply State.admitPkt_keep | apply State.removeCopy_keep | apply State.admitRecirc_keep | apply Keep.ite | refine Keep.foldl ?_ (fun _ _ _ => ?_)) | (lift_lets; intro x; first | (refine suffices hx : Keep a x from ?_; ?_; on_goal 1 => unfold x; on_goal 2 => clear_value x) | skip) | (fail_if_no_progress with_reducible refine Keep.plain ?_) | split | dsimp only

theorem State.egressEnd_keep {a s : State} (h : Keep a s) {x0} : Keep a (State.egressEnd s x0) := by
  unfold State.egressEnd
  repeat' first | (with_reducible first | assumption | apply State.egressRecirc_keep | apply State.countNotes_keep | apply State.postcard_keep | apply State.discardCopy_keep | apply State.setCopy_keep | apply Keep.ite | refine Keep.foldl ?_ (fun _ _ _ => ?_)) | (lift_lets; intro x; first | (refine suffices hx : Keep a x from ?_; ?_; on_goal 1 => unfold x; on_goal 2 => clear_value x) | skip) | (fail_if_no_progress with_reducible refine Keep.plain ?_) | split | dsimp only

theorem State.stageExecute_keep {a s : State} (h : Keep a s) {x0 x1 x2 x3 x4} : Keep a (State.stageExecute s x0 x1 x2 x3 x4) := by
  unfold State.stageExecute
  repeat' first | (with_reducible first | assumption | refine State.stageStep_keep (by assumption) ?_ | apply State.stageStep_keep' | apply State.setCopy_keep | apply State.egressEnd_keep | apply State.setPkt_keep | apply Keep.ite | refine Keep.foldl ?_ (fun _ _ _ => ?_)) | (lift_lets; intro x; first | (refine suffices hx : Keep a x from ?_; ?_; on_goal 1 => unfold x; on_goal 2 => clear_value x) | skip) | (fail_if_no_progress with_reducible refine Keep.plain ?_) | split | dsimp only

theorem State.ecnStep_keep' {a s : State} (h : Keep a s) {x0 x1} : Keep a (State.ecnStep s x0 x1).1 := by
  unfold State.ecnStep
  repeat' first | (with_reducible first | assumption | apply State.meterMarked_keep | apply State.perf_keep | apply Keep.ite1 | apply Keep.ite) | (fail_if_no_progress with_reducible refine Keep.plain ?_)
theorem State.ecnStep_keep {a s t : State} {x0 x1} {y} (e : (State.ecnStep s x0 x1) = (t, y)) (h : Keep a s) : Keep
  a t := by
  have g := congrArg Prod.fst e; dsimp only at g; rw [← g]; exact State.ecnStep_keep' h

theorem State.ioamStep_keep' {a s : State} (h : Keep a s) {x0 x1 x2 x3 x4} : Keep a (State.ioamStep s x0 x1 x2 x3 x4).1 := by
  unfold State.ioamStep
  repeat' first | (with_reducible first | assumption | apply State.bump_keep | apply Keep.ite1 | apply Keep.ite | refine Keep.foldl ?_ (fun _ _ _ => ?_)) | (lift_lets; intro x; first | (refine suffices hx : Keep a x from ?_; ?_; on_goal 1 => unfold x; on_goal 2 => clear_value x) | skip) | (fail_if_no_progress with_reducible refine Keep.plain ?_) | split | dsimp only
theorem State.ioamStep_keep {a s t : State} {x0 x1 x2 x3 x4} {y} (e : (State.ioamStep s x0 x1 x2 x3 x4) = (t, y)) (h : Keep a s) : Keep a t := by
  have g := congrArg Prod.fst e; dsimp only at g; rw [← g]; exact State.ioamStep_keep' h

theorem State.wireOf_keep' {a s : State} (h : Keep a s) {x0 x1 x2 x3} : Keep a (State.wireOf s x0 x1 x2 x3).1 := by
  unfold State.wireOf
  repeat' first | (with_reducible first | assumption | refine State.ecnStep_keep (by assumption) ?_ | apply State.ecnStep_keep' | refine State.ioamStep_keep (by assumption) ?_ | apply State.ioamStep_keep' | refine State.ptpTx_keep (by assumption) ?_ | apply State.ptpTx_keep' | apply Keep.ite1 | apply Keep.ite | refine Keep.foldl ?_ (fun _ _ _ => ?_)) | (lift_lets; intro x; first | (refine suffices hx : Keep a x from ?_; ?_; on_goal 1 => unfold x; on_goal 2 => clear_value x) | skip) | (fail_if_no_progress with_reducible refine Keep.plain ?_) | split | dsimp only
theorem State.wireOf_keep {a s t : State} {x0 x1 x2 x3} {y} (e : (State.wireOf s x0 x1 x2 x3) = (t, y)) (h : Keep a s) : Keep a t := by
  have g := congrArg Prod.fst e; dsimp only at g; rw [← g]; exact State.wireOf_keep' h

theorem State.refund_keep {a s : State} (h : Keep a s) {x0 x1 x2 x3} : Keep a (State.refund s x0 x1 x2 x3) := by
  unfold State.refund
  repeat' first | (with_reducible first | assumption | apply State.setCredit_keep | apply Keep.ite | refine Keep.foldl ?_ (fun _ _ _ => ?_)) | (lift_lets; intro x; first | (refine suffices hx : Keep a x from ?_; ?_; on_goal 1 => unfold x; on_goal 2 => clear_value x) | skip) | (fail_if_no_progress with_reducible refine Keep.plain ?_) | split | dsimp only

theorem State.countTx_keep {a s : State} (h : Keep a s) {x0 x1 x2 x3} : Keep a (State.countTx s x0 x1 x2 x3) := by
  unfold State.countTx
  repeat' (with_reducible first | assumption | apply State.bump_keep | apply State.lanePerf_keep | apply State.meterSent_keep | apply Keep.ite)

theorem State.sendFrame_keep {a s : State} (h : Keep a s) {x0 x1} : Keep a (State.sendFrame s x0 x1) := by
  unfold State.sendFrame
  repeat' first | (with_reducible first | assumption | apply State.sendStream_keep | apply State.send_keep | apply Keep.ite | refine Keep.foldl ?_ (fun _ _ _ => ?_)) | (lift_lets; intro x; first | (refine suffices hx : Keep a x from ?_; ?_; on_goal 1 => unfold x; on_goal 2 => clear_value x) | skip) | (fail_if_no_progress with_reducible refine Keep.plain ?_) | split | dsimp only

theorem State.tryFinish_keep {a s : State} (h : Keep a s) {x0} : Keep a (State.tryFinish s x0) := by
  unfold State.tryFinish
  repeat' first | (with_reducible first | assumption | refine State.wireOf_keep (by assumption) ?_ | apply State.wireOf_keep' | apply State.refund_keep | apply State.sendFrame_keep | apply State.countTx_keep | apply State.removeCopy_keep | apply Keep.ite | refine Keep.foldl ?_ (fun _ _ _ => ?_)) | (lift_lets; intro x; first | (refine suffices hx : Keep a x from ?_; ?_; on_goal 1 => unfold x; on_goal 2 => clear_value x) | skip) | (fail_if_no_progress with_reducible refine Keep.plain ?_) | split | dsimp only

theorem State.stompCopy_keep {a s : State} (h : Keep a s) {x0} : Keep a (State.stompCopy s x0) := by
  unfold State.stompCopy
  repeat' first | (with_reducible first | assumption | refine State.wireOf_keep (by assumption) ?_ | apply State.wireOf_keep' | apply State.refund_keep | apply State.sendFrame_keep | apply State.countTx_keep | apply State.bump_keep | apply State.removeCopy_keep | apply Keep.ite | refine Keep.foldl ?_ (fun _ _ _ => ?_)) | (lift_lets; intro x; first | (refine suffices hx : Keep a x from ?_; ?_; on_goal 1 => unfold x; on_goal 2 => clear_value x) | skip) | (fail_if_no_progress with_reducible refine Keep.plain ?_) | split | dsimp only

theorem State.stompPkt_keep {a s : State} (h : Keep a s) {x0} : Keep a (State.stompPkt s x0) := by
  unfold State.stompPkt
  repeat' first | (with_reducible first | assumption | apply State.stompCopy_keep | refine Keep.foldl ?_ (fun _ _ _ => ?_)) | split | dsimp only

theorem State.discardErrored_keep {a s : State} (h : Keep a s) {x0 x1} : Keep a (State.discardErrored s x0 x1) := by
  unfold State.discardErrored
  repeat' (with_reducible first | assumption | apply State.discardCopy_keep | apply State.bump_keep)

theorem State.startFrame_keep {a s : State} (h : Keep a s) {x0 x1 x2} : Keep a (State.startFrame s x0 x1 x2) := by
  unfold State.startFrame
  repeat' first | (with_reducible first | assumption | refine State.wireOf_keep (by assumption) ?_ | apply State.wireOf_keep' | apply State.setCredit_keep | apply State.meterSent_keep | apply State.perf_keep | apply State.setCopy_keep | apply State.tryFinish_keep | apply Keep.ite | refine Keep.foldl ?_ (fun _ _ _ => ?_)) | (lift_lets; intro x; first | (refine suffices hx : Keep a x from ?_; ?_; on_goal 1 => unfold x; on_goal 2 => clear_value x) | skip) | (fail_if_no_progress with_reducible refine Keep.plain ?_) | split | dsimp only

theorem State.txStart_keep {a s : State} (h : Keep a s) {x0 x1} : Keep a (State.txStart s x0 x1) := by
  unfold State.txStart
  repeat' first | (with_reducible first | assumption | apply State.discardErrored_keep | apply State.bump_keep | apply State.discardCopy_keep | apply State.setCopy_keep | apply State.startFrame_keep | apply Keep.ite | refine Keep.foldl ?_ (fun _ _ _ => ?_)) | (lift_lets; intro x; first | (refine suffices hx : Keep a x from ?_; ?_; on_goal 1 => unfold x; on_goal 2 => clear_value x) | skip) | (fail_if_no_progress with_reducible refine Keep.plain ?_) | split | dsimp only

theorem State.cellRead_keep {a s : State} (h : Keep a s) {x0 x1 x2} : Keep a (State.cellRead s x0 x1 x2) := by
  unfold State.cellRead
  repeat' first | (with_reducible first | assumption | apply State.quarantine_keep | apply State.stompCopy_keep | apply State.discardCopy_keep | apply State.raise_keep | apply State.chCross_keep | apply State.setCopy_keep | apply State.freeRef_keep | apply State.tryFinish_keep | apply Keep.ite | refine Keep.foldl ?_ (fun _ _ _ => ?_)) | (lift_lets; intro x; first | (refine suffices hx : Keep a x from ?_; ?_; on_goal 1 => unfold x; on_goal 2 => clear_value x) | skip) | (fail_if_no_progress with_reducible refine Keep.plain ?_) | split | dsimp only

theorem State.completeWaiting_keep {a s : State} (h : Keep a s) {x0 x1 x2 x3} : Keep a (State.completeWaiting s x0 x1 x2 x3) := by
  unfold State.completeWaiting
  repeat' first | (with_reducible first | assumption | apply State.setFifo_keep | apply State.bump_keep | refine State.countRx_keep (by assumption) ?_ | apply State.countRx_keep' | apply State.controlFrame_keep | apply State.ptpRx_keep | apply State.fifoGrown_keep | apply Keep.ite | refine Keep.foldl ?_ (fun _ _ _ => ?_)) | (lift_lets; intro x; first | (refine suffices hx : Keep a x from ?_; ?_; on_goal 1 => unfold x; on_goal 2 => clear_value x) | skip) | (fail_if_no_progress with_reducible refine Keep.plain ?_) | split | dsimp only

theorem State.completePkt_keep {a s : State} (h : Keep a s) {x0 x1 x2 x3} : Keep a (State.completePkt s x0 x1 x2 x3) := by
  unfold State.completePkt
  repeat' first | (with_reducible first | assumption | apply State.meterLate_keep | apply State.setPkt_keep | apply State.fifoGrown_keep | apply State.stompPkt_keep | apply State.settle_keep | apply State.xoffSweep_keep | apply Keep.ite | refine Keep.foldl ?_ (fun _ _ _ => ?_)) | (lift_lets; intro x; first | (refine suffices hx : Keep a x from ?_; ?_; on_goal 1 => unfold x; on_goal 2 => clear_value x) | skip) | (fail_if_no_progress with_reducible refine Keep.plain ?_) | split | dsimp only

theorem State.lastByteHeld_keep {a s : State} (h : Keep a s) {x0 x1 x2} : Keep a (State.lastByteHeld s x0 x1 x2) := by
  unfold State.lastByteHeld
  repeat' first | (with_reducible first | assumption | apply State.completeWaiting_keep | refine State.countRx_keep (by assumption) ?_ | apply State.countRx_keep' | apply State.ptpRx_keep | apply State.completePkt_keep | apply Keep.ite | refine Keep.foldl ?_ (fun _ _ _ => ?_)) | (lift_lets; intro x; first | (refine suffices hx : Keep a x from ?_; ?_; on_goal 1 => unfold x; on_goal 2 => clear_value x) | skip) | (fail_if_no_progress with_reducible refine Keep.plain ?_) | split | dsimp only

theorem State.stallEnd_keep {a s : State} (h : Keep a s) {x0} : Keep a (State.stallEnd s x0) := by
  unfold State.stallEnd
  repeat' first | (with_reducible first | assumption | apply State.bump_keep | apply State.setPkt_keep | apply State.xoffSweep_keep | apply State.stompPkt_keep | apply State.trimCharge_keep | apply Keep.ite) | (lift_lets; intro x; first | (refine suffices hx : Keep a x from ?_; ?_; on_goal 1 => unfold x; on_goal 2 => clear_value x) | skip) | split | dsimp only

theorem State.sendPfc_keep {a s : State} (h : Keep a s) {x0 x1} : Keep a (State.sendPfc s x0 x1) := by
  unfold State.sendPfc
  repeat' first | (with_reducible first | assumption | apply State.send_keep | apply State.bump_keep | apply State.lanePerf_keep | apply State.xoffTry_keep | apply State.setXoff_keep | apply Keep.ite | refine Keep.foldl ?_ (fun _ _ _ => ?_)) | (fail_if_no_progress with_reducible refine Keep.plain ?_)

theorem State.pfcSend_keep {a s : State} (h : Keep a s) {x0} : Keep a (State.pfcSend s x0) := by
  unfold State.pfcSend
  repeat' first | (with_reducible first | assumption | apply State.sendPfc_keep | apply Keep.ite | refine Keep.foldl ?_ (fun _ _ _ => ?_)) | (lift_lets; intro x; first | (refine suffices hx : Keep a x from ?_; ?_; on_goal 1 => unfold x; on_goal 2 => clear_value x) | skip) | (fail_if_no_progress with_reducible refine Keep.plain ?_) | split | dsimp only

theorem State.pfcRefresh_keep {a s : State} (h : Keep a s) {x0} : Keep a (State.pfcRefresh s x0) := by
  unfold State.pfcRefresh
  repeat' (with_reducible first | assumption | apply State.sendPfc_keep | apply Keep.ite)

/-! ### Machine/Punt.lean -/

theorem State.puntCopy_keep {a s : State} (h : Keep a s) {x0 x1 x2 x3 x4} : Keep a (State.puntCopy s x0 x1 x2 x3 x4) := by
  unfold State.puntCopy
  repeat' first | (with_reducible first | assumption | apply State.writeHost_keep | apply State.perf_keep | apply State.setRing_keep | apply State.fillEntry_keep | apply State.removeCopy_keep | apply Keep.ite | refine Keep.foldl ?_ (fun _ _ _ => ?_)) | (lift_lets; intro x; first | (refine suffices hx : Keep a x from ?_; ?_; on_goal 1 => unfold x; on_goal 2 => clear_value x) | skip) | (fail_if_no_progress with_reducible refine Keep.plain ?_) | split | dsimp only

theorem State.puntLost_keep {a s : State} (h : Keep a s) {x0 x1 x2} : Keep a (State.puntLost s x0 x1 x2) := by
  unfold State.puntLost
  repeat' (with_reducible first | assumption | apply State.bump_keep | apply State.setRing_keep | apply State.perf_keep | apply State.discardCopy_keep | apply Keep.ite)

theorem State.puntWrite_keep {a s : State} (h : Keep a s) {x0 x1} : Keep a (State.puntWrite s x0 x1) := by
  unfold State.puntWrite
  repeat' first | (with_reducible first | assumption | apply State.discardCopy_keep | apply State.bump_keep | apply State.perf_keep | refine State.headCopy_keep (by assumption) ?_ | apply State.headCopy_keep' | apply State.puntLost_keep | apply State.fillEntry_keep | apply State.setRing_keep | apply State.readErrors_keep | apply State.puntCopy_keep | apply Keep.ite | refine Keep.foldl ?_ (fun _ _ _ => ?_)) | (lift_lets; intro x; first | (refine suffices hx : Keep a x from ?_; ?_; on_goal 1 => unfold x; on_goal 2 => clear_value x) | skip) | (fail_if_no_progress with_reducible refine Keep.plain ?_) | split | dsimp only

/-! ### Machine/Cipher.lean -/

theorem State.setKeySlot_keep {a s : State} (h : Keep a s) {x0 x1} : Keep a (State.setKeySlot s x0 x1) := Keep.plain h

theorem State.clearCipherRegs_keep {a s : State} (h : Keep a s) : Keep a (State.clearCipherRegs s) := by
  unfold State.clearCipherRegs
  repeat' (with_reducible first | assumption | apply State.setRaw_keep | refine Keep.foldl ?_ (fun _ _ _ => ?_))

theorem State.endSession_keep {a s : State} (h : Keep a s) {x0} : Keep a (State.endSession s x0) := by
  unfold State.endSession
  repeat' first | (with_reducible first | assumption | apply State.puts_keep | apply State.clearCipherRegs_keep) | (fail_if_no_progress with_reducible refine Keep.plain ?_)

theorem State.showWaiting_keep {a s : State} (h : Keep a s) : Keep a (State.showWaiting s) := by
  unfold State.showWaiting
  repeat' (with_reducible first | assumption | apply State.putFlag_keep)

theorem State.lockReq_keep {a s : State} (h : Keep a s) : Keep a (State.lockReq s) := by
  unfold State.lockReq
  repeat' first | (with_reducible first | assumption | apply Keep.ite) | (fail_if_no_progress with_reducible refine Keep.plain ?_)

theorem State.loaderWaits_keep {a s : State} (h : Keep a s) : Keep a (State.loaderWaits s) := by
  unfold State.loaderWaits
  repeat' first | (with_reducible first | assumption | apply State.showWaiting_keep | apply Keep.ite) | (fail_if_no_progress with_reducible refine Keep.plain ?_)

theorem State.harvesterWaits_keep {a s : State} (h : Keep a s) : Keep a (State.harvesterWaits s) := by
  unfold State.harvesterWaits
  repeat' first | (with_reducible first | assumption | apply State.showWaiting_keep | apply Keep.ite) | (fail_if_no_progress with_reducible refine Keep.plain ?_)

theorem State.freeLock_keep {a s : State} (h : Keep a s) : Keep a (State.freeLock s) := by
  unfold State.freeLock
  repeat' (with_reducible first | assumption | apply State.showWaiting_keep | apply State.put_keep)

theorem State.lockRelease_keep {a s : State} (h : Keep a s) : Keep a (State.lockRelease s) := by
  unfold State.lockRelease
  repeat' first | (with_reducible first | assumption | apply State.freeLock_keep | apply State.clearCipherRegs_keep | apply State.endSession_keep | apply Keep.ite) | (fail_if_no_progress with_reducible refine Keep.plain ?_)

theorem State.lockGrant_keep {a s : State} (h : Keep a s) : Keep a (State.lockGrant s) := by
  unfold State.lockGrant
  repeat' first | (with_reducible first | assumption | apply State.put_keep | apply Keep.ite) | (fail_if_no_progress with_reducible refine Keep.plain ?_)

theorem State.lockRevoke_keep {a s : State} (h : Keep a s) : Keep a (State.lockRevoke s) := by
  unfold State.lockRevoke
  repeat' (with_reducible first | assumption | apply State.endSession_keep | apply State.clearCipherRegs_keep | apply State.bump_keep | apply State.put_keep | apply State.lockGrant_keep | apply State.freeLock_keep | apply Keep.ite)

theorem State.startAccepted_keep {a s : State} (h : Keep a s) : Keep a (State.startAccepted s) := by
  unfold State.startAccepted
  repeat' first | (with_reducible first | assumption | apply State.puts_keep) | (fail_if_no_progress with_reducible refine Keep.plain ?_)

theorem State.pushAccepted_keep {a s : State} (h : Keep a s) {x0 x1 x2} : Keep a (State.pushAccepted s x0 x1 x2) := by
  unfold State.pushAccepted
  repeat' first | (with_reducible first | assumption | apply State.puts_keep) | (fail_if_no_progress with_reducible refine Keep.plain ?_)

theorem State.finishAccepted_keep {a s : State} (h : Keep a s) : Keep a (State.finishAccepted s) := by
  unfold State.finishAccepted
  repeat' first | (with_reducible first | assumption | apply State.puts_keep) | (fail_if_no_progress with_reducible refine Keep.plain ?_)

theorem State.setupDone_keep {a s : State} (h : Keep a s) : Keep a (State.setupDone s) := by
  unfold State.setupDone
  repeat' (with_reducible first | assumption | apply State.puts_keep | apply Keep.ite)

theorem State.blockDone_keep {a s : State} (h : Keep a s) : Keep a (State.blockDone s) := by
  unfold State.blockDone
  repeat' first | (with_reducible first | assumption | apply State.setRaw_keep | apply State.puts_keep | apply Keep.ite) | (lift_lets; intro x; first | (refine suffices hx : Keep a x from ?_; ?_; on_goal 1 => unfold x; on_goal 2 => clear_value x) | skip) | (fail_if_no_progress with_reducible refine Keep.plain ?_) | split | dsimp only

theorem State.sessionDone_keep {a s : State} (h : Keep a s) : Keep a (State.sessionDone s) := by
  unfold State.sessionDone
  repeat' first | (with_reducible first | assumption | apply State.bump_keep | apply State.put_keep | apply State.setRaw_keep | apply Keep.ite) | (fail_if_no_progress with_reducible refine Keep.plain ?_)

theorem State.keyCommand_keep {a s : State} (h : Keep a s) {x0 x1} : Keep a (State.keyCommand s x0 x1) := by
  unfold State.keyCommand
  repeat' (with_reducible first | assumption | apply State.puts_keep | apply State.startCheck_keep)

theorem State.loadAccepted_keep {a s : State} (h : Keep a s) {x0} : Keep a (State.loadAccepted s x0) := by
  unfold State.loadAccepted
  repeat' first | (with_reducible first | assumption | apply State.setKeySlot_keep) | split | dsimp only

theorem State.clearAccepted_keep {a s : State} (h : Keep a s) {x0} : Keep a (State.clearAccepted s x0) := Keep.plain h

/-- A change of the fuses of slot 2 alone. -/
theorem Keep.fuse {a s : State} (h : Keep a s) {c : CipherSt} :
    Keep { a with cip := c } { s with cip := c } :=
  ⟨⟨h.extends'.pending, h.extends'.clk, h.extends'.free, h.extends'.out⟩, rfl, fun i => by
    have j := h.inv ⟨⟨i.canonical.regs, i.canonical.cells, i.canonical.entries, i.canonical.meters, i.canonical.flows,
      i.canonical.gates, i.canonical.profiles, i.canonical.policers, i.canonical.groups, i.canonical.members⟩,
      ⟨i.timeOk.total, i.timeOk.quarter⟩⟩
    exact ⟨⟨j.canonical.regs, j.canonical.cells, j.canonical.entries, j.canonical.meters, j.canonical.flows,
      j.canonical.gates, j.canonical.profiles, j.canonical.policers, j.canonical.groups, j.canonical.members⟩,
      ⟨j.timeOk.total, j.timeOk.quarter⟩⟩⟩

/-- Provisioning keeps all but the fuses of slot 2, which it alone writes (16_cipher_engine.md R564). -/
theorem State.provisionDone_keep {s : State} : ∃ c, Keep { s with cip := c } s.provisionDone := by
  unfold State.provisionDone
  split
  · extract_lets args key good k n t u
    refine ⟨{ s.cip with provisioning := false, fuse2 := some k }, ?_⟩
    have ht : Keep t u := State.clearCipherRegs_keep (State.setKeySlot_keep (Keep.refl t))
    clear_value u
    exact Keep.ite (State.endCheck_keep ht) (State.endCheck_keep (State.raise_keep ht))
  · exact ⟨s.cip, Keep.refl s⟩

/-! ### Machine/Harvest.lean -/

theorem State.snapCounter_keep {a s : State} (h : Keep a s) {x0 x1} : Keep a (State.snapCounter s x0 x1) := by
  unfold State.snapCounter
  repeat' (with_reducible first | assumption | apply State.setRaw_keep | apply State.put_keep | apply Keep.ite)

theorem State.snapAll_keep {a s : State} (h : Keep a s) : Keep a (State.snapAll s) := by
  unfold State.snapAll
  repeat' (with_reducible first | assumption | apply State.snapCounter_keep | refine Keep.foldl ?_ (fun _ _ _ => ?_))

theorem State.harvest_keep {a s : State} (h : Keep a s) {x0 x1} : Keep a (State.harvest s x0 x1) := by
  unfold State.harvest
  repeat' first | (with_reducible first | assumption | apply State.snapAll_keep | apply State.puts_keep | apply State.bump_keep | apply State.put_keep | apply Keep.ite | refine Keep.foldl ?_ (fun _ _ _ => ?_)) | (lift_lets; intro x; first | (refine suffices hx : Keep a x from ?_; ?_; on_goal 1 => unfold x; on_goal 2 => clear_value x) | skip) | (fail_if_no_progress with_reducible refine Keep.plain ?_) | split | dsimp only

theorem State.nextHarvest_keep {a s : State} (h : Keep a s) {b n} :
    Keep a { s with mtr := { s.mtr with now := b, nextAt := n } } := by
  exact Keep.plain h

theorem State.harvestEdge_keep {a s : State} (h : Keep a s) : Keep a s.harvestEdge :=
  Keep.ite h (State.nextHarvest_keep (State.harvest_keep h))

theorem State.mtrNow_keep {a s : State} (h : Keep a s) : Keep a (State.mtrNow s) := by
  unfold State.mtrNow
  repeat' first | (with_reducible first | assumption | apply Keep.ite) | (fail_if_no_progress with_reducible refine Keep.plain ?_)

theorem State.mtrEnable_keep {a s : State} (h : Keep a s) : Keep a (State.mtrEnable s) := by
  unfold State.mtrEnable
  repeat' (with_reducible first | assumption | apply State.startCheck_keep)

theorem State.mtrAccepted_keep {a s : State} (h : Keep a s) : Keep a (State.mtrAccepted s) := by
  unfold State.mtrAccepted
  repeat' first | (with_reducible first | assumption | apply State.put_keep) | (fail_if_no_progress with_reducible refine Keep.plain ?_)

theorem State.mtrDisable_keep {a s : State} (h : Keep a s) : Keep a (State.mtrDisable s) := by
  unfold State.mtrDisable
  repeat' first | (with_reducible first | assumption | apply State.put_keep | apply Keep.ite | refine Keep.foldl ?_ (fun _ _ _ => ?_)) | (lift_lets; intro x; first | (refine suffices hx : Keep a x from ?_; ?_; on_goal 1 => unfold x; on_goal 2 => clear_value x) | skip) | (fail_if_no_progress with_reducible refine Keep.plain ?_) | split | dsimp only

theorem State.setFinal_keep {a s : State} (h : Keep a s) {n : Nat} :
    Keep a { s with mtr := { s.mtr with final := n } } := Keep.plain h

theorem State.lastHarvest_keep {a s : State} (h : Keep a s) : Keep a (State.lastHarvest s) :=
  Keep.ite h (State.setFinal_keep (State.harvest_keep h))

theorem State.finalStep_keep {a s : State} (h : Keep a s) : Keep a (State.finalStep s) :=
  Keep.ite (State.mtrDisable_keep h) (Keep.ite (State.setFinal_keep (State.harvest_keep h)) h)

theorem State.setDelivery_keep {a s : State} (h : Keep a s) {x0} : Keep a (State.setDelivery s x0) := Keep.plain h

theorem State.vfLost_keep {a s : State} (h : Keep a s) {x0 x1} : Keep a (State.vfLost s x0 x1) := by
  unfold State.vfLost
  repeat' first | (with_reducible first | assumption | apply State.bump_keep) | (fail_if_no_progress with_reducible refine Keep.plain ?_)

theorem State.stallDelivery_keep {a s : State} (h : Keep a s) {x0} : Keep a (State.stallDelivery s x0) := by
  unfold State.stallDelivery
  repeat' (with_reducible first | assumption | apply State.put_keep | apply State.setDelivery_keep)

theorem State.writeBatch_keep' {a s : State} (h : Keep a s) {x0 x1 x2 x3 x4} : Keep a (State.writeBatch s x0 x1 x2 x3 x4).1 := by
  unfold State.writeBatch
  repeat' first | (with_reducible first | assumption | apply State.bump_keep | apply State.fillEntry_keep | apply State.writeHost_keep | apply State.perf_keep | apply Keep.ite1 | apply Keep.ite | refine Keep.foldl ?_ (fun _ _ _ => ?_)) | (lift_lets; intro x; first | (refine suffices hx : Keep a x from ?_; ?_; on_goal 1 => unfold x; on_goal 2 => clear_value x) | skip) | (fail_if_no_progress with_reducible refine Keep.plain ?_) | split | dsimp only
theorem State.writeBatch_keep {a s t : State} {x0 x1 x2 x3 x4} {y} (e : (State.writeBatch s x0 x1 x2 x3 x4) = (t, y)) (h : Keep a s) : Keep a t := by
  have g := congrArg Prod.fst e; dsimp only at g; rw [← g]; exact State.writeBatch_keep' h

theorem State.getBatch_keep' {a s : State} (h : Keep a s) {x0 x1} : Keep a (State.getBatch s x0 x1).1 := by
  unfold State.getBatch
  repeat' first | (with_reducible first | assumption | apply State.freeLock_keep | apply State.perf_keep | apply State.harvesterWaits_keep | apply Keep.ite1 | apply Keep.ite | refine Keep.foldl ?_ (fun _ _ _ => ?_)) | (lift_lets; intro x; first | (refine suffices hx : Keep a x from ?_; ?_; on_goal 1 => unfold x; on_goal 2 => clear_value x) | skip) | (fail_if_no_progress with_reducible refine Keep.plain ?_) | split | dsimp only
theorem State.getBatch_keep {a s t : State} {x0 x1} {y} (e : (State.getBatch s x0 x1) = (t, y)) (h : Keep a s) : Keep a t := by
  have g := congrArg Prod.fst e; dsimp only at g; rw [← g]; exact State.getBatch_keep' h

theorem State.deliverPf_keep {a s : State} (h : Keep a s) {x0 x1} : Keep a (State.deliverPf s x0 x1) := by
  unfold State.deliverPf
  repeat' first | (with_reducible first | assumption | apply State.stallDelivery_keep | refine State.headCopy_keep (by assumption) ?_ | apply State.headCopy_keep' | apply State.bump_keep | apply State.fillEntry_keep | refine State.getBatch_keep (by assumption) ?_ | apply State.getBatch_keep' | refine State.writeBatch_keep (by assumption) ?_ | apply State.writeBatch_keep' | apply State.put_keep | apply State.setDelivery_keep | apply Keep.ite | refine Keep.foldl ?_ (fun _ _ _ => ?_)) | (lift_lets; intro x; first | (refine suffices hx : Keep a x from ?_; ?_; on_goal 1 => unfold x; on_goal 2 => clear_value x) | skip) | (fail_if_no_progress with_reducible refine Keep.plain ?_) | split | dsimp only

theorem State.deliverVf_keep {a s : State} (h : Keep a s) {x0 x1 x2 x3 x4} : Keep a (State.deliverVf s x0 x1 x2 x3 x4) := by
  unfold State.deliverVf
  repeat' first | (with_reducible first | assumption | apply State.vfLost_keep | refine State.headCopy_keep (by assumption) ?_ | apply State.headCopy_keep' | apply State.bump_keep | apply State.fillEntry_keep | refine State.getBatch_keep (by assumption) ?_ | apply State.getBatch_keep' | refine State.writeBatch_keep (by assumption) ?_ | apply State.writeBatch_keep' | apply State.setDelivery_keep | apply Keep.ite | refine Keep.foldl ?_ (fun _ _ _ => ?_)) | (lift_lets; intro x; first | (refine suffices hx : Keep a x from ?_; ?_; on_goal 1 => unfold x; on_goal 2 => clear_value x) | skip) | (fail_if_no_progress with_reducible refine Keep.plain ?_) | split | dsimp only

theorem State.deliverSummary_keep {a s : State} (h : Keep a s) {x0 x1 x2} : Keep a (State.deliverSummary s x0 x1 x2) := by
  unfold State.deliverSummary
  repeat' first | (with_reducible first | assumption | refine State.headCopy_keep (by assumption) ?_ | apply State.headCopy_keep' | apply State.bump_keep | apply State.fillEntry_keep | refine State.getBatch_keep (by assumption) ?_ | apply State.getBatch_keep' | refine State.writeBatch_keep (by assumption) ?_ | apply State.writeBatch_keep' | apply Keep.ite | refine Keep.foldl ?_ (fun _ _ _ => ?_)) | (lift_lets; intro x; first | (refine suffices hx : Keep a x from ?_; ?_; on_goal 1 => unfold x; on_goal 2 => clear_value x) | skip) | (fail_if_no_progress with_reducible refine Keep.plain ?_) | split | dsimp only

theorem State.batchSend_keep {a s : State} (h : Keep a s) {x0} : Keep a (State.batchSend s x0) := by
  unfold State.batchSend
  repeat' first | (with_reducible first | assumption | apply State.deliverSummary_keep | apply State.deliverPf_keep | apply State.deliverVf_keep | apply Keep.ite | refine Keep.foldl ?_ (fun _ _ _ => ?_)) | (lift_lets; intro x; first | (refine suffices hx : Keep a x from ?_; ?_; on_goal 1 => unfold x; on_goal 2 => clear_value x) | skip) | (fail_if_no_progress with_reducible refine Keep.plain ?_) | split | dsimp only

theorem State.dropMeters_keep {a s : State} (h : Keep a s) (p : Nat × Meter → Bool) {d} :
    Keep a { s with mtr := { s.mtr with delivery := d, meters := s.mtr.meters.filter p } } :=
  h.upd rfl rfl (le_refl _) (List.suffix_refl _) rfl
    (fun c => ⟨c.regs, c.cells, c.entries, smWf_filter _ _ _ c.meters, c.flows, c.gates, c.profiles, c.policers,
      c.groups, c.members⟩) (fun o => ⟨o.total, o.quarter⟩)

theorem State.harvestDone_keep {a s : State} (h : Keep a s) : Keep a s.harvestDone := by
  unfold State.harvestDone
  split
  · exact h
  · refine Keep.ite h ?_
    exact State.finalStep_keep (State.mtrEvent_keep (State.puts_keep (State.dropMeters_keep h _)))

theorem State.retryHarvest_keep {a s : State} (h : Keep a s) : Keep a (State.retryHarvest s) := by
  unfold State.retryHarvest
  repeat' first | (with_reducible first | assumption | apply State.setDelivery_keep | apply Keep.ite) | split | dsimp only

theorem State.batchFault_keep {a s : State} (h : Keep a s) : Keep a (State.batchFault s) := by
  unfold State.batchFault
  repeat' first | (with_reducible first | assumption | apply State.setDelivery_keep | apply State.stallDelivery_keep | apply State.vfLost_keep | apply Keep.ite | refine Keep.foldl ?_ (fun _ _ _ => ?_)) | (lift_lets; intro x; first | (refine suffices hx : Keep a x from ?_; ?_; on_goal 1 => unfold x; on_goal 2 => clear_value x) | skip) | (fail_if_no_progress with_reducible refine Keep.plain ?_) | split | dsimp only

/-! ### Machine/Lanes.lean -/

theorem State.setLane_keep {a s : State} (h : Keep a s) {x0 x1} : Keep a (State.setLane s x0 x1) := Keep.plain h

theorem State.onPort_keep {a s : State} (h : Keep a s) {x0} {f} (hf : ∀ r, Keep a (f r)) : Keep a (State.onPort s
  x0 f) := by
  unfold State.onPort
  repeat' first | (with_reducible first | assumption | apply hf) | split | dsimp only

theorem State.setPstate_keep {a s : State} (h : Keep a s) {x0 x1} : Keep a (State.setPstate s x0 x1) := by
  unfold State.setPstate
  repeat' (with_reducible first | assumption | apply State.put_keep)

theorem State.setMacroLock_keep {a s : State} (h : Keep a s) {x0 x1} : Keep a (State.setMacroLock s x0 x1) := by
  unfold State.setMacroLock
  repeat' (with_reducible first | assumption | apply State.put_keep | apply State.putFlag_keep | apply Keep.ite)

theorem State.showMacro_keep {a s : State} (h : Keep a s) {x0} : Keep a (State.showMacro s x0) := by
  unfold State.showMacro
  repeat' (with_reducible first | assumption | apply State.put_keep | apply State.setMacroLock_keep | apply Keep.ite)

theorem State.askPartner_keep {a s : State} (h : Keep a s) {x0 x1 x2 x3} : Keep a (State.askPartner s x0 x1 x2 x3) := by
  unfold State.askPartner
  repeat' first | (with_reducible first | assumption | apply State.setLane_keep | apply State.send_keep | apply Keep.ite | refine Keep.foldl ?_ (fun _ _ _ => ?_)) | (lift_lets; intro x; first | (refine suffices hx : Keep a x from ?_; ?_; on_goal 1 => unfold x; on_goal 2 => clear_value x) | skip) | (fail_if_no_progress with_reducible refine Keep.plain ?_) | split | dsimp only

theorem State.sendFault_keep {a s : State} (h : Keep a s) {x0 x1} : Keep a (State.sendFault s x0 x1) := by
  unfold State.sendFault
  repeat' first | (with_reducible first | assumption | apply State.setPort_keep | apply State.send_keep | apply Keep.ite | refine Keep.foldl ?_ (fun _ _ _ => ?_)) | (lift_lets; intro x; first | (refine suffices hx : Keep a x from ?_; ?_; on_goal 1 => unfold x; on_goal 2 => clear_value x) | skip) | (fail_if_no_progress with_reducible refine Keep.plain ?_) | split | dsimp only

theorem State.startLane_keep {a s : State} (h : Keep a s) {x0 x1} : Keep a (State.startLane s x0 x1) := by
  unfold State.startLane
  repeat' first | (with_reducible first | assumption | apply State.put_keep | apply State.setLane_keep | apply Keep.ite | refine Keep.foldl ?_ (fun _ _ _ => ?_)) | (lift_lets; intro x; first | (refine suffices hx : Keep a x from ?_; ?_; on_goal 1 => unfold x; on_goal 2 => clear_value x) | skip) | (fail_if_no_progress with_reducible refine Keep.plain ?_) | split | dsimp only

theorem State.startTrain_keep {a s : State} (h : Keep a s) {x0} : Keep a (State.startTrain s x0) := by
  unfold State.startTrain
  repeat' first | (with_reducible first | assumption | apply State.startLane_keep | apply State.sendFault_keep | apply State.setPstate_keep | apply Keep.ite | refine Keep.foldl ?_ (fun _ _ _ => ?_)) | (lift_lets; intro x; first | (refine suffices hx : Keep a x from ?_; ?_; on_goal 1 => unfold x; on_goal 2 => clear_value x) | skip) | (fail_if_no_progress with_reducible refine Keep.plain ?_) | split | dsimp only

theorem State.startAlign_keep {a s : State} (h : Keep a s) {x0} : Keep a (State.startAlign s x0) := by
  unfold State.startAlign
  repeat' first | (with_reducible first | assumption | apply State.sendFault_keep | apply State.setPstate_keep | apply Keep.ite | refine Keep.foldl ?_ (fun _ _ _ => ?_)) | (lift_lets; intro x; first | (refine suffices hx : Keep a x from ?_; ?_; on_goal 1 => unfold x; on_goal 2 => clear_value x) | skip) | (fail_if_no_progress with_reducible refine Keep.plain ?_) | split | dsimp only

theorem State.attemptFail_keep {a s : State} (h : Keep a s) {x0 x1} : Keep a (State.attemptFail s x0 x1) := by
  unfold State.attemptFail
  repeat' first | (with_reducible first | assumption | apply State.setLane_keep | apply State.setPort_keep | apply State.sendFault_keep | apply State.puts_keep | apply Keep.ite | refine Keep.foldl ?_ (fun _ _ _ => ?_)) | (lift_lets; intro x; first | (refine suffices hx : Keep a x from ?_; ?_; on_goal 1 => unfold x; on_goal 2 => clear_value x) | skip) | (fail_if_no_progress with_reducible refine Keep.plain ?_) | split | dsimp only

theorem State.startAttempt_keep {a s : State} (h : Keep a s) {x0} : Keep a (State.startAttempt s x0) := by
  unfold State.startAttempt
  repeat' first | (with_reducible first | assumption | apply State.setPort_keep | apply State.setPstate_keep | apply State.sendFault_keep | apply State.send_keep | apply State.startTrain_keep | apply Keep.ite | refine Keep.foldl ?_ (fun _ _ _ => ?_)) | (lift_lets; intro x; first | (refine suffices hx : Keep a x from ?_; ?_; on_goal 1 => unfold x; on_goal 2 => clear_value x) | skip) | (fail_if_no_progress with_reducible refine Keep.plain ?_) | split | dsimp only

theorem State.laneResult_keep {a s : State} (h : Keep a s) {x0 x1 x2} : Keep a (State.laneResult s x0 x1 x2) := by
  unfold State.laneResult
  repeat' first | (with_reducible first | assumption | apply State.setLane_keep | apply State.attemptFail_keep | apply State.send_keep | apply State.startAlign_keep | apply Keep.ite | refine Keep.foldl ?_ (fun _ _ _ => ?_)) | (lift_lets; intro x; first | (refine suffices hx : Keep a x from ?_; ?_; on_goal 1 => unfold x; on_goal 2 => clear_value x) | skip) | (fail_if_no_progress with_reducible refine Keep.plain ?_) | split | dsimp only

theorem State.gradeLane_keep {a s : State} (h : Keep a s) {x0 x1} : Keep a (State.gradeLane s x0 x1) := by
  unfold State.gradeLane
  repeat' (with_reducible first | assumption | apply State.laneResult_keep | apply State.put_keep | apply Keep.ite)

theorem State.askTap_keep {a s : State} (h : Keep a s) {x0 x1} : Keep a (State.askTap s x0 x1) := by
  unfold State.askTap
  repeat' first | (with_reducible first | assumption | apply State.gradeLane_keep | apply State.setLane_keep | apply State.put_keep | apply State.askPartner_keep | apply Keep.ite | refine Keep.foldl ?_ (fun _ _ _ => ?_)) | (lift_lets; intro x; first | (refine suffices hx : Keep a x from ?_; ?_; on_goal 1 => unfold x; on_goal 2 => clear_value x) | skip) | (fail_if_no_progress with_reducible refine Keep.plain ?_) | split | dsimp only

theorem State.moveFar_keep {a s : State} (h : Keep a s) {x0 x1 x2} : Keep a (State.moveFar s x0 x1 x2) := by
  unfold State.moveFar
  repeat' first | (with_reducible first | assumption | apply State.setLane_keep | apply Keep.ite | refine Keep.foldl ?_ (fun _ _ _ => ?_)) | (lift_lets; intro x; first | (refine suffices hx : Keep a x from ?_; ?_; on_goal 1 => unfold x; on_goal 2 => clear_value x) | skip) | (fail_if_no_progress with_reducible refine Keep.plain ?_) | split | dsimp only

theorem State.nextTap_keep {a s : State} (h : Keep a s) {x0 x1} : Keep a (State.nextTap s x0 x1) := by
  unfold State.nextTap
  repeat' (with_reducible first | assumption | apply State.askTap_keep | apply State.setLane_keep)

theorem State.takeCode_keep {a s : State} (h : Keep a s) {x0 x1 x2} : Keep a (State.takeCode s x0 x1 x2) := by
  unfold State.takeCode
  repeat' (with_reducible first | assumption | apply State.puts_keep | apply State.setLane_keep)

theorem State.fullSweepDone_keep {a s : State} (h : Keep a s) {x0 x1 x2 x3} : Keep a (State.fullSweepDone s x0 x1 x2 x3) := by
  unfold State.fullSweepDone
  repeat' first | (with_reducible first | assumption | apply State.takeCode_keep | apply State.gradeLane_keep | apply State.laneResult_keep | apply State.askTap_keep | apply Keep.ite | refine Keep.foldl ?_ (fun _ _ _ => ?_)) | (lift_lets; intro x; first | (refine suffices hx : Keep a x from ?_; ?_; on_goal 1 => unfold x; on_goal 2 => clear_value x) | skip) | (fail_if_no_progress with_reducible refine Keep.plain ?_) | split | dsimp only

theorem State.shortSweepDone_keep {a s : State} (h : Keep a s) {x0 x1 x2 x3} : Keep a (State.shortSweepDone s x0 x1 x2 x3) := by
  unfold State.shortSweepDone
  repeat' first | (with_reducible first | assumption | apply State.askPartner_keep | apply State.moveFar_keep | apply State.nextTap_keep | apply State.takeCode_keep | apply State.setLane_keep | apply State.laneResult_keep | apply State.askTap_keep | apply Keep.ite | refine Keep.foldl ?_ (fun _ _ _ => ?_)) | (lift_lets; intro x; first | (refine suffices hx : Keep a x from ?_; ?_; on_goal 1 => unfold x; on_goal 2 => clear_value x) | skip) | (fail_if_no_progress with_reducible refine Keep.plain ?_) | split | dsimp only

theorem State.ctleSweepDone_keep {a s : State} (h : Keep a s) {x0 x1} : Keep a (State.ctleSweepDone s x0 x1) := by
  unfold State.ctleSweepDone
  repeat' first | (with_reducible first | assumption | apply State.puts_keep | apply State.fullSweepDone_keep | apply State.shortSweepDone_keep | apply Keep.ite | refine Keep.foldl ?_ (fun _ _ _ => ?_)) | (lift_lets; intro x; first | (refine suffices hx : Keep a x from ?_; ?_; on_goal 1 => unfold x; on_goal 2 => clear_value x) | skip) | (fail_if_no_progress with_reducible refine Keep.plain ?_) | split | dsimp only

theorem State.tapAnswer_keep {a s : State} (h : Keep a s) {x0 x1 x2} : Keep a (State.tapAnswer s x0 x1 x2) := by
  unfold State.tapAnswer
  repeat' first | (with_reducible first | assumption | apply State.nextTap_keep | apply State.setLane_keep | apply State.moveFar_keep | apply Keep.ite | refine Keep.foldl ?_ (fun _ _ _ => ?_)) | (lift_lets; intro x; first | (refine suffices hx : Keep a x from ?_; ?_; on_goal 1 => unfold x; on_goal 2 => clear_value x) | skip) | (fail_if_no_progress with_reducible refine Keep.plain ?_) | split | dsimp only

theorem State.tapAfter_keep' {a s : State} (h : Keep a s) {x0 x1 x2} : Keep a (State.tapAfter s x0 x1 x2).1 := by
  unfold State.tapAfter
  repeat' (with_reducible first | assumption | refine State.draw_keep (by assumption) ?_ | apply State.draw_keep' | apply Keep.ite1 | apply Keep.ite)
theorem State.tapAfter_keep {a s t : State} {x0 x1 x2} {y} (e : (State.tapAfter s x0 x1 x2) = (t, y)) (h : Keep a
  s) : Keep a t := by
  have g := congrArg Prod.fst e; dsimp only at g; rw [← g]; exact State.tapAfter_keep' h

theorem State.serveTap_keep' {a s : State} (h : Keep a s) {x0 x1 x2} : Keep a (State.serveTap s x0 x1 x2).1 := by
  unfold State.serveTap
  repeat' first | (with_reducible first | assumption | apply State.put_keep | refine State.tapAfter_keep (by assumption) ?_ | apply State.tapAfter_keep' | apply Keep.ite1 | apply Keep.ite | refine Keep.foldl ?_ (fun _ _ _ => ?_)) | (lift_lets; intro x; first | (refine suffices hx : Keep a x from ?_; ?_; on_goal 1 => unfold x; on_goal 2 => clear_value x) | skip) | (fail_if_no_progress with_reducible refine Keep.plain ?_) | split | dsimp only
theorem State.serveTap_keep {a s t : State} {x0 x1 x2} {y} (e : (State.serveTap s x0 x1 x2) = (t, y)) (h : Keep a s) : Keep a t := by
  have g := congrArg Prod.fst e; dsimp only at g; rw [← g]; exact State.serveTap_keep' h

theorem State.trainFrame_keep {a s : State} (h : Keep a s) {x0 x1 x2 x3} : Keep a (State.trainFrame s x0 x1 x2 x3) := by
  unfold State.trainFrame
  repeat' first | (with_reducible first | assumption | apply State.setLane_keep | refine State.serveTap_keep (by assumption) ?_ | apply State.serveTap_keep' | apply State.send_keep | apply State.tapAnswer_keep | apply Keep.ite | refine Keep.foldl ?_ (fun _ _ _ => ?_)) | (lift_lets; intro x; first | (refine suffices hx : Keep a x from ?_; ?_; on_goal 1 => unfold x; on_goal 2 => clear_value x) | skip) | (fail_if_no_progress with_reducible refine Keep.plain ?_) | split | dsimp only

theorem State.tapTimeout_keep {a s : State} (h : Keep a s) {x0} : Keep a (State.tapTimeout s x0) := by
  unfold State.tapTimeout
  repeat' first | (with_reducible first | assumption | apply State.setLane_keep | apply State.nextTap_keep | apply Keep.ite | refine Keep.foldl ?_ (fun _ _ _ => ?_)) | (lift_lets; intro x; first | (refine suffices hx : Keep a x from ?_; ?_; on_goal 1 => unfold x; on_goal 2 => clear_value x) | skip) | (fail_if_no_progress with_reducible refine Keep.plain ?_) | split | dsimp only

theorem State.trainTimeout_keep {a s : State} (h : Keep a s) {x0} : Keep a (State.trainTimeout s x0) := by
  unfold State.trainTimeout
  repeat' first | (with_reducible first | assumption | apply State.onPort_keep | apply State.attemptFail_keep | apply Keep.ite) | (refine fun t => ?_; try beta_reduce)

theorem State.contAdapt_keep {a s : State} (h : Keep a s) {x0 x1 x2} : Keep a (State.contAdapt s x0 x1 x2) := by
  unfold State.contAdapt
  repeat' first | (with_reducible first | assumption | apply State.takeCode_keep | apply Keep.ite | refine Keep.foldl ?_ (fun _ _ _ => ?_)) | (lift_lets; intro x; first | (refine suffices hx : Keep a x from ?_; ?_; on_goal 1 => unfold x; on_goal 2 => clear_value x) | skip) | (fail_if_no_progress with_reducible refine Keep.plain ?_) | split | dsimp only

theorem State.anComplete_keep {a s : State} (h : Keep a s) {x0 x1} : Keep a (State.anComplete s x0 x1) := by
  unfold State.anComplete
  repeat' first | (with_reducible first | assumption | apply State.onPort_keep | apply State.attemptFail_keep | apply State.puts_keep | apply State.setPort_keep | apply State.startTrain_keep | apply Keep.ite | refine Keep.foldl ?_ (fun _ _ _ => ?_)) | (lift_lets; intro x; first | (refine suffices hx : Keep a x from ?_; ?_; on_goal 1 => unfold x; on_goal 2 => clear_value x) | skip) | (fail_if_no_progress with_reducible refine Keep.plain ?_) | split | dsimp only

theorem State.linkReady_keep {a s : State} (h : Keep a s) {x0} : Keep a (State.linkReady s x0) := by
  unfold State.linkReady
  repeat' first | (with_reducible first | assumption | apply State.setLane_keep | apply State.putFlag_keep | apply State.setPort_keep | apply State.setPstate_keep | apply State.sendFault_keep | apply State.puts_keep | apply State.creditStart_keep | apply Keep.ite | refine Keep.foldl ?_ (fun _ _ _ => ?_)) | (lift_lets; intro x; first | (refine suffices hx : Keep a x from ?_; ?_; on_goal 1 => unfold x; on_goal 2 => clear_value x) | skip) | (fail_if_no_progress with_reducible refine Keep.plain ?_) | split | dsimp only

theorem State.alignComplete_keep {a s : State} (h : Keep a s) {x0 x1} : Keep a (State.alignComplete s x0 x1) := by
  unfold State.alignComplete
  repeat' first | (with_reducible first | assumption | apply State.onPort_keep | apply State.attemptFail_keep | apply State.linkReady_keep | apply Keep.ite | refine Keep.foldl ?_ (fun _ _ _ => ?_)) | (lift_lets; intro x; first | (refine suffices hx : Keep a x from ?_; ?_; on_goal 1 => unfold x; on_goal 2 => clear_value x) | skip) | (fail_if_no_progress with_reducible refine Keep.plain ?_) | split | dsimp only

theorem State.alignTimeout_keep {a s : State} (h : Keep a s) {x0} : Keep a (State.alignTimeout s x0) := by
  unfold State.alignTimeout
  repeat' first | (with_reducible first | assumption | apply State.onPort_keep | apply State.attemptFail_keep | apply Keep.ite) | (refine fun t => ?_; try beta_reduce)

theorem State.retryTimer_keep {a s : State} (h : Keep a s) {x0} : Keep a (State.retryTimer s x0) := by
  unfold State.retryTimer
  repeat' first | (with_reducible first | assumption | apply State.onPort_keep | apply State.startAttempt_keep | apply Keep.ite) | (refine fun t => ?_; try beta_reduce)

theorem State.flushLink_keep {a s : State} (h : Keep a s) {x0} : Keep a (State.flushLink s x0) := by
  unfold State.flushLink
  repeat' (with_reducible first | assumption | apply State.lastByteHeld_keep | apply State.removeCopy_keep | apply State.flushCopies_keep | apply Keep.ite | refine Keep.foldl ?_ (fun _ _ _ => ?_))

theorem State.linkLost_keep {a s : State} (h : Keep a s) {x0 x1} : Keep a (State.linkLost s x0 x1) := by
  unfold State.linkLost
  repeat' first | (with_reducible first | assumption | apply State.setPort_keep | apply State.puts_keep | apply State.bump_keep | apply State.flushLink_keep | apply Keep.ite | refine Keep.foldl ?_ (fun _ _ _ => ?_)) | (lift_lets; intro x; first | (refine suffices hx : Keep a x from ?_; ?_; on_goal 1 => unfold x; on_goal 2 => clear_value x) | skip) | (fail_if_no_progress with_reducible refine Keep.plain ?_) | split | dsimp only

theorem State.goDown_keep {a s : State} (h : Keep a s) {x0 x1} : Keep a (State.goDown s x0 x1) := by
  unfold State.goDown
  repeat' first | (with_reducible first | assumption | apply State.setPort_keep | apply State.sendFault_keep | apply State.linkLost_keep | apply State.setPstate_keep | apply Keep.ite | refine Keep.foldl ?_ (fun _ _ _ => ?_)) | (lift_lets; intro x; first | (refine suffices hx : Keep a x from ?_; ?_; on_goal 1 => unfold x; on_goal 2 => clear_value x) | skip) | (fail_if_no_progress with_reducible refine Keep.plain ?_) | split | dsimp only

theorem State.lossOfSignal_keep {a s : State} (h : Keep a s) {x0} : Keep a (State.lossOfSignal s x0) := by
  unfold State.lossOfSignal
  repeat' first | (with_reducible first | assumption | apply State.puts_keep | apply State.goDown_keep | apply State.linkLost_keep | apply Keep.ite) | (lift_lets; intro x; first | (refine suffices hx : Keep a x from ?_; ?_; on_goal 1 => unfold x; on_goal 2 => clear_value x) | skip) | split | dsimp only

theorem State.ethernetLost_keep {a s : State} (h : Keep a s) {x0 x1} : Keep a (State.ethernetLost s x0 x1) := by
  unfold State.ethernetLost
  repeat' first | (with_reducible first | assumption | apply State.onPort_keep | apply State.linkLost_keep | apply State.goDown_keep | apply Keep.ite) | (refine fun t => ?_; try beta_reduce)

theorem State.portRetrain_keep {a s : State} (h : Keep a s) {x0} : Keep a (State.portRetrain s x0) := by
  unfold State.portRetrain
  repeat' first | (with_reducible first | assumption | apply State.goDown_keep | apply State.startAttempt_keep | apply Keep.ite) | split | dsimp only

theorem State.portOff_keep {a s : State} (h : Keep a s) {x0} : Keep a (State.portOff s x0) := by
  unfold State.portOff
  repeat' first | (with_reducible first | assumption | apply State.sendFault_keep | apply State.linkLost_keep | apply State.put_keep | apply State.setXoff_keep | apply State.puts_keep | apply State.showMacro_keep | apply Keep.ite | refine Keep.foldl ?_ (fun _ _ _ => ?_)) | (lift_lets; intro x; first | (refine suffices hx : Keep a x from ?_; ?_; on_goal 1 => unfold x; on_goal 2 => clear_value x) | skip) | (fail_if_no_progress with_reducible refine Keep.plain ?_) | split | dsimp only

theorem State.disableEnd_keep {a s : State} (h : Keep a s) {x0} : Keep a (State.disableEnd s x0) := by
  unfold State.disableEnd
  repeat' first | (with_reducible first | assumption | apply State.onPort_keep | apply State.portOff_keep | apply Keep.ite) | (refine fun t => ?_; try beta_reduce)

theorem State.disablePort_keep {a s : State} (h : Keep a s) {x0} : Keep a (State.disablePort s x0) := by
  unfold State.disablePort
  repeat' (with_reducible first | assumption | apply State.setLane_keep | apply State.portStop_keep | apply State.setPstate_keep | apply State.put_keep | apply Keep.ite | refine Keep.foldl ?_ (fun _ _ _ => ?_))

theorem State.portDisable_keep {a s : State} (h : Keep a s) {x0} : Keep a (State.portDisable s x0) := by
  unfold State.portDisable
  repeat' first | (with_reducible first | assumption | apply State.setPort_keep | apply State.disablePort_keep | apply Keep.ite) | (lift_lets; intro x; first | (refine suffices hx : Keep a x from ?_; ?_; on_goal 1 => unfold x; on_goal 2 => clear_value x) | skip) | split | dsimp only

theorem State.openScrambler_keep {a s : State} (h : Keep a s) {x0} : Keep a (State.openScrambler s x0) := by
  unfold State.openScrambler
  repeat' first | (with_reducible first | assumption | refine State.draw_keep (by assumption) ?_ | apply State.draw_keep' | apply State.setLane_keep | refine State.draw_keep (by assumption) ?_ | apply State.draw_keep' | apply Keep.ite | refine Keep.foldl ?_ (fun _ _ _ => ?_)) | (lift_lets; intro x; first | (refine suffices hx : Keep a x from ?_; ?_; on_goal 1 => unfold x; on_goal 2 => clear_value x) | skip) | (fail_if_no_progress with_reducible refine Keep.plain ?_) | split | dsimp only

theorem State.portAccepted_keep {a s : State} (h : Keep a s) {x0} : Keep a (State.portAccepted s x0) := by
  unfold State.portAccepted
  repeat' first | (with_reducible first | assumption | apply State.put_keep | apply State.setMacroLock_keep | apply State.setPort_keep | apply State.puts_keep | apply State.openScrambler_keep | apply State.startAttempt_keep | apply State.disablePort_keep | apply Keep.ite | refine Keep.foldl ?_ (fun _ _ _ => ?_)) | (lift_lets; intro x; first | (refine suffices hx : Keep a x from ?_; ?_; on_goal 1 => unfold x; on_goal 2 => clear_value x) | skip) | (fail_if_no_progress with_reducible refine Keep.plain ?_) | split | dsimp only

theorem State.portRefused_keep {a s : State} (h : Keep a s) {x0} : Keep a (State.portRefused s x0) := by
  unfold State.portRefused
  repeat' first | (with_reducible first | assumption | apply State.setPort_keep) | (lift_lets; intro x; first | (refine suffices hx : Keep a x from ?_; ?_; on_goal 1 => unfold x; on_goal 2 => clear_value x) | skip) | split | dsimp only

theorem State.lpiEnter_keep {a s : State} (h : Keep a s) {x0} : Keep a (State.lpiEnter s x0) := by
  unfold State.lpiEnter
  repeat' first | (with_reducible first | assumption | apply State.onPort_keep | apply State.put_keep | apply Keep.ite) | (refine fun t => ?_; try beta_reduce)

theorem State.partnerLpi_keep {a s : State} (h : Keep a s) {x0 x1} : Keep a (State.partnerLpi s x0 x1) := by
  unfold State.partnerLpi
  repeat' first | (with_reducible first | assumption | apply State.onPort_keep | apply State.putFlag_keep | apply Keep.ite) | (refine fun t => ?_; try beta_reduce)

theorem State.prbsFlip_keep {a s : State} (h : Keep a s) {x0} : Keep a (State.prbsFlip s x0) := by
  unfold State.prbsFlip
  repeat' (with_reducible first | assumption | apply State.send_keep | apply Keep.ite)

theorem State.injectGo_keep {a s : State} (h : Keep a s) {x0} : Keep a (State.injectGo s x0) := by
  unfold State.injectGo
  repeat' first | (with_reducible first | assumption | apply State.send_keep | apply State.put_keep | apply Keep.ite) | split | dsimp only

theorem State.checkerLock_keep {a s : State} (h : Keep a s) {x0 x1 x2 x3} : Keep a (State.checkerLock s x0 x1 x2
  x3) := by
  unfold State.checkerLock
  repeat' (with_reducible first | assumption | apply State.bump_keep | apply State.putFlag_keep | apply Keep.ite)

theorem State.macroDown_keep {a s : State} (h : Keep a s) {x0} : Keep a (State.macroDown s x0) := by
  unfold State.macroDown
  repeat' (with_reducible first | assumption | apply State.goDown_keep | apply State.puts_keep | apply State.attemptFail_keep | apply State.linkLost_keep | apply Keep.ite | refine Keep.foldl ?_ (fun _ _ _ => ?_))

theorem State.macroLockLost_keep {a s : State} (h : Keep a s) {x0} : Keep a (State.macroLockLost s x0) := by
  unfold State.macroLockLost
  repeat' (with_reducible first | assumption | apply State.macroDown_keep | apply State.raise_keep | apply State.setMacroLock_keep | apply Keep.ite)

/-! ### Machine/Ristlink.lean -/

theorem State.toKeepAlive_keep {a s : State} (h : Keep a s) {x0} : Keep a (State.toKeepAlive s x0) := by
  unfold State.toKeepAlive
  repeat' (with_reducible first | assumption | apply State.linkLost_keep | apply State.setLane_keep | apply State.startTrain_keep | apply State.setPort_keep | apply Keep.ite | refine Keep.foldl ?_ (fun _ _ _ => ?_))

theorem State.askRateDown_keep {a s : State} (h : Keep a s) {x0} : Keep a (State.askRateDown s x0) := by
  unfold State.askRateDown
  repeat' first | (with_reducible first | assumption | apply State.setPort_keep | apply Keep.ite | refine Keep.foldl ?_ (fun _ _ _ => ?_)) | (lift_lets; intro x; first | (refine suffices hx : Keep a x from ?_; ?_; on_goal 1 => unfold x; on_goal 2 => clear_value x) | skip) | (fail_if_no_progress with_reducible refine Keep.plain ?_) | split | dsimp only

theorem State.finalSweep_keep {a s : State} (h : Keep a s) {x0} : Keep a (State.finalSweep s x0) := by
  unfold State.finalSweep
  repeat' first | (with_reducible first | assumption | apply State.sendBlock_keep | apply Keep.ite | refine Keep.foldl ?_ (fun _ _ _ => ?_)) | (lift_lets; intro x; first | (refine suffices hx : Keep a x from ?_; ?_; on_goal 1 => unfold x; on_goal 2 => clear_value x) | skip) | (fail_if_no_progress with_reducible refine Keep.plain ?_) | split | dsimp only

theorem State.brineLinks_keep {a s : State} (h : Keep a s) : Keep a (State.brineLinks s) := by
  unfold State.brineLinks
  repeat' (with_reducible first | assumption | apply State.finalSweep_keep | apply State.askRateDown_keep | apply State.toKeepAlive_keep | apply Keep.ite | refine Keep.foldl ?_ (fun _ _ _ => ?_))

theorem State.keepAliveTimeout_keep {a s : State} (h : Keep a s) {x0} : Keep a (State.keepAliveTimeout s x0) :=
  State.onPort_keep h (fun _ => Keep.ite (State.toKeepAlive_keep h) h)

theorem State.hearDown_keep {a s : State} (h : Keep a s) {x0 x1} : Keep a (State.hearDown s x0 x1) := by
  unfold State.hearDown
  repeat' first | (with_reducible first | assumption | apply State.setPort_keep | apply State.askRateDown_keep | apply Keep.ite | refine Keep.foldl ?_ (fun _ _ _ => ?_)) | (lift_lets; intro x; first | (refine suffices hx : Keep a x from ?_; ?_; on_goal 1 => unfold x; on_goal 2 => clear_value x) | skip) | (fail_if_no_progress with_reducible refine Keep.plain ?_) | split | dsimp only

theorem State.hearUp_keep {a s : State} (h : Keep a s) {x0 x1} : Keep a (State.hearUp s x0 x1) := by
  unfold State.hearUp
  repeat' first | (with_reducible first | assumption | apply State.setPort_keep | apply Keep.ite | refine Keep.foldl ?_ (fun _ _ _ => ?_)) | (lift_lets; intro x; first | (refine suffices hx : Keep a x from ?_; ?_; on_goal 1 => unfold x; on_goal 2 => clear_value x) | skip) | (fail_if_no_progress with_reducible refine Keep.plain ?_) | split | dsimp only

theorem State.rateAgreed_keep {a s : State} (h : Keep a s) {x0} : Keep a (State.rateAgreed s x0) := by
  unfold State.rateAgreed
  repeat' first | (with_reducible first | assumption | apply State.toKeepAlive_keep | apply State.setPort_keep | apply State.startTrain_keep | apply Keep.ite | refine Keep.foldl ?_ (fun _ _ _ => ?_)) | (lift_lets; intro x; first | (refine suffices hx : Keep a x from ?_; ?_; on_goal 1 => unfold x; on_goal 2 => clear_value x) | skip) | (fail_if_no_progress with_reducible refine Keep.plain ?_) | split | dsimp only

theorem State.sendCodeword_keep {a s : State} (h : Keep a s) {x0 x1 x2 x3 x4} : Keep a (State.sendCodeword s x0 x1 x2 x3 x4) := by
  unfold State.sendCodeword
  repeat' first | (with_reducible first | assumption | apply State.setLane_keep | apply State.send_keep | apply State.codeword_keep | apply State.lanePerf_keep | apply Keep.ite | refine Keep.foldl ?_ (fun _ _ _ => ?_)) | (lift_lets; intro x; first | (refine suffices hx : Keep a x from ?_; ?_; on_goal 1 => unfold x; on_goal 2 => clear_value x) | skip) | (fail_if_no_progress with_reducible refine Keep.plain ?_) | split | dsimp only

theorem State.sendTraining_keep {a s : State} (h : Keep a s) {x0 x1} : Keep a (State.sendTraining s x0 x1) := by
  unfold State.sendTraining
  repeat' first | (with_reducible first | assumption | apply State.setLane_keep | apply State.sendCodeword_keep | apply Keep.ite | refine Keep.foldl ?_ (fun _ _ _ => ?_)) | (lift_lets; intro x; first | (refine suffices hx : Keep a x from ?_; ?_; on_goal 1 => unfold x; on_goal 2 => clear_value x) | skip) | (fail_if_no_progress with_reducible refine Keep.plain ?_) | split | dsimp only

theorem State.sendChunk_keep {a s : State} (h : Keep a s) {x0} : Keep a (State.sendChunk s x0) := by
  unfold State.sendChunk
  repeat' first | (with_reducible first | assumption | apply State.setPort_keep | apply State.sendCodeword_keep | apply Keep.ite | refine Keep.foldl ?_ (fun _ _ _ => ?_)) | (lift_lets; intro x; first | (refine suffices hx : Keep a x from ?_; ?_; on_goal 1 => unfold x; on_goal 2 => clear_value x) | skip) | (fail_if_no_progress with_reducible refine Keep.plain ?_) | split | dsimp only

theorem State.answerCodeword_keep {a s : State} (h : Keep a s) {x0 x1} : Keep a (State.answerCodeword s x0 x1) := by
  unfold State.answerCodeword
  repeat' first | (with_reducible first | assumption | apply State.sendTraining_keep | apply State.sendChunk_keep | apply State.rateAgreed_keep | apply Keep.ite | refine Keep.foldl ?_ (fun _ _ _ => ?_)) | (lift_lets; intro x; first | (refine suffices hx : Keep a x from ?_; ?_; on_goal 1 => unfold x; on_goal 2 => clear_value x) | skip) | (fail_if_no_progress with_reducible refine Keep.plain ?_) | split | dsimp only

theorem State.rlFail_keep {a s : State} (h : Keep a s) {x0 x1} : Keep a (State.rlFail s x0 x1) := by
  unfold State.rlFail
  repeat' (with_reducible first | assumption | apply State.goDown_keep | apply State.puts_keep | apply State.linkLost_keep | apply Keep.ite)

theorem State.controlItem_keep {a s : State} (h : Keep a s) {x0 x1} : Keep a (State.controlItem s x0 x1) := by
  unfold State.controlItem
  repeat' (with_reducible first | assumption | apply State.beaconReceive_keep | apply State.creditReceive_keep | apply State.timeItemReceive_keep | apply State.lanePerf_keep | apply State.badItem_keep | apply Keep.ite)

theorem State.element_keep {a s : State} (h : Keep a s) {x0 x1} : Keep a (State.element s x0 x1) := by
  unfold State.element
  repeat' (with_reducible first | assumption | apply State.frameReceive_keep | apply State.controlItem_keep | apply Keep.ite)

theorem State.deliverChunk_keep {a s : State} (h : Keep a s) {x0 x1 x2 x3} : Keep a (State.deliverChunk s x0 x1 x2 x3) := by
  unfold State.deliverChunk
  repeat' first | (with_reducible first | assumption | apply State.setPort_keep | apply State.element_keep | apply State.rlFail_keep | apply Keep.ite | refine Keep.foldl ?_ (fun _ _ _ => ?_)) | (lift_lets; intro x; first | (refine suffices hx : Keep a x from ?_; ?_; on_goal 1 => unfold x; on_goal 2 => clear_value x) | skip) | (fail_if_no_progress with_reducible refine Keep.plain ?_) | split | dsimp only

theorem State.deliverChunks_keep {a s : State} (h : Keep a s) {x0 x1} : Keep a (State.deliverChunks s x0 x1) := by
  induction x1 generalizing s x0 with
  | zero =>
    unfold State.deliverChunks
    repeat' first | (with_reducible first | assumption | apply State.setPort_keep | apply State.deliverChunk_keep | apply Keep.ite | refine Keep.foldl ?_ (fun _ _ _ => ?_)) | (lift_lets; intro x; first | (refine suffices hx : Keep a x from ?_; ?_; on_goal 1 => unfold x; on_goal 2 => clear_value x) | skip) | (fail_if_no_progress with_reducible refine Keep.plain ?_) | split | dsimp only
  | succ n ih =>
    unfold State.deliverChunks
    repeat' first | (with_reducible first | assumption | apply ih | apply State.setPort_keep | apply State.deliverChunk_keep | apply Keep.ite | refine Keep.foldl ?_ (fun _ _ _ => ?_)) | (lift_lets; intro x; first | (refine suffices hx : Keep a x from ?_; ?_; on_goal 1 => unfold x; on_goal 2 => clear_value x) | skip) | (fail_if_no_progress with_reducible refine Keep.plain ?_) | split | dsimp only

theorem State.chunkIn_keep {a s : State} (h : Keep a s) {x0 x1} : Keep a (State.chunkIn s x0 x1) := by
  unfold State.chunkIn
  repeat' first | (with_reducible first | assumption | apply State.setPort_keep | apply State.deliverChunks_keep | apply Keep.ite | refine Keep.foldl ?_ (fun _ _ _ => ?_)) | (lift_lets; intro x; first | (refine suffices hx : Keep a x from ?_; ?_; on_goal 1 => unfold x; on_goal 2 => clear_value x) | skip) | (fail_if_no_progress with_reducible refine Keep.plain ?_) | split | dsimp only

theorem State.acknowledged_keep {a s : State} (h : Keep a s) {x0 x1 x2} : Keep a (State.acknowledged s x0 x1 x2) := by
  unfold State.acknowledged
  repeat' first | (with_reducible first | assumption | apply State.setLane_keep | apply State.tapAnswer_keep | apply Keep.ite | refine Keep.foldl ?_ (fun _ _ _ => ?_)) | (lift_lets; intro x; first | (refine suffices hx : Keep a x from ?_; ?_; on_goal 1 => unfold x; on_goal 2 => clear_value x) | skip) | (fail_if_no_progress with_reducible refine Keep.plain ?_) | split | dsimp only

theorem State.trainBlock_keep {a s : State} (h : Keep a s) {x0 x1 x2} : Keep a (State.trainBlock s x0 x1 x2) := by
  unfold State.trainBlock
  repeat' first | (with_reducible first | assumption | apply State.setLane_keep | refine State.serveTap_keep (by assumption) ?_ | apply State.serveTap_keep' | apply State.acknowledged_keep | apply Keep.ite | refine Keep.foldl ?_ (fun _ _ _ => ?_)) | (lift_lets; intro x; first | (refine suffices hx : Keep a x from ?_; ?_; on_goal 1 => unfold x; on_goal 2 => clear_value x) | skip) | (fail_if_no_progress with_reducible refine Keep.plain ?_) | split | dsimp only

theorem State.countCodeword_keep {a s : State} (h : Keep a s) {x0 x1} : Keep a (State.countCodeword s x0 x1) := by
  unfold State.countCodeword
  repeat' (with_reducible first | assumption | apply State.put_keep | apply State.bump_keep | apply State.lanePerf_keep | apply Keep.ite)

theorem State.rlDecoded_keep {a s : State} (h : Keep a s) {x0 x1 x2} : Keep a (State.rlDecoded s x0 x1 x2) := by
  unfold State.rlDecoded
  repeat' first | (with_reducible first | assumption | apply State.setLane_keep | apply State.trainBlock_keep | apply State.bump_keep | apply State.rlFail_keep | apply State.chunkIn_keep | apply State.hearDown_keep | apply State.hearUp_keep | apply Keep.ite | refine Keep.foldl ?_ (fun _ _ _ => ?_)) | (lift_lets; intro x; first | (refine suffices hx : Keep a x from ?_; ?_; on_goal 1 => unfold x; on_goal 2 => clear_value x) | skip) | (fail_if_no_progress with_reducible refine Keep.plain ?_) | split | dsimp only

theorem State.codeword_keep {a s : State} (h : Keep a s) {x0 x1 x2} : Keep a (State.codeword s x0 x1 x2) := by
  unfold State.codeword
  repeat' first | (with_reducible first | assumption | apply State.setLane_keep | apply State.bump_keep | apply State.rlFail_keep | apply State.lanePerf_keep | apply State.countCodeword_keep | apply State.rlDecoded_keep | apply Keep.ite | refine Keep.foldl ?_ (fun _ _ _ => ?_)) | (lift_lets; intro x; first | (refine suffices hx : Keep a x from ?_; ?_; on_goal 1 => unfold x; on_goal 2 => clear_value x) | skip) | (fail_if_no_progress with_reducible refine Keep.plain ?_) | split | dsimp only

theorem State.codewordIn_keep {a s : State} (h : Keep a s) {x0 x1} : Keep a (State.codewordIn s x0 x1) := by
  unfold State.codewordIn
  repeat' first | (with_reducible first | assumption | apply State.codeword_keep | apply State.answerCodeword_keep | apply Keep.ite | refine Keep.foldl ?_ (fun _ _ _ => ?_)) | (lift_lets; intro x; first | (refine suffices hx : Keep a x from ?_; ?_; on_goal 1 => unfold x; on_goal 2 => clear_value x) | skip) | (fail_if_no_progress with_reducible refine Keep.plain ?_) | split | dsimp only

end Sys2Proof.Machine
end

