-- ==== Sys2Proof/Laws/KeepDevice.lean ====
section
/-! SUPPORT. What each operation of the structure image, functions, power, faults, management, register accesses and checks keeps (see Keep in
Sys2Proof/Laws/Keep.lean): one lemma per operation. -/

-- One declaration at a time: the package is compiled as one text, and a thread for each would not fit.
set_option Elab.async false

set_option linter.unusedTactic false
set_option linter.unreachableTactic false

namespace Sys2Proof.Machine

/-! ### Machine/Structure.lean -/

theorem State.loaderEnds_keep {a s : State} (h : Keep a s) : Keep a (State.loaderEnds s) := by
  unfold State.loaderEnds
  repeat' first | (with_reducible first | assumption | apply State.freeLock_keep | apply State.showWaiting_keep | apply Keep.ite) | (fail_if_no_progress with_reducible refine Keep.plain ?_)

theorem State.imageRefused_keep {a s : State} (h : Keep a s) {x0 x1} : Keep a (State.imageRefused s x0 x1) := by
  unfold State.imageRefused
  repeat' first | (with_reducible first | assumption | apply State.endCheck_keep | apply State.loaderEnds_keep | apply State.put_keep) | (fail_if_no_progress with_reducible refine Keep.plain ?_)

theorem State.imageEnable_keep {a s : State} (h : Keep a s) {x0 x1} : Keep a (State.imageEnable s x0 x1) := by
  unfold State.imageEnable
  repeat' first | (with_reducible first | assumption | apply State.startCheck_keep | apply State.endCheck_keep | apply State.loaderWaits_keep | apply State.put_keep | apply Keep.ite) | (lift_lets; intro x; first | (refine suffices hx : Keep a x from ?_; ?_; on_goal 1 => unfold x; on_goal 2 => clear_value x) | skip) | (fail_if_no_progress with_reducible refine Keep.plain ?_) | split | dsimp only

theorem State.imageLockTimeout_keep {a s : State} (h : Keep a s) : Keep a (State.imageLockTimeout s) := by
  unfold State.imageLockTimeout
  repeat' (with_reducible first | assumption | apply State.imageRefused_keep | apply Keep.ite)

theorem State.imageVerified_keep {a s : State} (h : Keep a s) {x0 x1 x2} : Keep a (State.imageVerified s x0 x1 x2)
  := by
  unfold State.imageVerified
  repeat' first | (with_reducible first | assumption | apply State.imageRefused_keep | apply State.bump_keep | apply State.loaderEnds_keep | apply State.put_keep | apply Keep.ite) | (lift_lets; intro x; first | (refine suffices hx : Keep a x from ?_; ?_; on_goal 1 => unfold x; on_goal 2 => clear_value x) | skip) | (fail_if_no_progress with_reducible refine Keep.plain ?_) | split | dsimp only

theorem State.disableChanged_keep {a s : State} (h : Keep a s) {x0} : Keep a (State.disableChanged s x0) := by
  unfold State.disableChanged
  repeat' first | (with_reducible first | assumption | apply State.disablePort_keep | apply State.portOff_keep | apply Keep.ite | refine Keep.foldl ?_ (fun _ _ _ => ?_)) | (lift_lets; intro x; first | (refine suffices hx : Keep a x from ?_; ?_; on_goal 1 => unfold x; on_goal 2 => clear_value x) | skip) | (fail_if_no_progress with_reducible refine Keep.plain ?_) | split | dsimp only

theorem State.loadPools_keep {a s : State} (h : Keep a s) {x0} : Keep a (State.loadPools s x0) := by
  unfold State.loadPools
  repeat' first | (with_reducible first | assumption | apply State.puts_keep | apply Keep.ite | refine Keep.foldl ?_ (fun _ _ _ => ?_)) | (fail_if_no_progress with_reducible refine Keep.plain ?_)

theorem State.activate_keep {a s : State} (h : Keep a s) {i} : Keep a (s.activate i) := by
  unfold State.activate
  extract_lets t n1 n2 n3 n4 n5 u v
  have ht : Keep a t := State.disableChanged_keep h
  clear_value t
  have hu : Keep a u := ht.upd rfl rfl (le_refl _) (List.suffix_refl _) rfl
    (fun c => ⟨c.regs, c.cells, rfl, smWf_filter _ _ _ c.meters, c.flows, c.gates, c.profiles, c.policers, c.groups,
      c.members⟩)
    (fun o => ⟨o.total, o.quarter⟩)
  clear_value u
  exact State.put_keep (State.setRaw_keep (State.schedActivate_keep (State.loadPools_keep hu)))

theorem State.imageActivate_keep {a s : State} (h : Keep a s) : Keep a (State.imageActivate s) := by
  unfold State.imageActivate
  repeat' first | (with_reducible first | assumption | apply State.imageRefused_keep | apply State.endCheck_keep | apply State.activate_keep | apply Keep.ite) | split | dsimp only

theorem State.endCommit_keep {a s : State} (h : Keep a s) {x0 x1 x2 x3} : Keep a (State.endCommit s x0 x1 x2 x3) := by
  unfold State.endCommit
  repeat' first | (with_reducible first | assumption | apply State.putFlag_keep | apply State.puts_keep | apply State.put_keep | apply State.bump_keep | apply State.perf_keep | apply State.finishEntry_keep | apply Keep.ite | refine Keep.foldl ?_ (fun _ _ _ => ?_)) | (lift_lets; intro x; first | (refine suffices hx : Keep a x from ?_; ?_; on_goal 1 => unfold x; on_goal 2 => clear_value x) | skip) | (fail_if_no_progress with_reducible refine Keep.plain ?_) | split | dsimp only

theorem State.commitGo_keep {a s : State} (h : Keep a s) {x0} : Keep a (State.commitGo s x0) := by
  unfold State.commitGo
  repeat' first | (with_reducible first | assumption | apply State.put_keep | apply State.puts_keep | apply State.endCommit_keep | apply Keep.ite | refine Keep.foldl ?_ (fun _ _ _ => ?_)) | (lift_lets; intro x; first | (refine suffices hx : Keep a x from ?_; ?_; on_goal 1 => unfold x; on_goal 2 => clear_value x) | skip) | (fail_if_no_progress with_reducible refine Keep.plain ?_) | split | dsimp only

theorem State.advanceVersion_keep {a s : State} (h : Keep a s) {g n} : Keep a (s.advanceVersion g n) := by
  unfold State.advanceVersion
  extract_lets v gone n1 n2 t u
  have ht : Keep a t := (State.mapEntries_keep h (fun x => (x.1, x.2.map (restamped g n (v % 16)))) (fun _ => rfl)
    (fun x hx => by simpa using hx)).plain rfl rfl rfl rfl rfl rfl rfl rfl rfl rfl rfl rfl
  have hu : Keep a u := Keep.foldl ht (fun _ _ k => State.unlearn_keep k)
  exact State.retireVersions_keep (State.put_keep (State.showGroup_keep hu))

theorem State.commitWaits_keep {a s : State} (h : Keep a s) {x0 x1} : Keep a (State.commitWaits s x0 x1) := by
  unfold State.commitWaits
  repeat' first | (with_reducible first | assumption | apply State.putFlag_keep | apply Keep.ite) | (fail_if_no_progress with_reducible refine Keep.plain ?_)

theorem State.commitAdvance_keep {a s : State} (h : Keep a s) {x0} : Keep a (State.commitAdvance s x0) := by
  unfold State.commitAdvance
  repeat' first | (with_reducible first | assumption | apply State.endCommit_keep | apply State.commitWaits_keep | apply State.advanceVersion_keep | apply State.kick_keep | apply Keep.ite | refine Keep.foldl ?_ (fun _ _ _ => ?_)) | (lift_lets; intro x; first | (refine suffices hx : Keep a x from ?_; ?_; on_goal 1 => unfold x; on_goal 2 => clear_value x) | skip) | (fail_if_no_progress with_reducible refine Keep.plain ?_) | split | dsimp only

theorem State.slotTimeout_keep {a s : State} (h : Keep a s) {x0} : Keep a (State.slotTimeout s x0) := by
  unfold State.slotTimeout
  repeat' first | (with_reducible first | assumption | apply State.endCommit_keep | apply Keep.ite | refine Keep.foldl ?_ (fun _ _ _ => ?_)) | (lift_lets; intro x; first | (refine suffices hx : Keep a x from ?_; ?_; on_goal 1 => unfold x; on_goal 2 => clear_value x) | skip) | (fail_if_no_progress with_reducible refine Keep.plain ?_) | split | dsimp only

theorem State.dropWaiting_keep {a s : State} (h : Keep a s) : Keep a (State.dropWaiting s) := by
  unfold State.dropWaiting
  repeat' first | (with_reducible first | assumption | apply State.bump_keep | apply State.xoffSweep_keep | refine Keep.foldl ?_ (fun _ _ _ => ?_)) | (fail_if_no_progress with_reducible refine Keep.plain ?_)

theorem State.imageDisable_keep {a s : State} (h : Keep a s) : Keep a (State.imageDisable s) := by
  unfold State.imageDisable
  repeat' first | (with_reducible first | assumption | apply State.put_keep | apply State.dropWaiting_keep | apply State.endCommit_keep | apply Keep.ite | refine Keep.foldl ?_ (fun _ _ _ => ?_)) | (lift_lets; intro x; first | (refine suffices hx : Keep a x from ?_; ?_; on_goal 1 => unfold x; on_goal 2 => clear_value x) | skip) | (fail_if_no_progress with_reducible refine Keep.plain ?_) | split | dsimp only

theorem State.letGo_keep {a s : State} (h : Keep a s) {x0} : Keep a (State.letGo s x0) := by
  unfold State.letGo
  repeat' first | (with_reducible first | assumption | apply State.countNotes_keep | apply State.setPkt_keep | apply State.settle_keep | apply Keep.ite | refine Keep.foldl ?_ (fun _ _ _ => ?_)) | (lift_lets; intro x; first | (refine suffices hx : Keep a x from ?_; ?_; on_goal 1 => unfold x; on_goal 2 => clear_value x) | skip) | (fail_if_no_progress with_reducible refine Keep.plain ?_) | split | dsimp only

theorem State.endCopy_keep {a s : State} (h : Keep a s) {x0} : Keep a (State.endCopy s x0) := by
  unfold State.endCopy
  repeat' (with_reducible first | assumption | apply State.flushCopy_keep | apply State.stompCopy_keep | apply State.discardCopy_keep | apply Keep.ite)

theorem State.endCopies_keep {a s : State} (h : Keep a s) {x0} : Keep a (State.endCopies s x0) := by
  unfold State.endCopies
  repeat' first | (with_reducible first | assumption | apply State.endCopy_keep | refine Keep.foldl ?_ (fun _ _ _ => ?_)) | split | dsimp only

theorem State.discardAll_keep {a s : State} (h : Keep a s) : Keep a (State.discardAll s) := by
  unfold State.discardAll
  repeat' (with_reducible first | assumption | apply State.bump_keep | apply State.endCopies_keep | apply State.letGo_keep | refine Keep.foldl ?_ (fun _ _ _ => ?_))

theorem State.completeJobs_keep {a s : State} (h : Keep a s) {x0} : Keep a (State.completeJobs s x0) := by
  induction x0 generalizing s  with
  | zero =>
    unfold State.completeJobs
    repeat' first | (with_reducible first | assumption | apply State.endMove_keep | apply State.kick_keep | apply Keep.ite | refine Keep.foldl ?_ (fun _ _ _ => ?_)) | (lift_lets; intro x; first | (refine suffices hx : Keep a x from ?_; ?_; on_goal 1 => unfold x; on_goal 2 => clear_value x) | skip) | (fail_if_no_progress with_reducible refine Keep.plain ?_) | split | dsimp only
  | succ n ih =>
    unfold State.completeJobs
    repeat' first | (with_reducible first | assumption | apply ih | apply State.endMove_keep | apply State.kick_keep | apply Keep.ite | refine Keep.foldl ?_ (fun _ _ _ => ?_)) | (lift_lets; intro x; first | (refine suffices hx : Keep a x from ?_; ?_; on_goal 1 => unfold x; on_goal 2 => clear_value x) | skip) | (fail_if_no_progress with_reducible refine Keep.plain ?_) | split | dsimp only

theorem State.endTables_keep {a s : State} (h : Keep a s) : Keep a s.endTables := by
  unfold State.endTables
  extract_lets u n v w x y
  have hu : Keep a u := State.completeJobs_keep h
  clear_value u
  have hv : Keep a v := hu.upd rfl rfl (le_refl _) (List.suffix_refl _) rfl
    (fun c => ⟨c.regs, c.cells, rfl, c.meters, c.flows, c.gates, c.profiles, c.policers, c.groups, c.members⟩)
    (fun o => ⟨o.total, o.quarter⟩)
  clear_value v
  have hw : Keep a w := Keep.foldl hv (fun _ _ k => State.setRaw_keep k)
  clear_value w
  have hx : Keep a x := Keep.foldl hw (fun _ _ k => Keep.ite k (State.portOver_keep (State.put_keep k)))
  clear_value x
  have hy : Keep a y := Keep.foldl hx (fun _ _ k => State.put_keep k)
  clear_value y
  exact Keep.foldl hy (fun _ _ k => Keep.ite (State.setRaw_keep k) k)

theorem State.clearPools_keep {a s : State} (h : Keep a s) : Keep a (State.clearPools s) := by
  unfold State.clearPools
  repeat' first | (with_reducible first | assumption | apply State.unchargeCells_keep | apply State.puts_keep | apply Keep.ite | refine Keep.foldl ?_ (fun _ _ _ => ?_)) | (lift_lets; intro x; first | (refine suffices hx : Keep a x from ?_; ?_; on_goal 1 => unfold x; on_goal 2 => clear_value x) | skip) | (fail_if_no_progress with_reducible refine Keep.plain ?_) | split | dsimp only

theorem State.drainEnd_keep {a s : State} (h : Keep a s) : Keep a (State.drainEnd s) := by
  unfold State.drainEnd
  repeat' first | (with_reducible first | assumption | apply State.schedClear_keep | apply State.postDisable_keep | apply State.plDisable_keep | apply State.clearPools_keep | apply State.endTables_keep | apply State.discardAll_keep | apply State.put_keep | apply State.setRaw_keep | apply State.lastHarvest_keep | apply Keep.ite) | (fail_if_no_progress with_reducible refine Keep.plain ?_)

theorem State.patchRefused_keep {a s : State} (h : Keep a s) {x0 x1} : Keep a (State.patchRefused s x0 x1) := by
  unfold State.patchRefused
  repeat' first | (with_reducible first | assumption | apply State.put_keep | apply State.endCheck_keep | apply State.loaderEnds_keep | apply Keep.ite | refine Keep.foldl ?_ (fun _ _ _ => ?_)) | (fail_if_no_progress with_reducible refine Keep.plain ?_)

theorem State.patchEnable_keep {a s : State} (h : Keep a s) {x0 x1} : Keep a (State.patchEnable s x0 x1) := by
  unfold State.patchEnable
  repeat' first | (with_reducible first | assumption | apply State.startCheck_keep | apply State.endCheck_keep | apply State.loaderWaits_keep | apply State.put_keep | apply Keep.ite) | (lift_lets; intro x; first | (refine suffices hx : Keep a x from ?_; ?_; on_goal 1 => unfold x; on_goal 2 => clear_value x) | skip) | (fail_if_no_progress with_reducible refine Keep.plain ?_) | split | dsimp only

theorem State.patchLockTimeout_keep {a s : State} (h : Keep a s) : Keep a (State.patchLockTimeout s) := by
  unfold State.patchLockTimeout
  repeat' (with_reducible first | assumption | apply State.patchRefused_keep | apply Keep.ite)

theorem State.patchVerified_keep {a s : State} (h : Keep a s) {x0 x1 x2} : Keep a (State.patchVerified s x0 x1 x2)
  := by
  unfold State.patchVerified
  repeat' first | (with_reducible first | assumption | apply State.patchRefused_keep | apply State.bump_keep | apply State.loaderEnds_keep | apply State.put_keep | apply Keep.ite | refine Keep.foldl ?_ (fun _ _ _ => ?_)) | (lift_lets; intro x; first | (refine suffices hx : Keep a x from ?_; ?_; on_goal 1 => unfold x; on_goal 2 => clear_value x) | skip) | (fail_if_no_progress with_reducible refine Keep.plain ?_) | split | dsimp only

theorem State.patchDone_keep {a s : State} (h : Keep a s) : Keep a (State.patchDone s) := by
  unfold State.patchDone
  repeat' first | (with_reducible first | assumption | apply State.patchRefused_keep | apply State.put_keep | apply State.puts_keep | apply State.endCheck_keep | apply Keep.ite | refine Keep.foldl ?_ (fun _ _ _ => ?_)) | (lift_lets; intro x; first | (refine suffices hx : Keep a x from ?_; ?_; on_goal 1 => unfold x; on_goal 2 => clear_value x) | skip) | (fail_if_no_progress with_reducible refine Keep.plain ?_) | split | dsimp only

theorem State.loaderFault_keep {a s : State} (h : Keep a s) : Keep a (State.loaderFault s) := by
  unfold State.loaderFault
  repeat' (with_reducible first | assumption | apply State.imageRefused_keep | apply State.patchRefused_keep | apply State.loaderEnds_keep | apply Keep.ite)

/-! ### Machine/RingReset.lean -/

theorem State.catchWork_keep' {a s : State} (h : Keep a s) {x0} : Keep a (State.catchWork s x0).1 := by
  unfold State.catchWork
  repeat' first | (with_reducible first | assumption | apply State.endCommit_keep | apply State.finishEntry_keep | apply Keep.ite1 | apply Keep.ite | refine Keep.foldl ?_ (fun _ _ _ => ?_)) | (lift_lets; intro x; first | (refine suffices hx : Keep a x from ?_; ?_; on_goal 1 => unfold x; on_goal 2 => clear_value x) | skip) | (fail_if_no_progress with_reducible refine Keep.plain ?_) | split | dsimp only
theorem State.catchWork_keep {a s t : State} {x0} {y} (e : (State.catchWork s x0) = (t, y)) (h : Keep a s) : Keep a t := by
  have g := congrArg Prod.fst e; dsimp only at g; rw [← g]; exact State.catchWork_keep' h

theorem State.abortCopies_keep {a s : State} (h : Keep a s) {x0} : Keep a (State.abortCopies s x0) := Keep.plain h

theorem State.startAbort_keep {a s : State} (h : Keep a s) {x0} : Keep a (State.startAbort s x0) := by
  unfold State.startAbort
  repeat' (with_reducible first | assumption | refine State.catchWork_keep (by assumption) ?_ | apply State.catchWork_keep' | apply State.setRing_keep | apply State.drain_keep | apply State.abortCopies_keep | apply State.puts_keep | apply Keep.ite)

theorem State.clearBar2_keep {a s : State} (h : Keep a s) {f} : Keep a (s.clearBar2 f) := by
  unfold State.clearBar2
  exact h.upd rfl rfl (le_refl _) (List.suffix_refl _) rfl
    (fun c => ⟨smWf_filter _ _ _ c.regs, c.cells, c.entries, c.meters, c.flows, c.gates, c.profiles, c.policers,
      c.groups, c.members⟩) (fun o => ⟨o.total, o.quarter⟩)

theorem State.loseBatch_keep {a s : State} (h : Keep a s) {x0} : Keep a (State.loseBatch s x0) := by
  unfold State.loseBatch
  repeat' first | (with_reducible first | assumption | apply State.vfLost_keep | apply Keep.ite) | split | dsimp only

theorem State.endRunning_keep {a s : State} (h : Keep a s) {x0} : Keep a (State.endRunning s x0) := by
  unfold State.endRunning
  repeat' first | (with_reducible first | assumption | apply State.put_keep | apply Keep.ite) | (fail_if_no_progress with_reducible refine Keep.plain ?_)

theorem State.finishReset_keep {a s : State} (h : Keep a s) {x0} : Keep a (State.finishReset s x0) := by
  unfold State.finishReset
  repeat' first | (with_reducible first | assumption | apply State.loseBatch_keep | apply State.discardGroup_keep | apply State.setRing_keep | apply State.clearBar2_keep | apply State.setFn_keep | apply State.endRunning_keep | apply State.put_keep | apply Keep.ite | refine Keep.foldl ?_ (fun _ _ _ => ?_)) | (fail_if_no_progress with_reducible refine Keep.plain ?_)

theorem State.ringDisable_keep {a s : State} (h : Keep a s) {x0} : Keep a (State.ringDisable s x0) := by
  unfold State.ringDisable
  repeat' (with_reducible first | assumption | apply State.put_keep | apply State.startAbort_keep | apply State.flushQueue_keep | apply Keep.ite | refine Keep.foldl ?_ (fun _ _ _ => ?_))

theorem State.ringOff_keep {a s : State} (h : Keep a s) {x0} : Keep a (State.ringOff s x0) := by
  unfold State.ringOff
  repeat' first | (with_reducible first | assumption | apply State.bump_keep | apply State.puts_keep | apply State.setRing_keep | apply State.discardGroup_keep | apply State.stallDelivery_keep | apply State.finishReset_keep | apply Keep.ite) | (lift_lets; intro x; first | (refine suffices hx : Keep a x from ?_; ?_; on_goal 1 => unfold x; on_goal 2 => clear_value x) | skip) | split | dsimp only

theorem State.abortDone_keep {a s : State} (h : Keep a s) {x0} : Keep a (State.abortDone s x0) := by
  unfold State.abortDone
  repeat' (with_reducible first | assumption | apply State.put_keep | apply State.setRing_keep | apply State.ringOff_keep | apply Keep.ite)

theorem State.disableRings_keep {a s : State} (h : Keep a s) {x0} : Keep a (State.disableRings s x0) := by
  unfold State.disableRings
  repeat' (with_reducible first | assumption | apply State.ringDisable_keep | apply State.finishReset_keep | refine Keep.foldl ?_ (fun _ _ _ => ?_))

theorem State.vfReset_keep {a s : State} (h : Keep a s) {x0 x1} : Keep a (State.vfReset s x0 x1) := by
  unfold State.vfReset
  repeat' first | (with_reducible first | assumption | apply State.disableRings_keep | apply State.put_keep | apply Keep.ite) | (fail_if_no_progress with_reducible refine Keep.plain ?_)

theorem State.pfReset_keep {a s : State} (h : Keep a s) {x0} : Keep a (State.pfReset s x0) := by
  unfold State.pfReset
  repeat' first | (with_reducible first | assumption | apply State.puts_keep | apply State.vfReset_keep | apply State.disableRings_keep | apply State.put_keep | apply Keep.ite | refine Keep.foldl ?_ (fun _ _ _ => ?_)) | (fail_if_no_progress with_reducible refine Keep.plain ?_)

theorem State.setVfEnable_keep {a s : State} (h : Keep a s) {x0 x1} : Keep a (State.setVfEnable s x0 x1) := by
  unfold State.setVfEnable
  repeat' first | (with_reducible first | assumption | apply State.put_keep | apply State.vfReset_keep | apply Keep.ite | refine Keep.foldl ?_ (fun _ _ _ => ?_)) | (fail_if_no_progress with_reducible refine Keep.plain ?_)

theorem State.clearAer_keep {a s : State} (h : Keep a s) {x0 x1} : Keep a (State.clearAer s x0 x1) := Keep.plain h

theorem State.configRequest_keep {a s : State} (h : Keep a s) {x0 x1} : Keep a (State.configRequest s x0 x1) := by
  unfold State.configRequest
  repeat' first | (with_reducible first | assumption | apply State.configRead_keep | apply State.setFn_keep | apply State.msixFlush_keep | apply State.setVfEnable_keep | apply State.clearAer_keep) | (lift_lets; intro x; first | (refine suffices hx : Keep a x from ?_; ?_; on_goal 1 => unfold x; on_goal 2 => clear_value x) | skip) | (fail_if_no_progress with_reducible refine Keep.plain ?_) | split | dsimp only

/-! ### Machine/Power.lean -/

theorem State.setReason_keep {a s : State} (h : Keep a s) {x0 x1} : Keep a (State.setReason s x0 x1) := by
  unfold State.setReason
  repeat' (with_reducible first | assumption | apply State.put_keep)

theorem State.reportRegs_keep {a s : State} (h : Keep a s) : Keep a (State.reportRegs s) :=
  State.puts_keep (State.setReason_keep (State.setReason_keep (State.put_keep h)))

theorem State.report_keep {a s : State} (h : Keep a s) {u0} : Keep a (State.report s u0) := by
  have h := State.reportRegs_keep h
  unfold State.report
  generalize State.reportRegs s = u at h
  exact .ite h h.plain

theorem State.throttleEvent_keep {a s : State} (h : Keep a s) : Keep a (State.throttleEvent s) := by
  unfold State.throttleEvent
  repeat' first | (with_reducible first | assumption | apply State.event_keep | apply Keep.ite) | (lift_lets; intro x; first | (refine suffices hx : Keep a x from ?_; ?_; on_goal 1 => unfold x; on_goal 2 => clear_value x) | skip) | (fail_if_no_progress with_reducible refine Keep.plain ?_) | split | dsimp only

theorem State.throttleTick_keep {a s : State} (h : Keep a s) : Keep a (State.throttleTick s) := by
  unfold State.throttleTick
  repeat' (with_reducible first | assumption | apply State.bump_keep | apply Keep.ite)

theorem State.loadPipe_keep {a s : State} (h : Keep a s) {x0 x1 x2} : Keep a (State.loadPipe s x0 x1 x2) := by
  unfold State.loadPipe
  repeat' first | (with_reducible first | assumption | apply State.puts_keep) | (fail_if_no_progress with_reducible refine Keep.plain ?_)

theorem State.loadWindow_keep {a s : State} (h : Keep a s) {x0 x1} : Keep a (State.loadWindow s x0 x1) := by
  unfold State.loadWindow
  repeat' (with_reducible first | assumption | apply State.loadPipe_keep | refine Keep.foldl ?_ (fun _ _ _ => ?_))

theorem State.capEvaluate_keep {a s : State} (h : Keep a s) {x0 x1} : Keep a (State.capEvaluate s x0 x1) := by
  unfold State.capEvaluate
  repeat' first | (with_reducible first | assumption | apply State.put_keep | apply State.putFlag_keep | apply State.raise_keep | apply State.report_keep | apply Keep.ite) | (lift_lets; intro x; first | (refine suffices hx : Keep a x from ?_; ?_; on_goal 1 => unfold x; on_goal 2 => clear_value x) | skip) | (fail_if_no_progress with_reducible refine Keep.plain ?_) | split | dsimp only

theorem State.capFastCheck_keep {a s : State} (h : Keep a s) {x0} : Keep a (State.capFastCheck s x0) := by
  unfold State.capFastCheck
  repeat' first | (with_reducible first | assumption | apply State.report_keep | apply Keep.ite) | (fail_if_no_progress with_reducible refine Keep.plain ?_)

theorem State.avsWrite_keep {a s : State} (h : Keep a s) {x0} : Keep a (State.avsWrite s x0) := by
  unfold State.avsWrite
  repeat' first | (with_reducible first | assumption | apply State.puts_keep | apply State.send_keep) | (fail_if_no_progress with_reducible refine Keep.plain ?_)

theorem State.railTo_keep {a s : State} (h : Keep a s) {x0} : Keep a (State.railTo s x0) := by
  unfold State.railTo
  repeat' (with_reducible first | assumption | apply State.avsWrite_keep | apply Keep.ite)

theorem State.avsConfirm_keep {a s : State} (h : Keep a s) {x0} : Keep a (State.avsConfirm s x0) := by
  unfold State.avsConfirm
  repeat' first | (with_reducible first | assumption | apply State.put_keep | apply State.bump_keep | apply Keep.ite) | (fail_if_no_progress with_reducible refine Keep.plain ?_)

theorem State.avsRetry_keep {a s : State} (h : Keep a s) : Keep a (State.avsRetry s) := by
  unfold State.avsRetry
  repeat' first | (with_reducible first | assumption | apply State.send_keep | apply Keep.ite) | (fail_if_no_progress with_reducible refine Keep.plain ?_)

theorem State.setRatio_keep {a s : State} (h : Keep a s) {x0 x1} : Keep a (State.setRatio s x0 x1) := by
  unfold State.setRatio
  repeat' (with_reducible first | assumption | apply State.put_keep | apply State.report_keep | apply State.railTo_keep)

theorem State.ratioMove_keep {a s : State} (h : Keep a s) : Keep a (State.ratioMove s) := by
  unfold State.ratioMove
  repeat' first | (with_reducible first | assumption | apply State.railTo_keep | apply State.setRatio_keep | apply Keep.ite) | (lift_lets; intro x; first | (refine suffices hx : Keep a x from ?_; ?_; on_goal 1 => unfold x; on_goal 2 => clear_value x) | skip) | (fail_if_no_progress with_reducible refine Keep.plain ?_) | split | dsimp only

theorem State.setTemp_keep {a s : State} (h : Keep a s) {x0} : Keep a (State.setTemp s x0) := by
  unfold State.setTemp
  repeat' (with_reducible first | assumption | apply State.put_keep)

theorem State.thermalThrottle_keep {a s : State} (h : Keep a s) {x0} : Keep a (State.thermalThrottle s x0) := by
  unfold State.thermalThrottle
  repeat' (with_reducible first | assumption | apply State.setTemp_keep | apply State.report_keep | apply State.setReason_keep | apply Keep.ite)

theorem State.thermalRelease_keep {a s : State} (h : Keep a s) {x0} : Keep a (State.thermalRelease s x0) := by
  unfold State.thermalRelease
  repeat' (with_reducible first | assumption | apply State.setTemp_keep | apply State.report_keep | apply State.setReason_keep | apply Keep.ite)

theorem State.thermalTrip_keep {a s : State} (h : Keep a s) {x0 x1} : Keep a (State.thermalTrip s x0 x1) := by
  unfold State.thermalTrip
  repeat' first | (with_reducible first | assumption | apply State.setTemp_keep | apply State.setReason_keep | apply State.put_keep | apply State.raise_keep | apply State.report_keep | apply Keep.ite | refine Keep.foldl ?_ (fun _ _ _ => ?_)) | (fail_if_no_progress with_reducible refine Keep.plain ?_)

theorem State.droopFire_keep {a s : State} (h : Keep a s) : Keep a (State.droopFire s) := by
  unfold State.droopFire
  repeat' first | (with_reducible first | assumption | apply State.setReason_keep | apply State.bump_keep | apply State.report_keep) | (fail_if_no_progress with_reducible refine Keep.plain ?_)

theorem State.droopRelease_keep {a s : State} (h : Keep a s) : Keep a (State.droopRelease s) := by
  unfold State.droopRelease
  repeat' first | (with_reducible first | assumption | apply State.setReason_keep | apply State.report_keep) | (fail_if_no_progress with_reducible refine Keep.plain ?_)

theorem State.rampWindow_keep {a s : State} (h : Keep a s) {x0} : Keep a (State.rampWindow s x0) := by
  unfold State.rampWindow
  repeat' first | (with_reducible first | assumption | apply Keep.ite) | (fail_if_no_progress with_reducible refine Keep.plain ?_)

theorem State.applyAccepted_keep {a s : State} (h : Keep a s) : Keep a (State.applyAccepted s) := Keep.plain h

theorem State.brineEntered_keep {a s : State} (h : Keep a s) : Keep a (State.brineEntered s) := by
  unfold State.brineEntered
  repeat' (with_reducible first | assumption | apply State.bump_keep | apply State.put_keep | apply State.report_keep)

theorem State.brineLeave_keep {a s : State} (h : Keep a s) : Keep a (State.brineLeave s) := by
  unfold State.brineLeave
  repeat' first | (with_reducible first | assumption | apply State.put_keep | apply Keep.ite) | (fail_if_no_progress with_reducible refine Keep.plain ?_)

theorem State.brineWakeTime_keep {a s : State} (h : Keep a s) : Keep a (State.brineWakeTime s) := by
  unfold State.brineWakeTime
  repeat' (with_reducible first | assumption | apply State.brineLeave_keep | apply Keep.ite)

/-! ### Machine/Faults.lean -/

theorem State.endUnwritten_keep {a s : State} (h : Keep a s) {x0} : Keep a (State.endUnwritten s x0) := by
  unfold State.endUnwritten
  repeat' first | (with_reducible first | assumption | apply State.setPkt_keep | apply State.stompCopy_keep | apply State.discardCopy_keep | apply State.settle_keep | apply Keep.ite | refine Keep.foldl ?_ (fun _ _ _ => ?_)) | (lift_lets; intro x; first | (refine suffices hx : Keep a x from ?_; ?_; on_goal 1 => unfold x; on_goal 2 => clear_value x) | skip) | split | dsimp only

theorem State.bufferStop_keep {a s : State} (h : Keep a s) {x0} : Keep a (State.bufferStop s x0) := by
  unfold State.bufferStop
  repeat' (with_reducible first | assumption | apply State.endUnwritten_keep | apply State.returnCaches_keep | apply State.flushCopies_keep | refine Keep.foldl ?_ (fun _ _ _ => ?_))

theorem State.pipeReset_keep {a s : State} (h : Keep a s) {x0} : Keep a (State.pipeReset s x0) := by
  unfold State.pipeReset
  repeat' first | (with_reducible first | assumption | apply State.letGo_keep | apply State.endCopies_keep | apply State.setLearnQueue_keep | apply State.bufferStop_keep | refine Keep.foldl ?_ (fun _ _ _ => ?_)) | (fail_if_no_progress with_reducible refine Keep.plain ?_)

theorem State.channelFrames_keep {a s : State} (h : Keep a s) {x0} : Keep a (State.channelFrames s x0) := by
  unfold State.channelFrames
  repeat' first | (with_reducible first | assumption | apply State.setPkt_keep | apply State.bump_keep | apply State.stompPkt_keep | apply State.stompCopy_keep | apply State.discardCopy_keep | apply Keep.ite | refine Keep.foldl ?_ (fun _ _ _ => ?_)) | (lift_lets; intro x; first | (refine suffices hx : Keep a x from ?_; ?_; on_goal 1 => unfold x; on_goal 2 => clear_value x) | skip) | (fail_if_no_progress with_reducible refine Keep.plain ?_) | split | dsimp only

theorem State.channelReset_keep {a s : State} (h : Keep a s) {x0 x1 x2 x3 x4} : Keep a (State.channelReset s x0 x1 x2 x3 x4) := by
  unfold State.channelReset
  repeat' first | (with_reducible first | assumption | apply State.raise_keep | apply State.startBlockReset_keep | apply State.channelFrames_keep | apply Keep.ite | refine Keep.foldl ?_ (fun _ _ _ => ?_)) | (lift_lets; intro x; first | (refine suffices hx : Keep a x from ?_; ?_; on_goal 1 => unfold x; on_goal 2 => clear_value x) | skip) | (fail_if_no_progress with_reducible refine Keep.plain ?_) | split | dsimp only

theorem State.channelError_keep {a s : State} (h : Keep a s) {x0 x1 x2 x3 x4 x5 x6 x7 x8} :
    Keep a (State.channelError s x0 x1 x2 x3 x4 x5 x6 x7 x8) := by
  unfold State.channelError
  repeat' first | (with_reducible first | assumption | apply State.setChQueue_keep | apply State.channelReset_keep | apply Keep.ite | refine Keep.foldl ?_ (fun _ _ _ => ?_)) | (lift_lets; intro x; first | (refine suffices hx : Keep a x from ?_; ?_; on_goal 1 => unfold x; on_goal 2 => clear_value x) | skip) | (fail_if_no_progress with_reducible refine Keep.plain ?_) | split | dsimp only

theorem State.clearChannel_keep {a s : State} (h : Keep a s) {x0} : Keep a (State.clearChannel s x0) := Keep.plain h

theorem State.channelDone_keep {a s : State} (h : Keep a s) {x0} : Keep a (State.channelDone s x0) := by
  unfold State.channelDone
  repeat' first | (with_reducible first | assumption | apply State.channelFrames_keep | apply State.clearChannel_keep | apply State.endRunning_keep | apply State.put_keep | apply Keep.ite | refine Keep.foldl ?_ (fun _ _ _ => ?_)) | (lift_lets; intro x; first | (refine suffices hx : Keep a x from ?_; ?_; on_goal 1 => unfold x; on_goal 2 => clear_value x) | skip) | (fail_if_no_progress with_reducible refine Keep.plain ?_) | split | dsimp only

theorem State.channelRestart_keep {a s : State} (h : Keep a s) {x0} : Keep a (State.channelRestart s x0) := by
  unfold State.channelRestart
  repeat' first | (with_reducible first | assumption | apply State.put_keep | apply Keep.ite) | (fail_if_no_progress with_reducible refine Keep.plain ?_)

theorem State.requestReset_keep {a s : State} (h : Keep a s) {x0} : Keep a (State.requestReset s x0) := by
  unfold State.requestReset
  repeat' first | (with_reducible first | assumption | apply State.put_keep | apply State.channelRestart_keep | apply State.startBlockReset_keep | apply Keep.ite) | (lift_lets; intro x; first | (refine suffices hx : Keep a x from ?_; ?_; on_goal 1 => unfold x; on_goal 2 => clear_value x) | skip) | (fail_if_no_progress with_reducible refine Keep.plain ?_) | split | dsimp only

theorem State.engineReset_keep {a s : State} (h : Keep a s) : Keep a (State.engineReset s) := by
  unfold State.engineReset
  repeat' first | (with_reducible first | assumption | apply State.withdraw_keep | apply State.unlearn_keep | apply State.flushPort_keep | apply State.uncover_keep | apply State.perf_keep | apply State.completeRegs_keep | apply State.completeRing_keep | apply State.endCommit_keep | apply Keep.ite | refine Keep.foldl ?_ (fun _ _ _ => ?_)) | (lift_lets; intro x; first | (refine suffices hx : Keep a x from ?_; ?_; on_goal 1 => unfold x; on_goal 2 => clear_value x) | skip) | (fail_if_no_progress with_reducible refine Keep.plain ?_) | split | dsimp only

theorem State.harvesterReset_keep {a s : State} (h : Keep a s) : Keep a (State.harvesterReset s) := by
  unfold State.harvesterReset
  repeat' first | (with_reducible first | assumption | apply State.setDelivery_keep | apply State.freeLock_keep | apply State.showWaiting_keep | apply Keep.ite) | (lift_lets; intro x; first | (refine suffices hx : Keep a x from ?_; ?_; on_goal 1 => unfold x; on_goal 2 => clear_value x) | skip) | (fail_if_no_progress with_reducible refine Keep.plain ?_) | split | dsimp only

theorem State.sequencerReset_keep {a s : State} (h : Keep a s) {x0} : Keep a (State.sequencerReset s x0) := by
  unfold State.sequencerReset
  repeat' (with_reducible first | assumption | apply State.engineReset_keep | apply State.harvesterReset_keep | apply Keep.ite)

theorem State.unitReset_keep {a s : State} (h : Keep a s) {x0} : Keep a (State.unitReset s x0) := by
  unfold State.unitReset
  repeat' first | (with_reducible first | assumption | apply State.pipeReset_keep | apply State.channelFrames_keep | apply State.clearChannel_keep | apply State.endRunning_keep | apply State.channelDone_keep | apply State.macroDown_keep | apply State.setMacroLock_keep | apply State.setLive_keep | apply State.put_keep | apply State.sequencerReset_keep | apply Keep.ite | refine Keep.foldl ?_ (fun _ _ _ => ?_)) | (lift_lets; intro x; first | (refine suffices hx : Keep a x from ?_; ?_; on_goal 1 => unfold x; on_goal 2 => clear_value x) | skip) | (fail_if_no_progress with_reducible refine Keep.plain ?_) | split | dsimp only

theorem State.blockResetDone_keep {a s : State} (h : Keep a s) {x0} : Keep a (State.blockResetDone s x0) := by
  unfold State.blockResetDone
  repeat' (with_reducible first | assumption | apply State.pfReset_keep | apply State.endRunning_keep | apply State.unitReset_keep | apply Keep.ite)

theorem State.faultInject_keep {a s : State} (h : Keep a s) {x0} : Keep a (State.faultInject s x0) := by
  unfold State.faultInject
  repeat' (with_reducible first | assumption | apply State.puts_keep | apply State.raiseWith_keep | apply Keep.ite)

theorem State.histRead_keep {a s : State} (h : Keep a s) {x0} : Keep a (State.histRead s x0) := by
  unfold State.histRead
  repeat' first | (with_reducible first | assumption | apply State.put_keep) | (fail_if_no_progress with_reducible refine Keep.plain ?_)

theorem State.parityFault_keep {a s : State} (h : Keep a s) : Keep a (State.parityFault s) := by
  unfold State.parityFault
  repeat' (with_reducible first | assumption | apply State.raise_keep | apply State.freeLock_keep | apply State.endSession_keep | apply State.loaderFault_keep | apply State.batchFault_keep | apply Keep.ite)

theorem State.cipherFault_keep {a s : State} (h : Keep a s) {x0} : Keep a (State.cipherFault s x0) := by
  unfold State.cipherFault
  repeat' first | (with_reducible first | assumption | apply State.raise_keep | apply State.setKeySlot_keep | apply State.parityFault_keep) | (lift_lets; intro x; first | (refine suffices hx : Keep a x from ?_; ?_; on_goal 1 => unfold x; on_goal 2 => clear_value x) | skip) | split | dsimp only

theorem State.brineLet_keep {a s : State} (h : Keep a s) {x0} : Keep a (State.brineLet s x0) := by
  unfold State.brineLet
  repeat' (with_reducible first | assumption | apply State.letGo_keep | apply State.meterRemoved_keep | apply Keep.ite)

theorem State.brineDrainEnd_keep {a s : State} (h : Keep a s) : Keep a (State.brineDrainEnd s) := by
  unfold State.brineDrainEnd
  repeat' first | (with_reducible first | assumption | apply State.bump_keep | apply State.endCopies_keep | apply State.brineLet_keep | apply State.report_keep | apply State.put_keep | apply Keep.ite | refine Keep.foldl ?_ (fun _ _ _ => ?_)) | (fail_if_no_progress with_reducible refine Keep.plain ?_)

theorem State.brineExitDone_keep {a s : State} (h : Keep a s) : Keep a (State.brineExitDone s) := by
  unfold State.brineExitDone
  repeat' first | (with_reducible first | assumption | apply State.clearMap_keep | apply State.report_keep | apply State.put_keep | apply Keep.ite) | (fail_if_no_progress with_reducible refine Keep.plain ?_)

/-! ### Machine/Views.lean -/

theorem State.readReg_keep' {a s : State} (h : Keep a s) {x0} : Keep a (State.readReg s x0).2 := by
  unfold State.readReg
  repeat' (with_reducible first | assumption | refine State.draw_keep (by assumption) ?_ | apply State.draw_keep' | apply Keep.ite2 | apply Keep.ite)
theorem State.readReg_keep {a s t : State} {x0} {y} (e : (State.readReg s x0) = (y, t)) (h : Keep a s) : Keep a t
  := by
  have g := congrArg Prod.snd e; dsimp only at g; rw [← g]; exact State.readReg_keep' h

/-! ### Machine/Management.lean -/

theorem State.smbNack_keep {a s : State} (h : Keep a s) : Keep a (State.smbNack s) := by
  unfold State.smbNack
  repeat' (with_reducible first | assumption | apply State.bump_keep | apply State.send_keep)

theorem State.smbAnswer_keep {a s : State} (h : Keep a s) {x0} : Keep a (State.smbAnswer s x0) := by
  unfold State.smbAnswer
  repeat' (with_reducible first | assumption | apply State.bump_keep | apply State.send_keep)

theorem State.smbRead_keep {a s : State} (h : Keep a s) {x0 x1} : Keep a (State.smbRead s x0 x1) := by
  unfold State.smbRead
  repeat' (with_reducible first | assumption | apply State.smbAnswer_keep | apply State.smbNack_keep | apply Keep.ite)

theorem State.smbWrite_keep {a s : State} (h : Keep a s) {x0} {f} (hf : ∀ t, Keep a t → Keep a (f t)) : Keep a
  (State.smbWrite s x0 f) := by
  unfold State.smbWrite
  repeat' (with_reducible first | assumption | apply hf | apply State.bump_keep | apply Keep.ite)

theorem State.smbCap_keep {a s : State} (h : Keep a s) {x0 x1} : Keep a (State.smbCap s x0 x1) := by
  unfold State.smbCap
  repeat' first | (with_reducible first | assumption | apply State.smbNack_keep | apply State.smbWrite_keep | apply State.put_keep | apply Keep.ite) | (refine fun t => ?_; try beta_reduce)

theorem State.smbWake_keep {a s : State} (h : Keep a s) {x0 x1} : Keep a (State.smbWake s x0 x1) := by
  unfold State.smbWake
  repeat' first | (with_reducible first | assumption | apply State.smbNack_keep | apply State.smbWrite_keep | apply State.brineLeave_keep | apply Keep.ite) | (refine fun t => ?_; try beta_reduce)

theorem State.tapLoad_keep {a s : State} (h : Keep a s) {x0} : Keep a (State.tapLoad s x0) := Keep.plain h

theorem State.tapStop_keep {a s : State} (h : Keep a s) {x0} : Keep a (State.tapStop s x0) := by
  unfold State.tapStop
  repeat' first | (with_reducible first | assumption | apply State.send_keep | apply Keep.ite) | (fail_if_no_progress with_reducible refine Keep.plain ?_)

/-! ### Machine/Register.lean -/

theorem State.afterRead_keep {a s : State} (h : Keep a s) {x0 x1} : Keep a (State.afterRead s x0 x1) := by
  unfold State.afterRead
  repeat' first | (with_reducible first | assumption | apply State.put_keep | apply Keep.ite) | (lift_lets; intro x; first | (refine suffices hx : Keep a x from ?_; ?_; on_goal 1 => unfold x; on_goal 2 => clear_value x) | skip) | (fail_if_no_progress with_reducible refine Keep.plain ?_) | split | dsimp only

theorem State.hostRead_keep {a s : State} (h : Keep a s) {x0 x1 x2 x3} : Keep a (State.hostRead s x0 x1 x2 x3) := by
  unfold State.hostRead
  repeat' first | (with_reducible first | assumption | apply State.latchNow_keep | refine State.readReg_keep (by assumption) ?_ | apply State.readReg_keep' | apply State.setRaw_keep | apply State.afterRead_keep | apply Keep.ite) | (lift_lets; intro x; first | (refine suffices hx : Keep a x from ?_; ?_; on_goal 1 => unfold x; on_goal 2 => clear_value x) | skip) | (fail_if_no_progress with_reducible refine Keep.plain ?_) | split | dsimp only

theorem State.sharedChange_keep {a s : State} (h : Keep a s) {x0 x1 x2} : Keep a (State.sharedChange s x0 x1 x2) := by
  unfold State.sharedChange
  repeat' first | (with_reducible first | assumption | apply State.portOver_keep | apply State.xoffSweep_keep | apply State.portStop_keep | apply State.portStopClear_keep | apply State.setSchRoot_keep | apply State.showPaused_keep | apply State.flushQueue_keep | apply State.histRead_keep | apply Keep.ite | refine Keep.foldl ?_ (fun _ _ _ => ?_)) | (lift_lets; intro x; first | (refine suffices hx : Keep a x from ?_; ?_; on_goal 1 => unfold x; on_goal 2 => clear_value x) | skip) | (fail_if_no_progress with_reducible refine Keep.plain ?_) | split | dsimp only

theorem State.laneChange_keep {a s : State} (h : Keep a s) {x0} : Keep a (State.laneChange s x0) := by
  unfold State.laneChange
  repeat' (with_reducible first | assumption | apply State.put_keep | apply Keep.ite)

theorem State.onBit_keep {a s : State} (h : Keep a s) {x0 x1} {f} (hf : ∀ t, Keep a t → Keep a (f t)) : Keep a
  (State.onBit s x0 x1 f) := by
  unfold State.onBit
  repeat' (with_reducible first | assumption | apply hf | apply Keep.ite)

theorem State.indBits_keep {a s : State} (h : Keep a s) {x0} {f} (hf : ∀ t b, Keep a t → Keep a (f t b)) : Keep a
  (State.indBits s x0 f) := by
  unfold State.indBits
  repeat' (with_reducible first | assumption | apply hf | apply Keep.ite)

theorem State.timeStarts_keep {a s : State} (h : Keep a s) {x0} : Keep a (State.timeStarts s x0) := by
  unfold State.timeStarts
  repeat' first | (with_reducible first | assumption | refine State.onBit_keep ?_ (fun _ _ => ?_) | apply State.startCheck_keep | apply Keep.ite | refine Keep.foldl ?_ (fun _ _ _ => ?_)) | (lift_lets; intro x; first | (refine suffices hx : Keep a x from ?_; ?_; on_goal 1 => unfold x; on_goal 2 => clear_value x) | skip) | (fail_if_no_progress with_reducible refine Keep.plain ?_) | split | dsimp only

theorem State.timeBits_keep {a s : State} (h : Keep a s) {x0} : Keep a (State.timeBits s x0) := by
  unfold State.timeBits
  repeat' first | (with_reducible first | assumption | refine State.onBit_keep ?_ (fun _ _ => ?_) | apply State.servoDisable_keep | apply State.fabDisable_keep | apply State.timeStarts_keep | apply Keep.ite | refine Keep.foldl ?_ (fun _ _ _ => ?_)) | (lift_lets; intro x; first | (refine suffices hx : Keep a x from ?_; ?_; on_goal 1 => unfold x; on_goal 2 => clear_value x) | skip) | (fail_if_no_progress with_reducible refine Keep.plain ?_) | split | dsimp only

theorem State.powerBits_keep {a s : State} (h : Keep a s) {x0} : Keep a (State.powerBits s x0) := by
  unfold State.powerBits
  repeat' first | (with_reducible first | assumption | apply State.startCheck_keep | refine State.onBit_keep ?_ (fun _ _ => ?_) | apply Keep.ite | refine Keep.foldl ?_ (fun _ _ _ => ?_)) | (lift_lets; intro x; first | (refine suffices hx : Keep a x from ?_; ?_; on_goal 1 => unfold x; on_goal 2 => clear_value x) | skip) | (fail_if_no_progress with_reducible refine Keep.plain ?_) | split | dsimp only

theorem State.cipherBits_keep {a s : State} (h : Keep a s) {x0} : Keep a (State.cipherBits s x0) := by
  unfold State.cipherBits
  repeat' first | (with_reducible first | assumption | apply State.startCheck_keep) | (lift_lets; intro x; first | (refine suffices hx : Keep a x from ?_; ?_; on_goal 1 => unfold x; on_goal 2 => clear_value x) | skip) | split | dsimp only

theorem State.keyBits_keep {a s : State} (h : Keep a s) {x0} : Keep a (State.keyBits s x0) := by
  unfold State.keyBits
  repeat' first | (with_reducible first | assumption | apply State.keyCommand_keep | apply State.startCheck_keep) | (lift_lets; intro x; first | (refine suffices hx : Keep a x from ?_; ?_; on_goal 1 => unfold x; on_goal 2 => clear_value x) | skip) | split | dsimp only

theorem State.meterBits_keep {a s : State} (h : Keep a s) {x0} : Keep a (State.meterBits s x0) := by
  unfold State.meterBits
  repeat' first | (with_reducible first | assumption | apply State.mtrDisable_keep | apply State.onBit_keep | apply State.mtrEnable_keep | apply State.mtrNow_keep | apply Keep.ite) | (refine fun t => ?_; try beta_reduce)

theorem State.laneBits_keep {a s : State} (h : Keep a s) {x0 x1 x2} : Keep a (State.laneBits s x0 x1 x2) := by
  unfold State.laneBits
  repeat' first | (with_reducible first | assumption | apply State.onBit_keep | apply State.prbsFlip_keep | apply State.portDisable_keep | apply State.startCheck_keep | apply State.portRetrain_keep | apply State.put_keep | apply State.injectGo_keep | apply Keep.ite) | (refine fun t => ?_; try beta_reduce)

theorem State.pulseBits_keep {a s : State} (h : Keep a s) {x0 x1} : Keep a (State.pulseBits s x0 x1) := by
  unfold State.pulseBits
  repeat' first | (with_reducible first | assumption | apply State.poDisarm_keep | apply State.onBit_keep | apply State.poArm_keep | apply Keep.ite) | (refine fun t => ?_; try beta_reduce)

theorem State.arrayBits_keep {a s : State} (h : Keep a s) {x0 x1} : Keep a (State.arrayBits s x0 x1) := by
  unfold State.arrayBits
  repeat' first | (with_reducible first | assumption | apply State.onBit_keep | apply State.unblock_keep | apply State.vfReset_keep | apply State.channelRestart_keep | apply State.pulseBits_keep) | (refine fun t => ?_; try beta_reduce) | split | dsimp only

theorem State.commandBits_keep {a s : State} (h : Keep a s) {x0 x1} : Keep a (State.commandBits s x0 x1) := by
  unfold State.commandBits
  repeat' first | (with_reducible first | assumption | apply State.onBit_keep | apply State.imageDisable_keep | apply State.commitGo_keep | apply State.patFlip_keep | apply State.indBits_keep | apply State.patGo_keep | apply State.tblGo_keep | apply State.plDisable_keep | apply State.plEnable_keep | apply State.plIndGo_keep | apply State.bufApply_keep | apply State.bufIndGo_keep | apply State.gateGo_keep | apply State.schedIndGo_keep | apply State.meterBits_keep | apply State.postDisable_keep | apply State.postEnable_keep | apply State.flowGo_keep | apply State.timeBits_keep | apply State.hostSample_keep | apply State.powerBits_keep | apply State.faultInject_keep | apply State.requestReset_keep | apply State.lockRelease_keep | apply State.lockReq_keep | apply State.cipherBits_keep | apply State.keyBits_keep | apply State.warmReset_keep | apply State.laneBits_keep | apply State.arrayBits_keep | apply Keep.ite) | (refine fun t => ?_; try beta_reduce)

theorem State.store_keep {a s : State} (h : Keep a s) {x0 x1 x2 x3} : Keep a (State.store s x0 x1 x2 x3) := by
  unfold State.store
  repeat' (with_reducible first | assumption | apply State.setRaw_keep)

theorem State.slotWrite_keep {a s : State} (h : Keep a s) {x0 x1 x2 x3 x4} : Keep a (State.slotWrite s x0 x1 x2 x3
  x4) := by
  unfold State.slotWrite
  repeat' first | (with_reducible first | assumption | apply State.store_keep | apply State.doorbell_keep | apply State.onBit_keep | apply State.ringInval_keep | apply State.startAbort_keep | apply State.ringDisable_keep | apply State.ringEnable_keep | apply State.setRing_keep | apply Keep.ite) | (refine fun t => ?_; try beta_reduce)

theorem State.bar2Write_keep {a s : State} (h : Keep a s) {x0 x1 x2 x3} : Keep a (State.bar2Write s x0 x1 x2 x3) := by
  unfold State.bar2Write
  repeat' first | (with_reducible first | assumption | apply State.slotWrite_keep | apply State.msixFlush_keep | apply State.store_keep | apply Keep.ite) | (lift_lets; intro x; first | (refine suffices hx : Keep a x from ?_; ?_; on_goal 1 => unfold x; on_goal 2 => clear_value x) | skip) | split | dsimp only

theorem State.bar0Write_keep {a s : State} (h : Keep a s) {x0 x1 x2} : Keep a (State.bar0Write s x0 x1 x2) := by
  unfold State.bar0Write
  repeat' (with_reducible first | assumption | apply State.mtrNow_keep | apply State.bump_keep | apply State.store_keep | apply State.laneChange_keep | apply State.sharedChange_keep | apply State.commandBits_keep | apply Keep.ite)

theorem State.hostWriteReg_keep {a s : State} (h : Keep a s) {x0 x1 x2 x3 x4} : Keep a (State.hostWriteReg s x0 x1
  x2 x3 x4) := by
  unfold State.hostWriteReg
  repeat' first | (with_reducible first | assumption | apply State.bar2Write_keep | apply State.bar0Write_keep | apply Keep.ite) | (lift_lets; intro x; first | (refine suffices hx : Keep a x from ?_; ?_; on_goal 1 => unfold x; on_goal 2 => clear_value x) | skip) | split | dsimp only

/-! ### Machine/Checks.lean -/

theorem State.brineFifo_keep {a s : State} (h : Keep a s) : Keep a (State.brineFifo s) := by
  unfold State.brineFifo
  repeat' first | (with_reducible first | assumption | apply State.bump_keep | refine Keep.foldl ?_ (fun _ _ _ => ?_)) | (fail_if_no_progress with_reducible refine Keep.plain ?_)

theorem State.grant_keep {a s : State} (h : Keep a s) {x0 x1} : Keep a (State.grant s x0 x1) := by
  unfold State.grant
  repeat' first | (with_reducible first | assumption | apply State.ringAccepted_keep | apply State.portAccepted_keep | apply State.bufAccepted_keep | apply State.gateAccepted_keep | apply State.plAccepted_keep | apply State.mtrAccepted_keep | apply State.postAccepted_keep | apply State.servoAccepted_keep | apply State.fabAccepted_keep | apply State.bump_keep | apply State.setTime_keep | apply State.stepTime_keep | apply State.armAccepted_keep | apply State.applyAccepted_keep | apply State.brineFifo_keep | apply State.brineLinks_keep | apply State.brineEntered_keep | apply State.brineLeave_keep | apply State.startAccepted_keep | apply State.pushAccepted_keep | apply State.finishAccepted_keep | apply State.endSession_keep | apply State.loadAccepted_keep | apply State.clearAccepted_keep) | split | dsimp only

theorem State.deny_keep {a s : State} (h : Keep a s) {x0} : Keep a (State.deny s x0) := by
  unfold State.deny
  repeat' first | (with_reducible first | assumption | apply State.portRefused_keep | apply State.clearCipherRegs_keep) | (lift_lets; intro x; first | (refine suffices hx : Keep a x from ?_; ?_; on_goal 1 => unfold x; on_goal 2 => clear_value x) | skip) | (fail_if_no_progress with_reducible refine Keep.plain ?_) | split | dsimp only

theorem State.afterKey_keep {a s : State} (h : Keep a s) {x0} : Keep a (State.afterKey s x0) := by
  unfold State.afterKey
  repeat' (with_reducible first | assumption | apply State.clearCipherRegs_keep | apply Keep.ite)

theorem State.checkEnds_keep {a s : State} (h : Keep a s) {x0 x1} : Keep a (State.checkEnds s x0 x1) := by
  unfold State.checkEnds
  repeat' first | (with_reducible first | assumption | apply State.imageRefused_keep | apply State.patchRefused_keep | apply State.deny_keep | apply State.afterKey_keep | apply State.endCheck_keep | apply State.grant_keep | apply Keep.ite | refine Keep.foldl ?_ (fun _ _ _ => ?_)) | (lift_lets; intro x; first | (refine suffices hx : Keep a x from ?_; ?_; on_goal 1 => unfold x; on_goal 2 => clear_value x) | skip) | (fail_if_no_progress with_reducible refine Keep.plain ?_) | split | dsimp only

theorem State.checkDone_keep {a s : State} (h : Keep a s) {x0 x1} : Keep a (State.checkDone s x0 x1) := by
  unfold State.checkDone
  repeat' first | (with_reducible first | assumption | apply State.checkEnds_keep | apply State.raise_keep | apply Keep.ite | refine Keep.foldl ?_ (fun _ _ _ => ?_)) | (lift_lets; intro x; first | (refine suffices hx : Keep a x from ?_; ?_; on_goal 1 => unfold x; on_goal 2 => clear_value x) | skip) | (fail_if_no_progress with_reducible refine Keep.plain ?_) | split | dsimp only

end Sys2Proof.Machine
end

