-- ==== Sys2Proof/Laws/Power.lean ====
section
/-! SUPPORT. What the power unit's report of its throttle state does (14_power_thermal.md R517, R520), said once for the
events that end in it, and one reason bit at a time. -/

-- One declaration at a time: the package is compiled as one text, and a thread for each would not fit.
set_option Elab.async false

namespace Sys2Proof.Machine

theorem bitAt_eq_testBit (v i : Nat) : bitAt v i = v.testBit i := by
  unfold bitAt; rw [Nat.testBit_eq_decide_div_mod_eq]

theorem b2n_lt (b : Bool) : b2n b < 2 := by cases b <;> decide

theorem b2n_testBit (b : Bool) : (b2n b).testBit 0 = b := by cases b <;> rfl

/-- One reason bit after a reason was set. -/
theorem State.setReason_testBit {s : State} (w : RegsWf s.regs) {i : Nat} (hi : i < 4) (b : Bool) (j : Nat) (hj : j < 4) :
    ((s.setReason i b).get PWR_STATUS.reasons).testBit j =
      if j = i then b else (s.get PWR_STATUS.reasons).testBit j := by
  unfold State.setReason
  rw [State.get_eq, State.put_regs, regGet_regPut_same w (by decide)]
  show (_ % 2 ^ 4).testBit j = _
  rw [Nat.testBit_mod_two_pow, testBit_setBits, decide_eq_true hj, Bool.true_and]
  by_cases e : j = i
  · subst e
    rw [if_pos rfl, if_pos ⟨le_refl _, by omega⟩, Nat.sub_self]; exact b2n_testBit b
  · rw [if_neg e, if_neg (by omega)]

theorem State.Frame.setReason {R : Region} {l : List Fld} {s t : State} (h : s.Frame R l t) (w : RegsWf t.regs)
    (m : PWR_STATUS.reasons ∈ l) (i : Nat) (b : Bool) : s.Frame R l (t.setReason i b) := h.put w m (by decide) _

theorem State.setReason_regsWf {s : State} (w : RegsWf s.regs) (i : Nat) (b : Bool) : RegsWf (s.setReason i b).regs :=
  w.put _ _

theorem State.report_eq (s was : State) :
    s.report was = if s.reportRegs.throttleBits = was.throttleBits || !s.reportRegs.flag PWR_EVT_CFG.event_en then s.reportRegs
      else { s.reportRegs with pwr := { s.reportRegs.pwr with evtDue := some s.reportRegs.wrapNow } } := rfl

theorem State.report_regs (s was : State) : (s.report was).regs = s.reportRegs.regs := by
  rw [State.report_eq]; split <;> rfl

theorem State.externalLeast_congr {s t : State} (h : t.pwr = s.pwr) (g : ∀ f : Fld, f.off = PWR_EXT_LIMIT.regOff → t.get f = s.get f) :
    t.externalLeast = s.externalLeast := by
  unfold State.externalLeast; rw [h, g _ rfl, g _ rfl]

/-- What a report does: it shows level and reasons in PWR_STATUS and PL_FAB_STATUS, cap and external following the cap
controller (R517, R520), and leaves everything else but an event that becomes due. -/
theorem State.report_spec {s : State} (w : RegsWf s.regs) (was : State) :
    (s.report was = { s with regs := (s.report was).regs, pwr := { s.pwr with evtDue := (s.report was).pwr.evtDue } }) ∧
    s.Frame noRegs throttleFields (s.report was) ∧
    (s.report was).get PWR_STATUS.level = levelOf s.mostThrottled (s.pwrState = 1) % 4 ∧
    (∀ j < 4, ((s.report was).get PWR_STATUS.reasons).testBit j =
      if j = 0 then (s.pwr.capReason || s.pwr.fastIdle) && s.externalLeast
      else if j = 3 then s.pwr.capReason || s.pwr.fastIdle
      else (s.get PWR_STATUS.reasons).testBit j) ∧
    (s.report was).get PL_FAB_STATUS.own_throttle = (s.report was).get PWR_STATUS.level ∧
    (s.report was).get PL_FAB_STATUS.own_reasons = (s.report was).get PWR_STATUS.reasons := by
  have same : s.reportRegs = { s with regs := s.reportRegs.regs } :=
    (((OnlyRegs.refl s).put _ _).put _ _).put _ _ |>.puts _
  have hget : ∀ f, (s.report was).get f = s.reportRegs.get f := fun f => State.get_congr (State.report_regs s was) f
  have fr : s.Frame noRegs throttleFields s.reportRegs := by
    unfold State.reportRegs; dsimp only
    have h1 := (State.Frame.refl noRegs throttleFields s).put w (f := PWR_STATUS.level) (by decide) (by decide)
      (levelOf s.mostThrottled (decide (s.pwrState = 1)))
    have w1 := w.put PWR_STATUS.level (levelOf s.mostThrottled (decide (s.pwrState = 1)))
    rw [← State.put_regs] at w1
    generalize s.put PWR_STATUS.level _ = a at h1 w1
    have h2 := h1.setReason w1 (by decide) 3 (s.pwr.capReason || s.pwr.fastIdle)
    have w2 := State.setReason_regsWf w1 3 (s.pwr.capReason || s.pwr.fastIdle)
    generalize a.setReason 3 _ = b at h2 w2
    have h3 := h2.setReason w2 (by decide) 0 ((s.pwr.capReason || s.pwr.fastIdle) && b.externalLeast)
    have w3 := State.setReason_regsWf w2 0 ((s.pwr.capReason || s.pwr.fastIdle) && b.externalLeast)
    generalize b.setReason 0 _ = c at h3 w3
    exact (h3.put w3 (f := PL_FAB_STATUS.own_throttle) (by decide) (by decide) _).put (w3.put _ _)
      (f := PL_FAB_STATUS.own_reasons) (by decide) (by decide) _
  refine ⟨?_, ?_, ?_, ?_, ?_, ?_⟩
  · rw [State.report_eq]
    clear hget fr
    generalize s.reportRegs = u at same
    obtain ⟨r, rfl⟩ : ∃ r, u = { s with regs := r } := ⟨_, same⟩
    split <;> rfl
  · exact fun g a b => (hget g).trans (fr g a b)
  · rw [hget]
    unfold State.reportRegs State.setReason; dsimp only [State.puts]
    simp only [State.get_eq, State.put_regs]
    rw [regGet_regPut_far _ (by decide), regGet_regPut_far _ (by decide),
      regGet_regPut_apart ((w.put _ _).put _ _) (by decide) _ (by unfold Fld.Apart; decide),
      regGet_regPut_apart (w.put _ _) (by decide) _ (by unfold Fld.Apart; decide), regGet_regPut_same w (by decide)]
    rfl
  · intro j hj
    rw [hget]
    unfold State.reportRegs; dsimp only
    rw [State.puts, State.puts, State.puts, State.get_put_far (f := PL_FAB_STATUS.own_reasons) _ (by decide),
      State.get_put_far (f := PL_FAB_STATUS.own_throttle) _ (by decide), State.setReason_testBit ((w.put _ _).put _ _) (by decide) _ j hj]
    by_cases h0 : j = 0
    · have he : ((s.put PWR_STATUS.level (levelOf s.mostThrottled (decide (s.pwrState = 1)))).setReason 3
          (s.pwr.capReason || s.pwr.fastIdle)).externalLeast = s.externalLeast :=
        State.externalLeast_congr rfl (fun f hf => (State.get_put_far (f := PWR_STATUS.reasons) _
          (by rw [hf]; decide)).trans (State.get_put_far (f := PWR_STATUS.level) _ (by rw [hf]; decide)))
      rw [if_pos h0, if_pos h0, he]
    · rw [if_neg h0, if_neg h0, State.setReason_testBit (w.put _ _) (by decide) _ j hj]
      by_cases h3 : j = 3
      · rw [if_pos h3, if_pos h3]
      · rw [if_neg h3, if_neg h3, State.get_eq, State.put_regs,
          regGet_regPut_apart w (by decide) _ (by unfold Fld.Apart; decide)]; rfl
  · rw [hget, hget]
    unfold State.reportRegs; dsimp only
    generalize hc : State.setReason _ 0 _ = c
    have wc : RegsWf c.regs := hc ▸ ((w.put _ _).put _ _).put _ _
    dsimp only [State.puts]
    simp only [State.get_eq, State.put_regs]
    rw [regGet_regPut_apart (wc.put _ _) (by decide) _ (by unfold Fld.Apart; decide), regGet_regPut_same wc (by decide),
      regGet_regPut_far _ (by decide), regGet_regPut_far _ (by decide)]
    exact Nat.mod_eq_of_lt (regGet_lt _ _)
  · rw [hget, hget]
    unfold State.reportRegs; dsimp only
    generalize hc : State.setReason _ 0 _ = c
    have wc : RegsWf c.regs := hc ▸ ((w.put _ _).put _ _).put _ _
    dsimp only [State.puts]
    simp only [State.get_eq, State.put_regs]
    rw [regGet_regPut_same (wc.put _ _) (by decide), regGet_regPut_far _ (by decide), regGet_regPut_far _ (by decide)]
    exact Nat.mod_eq_of_lt (regGet_lt _ _)

/-- A report changes no part but the power unit's, and of it only the event that becomes due. -/
theorem State.report_same {s : State} (w : RegsWf s.regs) (was : State) :
    s.Same [.pwr] (s.report was) ∧ (s.report was).pwr = { s.pwr with evtDue := (s.report was).pwr.evtDue } := by
  have h := (State.report_spec w was).1
  generalize s.report was = t at h
  refine ⟨fun p m => ?_, by rw [h]⟩
  rw [h]
  cases p <;> first | rfl | exact absurd (by decide) m

/-- A field of each of the first `n` pipes put in turn. -/
theorem State.pipePuts_spec {s : State} (w : RegsWf s.regs) (f : Nat → Fld) (g : Nat → Nat) (n : Nat)
    (hf : ∀ p, (f p).lo + (f p).w ≤ 64) (hd : ∀ p q, p ≠ q → (f p).off ≠ (f q).off) :
    RegsWf ((List.range n).foldl (fun v p => v.put (f p) (g p)) s).regs ∧
    ((List.range n).foldl (fun v p => v.put (f p) (g p)) s =
      { s with regs := ((List.range n).foldl (fun v p => v.put (f p) (g p)) s).regs }) ∧
    s.Frame noRegs ((List.range n).map f) ((List.range n).foldl (fun v p => v.put (f p) (g p)) s) ∧
    ∀ p < n, ((List.range n).foldl (fun v p => v.put (f p) (g p)) s).get (f p) = g p % 2 ^ (f p).w := by
  induction n with
  | zero => exact ⟨w, rfl, .refl _ _ _, fun p h => absurd h (by omega)⟩
  | succ n ih =>
    obtain ⟨h1, h2, h3, h4⟩ := ih
    rw [List.range_succ, List.foldl_append, List.map_append]
    dsimp only [List.foldl_cons, List.foldl_nil, List.map_cons, List.map_nil]
    generalize (List.range n).foldl (fun v p => v.put (f p) (g p)) s = t at h1 h2 h3 h4
    refine ⟨h1.put _ _, by rw [h2]; rfl, ?_, fun p hp => ?_⟩
    · exact (h3.mono (fun _ h => h) (fun x hx => List.mem_append_left _ hx)).put h1
        (List.mem_append_right _ (List.mem_singleton.mpr rfl)) (hf n) _
    · by_cases e : p = n
      · subst e; rw [State.get_eq, State.put_regs, regGet_regPut_same h1 (hf p)]
      · rw [State.get_put_far _ (hd p n e)]; exact h4 p (by omega)

end Sys2Proof.Machine
end

