-- ==== Sys2Proof/WellFormed.lean ====
section
/-! DEFINITION. Which commands the environment can send: operands that have the size the spec gives them. The meanings
do not ask for it; statements that need a size name it. -/

namespace Sys2Proof

/-- A window of 65,536 symbols, as samples with their counts (11_serial_lanes.md R415). -/
def fullWindow (w : List (Int × Nat)) : Bool := w.foldl (fun n x => n + x.2) 0 = 65536

/-- The command's operands have the sizes of the spec: accesses of 1, 2, 4 or 8 bytes inside BAR0 or BAR2
(00_scope.md R12, 12_host_interface_rings.md R446), headers of 256 and 64 bytes with 16-byte tags (02_structure_image.md
R84, 03_action_microcode.md R149), beacons of 80 bytes, CREDIT items of 16 and TIME items of 48 (07_placement_fabric.md
R264, R278; 13_time.md R496), measuring windows of 65,536 symbols and line symbols of a codeword, stuffing included
(11_serial_lanes.md R415, R425), ring entries of 64 bytes (12_host_interface_rings.md R456), load windows of 32 pipes
(14_power_thermal.md R511). -/
def Instr.wf : Instr → Bool
  | .registerWrite _ bar2 off width data => width ∈ [1, 2, 4, 8] && off + width ≤ (if bar2 then 2 ^ 17 else 2 ^ 28) && data.toNat < 2 ^ (8 * width)
  | .readClear _ bar2 off width => width ∈ [1, 2, 4, 8] && off + width ≤ (if bar2 then 2 ^ 17 else 2 ^ 28)
  | .rootPllLockLoss => true
  | .refClockLoss => true
  | .lanePllLockLoss _ => true
  | .frameReceive _ bytes _ _ => decide (bytes.length ≤ 2 ^ 16)
  | .lastByteHeld _ rest _ => decide (rest.length ≤ 2 ^ 16)
  | .parserEntry _ source => source.2.length ≤ 64
  | .stageExecute _ _ _ err slotErr => decide err.Nodup && decide slotErr.Nodup
  | .csRepair _ _ _ _ bad => bad.all (· < 32)
  | .csScrub _ _ _ _ => true
  | .seqStoreRepair _ _ _ => true
  | .admission _ => true
  | .cellWrite _ writes reads => writes.length ≤ 256 && reads.length ≤ 256
  | .writeStallEnd _ => true
  | .cellRead _ ref _ => match ref with | none => true | some x => x.1 < 2 ^ 21
  | .tagSweepComplete _ => true
  | .rakeRefill _ requests trims => decide requests.Nodup && decide trims.Nodup
  | .rakeRebalance _ => true
  | .peakSample => true
  | .schedDecide _ => true
  | .txStart _ _ => true
  | .pfcFrameSend _ => true
  | .pfcRefresh _ => true
  | .pfcReceive _ bytes => 64 ≤ bytes.length
  | .pauseReceive _ bytes => 64 ≤ bytes.length
  | .pauseTimerExpire _ _ => true
  | .starvationCheck => true
  | .gateEntryChange _ => true
  | .gateTakeoverGo => true
  | .gateTakeover _ => true
  | .schedIndWrite => true
  | .schedIndRead => true
  | .indirectCmdComplete _ => true
  | .structEnable ok header => !ok || header.length = 256
  | .imageLockTimeout => true
  | .imageTagVerified ok _ tag => !ok || tag.length = 16
  | .imageActivate => true
  | .structDisable => true
  | .structDrainEnd => true
  | .structCommitGo _ => true
  | .commitAdvance _ => true
  | .commitSlotTimeout _ => true
  | .patchEnable ok header => !ok || header.length = 64
  | .patchLockTimeout => true
  | .patchTagVerified ok _ tag => !ok || tag.length = 16
  | .patchLoadDone => true
  | .patFlip => true
  | .patWrite => true
  | .patRead => true
  | .tblNop _ ok buf => !ok || buf.length ≤ 1024
  | .tblAdd _ ok buf => !ok || buf.length ≤ 1024
  | .tblModify _ ok buf => !ok || buf.length ≤ 1024
  | .tblUpsert _ ok buf => !ok || buf.length ≤ 1024
  | .tblDelete _ ok buf => !ok || buf.length ≤ 1024
  | .tblRead _ ok buf => !ok || buf.length ≤ 1024
  | .tblReadNext _ ok buf => !ok || buf.length ≤ 1024
  | .tblFlush _ ok buf => !ok || buf.length ≤ 1024
  | .tblCommit _ ok buf => !ok || buf.length ≤ 1024
  | .tblCmdComplete _ _ => true
  | .entryMoveEnd _ _ src => src < 2 ^ 20
  | .rebalanceMove _ _ src => src < 2 ^ 20
  | .tcamScrub _ _ row _ => row < 2 ^ 20
  | .parityRepair _ _ _ _ pos others => pos < 2 ^ 20 && others.all (· < 32)
  | .learnAccept _ => true
  | .stationMove _ => true
  | .learnUnblock _ => true
  | .ageVisit _ _ pos _ => pos < 2 ^ 20
  | .plEnable => true
  | .plDisable => true
  | .plIndWrite => true
  | .plIndRead => true
  | .levelSnapshot => true
  | .flowletSweep _ index => index < 2 ^ 17
  | .beaconSend _ => true
  | .beaconReceive _ bytes => bytes.length = 80
  | .neighborTimeout _ => true
  | .creditReceive _ bytes => bytes.length = 16
  | .creditReturnSend _ => true
  | .bufApply => true
  | .bufIndWrite => true
  | .bufIndRead => true
  | .portStop _ => true
  | .portStopClear _ => true
  | .stopDrainEnd _ => true
  | .harvestEdge => true
  | .mtrNow => true
  | .mtrEnable => true
  | .mtrDisable => true
  | .meterBatchSend _ => true
  | .harvestDone => true
  | .postEnable => true
  | .postDisable => true
  | .postcardFrameSend => true
  | .flowRead => true
  | .portEnable _ => true
  | .portDisable _ => true
  | .disableDrainEnd _ => true
  | .portRetrain _ => true
  | .anComplete _ _ => true
  | .ctleSweepDone _ windows => windows.length ≤ 32 && windows.all fullWindow
  | .trainFrameReceive _ _ _ _ => true
  | .tapAckTimeout _ => true
  | .trainTimeout _ => true
  | .alignComplete _ fields => fields.length ≤ 8
  | .alignTimeout _ => true
  | .retryTimer _ => true
  | .lossOfSignal _ => true
  | .pcsLockLoss _ => true
  | .remoteFault _ => true
  | .rlCodewordReceive _ line => 2720 ≤ line.length && line.length ≤ 5525
  | .contAdapt _ below above => fullWindow below && fullWindow above
  | .lpiEnter _ => true
  | .keepaliveTimeout _ => true
  | .prbsInjectOnce _ => true
  | .fecInjectGo _ => true
  | .fecInjectStop _ => true
  | .enableCheckDone _ _ => true
  | .ringDoorbell _ => true
  | .ringEntryFetch _ ok words => !ok || words.length = 8
  | .ringInval _ => true
  | .ringAbort _ => true
  | .ringAbortDone _ => true
  | .ringEnable _ => true
  | .ringDisable _ => true
  | .injectTake _ ok bytes => !ok || bytes.length ≤ 10240
  | .puntWrite r => r.2.length ≤ 64
  | .irqTimer _ => true
  | .heldWriteSend _ => true
  | .pcieError _ _ header => header.length = 4
  | .vfReset _ _ => true
  | .pfReset _ => true
  | .timeSet => true
  | .timeStep => true
  | .servoEnable => true
  | .servoDisable => true
  | .fabTimeEnable => true
  | .fabTimeDisable => true
  | .timeNowRead => true
  | .hostOffsetSample _ => true
  | .servoSample => true
  | .timeItemSend _ => true
  | .timeItemReceive _ bytes => bytes.length = 48
  | .timeLinkTimeout _ => true
  | .poArm _ _ => true
  | .poDisarm _ => true
  | .pulseEdge _ => true
  | .captureEdge _ _ => true
  | .loadWindow used total => used.length = 32 && total.length = 32
  | .capFastCheck _ => true
  | .capEvaluate _ _ => true
  | .ratioMove => true
  | .pwrApply => true
  | .brineEnter => true
  | .brineDrainEnd => true
  | .brineExit => true
  | .brineWakeTime => true
  | .brineExitDone => true
  | .thermalThrottle _ => true
  | .thermalRelease _ => true
  | .thermalTrip _ _ => true
  | .droopFire => true
  | .droopRelease => true
  | .throttleEvent => true
  | .channelError _ _ _ _ _ _ _ _ data check => data.val + check.val ≤ 2
  | .channelResetDone _ => true
  | .channelRestart _ => true
  | .faultInject _ => true
  | .blockResetRequest _ => true
  | .blockResetDone _ => true
  | .chipResetStart => true
  | .histReadUpdate _ => true
  | .cipherLockReq => true
  | .cipherLockRelease => true
  | .cipherLockGrant => true
  | .cipherLockRevoke => true
  | .cipherStart => true
  | .cipherPushAad => true
  | .cipherPushText => true
  | .cipherFinish => true
  | .cipherAbandon => true
  | .cipherSetupDone => true
  | .cipherBlockDone => true
  | .cipherFinishDone => true
  | .keyLoad _ => true
  | .keyClear _ => true
  | .keyProvision _ => true
  | .keyProvisionDone => true
  | .powerOn => true
  | .railFault => true
  | .resetPhaseDone _ => true
  | .perstAssert => true
  | .perstRelease => true
  | .pkgWarmReset _ => true
  | .pcieLinkTrain _ lanes => lanes.val ∈ [1, 2, 4, 8, 16]
  | .smbReadPkgId => true
  | .smbReadPkgCaps => true
  | .smbReadPkgSerial => true
  | .smbReadBootStatus => true
  | .smbReadFltStatus => true
  | .smbReadPwrStatus => true
  | .smbReadPwrExtLimit => true
  | .smbReadFltHistPtr => true
  | .smbReadClkStatus => true
  | .smbReadAvsStatus => true
  | .smbReadPinStatus => true
  | .smbReadSmbStat => true
  | .smbReadSelftest => true
  | .smbReadStraps => true
  | .smbBmcCap _ _ => true
  | .smbBrineWake _ _ => true
  | .smbReservedCmd _ => true
  | .smbTimeout => true
  | .avsConfirm _ => true
  | .avsRetryTimer => true
  | .tapReset => true
  | .bypass => true
  | .idcode => true
  | .samplePreload _ => true
  | .extest => true
  | .extestPulse => true
  | .extestTrain => true
  | .clamp => true
  | .highz => true
  | .refClockReturn => true
  | .lanePllRelock _ => true
  | .partnerLpi _ _ => true
  | .prbsCheckerLock _ _ _ _ => true
  | .configRequest _ _ => true
  | .cipherEngineFault _ => true
  | .harvestRetryTimer => true
  | .activityRampWindow _ => true

end Sys2Proof
end

