-- ==== Sys2Proof/Tests/Slice0.lean ====
section
/-! SUPPORT. The session's own tests: the operand checks, single steps with results worked out from the spec, and
states that meet the hypotheses of the statements. -/

-- One declaration at a time: the package is compiled as one text, and a thread for each would not fit.
set_option Elab.async false
set_option linter.unusedVariables false

namespace Sys2Proof.Tests

open Sys2Proof Sys2Proof.Machine

/-! ### Operand checks: each refuses an ill-formed command -/

theorem test_wf_refuses_width_3 : (Instr.registerWrite 0 false 0 3 0).wf = false := by decide
theorem test_wf_refuses_write_beyond_bar0 : (Instr.registerWrite 0 false 0xFFFFFFC 8 0).wf = false := by decide
theorem test_wf_refuses_data_wider_than_write : (Instr.registerWrite 0 false 0 4 0x100000000).wf = false := by decide
theorem test_wf_refuses_read_beyond_bar2 : (Instr.readClear 0 true 0x1FFFC 8).wf = false := by decide
theorem test_wf_refuses_repeated_error : (Instr.stageExecute false 0 0 [(1, 3), (1, 3)] []).wf = false := by decide
theorem test_wf_refuses_pipe_32 : (Instr.csRepair 0 0 0 true [32]).wf = false := by decide
theorem test_wf_refuses_257_bank_sets : (Instr.cellWrite 0 [] (List.replicate 257 0)).wf = false := by
  simp only [Instr.wf, List.length_replicate]; rfl
theorem test_wf_refuses_pointer_beyond_21_bits : (Instr.cellRead 0 (some (2 ^ 21, 0, 0)) 0).wf = false := by decide
theorem test_wf_refuses_repeated_request : (Instr.rakeRefill 0 [1, 1] []).wf = false := by decide
theorem test_wf_refuses_short_pfc_frame : (Instr.pfcReceive 0 []).wf = false := by decide
theorem test_wf_refuses_short_pause_frame : (Instr.pauseReceive 0 []).wf = false := by decide
theorem test_wf_refuses_short_image_header : (Instr.structEnable true []).wf = false := by decide
theorem test_wf_refuses_short_image_tag : (Instr.imageTagVerified true [] []).wf = false := by decide
theorem test_wf_refuses_short_patch_header : (Instr.patchEnable true []).wf = false := by decide
theorem test_wf_refuses_short_patch_tag : (Instr.patchTagVerified true [] []).wf = false := by decide
theorem test_wf_refuses_position_beyond_20_bits : (Instr.entryMoveEnd 0 0 (2 ^ 20)).wf = false := by decide
theorem test_wf_refuses_scrub_beyond_20_bits : (Instr.tcamScrub 0 0 (2 ^ 20) true).wf = false := by decide
theorem test_wf_refuses_visit_beyond_20_bits : (Instr.ageVisit 0 0 (2 ^ 20) false).wf = false := by decide
theorem test_wf_refuses_flowlet_beyond_17_bits : (Instr.flowletSweep 0 (2 ^ 17)).wf = false := by decide
theorem test_wf_refuses_short_beacon : (Instr.beaconReceive 0 []).wf = false := by decide
theorem test_wf_refuses_short_credit_item : (Instr.creditReceive 0 []).wf = false := by decide
theorem test_wf_refuses_short_codeword : (Instr.rlCodewordReceive 0 []).wf = false := by decide
theorem test_wf_refuses_short_ring_entry : (Instr.ringEntryFetch 0 true []).wf = false := by decide
theorem test_wf_refuses_short_error_header : (Instr.pcieError true 0 []).wf = false := by decide
theorem test_wf_refuses_short_time_item : (Instr.timeItemReceive 0 []).wf = false := by decide
theorem test_wf_refuses_window_of_no_pipe : (Instr.loadWindow [] []).wf = false := by decide
theorem test_wf_refuses_short_sweep : (Instr.ctleSweepDone 0 [[(0, 1)]]).wf = false := by decide
theorem test_wf_refuses_short_window : (Instr.contAdapt 0 [(0, 1)] [(0, 65536)]).wf = false := by decide

/-! ### States that meet the hypotheses of the statements, clause by clause

`witness_X` says of `Obligations.X` that each of its clauses with hypotheses has a state and operands that meet them all;
a clause whose only hypothesis is the invariant holds of `State.reset`. -/

/-- The invariant as a test. -/
def invB (s : State) : Bool :=
  smWf regReset s.regs none && smWf natZero s.buf.cellState none && smWf noEntry s.tbl.entries none &&
  smWf meterDefault s.mtr.meters none && smWf (fun _ => 0) s.mtr.flows none && smWf natZero s.sch.gates none &&
  smWf natZero s.sch.profiles none && smWf natZero s.sch.policers none && smWf natZero s.pl.groups none &&
  smWf natZero s.pl.members none && decide (s.time.total < timeModulus) && decide (s.time.quarter < 4)

theorem inv_of {s : State} (h : invB s = true) : s.Inv := by
  simp only [invB, Bool.and_eq_true, decide_eq_true_eq] at h
  obtain ⟨⟨⟨⟨⟨⟨⟨⟨⟨⟨⟨a, b⟩, c⟩, d⟩, e⟩, f⟩, g⟩, i⟩, j⟩, k⟩, l⟩, m⟩ := h
  exact ⟨⟨a, b, c, d, e, f, g, i, j, k⟩, ⟨l, m⟩⟩

/-- The state after reset with some fields written. -/
def st (l : List (Fld × Nat)) : State := State.reset.puts l

/-- A check of one block runs. -/
def checking (k : Nat) (op : CheckOp) (l : List (Fld × Nat)) : State := { st l with checks := [⟨k, op, []⟩] }

/-- Words of an eight-word ring entry owned by the device. -/
def entryOf (w0 w2 w3 : Nat) : List Word := [BitVec.ofNat 64 (2 ^ 63 + w0), 0, BitVec.ofNat 64 w2, BitVec.ofNat 64 w3, 0, 0, 0, 0]

/-- Ring `r` of `kind`, enabled at slot 3 of function `f`, whose writes may be sent, with some fields written. -/
def ringed (r f kind : Nat) (x : RingSt) (l : List (Fld × Nat)) : State :=
  let s := st [(RING_ASSIGN.func r, f), (RING_ASSIGN.slot r, 3), (RING_ASSIGN.kind r, kind), (RING_ASSIGN.vector r, 3),
    (RING_ASSIGN.valid r, 1), (HIF_STATUS.link_speed, 5), (⟨msixKey f 3 + 8, 32, 1⟩, 0)]
  let k := s.slot r
  let s := (s.puts [(RING_CTL.enabled k, 1), (RING_CFG.size_log2 k, 4), (RING_CFG.irq_en k, 1)]).setRing r x
  { s.puts l with hif := { s.hif with fns := [(f, { busMaster := true, msixEnable := true })] } }

def walk0 : Walk :=
  { pipe := 0, stage := 20, port := 7, fn := none, first := true, injected := false, rq := 0
    md := List.replicate 128 0, look := [], times := [] }

/-- A whole packet of `n` bytes, written to the buffer. -/
def pkt0 (n : Nat) : Pkt :=
  { id := 9, w := walk0, port := 7, bytes := List.replicate n 7, whole := true, err := false, rxErr := false
    exported := false, fromFifo := false, crossed := 0, via := 0, bank := 0, ver := 0, force := 0, rx := 0
    policed := false, admitted := true, pd := 0, copies := 1, gone := [], charge := .none, charged := 0, reserved := 0
    cells := [], last := true, ended := false, inject := none, hdr := [], fabDst := none, pending := [] }

/-- Its copy in queue `q`. -/
def copy0 (q : Nat) : Copy :=
  { id := 4, pkt := 9, queue := q, seg := 0, idx := 0, data := 0, ecn := false, admitAt := 0, read := 0, pooled := false
    cut := false, at' := .queued, w := walk0, mcast := false, guarded := false, wire := none }

/-- An enabled port record: port 7 on lanes 40 to 43, Ethernet (1) or Ristlink (2), of speed `c`. -/
def port0 (link c : Nat) : PortRec := ⟨7, link, 40, 4, c, 7, 9, false⟩

/-- Port 7 enabled, in state `state`, with some fields written. -/
def ported (link c state : Nat) (l : List (Fld × Nat)) : State :=
  { st ([(PORT_STATUS.state 40, state), (PORT_STATUS.up 40, b2n (state = 4))] ++ l) with
    io := { records := [(7, some (port0 link c))] } }

theorem ok_of {ε α : Type} [DecidableEq α] {x : Except ε α} {a : α}
    (h : (match x with | .ok b => decide (b = a) | .error _ => false) = true) : x = .ok a := by
  cases x with
  | ok b => exact congrArg _ (of_decide_eq_true h)
  | error e => cases h

/-- A 256-bit key in a slot. -/
def key0 : KeySlot := { valid := true, aes256 := true, locked := true, failed := false, key := List.replicate 32 7 }

/-- The state after reset with this key in slots 1 and 2, with some fields written. -/
def keyed (l : List (Fld × Nat)) : State :=
  { st l with cip := { State.reset.cip with slots := [(1, key0), (2, key0)] } }

/-- The tag of cipher text `body` with associated data `aad` (R560). -/
def tagOf (aad body : List Byte) : List Byte :=
  bytesOf (gcmTag (roundKeys (natsOf (slotBytes key0))) (natsOf (slice aad 0x20 12)) (natsOf aad) (natsOf body))

/-- A directory entry of an image (R64). -/
def section0 (type count off len : Nat) : List Byte := leBytes 2 type ++ leBytes 2 0 ++ leBytes 4 count ++ leBytes 4 off ++ leBytes 4 len

/-- An image header with its six directory entries (R63). -/
def imageHeader (bodyLen : Nat) (dir : List (List Byte)) : List Byte :=
  leBytes 4 0x4B4D4C53 ++ leBytes 2 0x100 ++ leBytes 2 256 ++ leBytes 2 0x9204 ++ leBytes 1 0xA0 ++ leBytes 1 2 ++
  leBytes 4 bodyLen ++ leBytes 8 0x1122334455667788 ++ leBytes 8 6 ++ leBytes 16 12345 ++ dir.flatten ++ List.replicate 112 0

/-- An image without records, which the checks refuse. -/
def emptyImage : List Byte := imageHeader 0 ((List.range 6).map (fun i => section0 (i + 1) 0 0 0))

/-- An image of one parser node and 32 empty stores. -/
def smallImage : List Byte :=
  imageHeader 528 [section0 1 1 0 16, section0 2 0 0 0, section0 3 32 16 512, section0 4 0 0 0, section0 5 0 0 0, section0 6 0 0 0]

def smallBody : List Byte := leBytes 2 0 ++ leBytes 2 14 ++ leBytes 12 0 ++ ((List.range 32).map (fun i => leBytes 1 i ++ leBytes 15 0)).flatten

def noImage : Image := ⟨0x1122334455667788, [], [], [], [], [], [], [], [], []⟩

def okImage (x : Except Reject Image) : Image := match x with | .ok i => i | .error _ => noImage

/-- A loader in phase `phase` of `header`. -/
def loading (phase : Nat) (header plain : List Byte) (l : List (Fld × Nat)) : State :=
  { keyed l with img := { State.reset.img with phase := phase, header := header, plain := plain } }

/-- A patch header of one record at level 2^32 - 1, and its record for sequencer 1. -/
def patchHeader0 : List Byte :=
  leBytes 4 0x4B4D5054 ++ leBytes 2 0x100 ++ leBytes 2 64 ++ leBytes 2 0x9204 ++ leBytes 1 0xA0 ++ leBytes 1 1 ++
  leBytes 4 80 ++ leBytes 4 0xFFFFFFFF ++ leBytes 2 1 ++ leBytes 10 0 ++ leBytes 32 999

def patchBody : List Byte :=
  leBytes 1 0x41 ++ leBytes 1 0 ++ leBytes 2 3 ++ leBytes 2 2 ++ leBytes 2 0 ++ List.replicate 64 0x5A ++ List.replicate 8 0

def patchRecs : List PatchRec := match patchRecords 1 patchBody with | .ok r => r | .error _ => []

/-- Cipher text of `plain` with the iv of `header`. -/
def cipherOf (header plain : List Byte) : List Byte :=
  bytesOf (gcmCrypt (roundKeys (natsOf (slotBytes key0))) (natsOf (slice header 0x20 12)) (natsOf plain))

/-- A patch load in phase `phase`. -/
def patching (phase : Nat) (plain : List Byte) (l : List (Fld × Nat)) : State :=
  { keyed l with img := { State.reset.img with patchPhase := phase, patchHeader := patchHeader0, patchPlain := plain } }

/-- A table of 16-bit data over the stage-0 tiles `tiles`, LPM tables of one 8-bit level. -/
def table0 (id kind scope keyBits capacity flags tiles : Nat) : TblDecl :=
  ⟨id, kind, scope, keyBits, 16, capacity, 0, 0, b2n (kind = 2), flags, (if kind = 2 then 8 else 0) :: List.replicate 11 0,
    tiles :: List.replicate 31 0, 0⟩

/-- An image with an exact-match table 3, a ternary table 4 of one pipe per domain and an LPM table 5. -/
def image0 : Image :=
  { noImage with tables := [table0 3 1 1 32 100 3 15, table0 4 3 2 32 100 0 16, table0 5 2 1 8 10 0 15]
                 ports := [⟨2, 1, 40, 1, 1, 7, 9, false⟩], members := [⟨1, 9, [2]⟩] }

/-- An active image at versions 5 and 6, with some fields written. -/
def imaged (l : List (Fld × Nat)) : State :=
  { st ([(STRUCT_STATUS.state, 3)] ++ l) with
    img := { State.reset.img with
      active := some image0, live := [⟨5, 1⟩, ⟨6, 0⟩]
      tags := [0, 0, 0, 0, 2, 1, 1, 0, 0, 0, 0, 0, 0, 0, 0, 0] } }

/-- The values of TBL_CMD, argument, cursor, key, mask and data. -/
def cmdArgs (op imm tbl dom key mask data len prio action : Nat) : List Nat :=
  [op + imm * 64 + tbl * 256 + dom * 65536, action + prio * 65536 + len * 2 ^ 32, 0, key, mask, data]

/-- An entry of table 3 that command 1 added, learned on port 2. -/
def entry0 : Entry := { newEntry (State.reset.cmdJob (cmdArgs 1 1 3 0 0 0 0 0 0 77)) with key := 11, data := 0x402, hidden := false, seq := 1 }

/-- The active image with `e` at position 212 of table `t` in all pipes. -/
def filled (t : Nat) (e : Entry) (l : List (Fld × Nat)) : State := { (imaged l).putUnit 32 t 212 (some e) with img := (imaged l).img }

/-- A commit of group `g` waits. -/
def committing (s : State) (g : Nat) (c : CommitJob) : State := { s with img := { s.img with jobs := [{ c with group := g }] } }

theorem takes_of {s : State} {a : List Nat} (h : s.tbl.goArgs = some a ∧ s.hostTurn tblCmdSource = true ∧
    s.tbl.jobs = [] ∧ s.tbl.moves = [] ∧ s.tbl.discards = []) : s.TakesNow a := h

theorem runs_of {s : State} {k : Nat} {j : IndJob} (h : s.pk.ind.find? (fun x => x.key = k) = some j) : s.indRuns k j := h

/-- `s` with TBL_CMD values `a` that wait. -/
def going (s : State) (a : List Nat) : State := { s with tbl := { s.tbl with goArgs := some a } }

/-- Table 3 of `image0`. -/
def exact0 : TblDecl := table0 3 1 1 32 100 3 15

/-- A command that is done. -/
def job0 (b : Option (List Byte)) : TblJob :=
  { State.reset.cmdJob (cmdArgs 5 1 3 0 11 0 0 0 0 0) with id := 4, done := true, started := true, status := 2, readback := b }

/-- A learn request for table 3 waits in pipe 1 before another, from port 2. -/
def learning (s : State) (move : Bool) (key port : Nat) : State :=
  let s := s.puts [(LRN_PORT.limit port, 9), (LRN_PORT.learned 2, 3), (TBL_LRN_CFG.learn_en 3, 1)]
  { s with tbl := { s.tbl with learn := [(1, [⟨3, 0, key, port, move⟩, ⟨3, 0, 77, port, move⟩])] } }

/-- Aging of table 3 is on, with an age limit of 3. -/
def aging : List (Fld × Nat) := [(TBL_LRN_CFG.age_en 3, 1), (TBL_LRN_CFG.any_hit 3, 1), (TBL_AGE_CFG.interval_ms 3, 5), (TBL_AGE_CFG.age_limit 3, 3)]

theorem level_le (n : Nat) : n % 2 ^ 32 ≤ leAt patchHeader0 0x10 4 := by
  have h : leAt patchHeader0 0x10 4 = 2 ^ 32 - 1 := by decide +kernel
  omega

/-- An indirect command of the interface at `k` runs. -/
def indirect (k : Nat) : State := { State.reset with pk := { ind := [⟨k, true, 3, [1]⟩] } }

/-- Port 7 is fabric link 3 of an enabled placement. -/
def fabric (l : List (Fld × Nat)) : State :=
  ported 2 0x10 4 ([(PL_FAB_STATUS.enabled, 1), (PL_LINK.valid 3, 1), (PL_LINK.port 3, 7)] ++ l)

/-- A frame of `n` bytes with its FCS. -/
def frame0 (n : Nat) : List Byte := withFcs ((List.range (n - 4)).map (fun i => BitVec.ofNat 8 (i * 7 + 3)))

/-- A MAC control frame. -/
def control0 (opcode : Nat) : List Byte :=
  withFcs ([0x01, 0x80, 0xC2, 0, 0, 1, 0, 0, 0, 0, 0, 0, 0x88, 0x08] ++ beBytes 2 opcode ++ List.replicate 44 0)

/-- A frame of port 7 in the receive FIFO. -/
def rx0 (b : List Byte) (whole : Bool) : RxFrame := ⟨7, b, whole, false, 0, false, 99, []⟩

/-- A microword that adds and goes on at a fixed address. -/
def word0 : Nat := 5 * 1024 + 9 + 77 * 2 ^ 56 + (2 + 2 ^ 10 + 258 * 2 ^ 11 + 40 * 2 ^ 21 + 512 * 2 ^ 31) * 2 ^ 88

/-- An active image with port 7, a word at address 100 of stage 3 and a trap vector of stage 7. -/
def running (l : List (Fld × Nat)) : State :=
  let s := ported 1 0x10 4 ([(STRUCT_STATUS.state, 3)] ++ l)
  { s with img := { s.img with
      active := some { noImage with stores := [⟨3, 0, 100, 0, [word0]⟩, ⟨7, 0, 0, 0x8005, [word0]⟩], ports := [port0 1 0x10] } } }

/-- `s` with frames in the receive FIFO of section 1. -/
def received (s : State) (l : List RxFrame) : State := { s with pk := { s.pk with fifo := [(1, l)] } }

/-- Metadata with some words written. -/
def mdOf (l : List (Nat × Nat)) : List Nat := l.foldl (fun m x => m.set x.1 x.2) (List.replicate 128 0)

/-- A packet in stage `st` of pipe 1, not yet admitted. -/
def pktAt (st : Nat) (md : List Nat) : Pkt :=
  { pkt0 64 with admitted := false, last := false, w := { walk0 with pipe := 1, stage := st, md := md } }

/-- `s` with these packets and copies. -/
def holding (s : State) (p : List Pkt) (c : List Copy) : State := { s with pk := { s.pk with pkts := p, copies := c } }

/-- A packet of pipe 1 with these cells written, of `n` bytes. -/
def celled (n : Nat) (cells : List (Nat × Nat)) : Pkt :=
  { pkt0 n with charge := .quota 20, charged := 5, reserved := 5, cells := cells, last := false, w := { walk0 with pipe := 1 } }

/-- Its copy in the held place of port 7. -/
def held0 : Copy := { copy0 (7 * 16 + 3) with at' := .held, w := { walk0 with pipe := 1 } }

/-- Cell 3 x 65,536 + 77 with state word `w`, read by `held0`. -/
def celling (w : Nat) (bad : List Nat) : State :=
  let s := holding (running []) [celled 300 [(3 * 65536 + 77, 4)]] [held0]
  { s with buf := { s.buf with cellState := if w = 0 then [] else [(3 * 65536 + 77, w)], bad := bad } }

/-- Pipe 1 holds `n` pointers of group 9 and the sub-ring `m`. -/
def pointers (n m : Nat) : State :=
  { State.reset with buf := { ringInit := true, cache := [(32 + 9, (List.range n).map (fun i => 9 * 65536 + i))]
                              subring := [(9, [(9 * 65536 + 1000, m)])] } }

/-- Port 7's tree: node 2 under the root and queue 3 under it, with the copies `c` of `p`. -/
def scheduling (p : Pkt) (c : List Copy) (l : List (Fld × Nat)) : State :=
  let s := holding (running ([(PORT_STATUS.speed 40, 6)] ++ l)) [p] c
  { s with sch := { nodes := [(7 * 64 + 2, { declared := true, parent := 0xFF })]
                    queues := [(7 * 16 + 3, { declared := true, parent := 2 })] } }

/-- A copy of a packet with two cells that stands in the held place, `n` of them read. -/
def heldRead (n : Nat) : Copy := { copy0 (7 * 16 + 3) with at' := .held, read := n }

/-- A packet of two cells. -/
def twoCells : Pkt := { pkt0 300 with cells := [(4, 4), (65536 + 7, 0)] }

/-- `s` with a gate list at port 7 whose first entry, of 1 ns, has the gates `mask` open and whose second has none. -/
def gating (s : State) (mask : Nat) : State :=
  { s with sch := { s.sch with lists := [(7, some ⟨0, 2, 0, false⟩)], gates := [(7 * 512, mask + 65536), (7 * 512 + 1, 500 * 65536)] } }

/-- A takeover of port 7 waits at device time 4 ns. -/
def pendingGate (openAll : Bool) : State :=
  { State.reset with time := { total := 5 * 2 ^ 40 }, sch := { pend := [(7, some ⟨1, 1, 4, openAll⟩)] } }

/-- `s` with the lanes of port 7 as `x`. -/
def laned (s : State) (x : LaneSt) : State := { s with io := { s.io with lanes := (List.range 4).map (fun i => (40 + i, x)) } }

/-- `s` with port 7 as `x`. -/
def linkedAs (s : State) (x : PortSt) : State := { s with io := { s.io with ports := [(7, x)] } }

/-- A window whose samples all lie at `d`. -/
def window0 (d : Int) : List (Int × Nat) := [(d, 65536)]

/-- Port 7 in TRAIN with its lanes as `x`. -/
def training (x : LaneSt) (l : List (Fld × Nat)) : State := laned (ported 1 6 2 ([(PORT_CFG.lt_en 40, 1)] ++ l)) x

/-- Horner's rule at `x`, each step evaluated before the next. -/
def horner (x : Nat) : List Nat → Nat → Nat
  | [], a => a
  | c :: l, a => match gfMul a x ^^^ c with
    | 0 => horner x l 0
    | n + 1 => horner x l (n + 1)

theorem foldl_eq_horner (x : Nat) (l : List Nat) (a : Nat) :
    l.foldl (fun a c => gfMul a x ^^^ c) a = horner x l a := by
  induction l generalizing a with
  | nil => rfl
  | cons c l ih => rw [List.foldl_cons, ih, horner]; split <;> simp_all

theorem syndromes_eq_horner (l m : List Nat) :
    syndromes (l ++ m) = (List.range 16).map (fun j => horner (gfExp j) m (horner (gfExp j) l 0)) :=
  List.map_congr_left (fun _ _ => by rw [List.foldl_append, foldl_eq_horner, foldl_eq_horner])

theorem horner_zeros (x n : Nat) : horner x (List.replicate n 0) 0 = 0 := by
  induction n with
  | zero => rfl
  | succ n ih =>
    have h : gfMul 0 x ^^^ 0 = 0 := by simp [gfMul, gfLoop]
    rw [List.replicate_succ, horner, h]; exact ih

/-- The first 30 symbols of a codeword with a header of zeros; the rest are zeros. -/
def head0 : List Nat := [842, 832] ++ List.replicate 12 0 ++
  [127, 128, 299, 766, 387, 215, 585, 330, 18, 93, 9, 411, 492, 771, 270, 843]

def codeword0 : List Nat := head0 ++ List.replicate 514 0

/-- The first 29 symbols of a word with more than eight symbols in error; the rest are zeros. -/
def badHead : List Nat := [842, 832] ++ List.replicate 12 0 ++
  [247, 781, 757, 878, 684, 984, 225, 220, 688, 1017, 541, 53, 92, 872, 887]

def badCodeword : List Nat := badHead ++ List.replicate 515 0

/-- The line symbols of a word that begins with `w`. -/
def line0 (w : List Nat) : List (Fin 4) := (codewordLine false w).map (Fin.ofNat 4)

theorem syndromes_codeword0 : syndromes codeword0 = List.replicate 16 0 := by
  have h : ∀ j ∈ List.range 16, horner (gfExp j) head0 0 = 0 := by decide +kernel
  rw [codeword0, syndromes_eq_horner]
  exact (List.map_congr_left fun j hj => by rw [h j hj, horner_zeros]).trans (by decide +kernel :
    (List.range 16).map (fun _ => 0) = List.replicate 16 0)

theorem rsDecode_codeword0 : rsDecode codeword0 = some (codeword0, 0) := by
  rw [rsDecode, syndromes_codeword0]; rfl

theorem syndromes_bad : syndromes badCodeword = List.replicate 15 0 ++ [453] := by
  have h : ∀ j ∈ List.range 15, horner (gfExp j) badHead 0 = 0 := by decide +kernel
  have h15 : horner (gfExp 15) (List.replicate 515 0) (horner (gfExp 15) badHead 0) = 453 := by decide +kernel
  rw [badCodeword, syndromes_eq_horner, List.range_succ, List.map_append]
  refine congrArg₂ _ ((List.map_congr_left fun j hj => by rw [h j hj, horner_zeros]).trans (by decide +kernel :
    (List.range 15).map (fun _ => 0) = List.replicate 15 0)) ?_
  rw [List.map_singleton, h15]

theorem rsDecode_bad : rsDecode badCodeword = none := by
  have h : 8 < (locator (List.replicate 15 0 ++ [453])).len := by decide +kernel
  rw [rsDecode, syndromes_bad, if_neg (by decide)]
  exact if_pos (by rw [decide_eq_true h]; rfl)

theorem headCopy_of {s : State} {r : Nat} {w : List Word}
    (h : (s.ring r).copies = [w] ∧ entryKind w = s.ringKind r ∧ s.mayTake r = true) : s.headCopy r = (s, some w) := by
  simp [State.headCopy, State.refuseWrongKind, h]

/-- A METER entry of 9,000 bytes. -/
def meterEntry : List Word := entryOf (5 * 2 ^ 59) 64 9000

def batch0 : Batch := ⟨[1, 2, 3], 4, true, false, 16384⟩

def delivery0 : Delivery :=
  { seq := 7, start := 5, stop := 9, folded := 0, onDemand := false, stepped := false, pair := 100, batch := 1
    vfs := [(3, 9, 5)], stalled := false, held := none, tries := 0, waits := false }

/-- METER ring 5 holds the entry `w`, and the delivery `d` runs. -/
def delivering (w : List Word) (d : Delivery) : State :=
  let s := ringed 5 0 5 { copies := [w] } [(MTR_CFG.pf_ring, 5), (MTR_CFG.key_slot, 1)]
  { s with cip := { s.cip with slots := [(1, key0)] }, mtr := { delivery := some d } }

/-- Counter 3 of the harvester's block is about to wrap, with an EVENT ring for its event. -/
def counting : State :=
  ringed 7 0 4 {} [(PERF_SEL.event (perfBlock 32 6) 3, 2), (PERF_SEL.ov_event (perfBlock 32 6) 3, 1),
    (PERF_CNT.value (perfBlock 32 6) 3, 2 ^ 48 - 1), (MTR_CFG2.event_en, 1), (MTR_CFG2.event_ring, 7)]

theorem witness_StepRunsTheFrontCommand :
    ∃ (s : State) (c : Instr) (rest : List Instr), s.pending = c :: rest :=
  ⟨{ State.reset with pending := [.pwrApply, .idcode] }, .pwrApply, [.idcode], by decide +kernel⟩

theorem witness_EmptyQueueLetsOneClockCyclePass :
    ∃ s : State, s.Inv ∧ s.pending = [] :=
  ⟨State.reset, inv_of (by decide +kernel), by decide +kernel⟩

theorem witness_EveryStepKeepsTheInvariant :
    ∃ s t : State, s.Inv ∧ step s = .next t :=
  ⟨State.reset, State.reset.tick, inv_of (by decide +kernel), rfl⟩

theorem witness_OnlyProvisioningProgramsFuses :
    ∃ (c : Instr) (s t : State), exec c s = .next t ∧ c ≠ .keyProvisionDone :=
  ⟨.mtrNow, State.reset, State.reset, rfl, by decide +kernel⟩

theorem witness_AccessesThatReachNoRegisterDoNothing :
    ∃ (s : State) (f : Fin 64) (bar2 : Bool) (off width : Nat) (data : Word), ((width ≠ 4 ∧ width ≠ 8) ∨ off % width
    ≠ 0 ∨ regDesc (if bar2 then bar2Base f + off / 8 * 8 else off / 8 * 8) = []) :=
  ⟨State.reset, 63, true, 0x1FFFC, 8, 0xFF, by decide +kernel⟩

theorem witness_RegisterAccessTypesAreKept :
    ∃ s : State, s.Inv ∧ ∃ (n : Fin 2048) (data : Word), sourceListed n = true :=
  ⟨State.reset, inv_of (by decide +kernel), 1696, 0, by decide +kernel⟩

theorem witness_CommandsStartOneCheckOfTheirBlock :
    (∃ (s : State) (c : Instr) (k : Check), s.Inv ∧ startedCheck s c = some k ∧ (c ∈ gatedWrites → s.get
      PWR_STATUS.state < 2) ∧ s.get (esBusy k.key) = 0) ∧
    (∃ (s : State) (c : Instr) (k : Check), s.Inv ∧ startedCheck s c = some k ∧ (c ∈ gatedWrites → s.get
      PWR_STATUS.state < 2) ∧ s.get (esBusy k.key) = 1) :=
  ⟨⟨State.reset, .pwrApply, ⟨PWR_ENABLE_STATUS.regOff, .power, []⟩, inv_of (by decide +kernel), by decide +kernel⟩,
    ⟨st [(esBusy PWR_ENABLE_STATUS.regOff, 1)], .pwrApply, ⟨PWR_ENABLE_STATUS.regOff, .power, []⟩, inv_of
      (by decide +kernel), by decide +kernel⟩⟩

theorem witness_GatedUnitsDiscardWritesInBrine :
    ∃ (s : State) (c : Instr), s.Inv ∧ c ∈ gatedWrites ∧ 2 ≤ s.get PWR_STATUS.state :=
  ⟨st [(PWR_STATUS.state, 2)], .plEnable, inv_of (by decide +kernel), by decide +kernel⟩

theorem witness_ChecksReportAsTheyEnd :
    (∃ (s : State) (k : Check), s.Inv ∧ s.checks.find? (fun c => c.key = k.key) = some k ∧ ∃ fault : Option (Fin
      2048 × Word), k.op ≠ .image ∧ k.op ≠ .patch ∧ k.op ≠ .keyProvision ∧ (fault = none → (s.judge k.op
      k.args).isSome)) ∧
    (∃ (s : State) (k : Check), s.Inv ∧ s.checks.find? (fun c => c.key = k.key) = some k ∧ k.op = .power ∧ s.judge
      k.op k.args = none) :=
  ⟨⟨checking PL_ENABLE_STATUS.regOff .placement [], ⟨PL_ENABLE_STATUS.regOff, .placement, []⟩, inv_of
      (by decide +kernel), by decide +kernel, some (2047, 5), by decide +kernel⟩,
    ⟨checking PWR_ENABLE_STATUS.regOff .power [], ⟨PWR_ENABLE_STATUS.regOff, .power, []⟩, inv_of
      (by decide +kernel), by decide +kernel⟩⟩

theorem witness_SensorDroopAndCapEventsThrottle :
    (∃ s : State, s.Inv ∧ ∃ temp : Fin 256, s.pwr.active.throttleC ≤ temp) ∧
    (∃ s : State, s.Inv ∧ ∃ temp : Fin 256, temp ≤ s.pwr.active.releaseC) ∧
    (∃ s : State, s.Inv ∧ ∃ sensor temp : Fin 256, s.pwr.active.tripC ≤ temp) ∧
    (∃ s : State, s.Inv ∧ ∃ mean : Nat, min s.pwr.active.cap (min (s.get PWR_EXT_LIMIT.host_cap_w) (s.get
      PWR_EXT_LIMIT.bmc_cap_w)) * 1000 * 105 < mean * 100) :=
  ⟨⟨State.reset, inv_of (by decide +kernel), 100, by decide +kernel⟩,
    ⟨State.reset, inv_of (by decide +kernel), 95, by decide +kernel⟩,
    ⟨State.reset, inv_of (by decide +kernel), 0, 110, by decide +kernel⟩,
    ⟨State.reset, inv_of (by decide +kernel), 1522501, by decide +kernel⟩⟩

theorem witness_CoreRailWritesAreConfirmedOrRetried :
    (∃ s : State, s.Inv ∧ s.pwr.railWait = true ∧ ∃ mv : Nat, mv ≤ s.get PKG_AVS_STATUS.target_mv + 5 ∧ s.get
      PKG_AVS_STATUS.target_mv ≤ mv + 5) ∧
    (∃ s : State, s.Inv ∧ s.pwr.railWait = true ∧ ∃ mv : Nat, (s.get PKG_AVS_STATUS.target_mv + 5 < mv ∨ mv + 5 <
      s.get PKG_AVS_STATUS.target_mv)) :=
  ⟨⟨{ st [(PKG_AVS_STATUS.target_mv, 750)] with pwr := { State.reset.pwr with railWait := true } }, inv_of
      (by decide +kernel), by decide +kernel, 755, by decide +kernel⟩,
    ⟨{ st [(PKG_AVS_STATUS.target_mv, 750)] with pwr := { State.reset.pwr with railWait := true } }, inv_of
      (by decide +kernel), by decide +kernel, 756, by decide +kernel⟩⟩

theorem witness_RatioMovesFollowTheRail :
    (∃ (s : State) (p r : Nat) (rest : List Nat), s.Inv ∧ p < 32 ∧ r < 8 ∧ s.pwr.moves = (p * 8 + r) :: rest ∧
      (s.get (PWR_PIPE_STAT.ratio p) ≤ r ∨ s.pwr.active.nominal.getD p 0 ≤ r ∧ (r = 0 → 1830 ≤ fmaxMhz p) ∧ railNeed
      p r ≤ s.get PKG_AVS_STATUS.confirmed_mv)) ∧
    (∃ (s : State) (p r : Nat) (rest : List Nat), s.Inv ∧ p < 32 ∧ r < 8 ∧ s.pwr.moves = (p * 8 + r) :: rest ∧ r <
      s.get (PWR_PIPE_STAT.ratio p) ∧ s.pwr.active.nominal.getD p 0 ≤ r ∧ (r = 0 → 1830 ≤ fmaxMhz p) ∧ s.get
      PKG_AVS_STATUS.confirmed_mv < railNeed p r ∧ s.get PKG_AVS_STATUS.fail = 0) :=
  ⟨⟨{ State.reset with pwr := { State.reset.pwr with moves := [31 * 8 + 7] } }, 31, 7, [], inv_of
      (by decide +kernel), by decide +kernel⟩,
    ⟨{ st [(PWR_PIPE_STAT.ratio 31, 7), (PKG_AVS_STATUS.confirmed_mv, 0)] with
      pwr := { State.reset.pwr with moves := [31 * 8 + 6], active := { State.reset.pwr.active with nominal := List.replicate 32 0 } } },
      31, 6, [], inv_of (by decide +kernel), by decide +kernel, by decide +kernel, by decide +kernel,
      by decide +kernel, by decide +kernel, fun h => absurd h (by decide), lt_of_lt_of_le (by decide +kernel)
      (Nat.le_add_right 650 _), by decide +kernel⟩⟩


theorem witness_ThrottleEventsAreLimited :
    (∃ (s : State) (due : Nat), s.Inv ∧ s.pwr.evtDue = some due ∧ s.get PWR_EVT_CFG.event_en = 1 ∧ (∀ c,
      s.pwr.evtLast = some c → c + 80000 ≤ s.clk)) ∧
    (∃ (s : State) (due : Nat), s.Inv ∧ s.pwr.evtDue = some due ∧ s.get PWR_EVT_CFG.event_en = 1 ∧ ∃ c,
      s.pwr.evtLast = some c ∧ s.clk < c + 80000) :=
  ⟨⟨{ st [(PWR_EVT_CFG.event_en, 1)] with
      clk := 80009, pwr := { State.reset.pwr with evtDue := some 5, evtLast := some 9 } }, 5, inv_of
      (by decide +kernel), by decide +kernel, by decide +kernel, fun _ h => by cases h; decide +kernel⟩,
    ⟨{ st [(PWR_EVT_CFG.event_en, 1)] with
      clk := 80008, pwr := { State.reset.pwr with evtDue := some 5, evtLast := some 9 } }, 5, inv_of
      (by decide +kernel), by decide +kernel, by decide +kernel, 9, by decide +kernel⟩⟩

theorem witness_BrineExitsAreHeldAndEntriesRefused :
    (∃ (s : State) (k : Check), s.Inv ∧ k.key = PWR_ENABLE_STATUS.regOff ∧ s.checks.find? (fun c => c.key =
      PWR_ENABLE_STATUS.regOff) = some k ∧ k.op = .brineExit ∧ s.get PWR_STATUS.state = 1) ∧
    (∃ (s : State) (k : Check), s.Inv ∧ k.key = PWR_ENABLE_STATUS.regOff ∧ s.checks.find? (fun c => c.key =
      PWR_ENABLE_STATUS.regOff) = some k ∧ k.op = .brineEnter ∧ s.get PWR_STATUS.state = 3) ∧
    (∃ (s : State) (k : Check), s.Inv ∧ k.key = PWR_ENABLE_STATUS.regOff ∧ s.checks.find? (fun c => c.key =
      PWR_ENABLE_STATUS.regOff) = some k ∧ s.get PWR_STATUS.state = 1 ∧ s.pwr.held = true) :=
  ⟨⟨checking PWR_ENABLE_STATUS.regOff .brineExit [(PWR_STATUS.state, 1)], ⟨PWR_ENABLE_STATUS.regOff, .brineExit,
      []⟩, inv_of (by decide +kernel), by decide +kernel⟩,
    ⟨checking PWR_ENABLE_STATUS.regOff .brineEnter [(PWR_STATUS.state, 3)], ⟨PWR_ENABLE_STATUS.regOff, .brineEnter,
      []⟩, inv_of (by decide +kernel), by decide +kernel⟩,
    ⟨{ checking PWR_ENABLE_STATUS.regOff .power [(PWR_STATUS.state, 1)] with
      pwr := { State.reset.pwr with held := true } }, ⟨PWR_ENABLE_STATUS.regOff, .power, []⟩, inv_of
      (by decide +kernel), by decide +kernel⟩⟩

theorem witness_BrineStatesFollowTheirEvents :
    (∃ s : State, s.Inv ∧ s.get PWR_STATUS.state = 1) ∧
    (∃ s : State, s.Inv ∧ s.get PWR_STATUS.state = 2 ∧ s.get PWR_WAKE_TIME.wake_en = 1 ∧ 0 ≤ wrapDiff s.wrapNow
      (s.get PWR_WAKE_TIME.time)) ∧
    (∃ s : State, s.Inv ∧ s.get PWR_STATUS.state = 2 ∧ ∃ k : Check, k.op = .brineExit ∧ s.checks.find? (fun c =>
      c.key = PWR_ENABLE_STATUS.regOff) = some k) ∧
    (∃ s : State, s.Inv ∧ s.get PWR_STATUS.state = 3) :=
  ⟨⟨st [(PWR_STATUS.state, 1)], inv_of (by decide +kernel), by decide +kernel⟩,
    ⟨st [(PWR_STATUS.state, 2), (PWR_WAKE_TIME.wake_en, 1)], inv_of (by decide +kernel), by decide +kernel⟩,
    ⟨checking PWR_ENABLE_STATUS.regOff .brineExit [(PWR_STATUS.state, 2)], inv_of (by decide +kernel),
      by decide +kernel, ⟨PWR_ENABLE_STATUS.regOff, .brineExit, []⟩, by decide +kernel⟩,
    ⟨st [(PWR_STATUS.state, 3)], inv_of (by decide +kernel), by decide +kernel⟩⟩

theorem witness_ColdResetRunsThroughItsPhases :
    (∃ (s : State) (c : Instr), (c = .powerOn ∨ c = .railFault)) ∧
    (∃ s : State, s.Inv ∧ s.boot.warm = false ∧ s.get PKG_BOOT_STATUS.phase = 0 ∧ s.boot.test = false) ∧
    (∃ s : State, s.Inv ∧ s.boot.warm = false ∧ s.get PKG_BOOT_STATUS.phase = 1) ∧
    (∃ s : State, s.Inv ∧ s.boot.warm = false ∧ s.get PKG_BOOT_STATUS.phase = 2) ∧
    (∃ s : State, s.Inv ∧ s.boot.warm = false ∧ s.get PKG_BOOT_STATUS.phase = 3) :=
  ⟨⟨State.reset, .railFault, by decide +kernel⟩,
    ⟨st [(PKG_BOOT_STATUS.phase, 0)], inv_of (by decide +kernel), by decide +kernel⟩,
    ⟨st [(PKG_BOOT_STATUS.phase, 1)], inv_of (by decide +kernel), by decide +kernel⟩,
    ⟨st [(PKG_BOOT_STATUS.phase, 2)], inv_of (by decide +kernel), by decide +kernel⟩,
    ⟨st [(PKG_BOOT_STATUS.phase, 3)], inv_of (by decide +kernel), by decide +kernel⟩⟩

theorem witness_WarmResetsKeepFaultRegistersAndEndWithPerst :
    (∃ (s : State) (c : Instr) (cause : Nat), s.Inv ∧ s.get PKG_BOOT_STATUS.phase = 4 ∧ ((c = .perstAssert ∧
      s.pin.perst = true ∧ cause = 1) ∨ (c = .chipResetStart ∧ (∃ at', s.flt.chipAt = some at' ∧ at' ≤ s.clk) ∧
      cause = 2) ∨ (∃ data : Word, c = .pkgWarmReset data ∧ data.toNat % 2 = 1 ∧ data.toNat / 256 % 256 = 0xA5 ∧
      cause = 3))) ∧
    (∃ s : State, s.Inv ∧ s.boot.warm = true ∧ s.pin.perst = true) ∧
    (∃ s : State, s.Inv ∧ s.boot.warm = true ∧ s.pin.perst = false) ∧
    (∃ s : State, s.Inv ∧ s.get PKG_BOOT_STATUS.phase = 4 ∧ s.pin.perst = true ∧ ∃ (speed : Fin 6) (lanes : Fin 64),
      speed ≠ 0 ∧ (lanes = 1 ∨ lanes = 2 ∨ lanes = 4 ∨ lanes = 8)) :=
  ⟨⟨st [(PKG_BOOT_STATUS.phase, 4)], .pkgWarmReset 0xA501, 3, inv_of (by decide +kernel), by decide +kernel, .inr
      (.inr ⟨0xA501, by decide +kernel⟩)⟩,
    ⟨{ State.reset with boot := { warm := true }, pin := { perst := true } }, inv_of (by decide +kernel),
      by decide +kernel⟩,
    ⟨{ State.reset with boot := { warm := true } }, inv_of (by decide +kernel), by decide +kernel⟩,
    ⟨{ st [(PKG_BOOT_STATUS.phase, 4)] with pin := { perst := true } }, inv_of (by decide +kernel),
      by decide +kernel, by decide +kernel, 5, 8, by decide +kernel⟩⟩

theorem witness_SmbusReadsAnswerAndWritesAreChecked :
    (∃ (s : State) (c : Instr) (k : Nat), s.Inv ∧ (c, k) ∈ [(.smbReadPkgId, PKG_ID.regOff), (.smbReadPkgCaps,
      PKG_CAPS.regOff), (.smbReadPkgSerial, PKG_SERIAL.regOff), (.smbReadBootStatus, PKG_BOOT_STATUS.regOff),
      (.smbReadFltStatus, FLT_STATUS.regOff)] ∧ (s.boot.warm = true ∨ 3 ≤ s.get PKG_BOOT_STATUS.phase)) ∧
    (∃ (s : State) (c : Instr) (k : Nat), s.Inv ∧ (c, k) ∈ [(.smbReadPwrStatus, PWR_STATUS.regOff),
      (.smbReadPwrExtLimit, PWR_EXT_LIMIT.regOff), (.smbReadFltHistPtr, FLT_HIST_PTR.regOff), (.smbReadClkStatus,
      CLK_STATUS.regOff), (.smbReadAvsStatus, PKG_AVS_STATUS.regOff), (.smbReadPinStatus, PKG_PIN_STATUS.regOff),
      (.smbReadSmbStat, PKG_SMB_STAT.regOff), (.smbReadSelftest, PKG_SELFTEST.regOff), (.smbReadStraps,
      PKG_STRAPS.regOff)] ∧ s.get PKG_BOOT_STATUS.phase = 4) ∧
    (∃ (s : State) (c : Instr) (k : Nat), s.Inv ∧ (c, k) ∈ [(.smbReadPwrStatus, PWR_STATUS.regOff),
      (.smbReadPwrExtLimit, PWR_EXT_LIMIT.regOff), (.smbReadFltHistPtr, FLT_HIST_PTR.regOff), (.smbReadClkStatus,
      CLK_STATUS.regOff), (.smbReadAvsStatus, PKG_AVS_STATUS.regOff), (.smbReadPinStatus, PKG_PIN_STATUS.regOff),
      (.smbReadSmbStat, PKG_SMB_STAT.regOff), (.smbReadSelftest, PKG_SELFTEST.regOff), (.smbReadStraps,
      PKG_STRAPS.regOff)] ∧ s.get PKG_BOOT_STATUS.phase = 3) ∧
    (∃ s : State, s.Inv ∧ s.get PKG_BOOT_STATUS.phase = 4 ∧ ∃ watts : Fin 65536, 700 ≤ watts.val ∧ watts.val ≤ 1450) ∧
    (∃ s : State, s.Inv ∧ s.get PKG_BOOT_STATUS.phase = 4 ∧ ∃ (watts : Fin 65536) (pec : Bool), (watts.val < 700 ∨
      1450 < watts.val)) ∧
    (∃ s : State, s.Inv ∧ s.get PKG_BOOT_STATUS.phase = 4 ∧ ∃ code : Fin 256, 13 < code.val ∧ code.val ≠ 0x20 ∧
      code.val ≠ 0x21) :=
  ⟨⟨st [(PKG_BOOT_STATUS.phase, 3)], .smbReadFltStatus, FLT_STATUS.regOff, inv_of (by decide +kernel),
      by decide +kernel⟩,
    ⟨st [(PKG_BOOT_STATUS.phase, 4)], .smbReadStraps, PKG_STRAPS.regOff, inv_of (by decide +kernel),
      by decide +kernel⟩,
    ⟨st [(PKG_BOOT_STATUS.phase, 3)], .smbReadStraps, PKG_STRAPS.regOff, inv_of (by decide +kernel),
      by decide +kernel⟩,
    ⟨st [(PKG_BOOT_STATUS.phase, 4)], inv_of (by decide +kernel), by decide +kernel, 1450, by decide +kernel⟩,
    ⟨st [(PKG_BOOT_STATUS.phase, 4)], inv_of (by decide +kernel), by decide +kernel, 699, true, by decide +kernel⟩,
    ⟨st [(PKG_BOOT_STATUS.phase, 4)], inv_of (by decide +kernel), by decide +kernel, 14, by decide +kernel⟩⟩

theorem witness_ClockEventsSetTheirStatus :
    (∃ s : State, s.Inv ∧ s.get CLK_STATUS.root_lock = 1) ∧
    (∃ s : State, s.Inv ∧ s.get CLK_STATUS.ref_present = 1) ∧
    (∃ s : State, s.Inv ∧ ∃ m : Fin 128, s.get (LM_STATUS.band m) ≠ 0 ∧ s.get CLK_STATUS.ref_present = 1) ∧
    (∃ s : State, s.Inv ∧ ∃ m : Fin 128, s.get (LM_STATUS.pll_lock m) = 1 ∧ s.macroPorts m = []) ∧
    (∃ s : State, s.Inv ∧ ∃ (m : Fin 128) (r : PortRec), s.get (LM_STATUS.pll_lock m) = 1 ∧ s.macroPorts m = [r] ∧
      r.first < 1024 ∧ s.get (PORT_STATUS.state r.first) = 4) :=
  ⟨⟨State.reset, inv_of (by decide +kernel), by decide +kernel⟩,
    ⟨State.reset, inv_of (by decide +kernel), by decide +kernel⟩,
    ⟨st [(LM_STATUS.band 5, 1)], inv_of (by decide +kernel), 5, by decide +kernel⟩,
    ⟨st [(LM_STATUS.pll_lock 5, 1)], inv_of (by decide +kernel), 5, by decide +kernel⟩,
    ⟨{ st [(LM_STATUS.pll_lock 5, 1), (PORT_STATUS.state 40, 4)] with
      io := { records := [(7, some ⟨7, 1, 40, 4, 0x10, 7, 9, false⟩)] } }, inv_of (by decide +kernel), 5, ⟨7, 1, 40,
      4, 0x10, 7, 9, false⟩, by decide +kernel⟩⟩

theorem witness_InjectedFaultsAreRaisedAndRecorded :
    (∃ (s : State) (data : Word) (n : Fin 2048) (cls : Fin 4), s.Inv ∧ data.toNat % 2 ^ 11 = n ∧ data.toNat / 2 ^ 11
      % 4 = cls ∧ sourceListed n = true ∧ cls ≠ 0) ∧
    (∃ (s : State) (data : Word) (n : Fin 2048) (cls : Fin 4), s.Inv ∧ data.toNat % 2 ^ 11 = n ∧ data.toNat / 2 ^ 11
      % 4 = cls ∧ sourceListed n = true ∧ cls = 0) :=
  ⟨⟨State.reset, 0x1EA1, 1697, 3, inv_of (by decide +kernel), by decide +kernel⟩,
    ⟨State.reset, 1697, 1697, 0, inv_of (by decide +kernel), by decide +kernel⟩⟩

theorem witness_BlockResetsRunUntilTheyAreDone :
    (∃ s : State, s.Inv ∧ ∃ (data : Word) (u : UnitId), sourceListed (data.toNat % 2 ^ 11) = true ∧ resetUnit
      (data.toNat % 2 ^ 11) = some u ∧ s.resetting u = false) ∧
    (∃ s : State, s.Inv ∧ ∃ (data : Word), (∀ u, resetUnit (data.toNat % 2 ^ 11) = some u → s.resetting u = true)) ∧
    (∃ s : State, s.Inv ∧ ∃ u : UnitId, u ≠ .host ∧ s.resetting u = true) ∧
    (∃ s : State, s.Inv ∧ s.resetting .host = true ∧ s.hif.pfReset = false) ∧
    (∃ s : State, s.Inv ∧ s.resetting .host = true ∧ s.hif.pfReset = true) :=
  ⟨⟨State.reset, inv_of (by decide +kernel), 35, .channel 0, by decide +kernel⟩,
    ⟨State.reset, inv_of (by decide +kernel), 40, fun _ h => by cases h⟩,
    ⟨{ State.reset with flt := { running := [.link 0] } }, inv_of (by decide +kernel), .link 0, by decide +kernel⟩,
    ⟨{ State.reset with flt := { running := [.host] } }, inv_of (by decide +kernel), by decide +kernel⟩,
    ⟨{ State.reset with flt := { running := [.host] }, hif := { pfReset := true } }, inv_of (by decide +kernel),
      by decide +kernel⟩⟩

theorem witness_ChannelErrorsResetTheChannel :
    (∃ (s : State) (c : Fin 32), s.Inv ∧ ∃ (toIo : Bool) (queue kind : Fin 3) (wa wb ra rb : Fin 128) (data check :
      Fin 3), s.channelRuns c = true ∧ (kind = 0 → wa ≠ wb ∨ ra ≠ rb) ∧ (kind = 1 → 2 ≤ data.val + check.val) ∧
      (kind = 2 → chSlots queue ≤ (s.chQueue (chKey c toIo queue)).credits) ∧ (∀ d ∈ s.pk.copies, s.crossingOut c d
      = false ∧ d.wire = none)) ∧
    (∃ (s : State) (c : Fin 32), s.Inv ∧ ∃ (toIo : Bool) (queue : Fin 3) (x ra : Fin 128), ∃ data check : Fin 3,
      data.val + check.val < 2) ∧
    (∃ (s : State) (c : Fin 32), s.Inv ∧ ∃ (toIo : Bool) (queue : Fin 3) (x ra : Fin 128), (s.chQueue (chKey c toIo
      queue)).credits < chSlots queue) ∧
    (∃ (s : State) (c : Fin 32), s.Inv ∧ s.resetting (.channel c) = true ∧ (∀ p ∈ s.pk.pkts, crossing c p = false) ∧
      (∀ d ∈ s.pk.copies, s.crossingOut c d = false)) ∧
    (∃ (s : State) (c : Fin 32), s.Inv ∧ s.get (CH_STAT.stopped c) = 1) :=
  ⟨⟨State.reset, 31, inv_of (by decide +kernel), true, 0, 0, 1, 2, 3, 3, 0, 0, by decide +kernel⟩,
    ⟨State.reset, 31, inv_of (by decide +kernel), true, 0, 1, 1, 1, 0, by decide +kernel⟩,
    ⟨{ State.reset with flt := { channels := [(chKey 31 true 0, ⟨1, 1, 0, 0, 15, []⟩)] } }, 31, inv_of
      (by decide +kernel), true, 0, 0, 0, by decide +kernel⟩,
    ⟨{ State.reset with flt := { running := [.channel 31] } }, 31, inv_of (by decide +kernel), by decide +kernel⟩,
    ⟨st [(CH_STAT.stopped 31, 1)], 31, inv_of (by decide +kernel), by decide +kernel⟩⟩

theorem witness_StoreErrorsAreRepairedOrStop :
    (∃ s : State, s.Inv ∧ ∃ (pipe stage : Fin 32) (word : Fin 1024) (bad : List Nat), (∃ q < 32, q ≠ pipe.val ∧ q ∉
      bad)) ∧
    (∃ s : State, s.Inv ∧ ∃ (pipe stage : Fin 32) (word : Fin 1024) (bad : List Nat), (∀ q < 32, q ≠ pipe.val → q ∈
      bad)) :=
  ⟨⟨State.reset, inv_of (by decide +kernel), 31, 31, 1023, List.range 31 \ [30], ⟨30, by decide +kernel⟩⟩,
    ⟨State.reset, inv_of (by decide +kernel), 31, 31, 1023, List.range 31, by decide +kernel⟩⟩

theorem witness_DoorbellsStartScansThatEntryReadsExtend :
    (∃ (s : State) (r : Fin 1024), s.Inv ∧ s.ringEnabled r = true ∧ s.get (RING_CTL.halted (s.slot r)) = 0 ∧
      s.fnInReset (s.ringFunc r) = false ∧ (s.ring r).aborting = false) ∧
    (∃ (s : State) (r : Fin 1024), s.Inv ∧ (s.ringEnabled r = false ∨ s.get (RING_CTL.halted (s.slot r)) = 1 ∨
      s.fnInReset (s.ringFunc r) = true)) ∧
    (∃ (s : State) (r : Fin 1024) (words : List Word), s.Inv ∧ s.readAllowed r = true ∧ (s.ring r).scanning = true ∧
      (s.ring r).abortScan = false ∧ (words.getD 0 0).toNat / 2 ^ 63 = 1 ∧ s.ringKind r ≠ 4 ∧ (s.ring r).dueEvents =
      []) ∧
    (∃ (s : State) (r : Fin 1024) (words : List Word), s.Inv ∧ s.readAllowed r = true ∧ (s.ring r).scanning = true ∧
      (s.ring r).abortScan = false ∧ (words.getD 0 0).toNat / 2 ^ 63 = 0 ∧ s.ringKind r ≠ 4 ∧ (s.ring r).dueEvents =
      [] ∧ (s.ring r).again = true) :=
  ⟨⟨ringed 3 0 1 {} [], 3, inv_of (by decide +kernel), by decide +kernel⟩,
    ⟨State.reset, 3, inv_of (by decide +kernel), by decide +kernel⟩,
    ⟨let s := ringed 3 0 1 { scanning := true } []; { s with hif := { s.hif with scans := [3] } }, 3, entryOf 0 0 0,
      inv_of (by decide +kernel), by decide +kernel⟩,
    ⟨let s := ringed 3 0 1 { scanning := true, again := true } []; { s with hif := { s.hif with scans := [3] } }, 3,
      [0], inv_of (by decide +kernel), by decide +kernel⟩⟩

theorem witness_RequestsKeepToTheProgrammedLimits :
    (∃ size fuel addr n : Nat, 0 < size ∧ n ≤ fuel ∧ ∃ x, x ∈ requests size fuel addr n) ∧
    (∃ (s : State) (r : Fin 1024) (ok : Bool) (words : List Word), 768 ≤ (s.hif.scans.filter s.reading).idxOf r.val) ∧
    (∃ (s : State) (r : Fin 1024) (ok : Bool) (words : List Word), (s.fn 0).tenBitTag = false ∧ 256 ≤
      (s.hif.scans.filter s.reading).idxOf r.val) :=
  ⟨⟨512, 600, 4090, 600, by decide +kernel, by decide +kernel, (4090, 6), by decide +kernel⟩,
    ⟨let s := ringed 3 0 1 { scanning := true } []; { s with
      hif := { s.hif with scans := List.replicate 768 3, fns := [(0, { tenBitTag := true })] } }, 1023, true, [],
      by decide +kernel⟩,
    ⟨let s := ringed 3 0 1 { scanning := true } []; { s with hif := { s.hif with scans := List.replicate 256 3 } },
      1023, true, [], by decide +kernel⟩⟩

theorem witness_RingsAreInvalidatedAbortedAndDisabled :
    (∃ (s : State) (r : Fin 1024), s.Inv ∧ s.ringEnabled r = true ∧ s.get (RING_ABORT.busy (s.slot r)) = 0 ∧ (s.ring
      r).taken = [] ∧ s.hif.inject = [] ∧ s.img.jobs = []) ∧
    (∃ (s : State) (r : Fin 1024), s.Inv ∧ s.ringEnabled r = true ∧ s.get (RING_CTL.disabling (s.slot r)) = 0 ∧
      s.get (RING_ABORT.busy (s.slot r)) = 0 ∧ s.ringKind r ≠ 3) ∧
    (∃ (s : State) (r : Fin 1024), s.Inv ∧ (s.ring r).aborting = true ∧ (s.ring r).abortScan = false ∧ (s.ring
      r).taken = [] ∧ (s.ring r).complete ≠ 0 ∧ s.get (RING_CTL.disabling (s.slot r)) = 0) ∧
    (∃ (s : State) (r : Fin 1024), s.Inv ∧ (s.ring r).aborting = true ∧ (s.ring r).abortScan = false ∧ (s.ring
      r).taken = [] ∧ s.get (RING_CTL.disabling (s.slot r)) = 1 ∧ s.fnInReset (s.ringFunc r) = false ∧ s.ringKind r
      = 2 ∧ s.mtr.delivery = none) :=
  ⟨⟨ringed 3 0 1 {} [], 3, inv_of (by decide +kernel), by decide +kernel⟩,
    ⟨ringed 3 5 2 {} [], 3, inv_of (by decide +kernel), by decide +kernel⟩,
    ⟨ringed 3 0 5 { aborting := true, complete := 5, take := 5 } [], 3, inv_of (by decide +kernel),
      by decide +kernel⟩,
    ⟨ringed 3 5 2 { aborting := true } [(RING_CTL.disabling (ringSlotKey 5 3), 1)], 3, inv_of (by decide +kernel),
      by decide +kernel⟩⟩

theorem witness_InjectEntriesBecomeFrames :
    (∃ (s : State) (r : Fin 1024) (ok : Bool) (bytes : List Byte) (w : List Word) (rest : List (List Word)), s.Inv ∧
      s.ringKind r = 2 ∧ (s.ring r).copies = w :: rest ∧ entryKind w = 2 ∧ s.mayTake r = true ∧ (s.ring r).taken =
      [] ∧ s.injectReason r w ok = none) ∧
    (∃ (s : State) (r : Fin 1024) (ok : Bool) (bytes : List Byte) (w : List Word) (rest : List (List Word)), s.Inv ∧
      s.ringKind r = 2 ∧ (s.ring r).copies = w :: rest ∧ entryKind w = 2 ∧ s.mayTake r = true ∧ (s.ring r).taken =
      [] ∧ ∃ reason detail, s.injectReason r w ok = some (reason, detail)) :=
  ⟨⟨ringed 3 0 2 { copies := [entryOf (2 * 2 ^ 59) 64 60] } [(STRUCT_STATUS.state, 3)], 3, true, List.replicate 60
      3, entryOf (2 * 2 ^ 59) 64 60, [], inv_of (by decide +kernel), by decide +kernel⟩,
    ⟨ringed 3 0 2 { copies := [entryOf (2 * 2 ^ 59) 64 59] } [], 3, true, [], entryOf (2 * 2 ^ 59) 64 59, [], inv_of
      (by decide +kernel), by decide +kernel, by decide +kernel, by decide +kernel, by decide +kernel,
      by decide +kernel, 0x322, 0, by decide +kernel⟩⟩

theorem witness_PuntedCopiesAreWritten :
    ∃ (s : State) (r : Fin 1024) (h : Nat) (c : Copy) (p : Pkt) (w : List Word) (rest : List (List Word)), s.Inv ∧
    s.get PWR_STATUS.state < 2 ∧ s.puntTurn r = some h ∧ s.head (16384 + h) = some c ∧ s.pkt c.pkt = some p ∧ p.err
    = false ∧ s.holdsBad p = false ∧ s.ringFunc r = 0 ∧ s.canSend 0 = true ∧ (s.ring r).copies = w :: rest ∧
    entryKind w = 3 ∧ s.ringKind r = 3 ∧ s.mayTake r = true ∧ (s.ring r).taken = [] ∧ puntReason w = none ∧ (s.ring
    r).lostCount = 0 ∧ s.get (RING_CFG.punt_meta (s.slot r)) = 0 :=
  ⟨{ ringed 3 0 3 { copies := [entryOf (3 * 2 ^ 59) 64 300] } [(HIF_HQ_MAP.valid 6, 1), (HIF_HQ_MAP.ring 6, 3)] with
    pk := { pkts := [pkt0 1000], copies := [copy0 (16384 + 6)] } }, 3, 6, copy0 (16384 + 6), pkt0 1000, entryOf (3 *
    2 ^ 59) 64 300, [], inv_of (by decide +kernel), by decide +kernel⟩

theorem witness_InterruptsHeldWritesAndPcieErrorsAreServed :
    (∃ s : State, s.Inv ∧ ∃ r : Fin 1024, s.get (RING_CFG.irq_en (s.slot r)) = 1 ∧ 0 < (s.ring r).unsignalled ∧ 0 <
      (s.ring r).complete ∧ (s.fn (s.ringFunc r)).msixEnable = true ∧ (s.fn (s.ringFunc r)).msixMask = false ∧
      s.canSend (s.ringFunc r) = true ∧ s.msixMasked (s.ringFunc r) (s.get (RING_ASSIGN.vector r)) = false) ∧
    (∃ s : State, s.Inv ∧ ∃ (f : Fin 64) (pre post : List Held) (item : Out), s.hif.held = pre ++ ⟨f, item⟩ :: post
      ∧ (∀ x ∈ pre, x.func ≠ f) ∧ (s.fn f).busMaster = true ∧ s.get HIF_STATUS.link_speed ≠ 0) :=
  ⟨⟨ringed 3 0 1 { unsignalled := 1, complete := 1 } [], inv_of (by decide +kernel), 3, by decide +kernel⟩,
    ⟨{ st [(HIF_STATUS.link_speed, 5)] with
      hif := { held := [⟨3, .tdo 3⟩, ⟨0, .tdo 4⟩, ⟨0, .tdo 5⟩], fns := [(0, { busMaster := true })] } }, inv_of
      (by decide +kernel), 0, [⟨3, .tdo 3⟩], [⟨0, .tdo 5⟩], .tdo 4, by decide +kernel⟩⟩

theorem witness_FunctionsAreResetAndConfigured :
    (∃ s : State, s.Inv ∧ ∃ (n : Fin 64) (flr : Bool), n ≠ 0 ∧ (∀ r < 1024, s.ringFunc r = n → s.ringEnabled r =
      false)) ∧
    (∃ s : State, s.Inv ∧ ∃ (n : Fin 64) (flr : Bool) (r : Nat), n ≠ 0 ∧ r < 1024 ∧ s.ringFunc r = n ∧ s.ringEnabled
      r = true ∧ (∀ q < 1024, q ≠ r → s.ringFunc q ≠ n) ∧ s.get (RING_ABORT.busy (s.slot r)) = 0 ∧ s.get
      (RING_CTL.disabling (s.slot r)) = 0 ∧ s.ringKind r ≠ 3) ∧
    (∃ s : State, s.Inv ∧ ∃ cause : Fin 3, (∀ r < 1024, s.ringEnabled r = false)) ∧
    (∃ (s : State) (f : Fin 64), s.hif.msixPend = []) :=
  ⟨⟨State.reset, inv_of (by decide +kernel), 5, true, by decide +kernel⟩,
    ⟨ringed 3 5 2 {} [], inv_of (by decide +kernel), 5, true, 3, by decide +kernel⟩,
    ⟨State.reset, inv_of (by decide +kernel), 2, by decide +kernel⟩,
    ⟨State.reset, 63, by decide +kernel⟩⟩

theorem witness_TimeIsReadWholeAndHostSamplesWait :
    (∃ s : State, s.Inv ∧ ∃ data : Word, s.get TIME_STATUS.servo_en = 1 ∧ s.get TIME_STATUS.source ≠ 2 ∧
      s.time.samples.length < 4) ∧
    (∃ s : State, s.Inv ∧ ∃ data : Word, (s.get TIME_STATUS.servo_en = 0 ∨ s.get TIME_STATUS.source = 2 ∨ 4 ≤
      s.time.samples.length)) :=
  ⟨⟨{ st [(TIME_STATUS.servo_en, 1)] with time := { samples := [1, 2, 3] } }, inv_of (by decide +kernel), 5,
      by decide +kernel⟩,
    ⟨{ st [(TIME_STATUS.servo_en, 1)] with time := { samples := [1, 2, 3, 4] } }, inv_of (by decide +kernel), 5,
      by decide +kernel⟩⟩

theorem witness_ServoSamplesSteerTheClock :
    (∃ (s : State) (x : Int) (rest : List Int), s.Inv ∧ s.get TIME_STATUS.servo_en = 1 ∧ s.get TIME_STATUS.source ≠
      2 ∧ s.time.samples = x :: rest ∧ 0 < s.get TIME_SERVO_THR.step_thr_ns ∧ s.get TIME_SERVO_THR.step_thr_ns * 2 ^
      16 < x.natAbs) ∧
    (∃ (s : State) (x : Int) (rest : List Int), s.Inv ∧ s.get TIME_STATUS.servo_en = 1 ∧ s.get TIME_STATUS.source ≠
      2 ∧ s.time.samples = x :: rest ∧ (s.get TIME_SERVO_THR.step_thr_ns = 0 ∨ x.natAbs ≤ s.get
      TIME_SERVO_THR.step_thr_ns * 2 ^ 16)) :=
  ⟨⟨{ st [(TIME_STATUS.servo_en, 1)] with time := { samples := [-32768001] } }, -32768001, [], inv_of
      (by decide +kernel), by decide +kernel⟩,
    ⟨{ st [(TIME_STATUS.servo_en, 1)] with time := { samples := [-32768000] } }, -32768000, [], inv_of
      (by decide +kernel), by decide +kernel⟩⟩

theorem witness_FabricTimeFollowsItsLinks :
    (∃ s : State, s.Inv ∧ ∃ (p : Fin 1024) (l : TimeLink), s.time.links = [l] ∧ l.port = p ∧ s.get
      TIME_FAB_CFG.source = 0) ∧
    (∃ s : State, s.Inv ∧ ∃ (p : Fin 1024) (bytes : List Byte), s.get TIME_STATUS.fab_en = 1 ∧ s.isRistlink p = true
      ∧ beAt bytes 4 2 ≠ s.get PL_FAB_CFG.domain_id) ∧
    (∃ s : State, s.Inv ∧ ∃ (p : Fin 1024) (bytes : List Byte), s.get TIME_STATUS.fab_en = 1 ∧ s.isRistlink p = true
      ∧ beAt bytes 4 2 = s.get PL_FAB_CFG.domain_id ∧ s.time.links = [] ∧ s.get TIME_FAB_CFG.source = 0 ∧ (beAt
      bytes 2 1).testBit 0 = true ∧ (beAt bytes 2 1).testBit 1 = false ∧ beAt bytes 3 1 < 14) ∧
    (∃ s : State, s.Inv ∧ ∃ p : Fin 1024, s.get TIME_STATUS.fab_en = 1 ∧ s.isRistlink p = true ∧ (s.portState p = 4
      ∨ s.portState p = 6)) :=
  ⟨⟨{ State.reset with time := { links := [⟨7, true, false, 0, 0, 0, 0, 0, 0⟩] } }, inv_of (by decide +kernel), 7,
      ⟨7, true, false, 0, 0, 0, 0, 0, 0⟩, by decide +kernel⟩,
    ⟨ported 2 0x10 4 [(TIME_STATUS.fab_en, 1)], inv_of (by decide +kernel), 7, [3, 0, 1, 13, 0, 1],
      by decide +kernel⟩,
    ⟨ported 2 0x10 4 [(TIME_STATUS.fab_en, 1)], inv_of (by decide +kernel), 7, [3, 0, 1, 13, 0, 0],
      by decide +kernel⟩,
    ⟨ported 2 0x10 6 [(TIME_STATUS.fab_en, 1)], inv_of (by decide +kernel), 7, by decide +kernel⟩⟩

theorem witness_PulseOutputsAndCaptureInputsFollowTheirEdges :
    (∃ (s : State) (k : Fin 4) (p : Pulse), s.Inv ∧ s.pulse k = some p ∧ p.high = false ∧ p.next ≤ s.time.total / 2
      ^ 40) ∧
    (∃ (s : State) (k : Fin 4) (p : Pulse), s.Inv ∧ s.pulse k = some p ∧ p.high = true ∧ p.next ≤ s.time.total / 2 ^
      40 ∧ p.mode = 2 ∧ p.stopping = false ∧ 0 < p.period ∧ p.start ≤ s.time.total / 2 ^ 40) ∧
    (∃ (s : State) (k : Fin 4) (p : Pulse), s.Inv ∧ s.pulse k = some p ∧ p.high = true ∧ p.next ≤ s.time.total / 2 ^
      40 ∧ p.mode = 1) ∧
    (∃ (s : State) (k : Fin 4) (falling : Bool), s.Inv ∧ s.get (TIME_CAP_CTL.en k) = 1 ∧ s.get (TIME_CAP_CTL.falling
      k) = (if falling then 1 else 0) ∧ let t16 := s.time.total / 2 ^ 24 / 2 ^ 14 * 2 ^ 14; (∀ last, smGet (fun _ =>
      none) s.time.capLast k = some last → last + 6553600 ≤ t16)) ∧
    (∃ (s : State) (k : Fin 4) (falling : Bool), s.Inv ∧ s.get (TIME_CAP_CTL.en k) = 1 ∧ s.get (TIME_CAP_CTL.falling
      k) = (if falling then 1 else 0) ∧ let t16 := s.time.total / 2 ^ 24 / 2 ^ 14 * 2 ^ 14; ∃ last, smGet (fun _ =>
      none) s.time.capLast k = some last ∧ last ≤ t16 ∧ t16 < last + 6553600) :=
  ⟨⟨{ State.reset with time := { pulses := [(3, some ⟨1, false, 5, 0, 0, 0, false, false, false⟩)] } }, 3, ⟨1,
      false, 5, 0, 0, 0, false, false, false⟩, inv_of (by decide +kernel), by decide +kernel⟩,
    ⟨{ State.reset with
      time := { total := 2 ^ 43, pulses := [(3, some ⟨2, false, 5, 0, 9, 5, true, false, true⟩)] } }, 3, ⟨2, false,
      5, 0, 9, 5, true, false, true⟩, inv_of (by decide +kernel), by decide +kernel⟩,
    ⟨{ State.reset with
      time := { total := 2 ^ 43, pulses := [(3, some ⟨1, false, 5, 0, 0, 5, true, false, true⟩)] } }, 3, ⟨1, false,
      5, 0, 0, 5, true, false, true⟩, inv_of (by decide +kernel), by decide +kernel⟩,
    ⟨st [(TIME_CAP_CTL.en 3, 1)], 3, false, inv_of (by decide +kernel), by decide +kernel, by decide +kernel, fun _
      h => by cases h⟩,
    ⟨{ st [(TIME_CAP_CTL.en 3, 1)] with time := { capLast := [(3, some 0)] } }, 3, false, inv_of
      (by decide +kernel), by decide +kernel, by decide +kernel, 0, by decide +kernel⟩⟩

theorem witness_TheCipherLockHasOneOwner :
    (∃ s : State, s.Inv ∧ s.get CIPHER_LOCK.owner ≠ 1) ∧
    (∃ s : State, s.Inv ∧ s.get CIPHER_LOCK.owner = 0 ∧ s.cip.waitLoader = true) ∧
    (∃ s : State, s.Inv ∧ s.get CIPHER_LOCK.owner = 0 ∧ s.cip.waitLoader = false ∧ s.cip.waitHarvester = true) ∧
    (∃ s : State, s.Inv ∧ s.get CIPHER_LOCK.owner = 0 ∧ s.cip.waitLoader = false ∧ s.cip.waitHarvester = false ∧
      s.cip.waitHost = true) ∧
    (∃ s : State, s.Inv ∧ s.get CIPHER_LOCK.owner ≠ 0) ∧
    (∃ s : State, s.Inv ∧ s.get CIPHER_LOCK.owner = 1 ∧ (s.cip.waitLoader = true ∨ s.cip.waitHarvester = true)) :=
  ⟨⟨State.reset, inv_of (by decide +kernel), by decide +kernel⟩,
    ⟨{ State.reset with cip := { State.reset.cip with waitLoader := true } }, inv_of (by decide +kernel),
      by decide +kernel⟩,
    ⟨{ State.reset with cip := { State.reset.cip with waitHarvester := true } }, inv_of (by decide +kernel),
      by decide +kernel⟩,
    ⟨{ State.reset with cip := { State.reset.cip with waitHost := true } }, inv_of (by decide +kernel),
      by decide +kernel⟩,
    ⟨st [(CIPHER_LOCK.owner, 3)], inv_of (by decide +kernel), by decide +kernel⟩,
    ⟨{ st [(CIPHER_LOCK.owner, 1)] with cip := { State.reset.cip with waitHarvester := true } }, inv_of
      (by decide +kernel), by decide +kernel⟩⟩

theorem witness_CipherSessionsAdvanceByTheirEvents :
    (∃ s : State, s.Inv ∧ s.get CIPHER_STATUS.state = 1) ∧
    (∃ s : State, s.Inv ∧ ∃ bytes : List Byte, s.cip.block = some ⟨true, bytes⟩) ∧
    (∃ s : State, s.Inv ∧ ∃ bytes : List Byte, s.cip.block = some ⟨false, bytes⟩) ∧
    (∃ s : State, s.Inv ∧ s.cip.finishing = true) :=
  ⟨⟨st [(CIPHER_STATUS.state, 1)], inv_of (by decide +kernel), by decide +kernel⟩,
    ⟨{ State.reset with cip := { State.reset.cip with block := some ⟨true, [1]⟩ } }, inv_of (by decide +kernel),
      [1], by decide +kernel⟩,
    ⟨{ State.reset with cip := { State.reset.cip with block := some ⟨false, [1]⟩ } }, inv_of (by decide +kernel),
      [1], by decide +kernel⟩,
    ⟨{ State.reset with cip := { State.reset.cip with finishing := true } }, inv_of (by decide +kernel),
      by decide +kernel⟩⟩

theorem witness_KeySlotsAreProvisionedAndGuarded :
    (∃ s : State, s.Inv ∧ ∃ k : Check, s.cip.provisioning = true ∧ s.checks = [k] ∧ k.op = .keyProvision ∧ k.key =
      CIPHER_ENABLE_STATUS.regOff) ∧
    (∃ s : State, s.Inv ∧ s.get CIPHER_LOCK.owner = 1 ∧ 1 ≤ s.get CIPHER_STATUS.state ∧ s.get CIPHER_STATUS.state ≤
      4) :=
  ⟨⟨{ checking CIPHER_ENABLE_STATUS.regOff .keyProvision [] with
      cip := { State.reset.cip with provisioning := true } }, inv_of (by decide +kernel),
      ⟨CIPHER_ENABLE_STATUS.regOff, .keyProvision, []⟩, by decide +kernel⟩,
    ⟨st [(CIPHER_LOCK.owner, 1), (CIPHER_STATUS.state, 4)], inv_of (by decide +kernel), by decide +kernel⟩⟩

theorem witness_ImagesLoadVerifyAndActivate :
    (∃ s : State, s.Inv ∧ ∃ header : List Byte, s.get PKG_BOOT_STATUS.selftest_fail = 0 ∧ s.get (esBusy
      STRUCT_ENABLE_STATUS.regOff) = 0 ∧ s.get STRUCT_STATUS.state ≠ 3 ∧ s.get STRUCT_STATUS.state ≠ 4 ∧ 272 ≤ s.get
      STRUCT_IMG_LEN.len ∧ s.get STRUCT_IMG_LEN.len ≤ 16777216 ∧ s.img.patchPhase = 0 ∧ headerReject (slice header 0
      256) (s.get STRUCT_IMG_LEN.len) = none ∧ leAt (slice header 0 256) 0x0B 1 = 2 ∧ (s.keySlot 2).valid = true) ∧
    (∃ s : State, s.Inv ∧ ∃ (ok : Bool) (header : List Byte), s.get PKG_BOOT_STATUS.selftest_fail = 0 ∧ s.get
      (esBusy STRUCT_ENABLE_STATUS.regOff) = 0 ∧ (s.get STRUCT_STATUS.state = 3 ∨ s.get STRUCT_STATUS.state = 4)) ∧
    (∃ s : State, s.Inv ∧ s.img.phase = 1 ∧ s.get CIPHER_LOCK.owner ≠ 2) ∧
    (∃ s : State, s.Inv ∧ ∃ body tag plain : List Byte, s.img.phase = 1 ∧ s.get CIPHER_LOCK.owner = 2 ∧ gcmOpen
      (slotBytes (s.keySlot 2)) (slice s.img.header 0x20 12) s.img.header (slice body 0 (leAt s.img.header 0x0C 4))
      (slice tag 0 16) = some plain) ∧
    (∃ s : State, s.Inv ∧ ∃ body tag : List Byte, s.img.phase = 1 ∧ s.get CIPHER_LOCK.owner = 2 ∧ gcmOpen (slotBytes
      (s.keySlot 2)) (slice s.img.header 0x20 12) s.img.header (slice body 0 (leAt s.img.header 0x0C 4)) (slice tag
      0 16) = none) ∧
    (∃ s : State, s.Inv ∧ ∃ i : Image, s.img.phase = 3 ∧ readImage s.img.header s.img.plain = .ok i ∧ imageReject i
      s.patchWords = none) ∧
    (∃ s : State, s.Inv ∧ ∃ (i : Image) (r d : Nat), s.img.phase = 3 ∧ readImage s.img.header s.img.plain = .ok i ∧
      imageReject i s.patchWords = some (r, d)) :=
  ⟨⟨keyed [(STRUCT_IMG_LEN.len, 272)], inv_of (by decide +kernel), emptyImage, by decide +kernel⟩,
    ⟨st [(STRUCT_STATUS.state, 4)], inv_of (by decide +kernel), true, [], by decide +kernel⟩,
    ⟨loading 1 emptyImage [] [], inv_of (by decide +kernel), by decide +kernel⟩,
    ⟨loading 1 emptyImage [] [(CIPHER_LOCK.owner, 2)], inv_of (by decide +kernel), [], tagOf emptyImage [], [],
      by decide +kernel⟩,
    ⟨loading 1 emptyImage [] [(CIPHER_LOCK.owner, 2)], inv_of (by decide +kernel), [], [], by decide +kernel⟩,
    ⟨loading 3 smallImage smallBody [], inv_of (by decide +kernel), okImage (readImage smallImage smallBody),
      by decide +kernel, ok_of (by decide +kernel), by decide +kernel⟩,
    ⟨loading 3 emptyImage [] [], inv_of (by decide +kernel), noImage, 0x128, 0, by decide +kernel, ok_of
      (by decide +kernel), by decide +kernel⟩⟩

theorem witness_CommitsMakeVersionsUntilTheImageDrains :
    (∃ s : State, s.Inv ∧ s.get STRUCT_STATUS.state = 3) ∧
    (∃ s : State, s.Inv ∧ s.get STRUCT_STATUS.state = 4) ∧
    (∃ s : State, s.Inv ∧ ∃ g : Fin 64, s.get STRUCT_COMMIT.busy = 0 ∧ s.get STRUCT_STATUS.state = 3) ∧
    (∃ s : State, s.Inv ∧ ∃ g : Fin 64, s.get STRUCT_COMMIT.busy = 1) ∧
    (∃ s : State, s.Inv ∧ ∃ (g : Fin 64) (c : CommitJob), s.img.jobs.find? (fun c => c.group = g.val) = some c ∧
      c.covers = [] ∧ c.ring = 1024 ∧ s.engineRuns = true ∧ s.get STRUCT_STATUS.state = 3 ∧ s.stagedUpTo g c.upTo =
      []) ∧
    (∃ s : State, s.Inv ∧ ∃ (g : Fin 64) (c : CommitJob), s.img.jobs.find? (fun c => c.group = g.val) = some c ∧
      c.covers = [] ∧ c.ring = 1024 ∧ s.engineRuns = true ∧ s.get STRUCT_STATUS.state = 3 ∧ s.stagedUpTo g c.upTo ≠
      [] ∧ s.img.live.length < 8 ∧ nth s.img.tags ((s.version + 1) % 2 ^ 32 % 16) = 0) ∧
    (∃ s : State, s.Inv ∧ ∃ (g : Fin 64) (c : CommitJob), s.img.jobs.find? (fun c => c.group = g.val) = some c ∧
      c.covers = [] ∧ c.ring = 1024 ∧ s.engineRuns = true ∧ s.get STRUCT_STATUS.state = 3 ∧ s.stagedUpTo g c.upTo ≠
      [] ∧ (8 ≤ s.img.live.length ∨ nth s.img.tags ((s.version + 1) % 2 ^ 32 % 16) ≠ 0)) ∧
    (∃ s : State, s.Inv ∧ ∃ (g : Fin 64) (c : CommitJob), s.img.jobs.find? (fun c => c.group = g.val) = some c ∧
      c.waiting = true ∧ c.ring = 1024 ∧ 8 ≤ s.img.live.length ∧ s.get STRUCT_VER_CFG.commit_wait_ms ≠ 0) :=
  ⟨⟨imaged [], inv_of (by decide +kernel), by decide +kernel⟩,
    ⟨st [(STRUCT_STATUS.state, 4)], inv_of (by decide +kernel), by decide +kernel⟩,
    ⟨imaged [], inv_of (by decide +kernel), 63, by decide +kernel⟩,
    ⟨imaged [(STRUCT_COMMIT.busy, 1)], inv_of (by decide +kernel), 63, by decide +kernel⟩,
    ⟨committing (imaged []) 2 ⟨2, 1024, 3, [], 9, false⟩, inv_of (by decide +kernel), 2, ⟨2, 1024, 3, [], 9, false⟩,
      by decide +kernel⟩,
    ⟨committing (filled 3 { entry0 with stagedAdd := true, group := 2 } []) 2 ⟨2, 1024, 3, [], 9, false⟩, inv_of
      (by decide +kernel), 2, ⟨2, 1024, 3, [], 9, false⟩, by decide +kernel⟩,
    ⟨let s := committing (filled 3 { entry0 with stagedAdd := true, group := 2 } []) 2 ⟨2, 1024, 3, [], 9, false⟩;
      { s with img := { s.img with live := (List.range 8).map (fun i => ⟨i + 3, 1⟩) } }, inv_of (by decide +kernel),
      2, ⟨2, 1024, 3, [], 9, false⟩, by decide +kernel⟩,
    ⟨let s := committing (imaged []) 2 ⟨2, 1024, 3, [], 9, true⟩; { s with
      img := { s.img with live := (List.range 8).map (fun i => ⟨i + 3, 1⟩) } }, inv_of (by decide +kernel), 2, ⟨2,
      1024, 3, [], 9, true⟩, by decide +kernel⟩⟩

theorem witness_PatchesLoadOnceBeforeAnyImage :
    (∃ s : State, s.Inv ∧ ∃ header : List Byte, s.get PKG_BOOT_STATUS.selftest_fail = 0 ∧ s.get (esBusy
      PATCH_ENABLE_STATUS.regOff) = 0 ∧ s.img.patched = false ∧ s.get STRUCT_STATUS.state = 0 ∧ 80 ≤ s.get
      PATCH_LEN.len ∧ s.get PATCH_LEN.len ≤ 1048576 ∧ patchHeaderBad (slice header 0 64) (s.get PATCH_LEN.len) =
      false ∧ leAt (slice header 0 64) 0x0B 1 = 1 ∧ (s.keySlot 1).valid = true) ∧
    (∃ s : State, s.Inv ∧ ∃ (ok : Bool) (header : List Byte), s.get PKG_BOOT_STATUS.selftest_fail = 0 ∧ s.get
      (esBusy PATCH_ENABLE_STATUS.regOff) = 0 ∧ s.img.patched = true) ∧
    (∃ s : State, s.Inv ∧ s.img.patchPhase = 1 ∧ s.get CIPHER_LOCK.owner ≠ 2) ∧
    (∃ s : State, s.Inv ∧ ∃ (body tag plain : List Byte) (rs : List PatchRec), s.img.patchPhase = 1 ∧ s.get
      CIPHER_LOCK.owner = 2 ∧ gcmOpen (slotBytes (s.keySlot 1)) (slice s.img.patchHeader 0x20 12) s.img.patchHeader
      (slice body 0 (leAt s.img.patchHeader 0x0C 4)) (slice tag 0 16) = some plain ∧ Config.patchMinLevel % 2 ^ 32 ≤
      leAt s.img.patchHeader 0x10 4 ∧ patchRecords (leAt s.img.patchHeader 0x14 2) plain = .ok rs) ∧
    (∃ s : State, s.Inv ∧ ∃ body tag : List Byte, s.img.patchPhase = 1 ∧ s.get CIPHER_LOCK.owner = 2 ∧ gcmOpen
      (slotBytes (s.keySlot 1)) (slice s.img.patchHeader 0x20 12) s.img.patchHeader (slice body 0 (leAt
      s.img.patchHeader 0x0C 4)) (slice tag 0 16) = none) ∧
    (∃ s : State, s.Inv ∧ ∃ rs : List PatchRec, s.img.patchPhase = 2 ∧ patchRecords (leAt s.img.patchHeader 0x14 2)
      s.img.patchPlain = .ok rs) :=
  ⟨⟨keyed [(PATCH_LEN.len, 160)], inv_of (by decide +kernel), patchHeader0, by decide +kernel⟩,
    ⟨{ State.reset with img := { State.reset.img with patched := true } }, inv_of (by decide +kernel), true, [],
      by decide +kernel⟩,
    ⟨patching 1 [] [], inv_of (by decide +kernel), by decide +kernel⟩,
    ⟨patching 1 [] [(CIPHER_LOCK.owner, 2)], inv_of (by decide +kernel), cipherOf patchHeader0 patchBody, tagOf
      patchHeader0 (cipherOf patchHeader0 patchBody), patchBody, patchRecs, by decide +kernel, by decide +kernel,
      by decide +kernel, level_le _, ok_of (by decide +kernel)⟩,
    ⟨patching 1 [] [(CIPHER_LOCK.owner, 2)], inv_of (by decide +kernel), [], [], by decide +kernel⟩,
    ⟨patching 2 patchBody [], inv_of (by decide +kernel), patchRecs, by decide +kernel, ok_of (by decide +kernel)⟩⟩

theorem witness_TableCommandsTakeEffectInTheirTurn :
    (∃ s : State, s.Inv ∧ ∃ (src : Fin 1025) (ok : Bool) (buf : List Byte), s.hostTurn src = false ∧ ∃ x, x ∈
      tableRows src ok buf) ∧
    (∃ s : State, s.Inv ∧ ∃ (a : List Nat) (ok : Bool), s.tbl.goArgs = some a ∧ s.hostTurn 1024 = true ∧ bitsOf (nth
      a 0) 0 6 = 0) ∧
    (∃ s : State, s.Inv ∧ ∃ (a : List Nat) (ok : Bool) (r d : Nat), s.tbl.goArgs = some a ∧ s.hostTurn 1024 = true ∧
      s.tbl.discards = [] ∧ s.acceptReason (s.cmdJob a) (nth a 0) (nth a 1) true = some (r, d) ∧ ∃ x, x ∈ tableRows
      1024 ok [] ∧ 1 ≤ x.1 ∧ bitsOf (nth a 0) 0 6 = x.1) ∧
    (∃ s : State, s.Inv ∧ ∃ (a : List Nat) (d : TblDecl) (u pos : Nat), s.TakesNow a ∧ s.acceptReason (s.cmdJob a)
      (nth a 0) (nth a 1) true = none ∧ s.decl (s.cmdJob a).table = some d ∧ s.identity (s.cmdJob a) = [] ∧
      ((s.cmdJob a).imm = true ∨ (s.stagedOf 0).length < 65536) ∧ s.unitsOf d (s.cmdJob a).domain = [u] ∧ s.full d u
      = false ∧ s.chainsKept d (s.cmdJob a) (fun l => l ++ [(lpmLastWords d, { newEntry (s.cmdJob a) with
      hidden := false })]) = true ∧ s.plan d u (s.cmdJob a) = .write pos ∧ pos < 2 ^ 20 ∧ (∀ x ∈ s.tableEntries
      d.id, x.2.seq ≠ s.tbl.seq) ∧ ∃ x, x ∈ tableRows 1024 true [] ∧ (x.1 = 1 ∨ x.1 = 3) ∧ bitsOf (nth a 0) 0 6 =
      x.1) ∧
    (∃ s : State, s.Inv ∧ ∃ (a : List Nat) (d : TblDecl) (e : Entry), s.TakesNow a ∧ s.acceptReason (s.cmdJob a)
      (nth a 0) (nth a 1) true = none ∧ s.decl (s.cmdJob a).table = some d ∧ s.unitsOf d (s.cmdJob a).domain ≠ [] ∧
      (s.cmdJob a).imm = true ∧ (∀ x ∈ s.identity (s.cmdJob a), x.stagedAdd = false ∧ x.stagedDel = false) ∧
      s.present (s.cmdJob a) = some e ∧ (d.kind ≠ 3 ∨ (s.cmdJob a).prio = e.prio) ∧ ∃ x, x ∈ tableRows 1024 true []
      ∧ (x.1 = 2 ∨ x.1 = 3) ∧ bitsOf (nth a 0) 0 6 = x.1) ∧
    (∃ s : State, s.Inv ∧ ∃ (a : List Nat) (d : TblDecl) (e : Entry), s.TakesNow a ∧ s.acceptReason (s.cmdJob a)
      (nth a 0) (nth a 1) true = none ∧ s.decl (s.cmdJob a).table = some d ∧ s.unitsOf d (s.cmdJob a).domain ≠ [] ∧
      (s.cmdJob a).imm = true ∧ (∀ x ∈ s.identity (s.cmdJob a), x.stagedAdd = false ∧ x.stagedDel = false) ∧
      s.present (s.cmdJob a) = some e ∧ s.chainsKept d (s.cmdJob a) (fun l => l.filter (fun x => x.2.seq ≠ e.seq)) =
      true ∧ bitsOf (nth a 0) 0 6 = 4) ∧
    (∃ s : State, s.Inv ∧ ∃ (a : List Nat) (d : TblDecl) (e : Entry), s.TakesNow a ∧ s.acceptReason (s.cmdJob a)
      (nth a 0) (nth a 1) true = none ∧ s.decl (s.cmdJob a).table = some d ∧ s.unitsOf d (s.cmdJob a).domain ≠ [] ∧
      (s.cmdJob a).imm = true ∧ (∀ x ∈ s.identity (s.cmdJob a), x.stagedAdd = false ∧ x.stagedDel = false) ∧
      s.present (s.cmdJob a) = some e ∧ bitsOf (nth a 0) 0 6 = 5) ∧
    (∃ s : State, s.Inv ∧ ∃ (a : List Nat) (d : TblDecl), s.TakesNow a ∧ s.acceptReason (s.cmdJob a) (nth a 0) (nth
      a 1) true = none ∧ s.decl (s.cmdJob a).table = some d ∧ ∃ e : Entry, s.nextEntry d (s.cmdJob a) = some e ∧
      bitsOf (nth a 0) 0 6 = 6) ∧
    (∃ s : State, s.Inv ∧ ∃ (a : List Nat) (d : TblDecl), s.TakesNow a ∧ s.acceptReason (s.cmdJob a) (nth a 0) (nth
      a 1) true = none ∧ s.decl (s.cmdJob a).table = some d ∧ s.nextEntry d (s.cmdJob a) = none ∧ bitsOf (nth a 0) 0
      6 = 6) ∧
    (∃ s : State, s.Inv ∧ ∃ (a : List Nat) (d : TblDecl), s.TakesNow a ∧ s.acceptReason (s.cmdJob a) (nth a 0) (nth
      a 1) true = none ∧ s.decl (s.cmdJob a).table = some d ∧ (s.flushed d (s.cmdJob a)).length ≤ 65536 ∧ bitsOf
      (nth a 0) 0 6 = 7) ∧
    (∃ s : State, s.Inv ∧ ∃ (src : Fin 1025) (w : List Word) (rest : List (List Word)), src.val ≠ 1024 ∧ s.hostTurn
      src = true ∧ (s.ring src).copies = w :: rest ∧ entryKind w = 1 ∧ bitsOf (wordAt w 0) 0 6 = 8 ∧ s.get
      STRUCT_STATUS.state = 3) :=
  ⟨⟨State.reset, inv_of (by decide +kernel), 1024, true, [], by decide +kernel, (0, .tblNop 1024 true []),
      by decide +kernel⟩,
    ⟨going (imaged []) (cmdArgs 0 0 0 0 0 0 0 0 0 0), inv_of (by decide +kernel), cmdArgs 0 0 0 0 0 0 0 0 0 0, true,
      by decide +kernel⟩,
    ⟨going (imaged []) (cmdArgs 1 1 200 0 0 0 0 0 0 0), inv_of (by decide +kernel), cmdArgs 1 1 200 0 0 0 0 0 0 0,
      true, 0xA02, 0, by decide +kernel, by decide +kernel, by decide +kernel, by decide +kernel, (1, .tblAdd 1024
      true []), by decide +kernel⟩,
    ⟨going (imaged []) (cmdArgs 1 1 3 0 11 0 2 0 0 77), inv_of (by decide +kernel), cmdArgs 1 1 3 0 11 0 2 0 0 77,
      exact0, 32, 212, takes_of (by decide +kernel), by decide +kernel, by decide +kernel, by decide +kernel,
      by decide +kernel, by decide +kernel, by decide +kernel, by decide +kernel, by decide +kernel,
      by decide +kernel, by decide +kernel, (1, .tblAdd 1024 true []), by decide +kernel⟩,
    ⟨going (filled 3 entry0 []) (cmdArgs 3 1 3 0 11 0 6 0 0 19), inv_of (by decide +kernel), cmdArgs 3 1 3 0 11 0 6
      0 0 19, exact0, entry0, takes_of (by decide +kernel), by decide +kernel, by decide +kernel, by decide +kernel,
      by decide +kernel, by decide +kernel, by decide +kernel, by decide +kernel, (3, .tblUpsert 1024 true []),
      by decide +kernel⟩,
    ⟨going (filled 3 entry0 []) (cmdArgs 4 1 3 0 11 0 0 0 0 0), inv_of (by decide +kernel), cmdArgs 4 1 3 0 11 0 0 0
      0 0, exact0, entry0, takes_of (by decide +kernel), by decide +kernel⟩,
    ⟨going (filled 3 entry0 []) (cmdArgs 5 1 3 0 11 0 0 0 0 0), inv_of (by decide +kernel), cmdArgs 5 1 3 0 11 0 0 0
      0 0, exact0, entry0, takes_of (by decide +kernel), by decide +kernel⟩,
    ⟨going (filled 3 entry0 []) (cmdArgs 6 1 3 0 0 0 0 0 0 0), inv_of (by decide +kernel), cmdArgs 6 1 3 0 0 0 0 0 0
      0, exact0, takes_of (by decide +kernel), by decide +kernel, by decide +kernel, entry0, by decide +kernel⟩,
    ⟨going (imaged []) (cmdArgs 6 1 3 0 0 0 0 0 0 0), inv_of (by decide +kernel), cmdArgs 6 1 3 0 0 0 0 0 0 0,
      exact0, takes_of (by decide +kernel), by decide +kernel⟩,
    ⟨going (filled 3 entry0 [(TBL_LRN_CFG.learn_en 3, 1)]) (cmdArgs 7 1 3 0 0 0 0 0 0 0), inv_of
      (by decide +kernel), cmdArgs 7 1 3 0 0 0 0 0 0 0, exact0, takes_of (by decide +kernel), by decide +kernel⟩,
    ⟨ringed 3 5 1 { copies := [entryOf (8 + 2 ^ 59) 0 0] } [(STRUCT_STATUS.state, 3)], inv_of (by decide +kernel),
      3, entryOf (8 + 2 ^ 59) 0 0, [], by decide +kernel⟩⟩

theorem witness_TablesAreRelocatedScrubbedAndRepaired :
    (∃ s : State, s.Inv ∧ ∃ (j : TblJob) (ok : Bool), s.tbl.jobs = [j] ∧ j.done = true ∧ j.src = 1024 ∧ j.readback =
      none) ∧
    (∃ s : State, s.Inv ∧ ∃ (j : TblJob) (b : List Byte) (ok : Bool), s.tbl.jobs = [j] ∧ j.done = true ∧ j.src =
      1024 ∧ j.readback = some b) ∧
    (∃ s : State, s.Inv ∧ ∃ (m : Move) (tb : Fin 256) (u : Fin 33), s.tbl.jobs = [] ∧ s.pwrState < 2 ∧ m.table = tb
      ∧ m.unit = u ∧ isNodePlace m.src = false ∧ s.tbl.moves.find? (fun x => x.table = tb.val && x.unit = u.val &&
      x.src = m.src) = some m) ∧
    (∃ s : State, s.Inv ∧ ∃ g : Fin 16, s.tbl.jobs = [] ∧ nth s.img.tags g = 2 ∧ s.pwrState < 2) ∧
    (∃ s : State, s.Inv ∧ ∃ (tb : Fin 256) (u : Fin 33) (src : Nat) (d : TblDecl) (e : Entry), s.decl tb = some d ∧
      d.kind = 1 ∧ s.get TBL_PL_CFG.rebalance_en = 1 ∧ s.get TBL_PL_CFG.bg_move_rate ≠ 0 ∧ s.pwrState < 2 ∧ s.moving
      u tb src = false ∧ s.placing tb u = false ∧ (d.scope = 1 ↔ u.val = 32) ∧ src < 2 ^ 20 ∧ (s.unitEntries u
      tb).find? (fun x => x.1 = src) = some (src, e) ∧ (∃ w < 4, w ≠ wayOf d src ∧ wayCount d (s.unitEntries u tb) w
      + 1 < wayCount d (s.unitEntries u tb) (wayOf d src) ∧ freeOf (s.unitEntries u tb) (bucketPositions d w
      (emBucket d e.domain e.key w)) ≠ [])) ∧
    (∃ s : State, s.Inv ∧ ∃ (p : Fin 32) (tb : Fin 256) (row : Nat) (e : Entry), s.entryAt p tb row = some e ∧
      s.pwrState < 2 ∧ entryKey p tb row ∉ s.tbl.bad) ∧
    (∃ s : State, s.Inv ∧ ∃ (p : Fin 32) (tb : Fin 256) (whr : Fin 4) (stage : Fin 32) (pos : Nat) (others : List
      Nat) (d : TblDecl), s.decl tb = some d ∧ d.scope = 1 ∧ s.pwrState < 2 ∧ (∃ q < 32, q ≠ p.val ∧ q ∉ others) ∧
      pos < 16384) ∧
    (∃ s : State, s.Inv ∧ ∃ (p : Fin 32) (tb : Fin 256) (stage : Fin 32) (pos : Nat) (others : List Nat) (d :
      TblDecl), s.decl tb = some d ∧ d.scope ≠ 1 ∧ d.kind = 3 ∧ s.pwrState < 2 ∧ pos < 16384 ∧ s.tbl.jobs = [] ∧
      s.entryAt p tb ((stageRows d stage).1 + pos) = none) ∧
    (∃ s : State, s.Inv ∧ ∃ (p : Fin 32) (tb : Fin 256) (stage : Fin 32) (pos : Nat) (others : List Nat) (d :
      TblDecl), s.decl tb = some d ∧ d.scope ≠ 1 ∧ d.kind = 3 ∧ s.pwrState < 2 ∧ pos < 16384 ∧ s.tbl.jobs = [] ∧
      s.entryAt p tb ((stageRows d stage).1 + pos) ≠ none) :=
  ⟨⟨{ State.reset with tbl := { jobs := [job0 none] } }, inv_of (by decide +kernel), job0 none, true,
      by decide +kernel⟩,
    ⟨{ State.reset with tbl := { jobs := [job0 (some [])] } }, inv_of (by decide +kernel), job0 (some []), [], true,
      by decide +kernel⟩,
    ⟨{ State.reset with tbl := { moves := [⟨0, 3, 32, 212, 213⟩] } }, inv_of (by decide +kernel), ⟨0, 3, 32, 212,
      213⟩, 3, 32, by decide +kernel⟩,
    ⟨imaged [], inv_of (by decide +kernel), 4, by decide +kernel⟩,
    ⟨let s := filled 3 entry0 [(TBL_PL_CFG.rebalance_en, 1), (TBL_PL_CFG.bg_move_rate, 5)]; s.putUnit 32 3 213 (some
      { entry0 with key := 1234, seq := 2 }), inv_of (by decide +kernel), 3, 32, 212, exact0, entry0,
      by decide +kernel⟩,
    ⟨filled 3 entry0 [], inv_of (by decide +kernel), 31, 3, 212, entry0, by decide +kernel⟩,
    ⟨filled 3 entry0 [], inv_of (by decide +kernel), 31, 3, 3, 0, 16383, [1, 2], exact0, by decide +kernel⟩,
    ⟨imaged [], inv_of (by decide +kernel), 1, 4, 0, 16383, [], table0 4 3 2 32 100 0 16, by decide +kernel⟩,
    ⟨filled 4 entry0 [], inv_of (by decide +kernel), 1, 4, 0, 212, [], table0 4 3 2 32 100 0 16, by decide +kernel⟩⟩

theorem witness_EntriesAreLearnedMovedAndAged :
    (∃ s : State, s.Inv ∧ ∃ (p : Fin 32) (r : LearnReq) (rest : List LearnReq) (d : TblDecl) (u pos : Nat),
      s.learnQueue p = r :: rest ∧ rest ≠ [] ∧ r.move = false ∧ r.port < 1024 ∧ s.decl r.table = some d ∧
      s.learnTurn = true ∧ s.tbl.jobs = [] ∧ s.tbl.moves = [] ∧ s.tbl.discards = [] ∧ (∀ x ∈ s.tableEntries r.table,
      x.2.seq ≠ s.tbl.seq ∧ sameIdentity (s.learnJob r) x.2 = false) ∧ s.get (LRN_PORT.learned r.port) < s.get
      (LRN_PORT.limit r.port) ∧ s.unitsOf d r.domain = [u] ∧ s.full d u = false ∧ s.plan d u (s.learnJob r) = .write
      pos ∧ pos < 2 ^ 20 ∧ r.table < 256 ∧ s.get (TBL_LRN_CFG.notify r.table) = 0) ∧
    (∃ s : State, s.Inv ∧ ∃ (p : Fin 32) (r : LearnReq) (rest : List LearnReq) (x : Nat × Entry), s.learnQueue p = r
      :: rest ∧ rest ≠ [] ∧ r.move = true ∧ r.port < 1024 ∧ r.table < 256 ∧ s.learnTurn = true ∧ s.identityBusy
      r.table r.domain r.key = false ∧ (s.tableEntries r.table).find? (fun y => y.2.domain = r.domain && y.2.key =
      r.key && !y.2.moveSrc && s.visibleNow y.2 && s.isLearned r.table y.2 && !y.2.stagedDel) = some x ∧ bitsOf
      x.2.data 0 10 ≠ r.port ∧ s.get (LRN_PORT.learned r.port) < s.get (LRN_PORT.limit r.port) ∧ s.get
      (TBL_LRN_CFG.notify r.table) = 0) ∧
    (∃ s : State, s.Inv ∧ ∃ tb : Fin 256, s.pwrState < 2) ∧
    (∃ s : State, s.Inv ∧ ∃ tb : Fin 256, 2 ≤ s.pwrState) ∧
    (∃ s : State, s.Inv ∧ ∃ (tb : Fin 256) (p : Fin 32) (pos : Nat) (e : Entry), s.entryAt p tb pos = some e ∧ pos <
      2 ^ 20 ∧ s.ageOn tb = true ∧ s.get (TBL_AGE_CFG.interval_ms tb) ≠ 0 ∧ s.pwrState < 2 ∧ (s.get
      (TBL_LRN_CFG.age_all tb) = 1 ∨ e.data.testBit 10 = true) ∧ e.stagedAdd = false ∧ e.stagedDel = false ∧
      e.hidden = false ∧ s.identityBusy tb e.domain e.key = false ∧ s.anyHit tb e.seq = true) ∧
    (∃ s : State, s.Inv ∧ ∃ (tb : Fin 256) (p : Fin 32) (pos : Nat) (e : Entry), s.entryAt p tb pos = some e ∧ pos <
      2 ^ 20 ∧ s.ageOn tb = true ∧ s.get (TBL_AGE_CFG.interval_ms tb) ≠ 0 ∧ s.pwrState < 2 ∧ (s.get
      (TBL_LRN_CFG.age_all tb) = 1 ∨ e.data.testBit 10 = true) ∧ e.stagedAdd = false ∧ e.stagedDel = false ∧
      e.hidden = false ∧ s.identityBusy tb e.domain e.key = false ∧ s.anyHit tb e.seq = false ∧ e.age + 1 < max 1
      (s.get (TBL_AGE_CFG.age_limit tb))) ∧
    (∃ s : State, s.Inv ∧ ∃ (tb : Fin 256) (p : Fin 32) (pos : Nat) (e : Entry), s.entryAt p tb pos = some e ∧ pos <
      2 ^ 20 ∧ s.ageOn tb = true ∧ s.get (TBL_AGE_CFG.interval_ms tb) ≠ 0 ∧ s.pwrState < 2 ∧ (s.get
      (TBL_LRN_CFG.age_all tb) = 1 ∨ e.data.testBit 10 = true) ∧ e.stagedAdd = false ∧ e.stagedDel = false ∧
      e.hidden = false ∧ s.identityBusy tb e.domain e.key = false ∧ s.anyHit tb e.seq = false ∧ max 1 (s.get
      (TBL_AGE_CFG.age_limit tb)) ≤ e.age + 1 ∧ s.learnTurn = true ∧ s.tbl.jobs = [] ∧ s.get (TBL_LRN_CFG.notify tb)
      = 0) :=
  ⟨⟨learning (imaged []) false 91 2, inv_of (by decide +kernel), 1, ⟨3, 0, 91, 2, false⟩, [⟨3, 0, 77, 2, false⟩],
      exact0, 32, 3360, by decide +kernel⟩,
    ⟨learning (filled 3 entry0 []) true 11 6, inv_of (by decide +kernel), 1, ⟨3, 0, 11, 6, true⟩, [⟨3, 0, 77, 6,
      true⟩], (3 * 2 ^ 20 + 212, entry0), by decide +kernel⟩,
    ⟨State.reset, inv_of (by decide +kernel), 255, by decide +kernel⟩,
    ⟨st [(PWR_STATUS.state, 3)], inv_of (by decide +kernel), 255, by decide +kernel⟩,
    ⟨filled 3 { entry0 with hit := true } aging, inv_of (by decide +kernel), 3, 31, 212, { entry0 with
      hit := true }, by decide +kernel⟩,
    ⟨filled 3 { entry0 with age := 1 } aging, inv_of (by decide +kernel), 3, 31, 212, { entry0 with age := 1 },
      by decide +kernel⟩,
    ⟨filled 3 { entry0 with age := 2 } aging, inv_of (by decide +kernel), 3, 31, 212, { entry0 with age := 2 },
      by decide +kernel⟩⟩

theorem witness_IndirectCommandsStartAloneAndComplete :
    (∃ s : State, s.Inv ∧ ∃ (c : Instr) (f : Fld) (j : IndJob), indStart s c = some (f, j) ∧ s.pwrState < 2 ∧ s.get
      f = 0) ∧
    (∃ s : State, s.Inv ∧ ∃ (c : Instr) (f : Fld) (j : IndJob), indStart s c = some (f, j) ∧ s.pwrState < 2 ∧ s.get
      f = 1) ∧
    (∃ s : State, s.Inv ∧ ∃ j : IndJob, s.indRuns PRS_PAT_CMD.regOff j) ∧
    (∃ s : State, s.Inv ∧ ∃ j : IndJob, s.indRuns PL_IND_CMD.regOff j) ∧
    (∃ s : State, s.Inv ∧ ∃ j : IndJob, s.indRuns BUF_IND_CMD.regOff j) ∧
    (∃ s : State, s.Inv ∧ ∃ j : IndJob, s.indRuns SCHED_IND_CMD.regOff j) ∧
    (∃ s : State, s.Inv ∧ ∃ j : IndJob, s.indRuns FLOW_IND_CMD.regOff j) :=
  ⟨⟨State.reset, inv_of (by decide +kernel), .flowRead, FLOW_IND_CMD.busy, ⟨FLOW_IND_CMD.regOff, false, 0, []⟩,
      by decide +kernel⟩,
    ⟨st [(FLOW_IND_CMD.busy, 1)], inv_of (by decide +kernel), .flowRead, FLOW_IND_CMD.busy, ⟨FLOW_IND_CMD.regOff,
      false, 0, []⟩, by decide +kernel⟩,
    ⟨indirect PRS_PAT_CMD.regOff, inv_of (by decide +kernel), ⟨PRS_PAT_CMD.regOff, true, 3, [1]⟩, runs_of
      (by decide +kernel)⟩,
    ⟨indirect PL_IND_CMD.regOff, inv_of (by decide +kernel), ⟨PL_IND_CMD.regOff, true, 3, [1]⟩, runs_of
      (by decide +kernel)⟩,
    ⟨indirect BUF_IND_CMD.regOff, inv_of (by decide +kernel), ⟨BUF_IND_CMD.regOff, true, 3, [1]⟩, runs_of
      (by decide +kernel)⟩,
    ⟨indirect SCHED_IND_CMD.regOff, inv_of (by decide +kernel), ⟨SCHED_IND_CMD.regOff, true, 3, [1]⟩, runs_of
      (by decide +kernel)⟩,
    ⟨indirect FLOW_IND_CMD.regOff, inv_of (by decide +kernel), ⟨FLOW_IND_CMD.regOff, true, 3, [1]⟩, runs_of
      (by decide +kernel)⟩⟩

theorem witness_UnitsFlipAndDisableAtOnce :
    (∃ s : State, s.Inv ∧ s.pwrState < 2 ∧ s.get PL_FAB_STATUS.enabled = 1) ∧
    (∃ s : State, s.Inv ∧ s.pwrState < 2 ∧ s.get PL_FAB_STATUS.enabled = 0) ∧
    (∃ s : State, s.Inv ∧ s.pwrState < 2 ∧ s.get MTR_STATUS.enabled = 1) ∧
    (∃ s : State, s.Inv ∧ s.pwrState < 2 ∧ s.get MTR_STATUS.enabled = 0) :=
  ⟨⟨st [(PL_FAB_STATUS.enabled, 1)], inv_of (by decide +kernel), by decide +kernel⟩,
    ⟨State.reset, inv_of (by decide +kernel), by decide +kernel⟩,
    ⟨st [(MTR_STATUS.enabled, 1)], inv_of (by decide +kernel), by decide +kernel⟩,
    ⟨State.reset, inv_of (by decide +kernel), by decide +kernel⟩⟩

theorem witness_FabricSnapshotsBeaconsAndCredits :
    (∃ s : State, s.Inv ∧ s.pwrState < 2) ∧
    (∃ s : State, s.Inv ∧ ∃ (p : Fin 32) (i : Nat), i < 2 ^ 17 ∧ s.pwrState < 2 ∧ flValid (s.flowlet (p * 2 ^ 17 +
      i)) = true ∧ setBits (s.flowlet (p * 2 ^ 17 + i)) 0 1 0 ≠ 0 ∧ (grValid (s.plGroup (flGroup (s.flowlet (p * 2 ^
      17 + i)))) = false ∨ grGap (s.plGroup (flGroup (s.flowlet (p * 2 ^ 17 + i)))) ≤ s.flowIdle (s.flowlet (p * 2 ^
      17 + i)))) ∧
    (∃ s : State, s.Inv ∧ ∃ (p : Fin 32) (i : Nat), i < 2 ^ 17 ∧ s.pwrState < 2 ∧ flValid (s.flowlet (p * 2 ^ 17 +
      i)) = true ∧ setBits (s.flowlet (p * 2 ^ 17 + i)) 0 1 0 ≠ 0 ∧ grValid (s.plGroup (flGroup (s.flowlet (p * 2 ^
      17 + i)))) = true ∧ s.flowIdle (s.flowlet (p * 2 ^ 17 + i)) < grGap (s.plGroup (flGroup (s.flowlet (p * 2 ^ 17
      + i))))) ∧
    (∃ s : State, s.Inv ∧ ∃ f : Fin 128, s.get PL_FAB_STATUS.enabled = 1 ∧ s.pwrState < 2 ∧ s.get (PL_LINK.valid f)
      = 1 ∧ s.portUp (s.get (PL_LINK.port f)) = true ∧ smGet natZero s.pl.sent f ≤ s.clk ∧ 0 < s.get
      PL_BEACON_CFG.interval_ns) ∧
    (∃ s : State, s.Inv ∧ ∃ (port : Fin 1024) (f : Nat) (b : List Byte), s.isRistlink port = true ∧ s.portUp port =
      true ∧ s.linkOfPort port = some f ∧ s.get PL_FAB_STATUS.enabled = 1 ∧ s.pwrState < 2 ∧ beAt b 2 2 = s.get
      PL_FAB_CFG.domain_id ∧ bitsOf (beAt b 0 16) 86 10 ≠ s.ownChip ∧ s.get (PL_LINK.dup_chip f) = 0) ∧
    (∃ s : State, s.Inv ∧ ∃ (port : Fin 1024) (f : Nat) (b : List Byte), s.isRistlink port = true ∧ s.portUp port =
      true ∧ s.linkOfPort port = some f ∧ s.get PL_FAB_STATUS.enabled = 1 ∧ s.pwrState < 2 ∧ beAt b 2 2 = s.get
      PL_FAB_CFG.domain_id ∧ bitsOf (beAt b 0 16) 86 10 = s.ownChip) ∧
    (∃ s : State, s.Inv ∧ ∃ f : Fin 128, s.get (PL_LINK.neighbor_live f) = 1 ∧ smGet natZero s.pl.heard f + clkOfNs
      (s.get PL_BEACON_CFG.timeout * s.get PL_BEACON_CFG.interval_ns) ≤ s.clk) ∧
    (∃ s : State, s.Inv ∧ ∃ (port : Fin 1024) (b : List Byte), s.isRistlink port = true ∧ s.portUp port = true ∧ (∀
      c < 4, beAt b (4 + 2 * c) 2 ≠ 0)) ∧
    (∃ s : State, s.Inv ∧ ∃ port : Fin 1024, s.get PL_FAB_STATUS.enabled = 1 ∧ s.pwrState < 2 ∧ s.isRistlink port =
      true ∧ s.portUp port = true ∧ port.val ∈ s.pl.initOwed) ∧
    (∃ s : State, s.Inv ∧ ∃ port : Fin 1024, s.get PL_FAB_STATUS.enabled = 1 ∧ s.pwrState < 2 ∧ s.isRistlink port =
      true ∧ s.portUp port = true ∧ port.val ∉ s.pl.initOwed ∧ (∃ c < 4, (s.credit (port * 4 + c)).owed ≠ 0) ∧
      s.fifoFill (s.pipeOf port) ≤ 98304) :=
  ⟨⟨State.reset, inv_of (by decide +kernel), by decide +kernel⟩,
    ⟨{ State.reset with pl := { flowlets := [(31 * 2 ^ 17 + 5, 11)] } }, inv_of (by decide +kernel), 31, 5,
      by decide +kernel⟩,
    ⟨{ State.reset with pl := { flowlets := [(31 * 2 ^ 17 + 5, 11)], groups := [(5, 2 ^ 61 + 2 ^ 39)] } }, inv_of
      (by decide +kernel), 31, 5, by decide +kernel⟩,
    ⟨fabric [], inv_of (by decide +kernel), 3, by decide +kernel⟩,
    ⟨fabric [], inv_of (by decide +kernel), 7, 3, [0, 0, 0, 0, 0, 0x40, 0, 0, 0, 0, 0, 0, 0, 0, 0, 0],
      by decide +kernel⟩,
    ⟨fabric [], inv_of (by decide +kernel), 7, 3, List.replicate 16 0, by decide +kernel⟩,
    ⟨{ fabric [(PL_LINK.neighbor_live 3, 1)] with clk := 51200 }, inv_of (by decide +kernel), 3, by decide +kernel⟩,
    ⟨fabric [], inv_of (by decide +kernel), 7, List.replicate 12 1, by decide +kernel⟩,
    ⟨{ fabric [] with pl := { initOwed := [7] } }, inv_of (by decide +kernel), 7, by decide +kernel⟩,
    ⟨{ fabric [] with pl := { credits := [(7 * 4 + 3, ⟨0, 0, false, 1⟩)] } }, inv_of (by decide +kernel), 7,
      by decide +kernel⟩⟩

theorem witness_FramesAreQueuedCompletedAndParsed :
    (∃ s : State, s.Inv ∧ ∃ (port : Fin 1024) (b : List Byte), s.portUp port = true ∧ s.isRistlink port = false ∧
      s.rxOpen port = false ∧ s.pwrState ≠ 0) ∧
    (∃ s : State, s.Inv ∧ ∃ (port : Fin 1024) (b : List Byte), s.portUp port = true ∧ s.isRistlink port = false ∧
      s.rxOpen port = false ∧ s.pwrState = 0 ∧ s.get STRUCT_STATUS.state ≠ 3) ∧
    (∃ s : State, s.Inv ∧ ∃ (port : Fin 1024) (b : List Byte), s.portUp port = true ∧ s.isRistlink port = false ∧
      s.rxOpen port = false ∧ s.pwrState = 0 ∧ s.get STRUCT_STATUS.state = 3 ∧ b.length < 64) ∧
    (∃ s : State, s.Inv ∧ ∃ (port : Fin 1024) (b : List Byte), s.portUp port = true ∧ s.isRistlink port = false ∧
      s.rxOpen port = false ∧ s.pwrState = 0 ∧ s.get STRUCT_STATUS.state = 3 ∧ 64 ≤ b.length ∧ b.length ≤ s.get
      (PORT_CFG.max_frame (s.laneOf port)) ∧ fcsOk b = false) ∧
    (∃ s : State, s.Inv ∧ ∃ (port : Fin 1024) (b : List Byte), s.portUp port = true ∧ s.isRistlink port = false ∧
      s.rxOpen port = false ∧ s.pwrState = 0 ∧ s.get STRUCT_STATUS.state = 3 ∧ 64 ≤ b.length ∧ b.length ≤ s.get
      (PORT_CFG.max_frame (s.laneOf port)) ∧ fcsOk b = true ∧ isPause b = true ∧ isPfc b = false) ∧
    (∃ s : State, s.Inv ∧ ∃ (port : Fin 1024) (b : List Byte), s.portUp port = true ∧ s.isRistlink port = false ∧
      s.rxOpen port = false ∧ s.pwrState = 0 ∧ s.get STRUCT_STATUS.state = 3 ∧ 64 ≤ b.length ∧ b.length ≤ s.get
      (PORT_CFG.max_frame (s.laneOf port)) ∧ fcsOk b = true ∧ isPfc b = true) ∧
    (∃ s : State, s.Inv ∧ ∃ (port : Fin 1024) (b : List Byte), s.portUp port = true ∧ s.isRistlink port = false ∧
      s.rxOpen port = false ∧ s.pwrState = 0 ∧ s.get STRUCT_STATUS.state = 3 ∧ 64 ≤ b.length ∧ b.length ≤ s.get
      (PORT_CFG.max_frame (s.laneOf port)) ∧ fcsOk b = true ∧ isControl b = false ∧ s.get (TIME_PORT.rx_en port) = 0
      ∧ s.fifoFill (s.pipeOf port) + b.length ≤ 98304) ∧
    (∃ s : State, s.Inv ∧ ∃ (port : Fin 1024) (b : List Byte), s.portUp port = true ∧ s.isRistlink port = false ∧
      s.rxOpen port = false ∧ s.pwrState = 0 ∧ s.get STRUCT_STATUS.state = 3 ∧ 64 ≤ b.length ∧ b.length ≤ s.get
      (PORT_CFG.max_frame (s.laneOf port)) ∧ fcsOk b = true ∧ isControl b = false ∧ s.get (TIME_PORT.rx_en port) = 0
      ∧ 98304 ≤ s.fifoFill (s.pipeOf port) ∧ s.isLossless port (s.arrivalClass false b []) = false) ∧
    (∃ s : State, s.Inv ∧ ∃ (port : Fin 1024) (rest : List Byte), s.isRistlink port = false ∧ s.get (TIME_PORT.rx_en
      port) = 0 ∧ ∃ f : RxFrame, (s.fifo (s.pipeOf port)).find? (fun x => decide (x.port = port.val) && !x.whole) =
      some f ∧ (s.fifo (s.pipeOf port)).count f = 1 ∧ 64 ≤ (f.bytes ++ rest).length ∧ (f.bytes ++ rest).length ≤
      s.get (PORT_CFG.max_frame (s.laneOf port)) ∧ f.err = false ∧ (f.hdr ≠ [] ∨ isControl (f.bytes ++ rest) =
      false) ∧ fcsOk (f.bytes ++ rest) = true ∧ s.fifoFill (s.pipeOf port) + rest.length ≤ 98304) ∧
    (∃ s : State, s.Inv ∧ ∃ (port : Fin 1024) (rest : List Byte), s.isRistlink port = false ∧ s.get (TIME_PORT.rx_en
      port) = 0 ∧ ∃ f : RxFrame, (s.fifo (s.pipeOf port)).find? (fun x => decide (x.port = port.val) && !x.whole) =
      some f ∧ (s.fifo (s.pipeOf port)).count f = 1 ∧ 64 ≤ (f.bytes ++ rest).length ∧ (f.bytes ++ rest).length ≤
      s.get (PORT_CFG.max_frame (s.laneOf port)) ∧ f.err = false ∧ (f.hdr ≠ [] ∨ isControl (f.bytes ++ rest) =
      false) ∧ fcsOk (f.bytes ++ rest) = false) ∧
    (∃ s : State, s.Inv ∧ ∃ (port : Fin 1024) (rest : List Byte), s.isRistlink port = false ∧ s.get (TIME_PORT.rx_en
      port) = 0 ∧ ∃ p : Pkt, (s.fifo (s.pipeOf port)).find? (fun x => decide (x.port = port.val) && !x.whole) = none
      ∧ s.pk.pkts.filter (fun x => decide (x.port = port.val) && !x.whole && !x.w.injected) = [p] ∧ s.pkt p.id =
      some p ∧ p.admitted = false ∧ p.pending = [] ∧ p.hdr = [] ∧ p.rxErr = false ∧ (∀ x ∈ s.buf.xoff, s.pipeOf (x.1
      / 4) ≠ p.w.pipe) ∧ (∀ x ∈ s.buf.headActive, s.pipeOf (x.1 / 4) ≠ p.w.pipe) ∧ fcsOk (p.bytes ++ rest) = true ∧
      (p.bytes ++ rest).length ≤ s.get (PORT_CFG.max_frame (s.laneOf port))) ∧
    (∃ s : State, s.Inv ∧ ∃ (pipe : Fin 32) (f : RxFrame) (r : PortRec), s.slotsRun pipe = true ∧ s.get
      STRUCT_STATUS.state = 3 ∧ s.readyFrame pipe = some f ∧ s.mapRec f.port = some r ∧ s.pkt s.pk.nextPkt = none) :=
  ⟨⟨running [(PWR_STATUS.state, 1)], inv_of (by decide +kernel), 7, frame0 64, by decide +kernel⟩,
    ⟨ported 1 0x10 4 [], inv_of (by decide +kernel), 7, frame0 64, by decide +kernel⟩,
    ⟨running [], inv_of (by decide +kernel), 7, frame0 63, by decide +kernel⟩,
    ⟨running [], inv_of (by decide +kernel), 7, List.replicate 64 0, by decide +kernel⟩,
    ⟨running [], inv_of (by decide +kernel), 7, control0 1, by decide +kernel⟩,
    ⟨running [], inv_of (by decide +kernel), 7, control0 0x0101, by decide +kernel⟩,
    ⟨running [], inv_of (by decide +kernel), 7, frame0 64, by decide +kernel⟩,
    ⟨received (running []) (List.replicate 512 (rx0 (List.replicate 192 0) true)), inv_of (by decide +kernel), 7,
      frame0 64, by decide +kernel⟩,
    ⟨received (running []) [rx0 ((frame0 80).take 60) false], inv_of (by decide +kernel), 7, (frame0 80).drop 60,
      by decide +kernel, by decide +kernel, rx0 ((frame0 80).take 60) false, by decide +kernel⟩,
    ⟨received (running []) [rx0 ((frame0 80).take 60) false], inv_of (by decide +kernel), 7, List.replicate 20 0,
      by decide +kernel, by decide +kernel, rx0 ((frame0 80).take 60) false, by decide +kernel⟩,
    ⟨holding (running []) [{ pktAt 3 (mdOf []) with bytes := (frame0 80).take 60, whole := false }] [], inv_of
      (by decide +kernel), 7, (frame0 80).drop 60, by decide +kernel, by decide +kernel, { pktAt 3 (mdOf []) with
      bytes := (frame0 80).take 60, whole := false }, by decide +kernel⟩,
    ⟨received (running []) [rx0 (frame0 64) true], inv_of (by decide +kernel), 1, rx0 (frame0 64) true, port0 1
      0x10, by decide +kernel⟩⟩

theorem witness_PacketsPassStagesAndAreAdmitted :
    (∃ (s : State) (p : Pkt), s.Inv ∧ s.pkt p.id = some p ∧ p.admitted = false ∧ s.slotsRun p.w.pipe = true ∧
      p.w.stage < 20 ∧ p.w.look = [] ∧ ∃ (ecc : Fin 3) (err : List (Nat × Nat)) (slotErr : List Nat), (mdDone p.w.md
      = true ∨ mdRecirc p.w.md = true ∨ addrStage (mdNext p.w.md) ≠ p.w.stage)) ∧
    (∃ (s : State) (p : Pkt), s.Inv ∧ s.pkt p.id = some p ∧ p.admitted = false ∧ s.slotsRun p.w.pipe = true ∧
      p.w.stage < 20 ∧ p.w.look = [] ∧ ∃ word : Nat, mdDone p.w.md = false ∧ mdRecirc p.w.md = false ∧ addrStage
      (mdNext p.w.md) = p.w.stage ∧ s.storeWord p.w.stage (addrWord (mdNext p.w.md)) = some word ∧ mwLookup word =
      false ∧ mwNextSel word = 0 ∧ mwRecirc word = false ∧ (opSlots (s.compat p.w.stage) (mdPut p.w.md 24 26 1 0)
      word).trap = none ∧ (opSlots (s.compat p.w.stage) (mdPut p.w.md 24 26 1 0) word).ctl = 0) ∧
    (∃ (s : State) (p : Pkt), s.Inv ∧ s.pkt p.id = some p ∧ p.admitted = false ∧ s.slotsRun p.w.pipe = true ∧
      p.w.stage < 20 ∧ p.w.look = [] ∧ ∃ word : Nat, mdDone p.w.md = false ∧ mdRecirc p.w.md = false ∧ addrStage
      (mdNext p.w.md) = p.w.stage ∧ s.storeWord p.w.stage (addrWord (mdNext p.w.md)) = some word ∧ ∃ v : Nat,
      mdTrapLive p.w.md = false ∧ s.trapAddress p.w.stage = some v ∧ v < 2 ^ 15 ∧ p.w.md.length = 128) ∧
    (∃ (s : State) (p : Pkt), s.Inv ∧ s.pkt p.id = some p ∧ p.admitted = false ∧ s.slotsRun p.w.pipe = true ∧
      p.w.stage = 20 ∧ p.w.pipe < 32 ∧ p.force = 0 ∧ mdRecirc p.w.md = false ∧ p.whole = true ∧ p.bytes ≠ [] ∧
      p.charged = 0 ∧ p.cells = [] ∧ (∀ c ∈ s.pk.copies, c.pkt ≠ p.id) ∧ mdDisposition p.w.md = 1) ∧
    (∃ (s : State) (p : Pkt), s.Inv ∧ s.pkt p.id = some p ∧ p.admitted = false ∧ s.slotsRun p.w.pipe = true ∧
      p.w.stage = 20 ∧ p.w.pipe < 32 ∧ p.force = 0 ∧ mdRecirc p.w.md = false ∧ p.whole = true ∧ p.bytes ≠ [] ∧
      p.charged = 0 ∧ p.cells = [] ∧ (∀ c ∈ s.pk.copies, c.pkt ≠ p.id) ∧ mdDisposition p.w.md = 0 ∧ bitAt (nth
      p.w.md 33) 14 = false ∧ bitAt (nth p.w.md 34) 2 = false ∧ shaped (s.profile (polProfile (s.policer (mdTenant
      p.w.md * 4 + nth p.w.md (s.get SCHED_G_CFG.pol_word) % 4)))) = false ∧ s.queueOpen (queueOf (mdGet p.w.md 32 0
      10) (mdGet p.w.md 32 10 4)) = true ∧ s.descriptorsFree 1 = true ∧ (s.quota (pairOf p.w.md)).valid = true ∧
      s.quotaUsed (pairOf p.w.md) + ceilDiv p.bytes.length 256 ≤ (s.quota (pairOf p.w.md)).cells) ∧
    (∃ (s : State) (p : Pkt), s.Inv ∧ s.pkt p.id = some p ∧ p.admitted = false ∧ s.slotsRun p.w.pipe = true ∧
      p.w.stage = 20 ∧ p.w.pipe < 32 ∧ p.force = 0 ∧ mdRecirc p.w.md = false ∧ p.whole = true ∧ p.bytes ≠ [] ∧
      p.charged = 0 ∧ p.cells = [] ∧ (∀ c ∈ s.pk.copies, c.pkt ≠ p.id) ∧ mdDisposition p.w.md = 0 ∧ bitAt (nth
      p.w.md 33) 14 = false ∧ bitAt (nth p.w.md 34) 2 = false ∧ shaped (s.profile (polProfile (s.policer (mdTenant
      p.w.md * 4 + nth p.w.md (s.get SCHED_G_CFG.pol_word) % 4)))) = false ∧ s.queueOpen (queueOf (mdGet p.w.md 32 0
      10) (mdGet p.w.md 32 10 4)) = true ∧ s.descriptorsFree 1 = true ∧ ∃ k, k < 8 ∧ (s.quota (pairOf p.w.md)).valid
      = false ∧ bitsOf (s.get BUF_G_ACTIVE.class_pool) (3 * mdClass p.w.md) 3 = k ∧ s.get (BUF_POOL_STAT.used k) +
      ceilDiv p.bytes.length 256 ≤ s.get (BUF_POOL_STAT.size_active k) ∧ s.get (BUF_POOL_STAT.code_active k) = 0) ∧
    (∃ (s : State) (p : Pkt), s.Inv ∧ s.pkt p.id = some p ∧ p.admitted = false ∧ s.slotsRun p.w.pipe = true ∧
      p.w.stage = 20 ∧ p.w.pipe < 32 ∧ p.force = 0 ∧ mdRecirc p.w.md = false ∧ p.whole = true ∧ p.bytes ≠ [] ∧
      p.charged = 0 ∧ p.cells = [] ∧ (∀ c ∈ s.pk.copies, c.pkt ≠ p.id) ∧ mdDisposition p.w.md = 0 ∧ bitAt (nth
      p.w.md 33) 14 = false ∧ bitAt (nth p.w.md 34) 2 = false ∧ shaped (s.profile (polProfile (s.policer (mdTenant
      p.w.md * 4 + nth p.w.md (s.get SCHED_G_CFG.pol_word) % 4)))) = false ∧ s.queueOpen (queueOf (mdGet p.w.md 32 0
      10) (mdGet p.w.md 32 10 4)) = true ∧ s.descriptorsFree 1 = true ∧ ∃ k, k < 8 ∧ (s.quota (pairOf p.w.md)).valid
      = false ∧ bitsOf (s.get BUF_G_ACTIVE.class_pool) (3 * mdClass p.w.md) 3 = k ∧ s.get (BUF_POOL_STAT.size_active
      k) < s.get (BUF_POOL_STAT.used k) + ceilDiv p.bytes.length 256 ∧ (s.headroom (mdIngress p.w.md) (mdClass
      p.w.md)).valid = false) :=
  ⟨⟨holding (running []) [pktAt 3 (mdOf [(24, 2 ^ 15)])] [], pktAt 3 (mdOf [(24, 2 ^ 15)]), inv_of
      (by decide +kernel), by decide +kernel, by decide +kernel, by decide +kernel, by decide +kernel,
      by decide +kernel, 2, [], [], by decide +kernel⟩,
    ⟨holding (running []) [pktAt 3 (mdOf [(24, 3 * 1024 + 100)])] [], pktAt 3 (mdOf [(24, 3 * 1024 + 100)]), inv_of
      (by decide +kernel), by decide +kernel, by decide +kernel, by decide +kernel, by decide +kernel,
      by decide +kernel, word0, by decide +kernel⟩,
    ⟨holding (running []) [pktAt 3 (mdOf [(24, 3 * 1024 + 100)])] [], pktAt 3 (mdOf [(24, 3 * 1024 + 100)]), inv_of
      (by decide +kernel), by decide +kernel, by decide +kernel, by decide +kernel, by decide +kernel,
      by decide +kernel, word0, by decide +kernel, by decide +kernel, by decide +kernel, by decide +kernel, 7 * 1024
      + 5, by decide +kernel⟩,
    ⟨holding (running []) [pktAt 20 (mdOf [(34, 1)])] [], pktAt 20 (mdOf [(34, 1)]), inv_of (by decide +kernel),
      by decide +kernel⟩,
    ⟨let s := holding (running []) [pktAt 20 (mdOf [(32, 7 + 3 * 1024)])] []; { s with
      buf := { s.buf with quotaActive := [(0, ⟨1, 0, true⟩)] } }, pktAt 20 (mdOf [(32, 7 + 3 * 1024)]), inv_of
      (by decide +kernel), by decide +kernel⟩,
    ⟨holding (running [(BUF_G_ACTIVE.class_pool, 7), (BUF_POOL_STAT.size_active 7, 1)]) [pktAt 20 (mdOf [(32, 7 + 3
      * 1024)])] [], pktAt 20 (mdOf [(32, 7 + 3 * 1024)]), inv_of (by decide +kernel), by decide +kernel,
      by decide +kernel, by decide +kernel, by decide +kernel, by decide +kernel, by decide +kernel,
      by decide +kernel, by decide +kernel, by decide +kernel, by decide +kernel, by decide +kernel,
      by decide +kernel, by decide +kernel, by decide +kernel, by decide +kernel, by decide +kernel,
      by decide +kernel, by decide +kernel, 7, by decide +kernel⟩,
    ⟨holding (running [(BUF_G_ACTIVE.class_pool, 7)]) [pktAt 20 (mdOf [(32, 7 + 3 * 1024)])] [], pktAt 20 (mdOf
      [(32, 7 + 3 * 1024)]), inv_of (by decide +kernel), by decide +kernel, by decide +kernel, by decide +kernel,
      by decide +kernel, by decide +kernel, by decide +kernel, by decide +kernel, by decide +kernel,
      by decide +kernel, by decide +kernel, by decide +kernel, by decide +kernel, by decide +kernel,
      by decide +kernel, by decide +kernel, by decide +kernel, by decide +kernel, by decide +kernel, 7,
      by decide +kernel⟩⟩

theorem witness_CellsAreWrittenReadAndReturned :
    (∃ s : State, s.Inv ∧ ∃ (pipe : Fin 32) (prev : Option Nat) (waiting : List Nat), ∃ g, s.chooseGroup pipe prev
      waiting = some g ∧ ∃ h, h < 32 ∧ s.ptrs pipe h ≠ [] ∧ prev ≠ some h) ∧
    (∃ s : State, s.Inv ∧ ∃ (pipe : Fin 32) (prev : Option Nat) (waiting : List Nat), s.chooseGroup pipe prev
      waiting = none ∧ ∃ h, h < 32) ∧
    (∃ s : State, s.Inv ∧ ∃ (p : Pkt) (writes reads : List Nat) (g ptr n : Nat) (last : Bool) (rest : List Nat),
      s.pkt p.id = some p ∧ nextCell p = some (n, last) ∧ s.mayWrite p = true ∧ p.w.pipe < 32 ∧ p.gone = [] ∧
      p.copies < 2 ^ 11 ∧ s.chooseGroup p.w.pipe (p.cells.getLast?.map (fun x => ptrGroup x.1)) (waitingAt writes
      reads) = some g ∧ s.ptrs p.w.pipe g = ptr :: rest ∧ p.cells.length < p.reserved ∧ ptr < 2 ^ 21 ∧ (∀ x : Nat ×
      Nat, p.cells.getLast? = some x → x.1 ≠ ptr)) ∧
    (∃ s : State, s.Inv ∧ ∃ (pipe : Fin 32) (p : Pkt), s.pk.pkts.find? (fun p => decide (p.w.pipe = pipe.val) &&
      p.admitted && !p.last && !p.ended && (nextCell p).isSome) = some p ∧ s.noPointers = true ∧ (∀ c ∈ s.pk.copies,
      c.pkt = p.id → c.wire = none)) ∧
    (∃ s : State, s.Inv ∧ ∃ (c : Copy) (p : Pkt) (ptr e : Nat), s.copy c.id = some c ∧ s.pkt c.pkt = some p ∧
      p.cells[c.read]? = some (ptr, e) ∧ c.at' ≠ .queued ∧ isPortQueue c.queue = true ∧ s.slotsRun c.w.pipe = true ∧
      c.wire = none ∧ ptrInvalid ptr = false ∧ s.chReady c.w.pipe true (chData (s.isLossless (c.queue / 16) (mdClass
      c.w.md))) = true ∧ ptr ∈ s.buf.bad) ∧
    (∃ s : State, s.Inv ∧ ∃ (c : Copy) (p : Pkt) (ptr e : Nat), s.copy c.id = some c ∧ s.pkt c.pkt = some p ∧
      p.cells[c.read]? = some (ptr, e) ∧ c.at' ≠ .queued ∧ isPortQueue c.queue = true ∧ s.slotsRun c.w.pipe = true ∧
      c.wire = none ∧ ptrInvalid ptr = false ∧ s.chReady c.w.pipe true (chData (s.isLossless (c.queue / 16) (mdClass
      c.w.md))) = true ∧ ptr ∉ s.buf.bad ∧ cellOwner (s.cell ptr) = p.w.pipe ∧ cellEpoch (s.cell ptr) = e ∧ 2 ≤
      cellRefs (s.cell ptr)) ∧
    (∃ s : State, s.Inv ∧ ∃ (c : Copy) (p : Pkt) (ptr e : Nat), s.copy c.id = some c ∧ s.pkt c.pkt = some p ∧
      p.cells[c.read]? = some (ptr, e) ∧ c.at' ≠ .queued ∧ isPortQueue c.queue = true ∧ s.slotsRun c.w.pipe = true ∧
      c.wire = none ∧ ptrInvalid ptr = false ∧ s.chReady c.w.pipe true (chData (s.isLossless (c.queue / 16) (mdClass
      c.w.md))) = true ∧ ptr ∉ s.buf.bad ∧ cellOwner (s.cell ptr) = p.w.pipe ∧ cellEpoch (s.cell ptr) = e ∧ cellRefs
      (s.cell ptr) = 1 ∧ s.cached (s.copyPipe c) (ptrGroup ptr) < 64) ∧
    (∃ s : State, s.Inv ∧ ∃ (c : Copy) (p : Pkt) (ptr e : Nat), s.copy c.id = some c ∧ s.pkt c.pkt = some p ∧
      p.cells[c.read]? = some (ptr, e) ∧ c.at' ≠ .queued ∧ isPortQueue c.queue = true ∧ s.slotsRun c.w.pipe = true ∧
      c.wire = none ∧ ptrInvalid ptr = false ∧ s.chReady c.w.pipe true (chData (s.isLossless (c.queue / 16) (mdClass
      c.w.md))) = true ∧ ptr ∉ s.buf.bad ∧ cellRefs (s.cell ptr) = 0) ∧
    (∃ s : State, s.Inv ∧ ∃ (g p : Fin 32), s.seqRuns 1 = true ∧ s.buf.ringInit = true ∧ s.cached p g < 16 ∧ 48 -
      s.cached p g < s.subring g) ∧
    (∃ s : State, s.Inv ∧ ∃ (g p : Fin 32), s.seqRuns 1 = true ∧ s.buf.ringInit = true ∧ s.cached p g < 16 ∧
      s.subring g = 0) ∧
    (∃ s : State, s.Inv ∧ ∃ (g p : Fin 32), s.seqRuns 1 = true ∧ s.buf.ringInit = true ∧ 16 ≤ s.cached p g ∧
      s.cached p g ≤ 56) ∧
    (∃ s : State, s.Inv ∧ ∃ (g p : Fin 32), s.seqRuns 1 = true ∧ s.buf.ringInit = true ∧ 56 < s.cached p g) ∧
    (∃ s : State, s.Inv ∧ ∃ (p : Fin 32) (k n : Nat), s.seqRuns 1 = true ∧ (∀ g < 32, s.cached p g = 0) ∧ s.fullest
      p = some (k, n) ∧ 2 ≤ n ∧ k < 1024) :=
  ⟨⟨{ State.reset with buf := { cache := [(32 + 7, [7 * 65536]), (32 + 9, [9 * 65536])] } }, inv_of
      (by decide +kernel), 1, some 8, [], 7, by decide +kernel, 9, by decide +kernel⟩,
    ⟨State.reset, inv_of (by decide +kernel), 31, none, [], by decide +kernel, 31, by decide +kernel⟩,
    ⟨let s := holding (running []) [celled 300 []] [held0]; { s with
      buf := { cache := [(32 + 7, [7 * 65536 + 5])] } }, inv_of (by decide +kernel), celled 300 [], [], [], 7, 7 *
      65536 + 5, 256, false, [], by decide +kernel⟩,
    ⟨holding (running []) [celled 300 []] [held0], inv_of (by decide +kernel), 1, celled 300 [], by decide +kernel⟩,
    ⟨celling 0 [3 * 65536 + 77], inv_of (by decide +kernel), held0, celled 300 [(3 * 65536 + 77, 4)], 3 * 65536 +
      77, 4, by decide +kernel⟩,
    ⟨celling (cellWord 2 1 4 256 false) [], inv_of (by decide +kernel), held0, celled 300 [(3 * 65536 + 77, 4)], 3 *
      65536 + 77, 4, by decide +kernel⟩,
    ⟨celling (cellWord 1 1 4 256 false) [], inv_of (by decide +kernel), held0, celled 300 [(3 * 65536 + 77, 4)], 3 *
      65536 + 77, 4, by decide +kernel⟩,
    ⟨celling 0 [], inv_of (by decide +kernel), held0, celled 300 [(3 * 65536 + 77, 4)], 3 * 65536 + 77, 4,
      by decide +kernel⟩,
    ⟨pointers 15 34, inv_of (by decide +kernel), 9, 1, by decide +kernel⟩,
    ⟨pointers 15 0, inv_of (by decide +kernel), 9, 1, by decide +kernel⟩,
    ⟨pointers 56 0, inv_of (by decide +kernel), 9, 1, by decide +kernel⟩,
    ⟨pointers 57 0, inv_of (by decide +kernel), 9, 1, by decide +kernel⟩,
    ⟨pointers 2 0, inv_of (by decide +kernel), 2, 32 + 9, 2, by decide +kernel⟩⟩

theorem witness_DeparturesAreChosenStartedAndGated :
    (∃ s : State, s.Inv ∧ ∃ port : Fin 1024, s.pwrState < 2 ∧ s.portUp port = true ∧ s.rootEligible port = false) ∧
    (∃ s : State, s.Inv ∧ ∃ port : Fin 1024, ∃ (m q : Nat) (c : Copy) (p : Pkt), s.pwrState < 2 ∧ s.portUp port =
      true ∧ s.rootEligible port = true ∧ s.eligible port 0xFF = [16 + m] ∧ m < 64 ∧ (s.schNode (port * 64 +
      m)).quantum = 0 ∧ q < 16 ∧ q ∈ s.eligible port m ∧ (∀ k ∈ s.eligible port m, k < 16 ∧ (s.schQueue (queueOf
      port k)).promoted = false) ∧ ((∀ k ∈ s.eligible port m, (s.schQueue (queueOf port k)).quantum = 0 ∧ k ≤ q) ∨
      ((∀ k ∈ s.eligible port m, (s.schQueue (queueOf port k)).quantum ≠ 0) ∧ s.curOf port m = some q ∧ 0 <
      (s.schQueue (queueOf port q)).deficit)) ∧ s.head (queueOf port q) = some c ∧ s.pkt c.pkt = some p) ∧
    (∃ s : State, s.Inv ∧ ∃ (port : Fin 1024) (q : Fin 16) (c : Copy) (p : Pkt), s.nextHeld (queueOf port q) = some
      c ∧ s.pkt c.pkt = some p ∧ s.pwrState < 2 ∧ s.pin.stopped = false ∧ s.channelRuns (s.pipeOf port) = true ∧
      s.portUp port = true ∧ s.txFree port = true ∧ s.overtakes c = false ∧ s.isRistlink port = false ∧ s.pfcFirst
      port = false ∧ (s.gateOpen port q s.wrapNow = false ∨ s.pfcHeld port q = true)) ∧
    (∃ s : State, s.Inv ∧ ∃ (port : Fin 1024) (q : Fin 16) (c : Copy) (p : Pkt), s.nextHeld (queueOf port q) = some
      c ∧ s.pkt c.pkt = some p ∧ s.pwrState < 2 ∧ s.pin.stopped = false ∧ s.channelRuns (s.pipeOf port) = true ∧
      s.portUp port = true ∧ s.txFree port = true ∧ s.overtakes c = false ∧ s.isRistlink port = false ∧ s.pfcFirst
      port = false ∧ s.gateOpen port q s.wrapNow = true ∧ s.pfcHeld port q = false ∧ p.err = true) ∧
    (∃ s : State, s.Inv ∧ ∃ (port : Fin 1024) (q : Fin 16) (c : Copy) (p : Pkt), s.nextHeld (queueOf port q) = some
      c ∧ s.pkt c.pkt = some p ∧ s.pwrState < 2 ∧ s.pin.stopped = false ∧ s.channelRuns (s.pipeOf port) = true ∧
      s.portUp port = true ∧ s.txFree port = true ∧ s.overtakes c = false ∧ s.isRistlink port = false ∧ s.pfcFirst
      port = false ∧ s.gateOpen port q s.wrapNow = true ∧ s.pfcHeld port q = false ∧ p.err = false ∧ s.guardOk port
      q (s.departLen port p c) = false ∧ c.guarded = false ∧ s.pipeOf port < 32) ∧
    (∃ s : State, s.Inv ∧ ∃ (port : Fin 1024) (q : Fin 16) (c : Copy) (p : Pkt), s.nextHeld (queueOf port q) = some
      c ∧ s.pkt c.pkt = some p ∧ s.pwrState < 2 ∧ s.pin.stopped = false ∧ s.channelRuns (s.pipeOf port) = true ∧
      s.portUp port = true ∧ s.txFree port = true ∧ s.overtakes c = false ∧ s.isRistlink port = false ∧ s.pfcFirst
      port = false ∧ s.gateOpen port q s.wrapNow = true ∧ s.pfcHeld port q = false ∧ p.err = false ∧ s.guardOk port
      q (s.departLen port p c) = true ∧ p.whole = true ∧ 4 ≤ p.bytes.length ∧ c.ecn = false ∧ s.get
      PL_IOAM_CFG.enable = 0 ∧ s.ptpEvent port p.bytes = none ∧ c.read < p.cells.length) ∧
    (∃ s : State, s.Inv ∧ ∃ (port : Fin 1024) (q : Fin 16) (c : Copy) (p : Pkt), s.nextHeld (queueOf port q) = some
      c ∧ s.pkt c.pkt = some p ∧ s.pwrState < 2 ∧ s.pin.stopped = false ∧ s.channelRuns (s.pipeOf port) = true ∧
      s.portUp port = true ∧ s.txFree port = true ∧ s.overtakes c = false ∧ s.isRistlink port = false ∧ s.pfcFirst
      port = false ∧ s.gateOpen port q s.wrapNow = true ∧ s.pfcHeld port q = false ∧ p.err = false ∧ s.guardOk port
      q (s.departLen port p c) = true ∧ p.whole = true ∧ 4 ≤ p.bytes.length ∧ c.ecn = false ∧ s.get
      PL_IOAM_CFG.enable = 0 ∧ s.ptpEvent port p.bytes = none ∧ p.last = true ∧ c.read = p.cells.length) ∧
    (∃ s : State, s.Inv ∧ s.pwrState < 2) ∧
    (∃ s : State, s.Inv ∧ ∃ port : Fin 1024, s.gateList port = none) ∧
    (∃ s : State, s.Inv ∧ ∃ port : Fin 1024, s.gated = true) ∧
    (∃ s : State, s.Inv ∧ ∃ port : Fin 1024, ∃ l : GateList, s.gateList port = some l ∧ s.gated = false) ∧
    (∃ s : State, s.Inv ∧ ∃ port : Fin 1024, ∃ l : GateList, s.gatePend port = some l ∧ s.gated = false ∧
      wrapReached s.wrapNow l.base = false) ∧
    (∃ s : State, s.Inv ∧ ∃ port : Fin 1024, ∃ l : GateList, s.gatePend port = some l ∧ s.gated = false ∧
      wrapReached s.wrapNow l.base = true ∧ l.openAll = false) ∧
    (∃ s : State, s.Inv ∧ ∃ port : Fin 1024, ∃ l : GateList, s.gatePend port = some l ∧ s.gated = false ∧
      wrapReached s.wrapNow l.base = true ∧ l.openAll = true ∧ (s.sch.lists.filter (fun x => x.1 = port.val)).length
      ≤ 1) :=
  ⟨⟨ported 1 0x10 4 [], inv_of (by decide +kernel), 7, by decide +kernel⟩,
    ⟨scheduling (pkt0 300) [copy0 (7 * 16 + 3)] [], inv_of (by decide +kernel), 7, 2, 3, copy0 (7 * 16 + 3), pkt0
      300, by decide +kernel⟩,
    ⟨gating (scheduling (pkt0 300) [heldRead 0] []) 0, inv_of (by decide +kernel), 7, 3, heldRead 0, pkt0 300,
      by decide +kernel⟩,
    ⟨scheduling { pkt0 300 with err := true } [heldRead 0] [], inv_of (by decide +kernel), 7, 3, heldRead 0,
      { pkt0 300 with err := true }, by decide +kernel⟩,
    ⟨gating (scheduling (pkt0 300) [heldRead 0] []) 0xFFFF, inv_of (by decide +kernel), 7, 3, heldRead 0, pkt0 300,
      by decide +kernel⟩,
    ⟨scheduling twoCells [heldRead 1] [], inv_of (by decide +kernel), 7, 3, heldRead 1, twoCells, by decide +kernel⟩,
    ⟨scheduling twoCells [heldRead 2] [], inv_of (by decide +kernel), 7, 3, heldRead 2, twoCells, by decide +kernel⟩,
    ⟨State.reset, inv_of (by decide +kernel), by decide +kernel⟩,
    ⟨State.reset, inv_of (by decide +kernel), 7, by decide +kernel⟩,
    ⟨st [(PWR_STATUS.state, 2)], inv_of (by decide +kernel), 7, by decide +kernel⟩,
    ⟨gating State.reset 0xFFFF, inv_of (by decide +kernel), 7, ⟨0, 2, 0, false⟩, by decide +kernel⟩,
    ⟨{ pendingGate false with time := {} }, inv_of (by decide +kernel), 7, ⟨1, 1, 4, false⟩, by decide +kernel⟩,
    ⟨pendingGate false, inv_of (by decide +kernel), 7, ⟨1, 1, 4, false⟩, by decide +kernel⟩,
    ⟨pendingGate true, inv_of (by decide +kernel), 7, ⟨1, 1, 4, true⟩, by decide +kernel⟩⟩

theorem witness_PortsPauseStopAndDrain :
    (∃ (s : State) (port : Fin 1024), s.Inv ∧ s.isRistlink port = false ∧ s.portUp port = true ∧ s.txFree port =
      true ∧ ∃ mask : Nat, mask = smGet natZero s.buf.pfcSet port ||| smGet natZero s.buf.pfcClear port ∧ mask = 0) ∧
    (∃ (s : State) (port : Fin 1024), s.Inv ∧ s.isRistlink port = false ∧ s.portUp port = true ∧ s.txFree port =
      true ∧ ∃ mask : Nat, mask = smGet natZero s.buf.pfcSet port ||| smGet natZero s.buf.pfcClear port ∧ mask ≠ 0) ∧
    (∃ (s : State) (port : Fin 1024), s.Inv ∧ s.isRistlink port = false ∧ s.portUp port = true ∧ s.txFree port =
      true ∧ s.get (BUF_PORT_CFG2.xoff port) ≠ 0 ∧ s.get (BUF_PORT_CFG2.refresh_us port) ≠ 0) ∧
    (∃ (s : State) (port : Fin 1024), s.Inv ∧ s.isRistlink port = false ∧ s.portUp port = true ∧ s.txFree port =
      true ∧ (s.get (BUF_PORT_CFG2.xoff port) = 0 ∨ s.get (BUF_PORT_CFG2.refresh_us port) = 0)) ∧
    (∃ (s : State) (port : Fin 1024), s.Inv ∧ ∃ b : List Byte, s.isRistlink port = false ∧ s.portUp port = true ∧
      s.pwrState = 0 ∧ s.get STRUCT_STATUS.state = 3 ∧ b.length ≤ s.get (PORT_CFG.max_frame (s.laneOf port)) ∧ fcsOk
      b = true ∧ beAt b 12 2 = 0x8808 ∧ beAt b 0 6 = 0x0180C2000001 ∧ beAt b 14 2 = 0x0101) ∧
    (∃ (s : State) (port : Fin 1024), s.Inv ∧ ∃ b : List Byte, s.isRistlink port = false ∧ s.portUp port = true ∧
      s.pwrState = 0 ∧ s.get STRUCT_STATUS.state = 3 ∧ b.length ≤ s.get (PORT_CFG.max_frame (s.laneOf port)) ∧ fcsOk
      b = true ∧ beAt b 12 2 = 0x8808 ∧ beAt b 14 2 = 1) ∧
    (∃ (s : State) (port : Fin 1024), s.Inv ∧ ∃ i : Fin 8, (s.pauseEnd port i = 0 ∨ s.clk < s.pauseEnd port i)) ∧
    (∃ (s : State) (port : Fin 1024), s.Inv ∧ ∃ i : Fin 8, s.pauseEnd port i ≠ 0 ∧ s.pauseEnd port i ≤ s.clk ∧
      (s.sch.pause.filter (fun x => x.1 = port.val * 8 + i.val)).length ≤ 1) ∧
    (∃ (s : State) (port : Fin 1024), s.Inv ∧ s.pwrState < 2 ∧ s.get (BUF_PORT_CFG2.drain_us port) ≠ 0) ∧
    (∃ (s : State) (port : Fin 1024), s.Inv ∧ s.pwrState < 2 ∧ s.get (BUF_PORT_CFG2.drain_us port) = 0) ∧
    (∃ (s : State) (port : Fin 1024), s.Inv ∧ s.buf.drains.find? (fun x => x.1 = port.val) = none) ∧
    (∃ (s : State) (port : Fin 1024), s.Inv ∧ ∃ x : Nat × Nat, s.buf.drains.find? (fun y => y.1 = port.val) = some x
      ∧ s.clk < x.2 + s.get (BUF_PORT_CFG2.drain_us port) * clkPerUs) ∧
    (∃ (s : State) (port : Fin 1024), s.Inv ∧ ∃ x : Nat × Nat, s.buf.drains.find? (fun y => y.1 = port.val) = some x
      ∧ x.2 + s.get (BUF_PORT_CFG2.drain_us port) * clkPerUs ≤ s.clk) :=
  ⟨⟨ported 1 0x10 4 [], 7, inv_of (by decide +kernel), by decide +kernel, by decide +kernel, by decide +kernel, 0,
      by decide +kernel⟩,
    ⟨{ ported 1 0x10 4 [] with buf := { pfcSet := [(7, 5)] } }, 7, inv_of (by decide +kernel), by decide +kernel,
      by decide +kernel, by decide +kernel, 5, by decide +kernel⟩,
    ⟨ported 1 0x10 4 [(BUF_PORT_CFG2.xoff 7, 1)], 7, inv_of (by decide +kernel), by decide +kernel⟩,
    ⟨ported 1 0x10 4 [], 7, inv_of (by decide +kernel), by decide +kernel⟩,
    ⟨running [], 7, inv_of (by decide +kernel), control0 0x0101, by decide +kernel⟩,
    ⟨running [], 7, inv_of (by decide +kernel), control0 1, by decide +kernel⟩,
    ⟨State.reset, 7, inv_of (by decide +kernel), 7, by decide +kernel⟩,
    ⟨{ State.reset with clk := 5, sch := { pause := [(7 * 8 + 7, 5)] } }, 7, inv_of (by decide +kernel), 7,
      by decide +kernel⟩,
    ⟨State.reset, 7, inv_of (by decide +kernel), by decide +kernel⟩,
    ⟨st [(BUF_PORT_CFG2.drain_us 7, 0)], 7, inv_of (by decide +kernel), by decide +kernel⟩,
    ⟨State.reset, 7, inv_of (by decide +kernel), by decide +kernel⟩,
    ⟨{ State.reset with buf := { drains := [(7, 1)] } }, 7, inv_of (by decide +kernel), (7, 1), by decide +kernel⟩,
    ⟨{ State.reset with clk := 800000, buf := { drains := [(7, 0)] } }, 7, inv_of (by decide +kernel), (7, 0),
      by decide +kernel⟩⟩

theorem witness_PortsComeUpAndGoDown :
    (∃ (s : State) (port : Fin 1024) (r : PortRec), s.Inv ∧ s.enabledRec port = some r ∧ r.port = port ∧ r.first +
      r.lanes ≤ 1024 ∧ s.get (PORT_STATUS.state r.first) = 3 ∧ r.link = 1 ∧ (s.port port).rate ≠ 2) ∧
    (∃ (s : State) (port : Fin 1024) (r : PortRec), s.Inv ∧ s.enabledRec port = some r ∧ r.port = port ∧ r.first +
      r.lanes ≤ 1024 ∧ ∃ fields : List (Fin 8), s.get (PORT_STATUS.state r.first) = 3 ∧ r.link = 2 ∧ (∃ i < r.lanes,
      i ∉ fields.map (·.val))) ∧
    (∃ (s : State) (port : Fin 1024) (r : PortRec), s.Inv ∧ s.enabledRec port = some r ∧ r.port = port ∧ r.first +
      r.lanes ≤ 1024 ∧ ∃ fields : List (Fin 8), s.get (PORT_STATUS.state r.first) = 3 ∧ r.link = 2 ∧ fields.length =
      r.lanes ∧ (∀ i < r.lanes, i ∈ fields.map (·.val)) ∧ (s.get (PORT_CFG.pcs_loop r.first) = 1 ∨ ∀ l ∈ lanesOf r,
      (s.lane l).partner = true ∧ (s.lane l).locked = true)) ∧
    (∃ (s : State) (port : Fin 1024) (r : PortRec), s.Inv ∧ s.enabledRec port = some r ∧ r.port = port ∧ r.first +
      r.lanes ≤ 1024 ∧ ∃ fields : List (Fin 8), s.get (PORT_STATUS.state r.first) = 3 ∧ r.link = 2 ∧ fields.length =
      r.lanes ∧ (∀ i < r.lanes, i ∈ fields.map (·.val)) ∧ s.get (PORT_CFG.pcs_loop r.first) = 0 ∧ (∃ l ∈ lanesOf r,
      (s.lane l).partner = false ∨ (s.lane l).locked = false)) ∧
    (∃ (s : State) (port : Fin 1024) (r : PortRec), s.Inv ∧ s.enabledRec port = some r ∧ r.port = port ∧ r.first +
      r.lanes ≤ 1024 ∧ s.get (PORT_STATUS.state r.first) = 2 ∧ (∀ l ∈ lanesOf r, s.get (LANE_CFG.loop l) ≠ 2)) ∧
    (∃ (s : State) (port : Fin 1024) (r : PortRec), s.Inv ∧ s.enabledRec port = some r ∧ r.port = port ∧ r.first +
      r.lanes ≤ 1024 ∧ s.get (PORT_STATUS.state r.first) = 5 ∧ s.get (PORT_CFG.auto_restart r.first) = 0) ∧
    (∃ (s : State) (port : Fin 1024) (r : PortRec), s.Inv ∧ s.enabledRec port = some r ∧ r.port = port ∧ r.first +
      r.lanes ≤ 1024 ∧ s.get (PORT_STATUS.state r.first) = 5 ∧ s.get (PORT_CFG.auto_restart r.first) = 1 ∧ s.get
      (LM_STATUS.pll_lock (macroOf r.first)) = 1) ∧
    (∃ (s : State) (port : Fin 1024) (r : PortRec), s.Inv ∧ s.enabledRec port = some r ∧ r.port = port ∧ r.first +
      r.lanes ≤ 1024 ∧ s.get (PORT_STATUS.state r.first) = 1 ∧ ∃ (speeds : Fin 256) (fec eee : Bool) (c : Nat),
      ((s.advertised r).filter (fun c => bitAt speeds (c - 1))).max? = some c) ∧
    (∃ (s : State) (port : Fin 1024) (r : PortRec), s.Inv ∧ s.enabledRec port = some r ∧ r.port = port ∧ r.first +
      r.lanes ≤ 1024 ∧ ∃ (lane : Fin 1024), s.portRegs lane = some r ∧ s.get (PORT_STATUS.state r.first) = 4) ∧
    (∃ (s : State) (port : Fin 1024) (r : PortRec), s.Inv ∧ s.enabledRec port = some r ∧ r.port = port ∧ r.first +
      r.lanes ≤ 1024 ∧ ∃ (lane : Fin 1024), s.portAt lane = some r ∧ s.get (PORT_STATUS.state r.first) = 4) ∧
    (∃ (s : State) (port : Fin 1024) (r : PortRec), s.Inv ∧ s.enabledRec port = some r ∧ r.port = port ∧ r.first +
      r.lanes ≤ 1024 ∧ s.get (PORT_STATUS.state r.first) = 4 ∧ r.link = 1) ∧
    (∃ (s : State) (port : Fin 1024) (r : PortRec), s.Inv ∧ s.enabledRec port = some r ∧ r.port = port ∧ r.first +
      r.lanes ≤ 1024 ∧ ∃ (lane : Fin 1024), s.portRegs lane = some r ∧ s.get (esBusy (PORT_ENABLE_STATUS.regOff
      lane)) = 1) ∧
    (∃ (s : State) (port : Fin 1024) (r : PortRec), s.Inv ∧ s.enabledRec port = some r ∧ r.port = port ∧ r.first +
      r.lanes ≤ 1024 ∧ ∃ (lane : Fin 1024), s.portRegs lane = some r ∧ s.get (esBusy (PORT_ENABLE_STATUS.regOff
      lane)) = 0 ∧ s.get (PORT_STATUS.state r.first) ≠ 0 ∧ s.get (PORT_STATUS.state r.first) ≠ 7 ∧ s.get
      (BUF_PORT_CFG2.drain_us port) ≠ 0) ∧
    (∃ (s : State) (port : Fin 1024) (r : PortRec), s.Inv ∧ s.enabledRec port = some r ∧ r.port = port ∧ r.first +
      r.lanes ≤ 1024 ∧ s.get (PORT_STATUS.state r.first) = 7 ∧ s.portHolds port = true ∧ (∃ x, s.buf.drains.find?
      (fun x => x.1 = port.val) = some x ∧ s.clk < x.2 + s.get (BUF_PORT_CFG2.drain_us port) * clkPerUs)) ∧
    (∃ (s : State) (port : Fin 1024) (r : PortRec), s.Inv ∧ s.enabledRec port = some r ∧ r.port = port ∧ r.first +
      r.lanes ≤ 1024 ∧ s.get (PORT_STATUS.state r.first) = 7 ∧ s.portHolds port = false) ∧
    (∃ (s : State) (port : Fin 1024) (r : PortRec), s.Inv ∧ s.enabledRec port = some r ∧ r.port = port ∧ r.first +
      r.lanes ≤ 1024 ∧ r.link = 2 ∧ s.get (PORT_STATUS.state r.first) = 4 ∧ (s.port port).rate = 1 ∧ (s.port
      port).heard = false ∧ s.clk < (s.port port).since + 8000) ∧
    (∃ (s : State) (port : Fin 1024) (r : PortRec), s.Inv ∧ s.enabledRec port = some r ∧ r.port = port ∧ r.first +
      r.lanes ≤ 1024 ∧ r.link = 2 ∧ s.get (PORT_STATUS.state r.first) = 4 ∧ (s.port port).rate = 1 ∧ (s.port
      port).heard = false ∧ (s.port port).since + 8000 ≤ s.clk) ∧
    (∃ (s : State) (port : Fin 1024) (r : PortRec), s.Inv ∧ s.enabledRec port = some r ∧ r.port = port ∧ r.first +
      r.lanes ≤ 1024 ∧ s.get (PORT_STATUS.state r.first) = 4 ∧ s.get (PORT_STATUS.eee_active r.first) = 1 ∧
      s.portHolds port = true) ∧
    (∃ (s : State) (port : Fin 1024) (r : PortRec), s.Inv ∧ s.enabledRec port = some r ∧ r.port = port ∧ r.first +
      r.lanes ≤ 1024 ∧ s.get (PORT_STATUS.state r.first) = 4 ∧ s.get (PORT_STATUS.eee_active r.first) = 1 ∧
      s.portHolds port = false) ∧
    (∃ (s : State) (port : Fin 1024) (r : PortRec), s.Inv ∧ s.enabledRec port = some r ∧ r.port = port ∧ r.first +
      r.lanes ≤ 1024 ∧ s.get (PORT_STATUS.state r.first) = 4 ∧ s.get (PORT_STATUS.eee_active r.first) = 1) ∧
    (∃ (s : State) (port : Fin 1024) (r : PortRec), s.Inv ∧ s.enabledRec port = some r ∧ r.port = port ∧ r.first +
      r.lanes ≤ 1024 ∧ (s.port port).heard = true) ∧
    (∃ (s : State) (port : Fin 1024) (r : PortRec), s.Inv ∧ s.enabledRec port = some r ∧ r.port = port ∧ r.first +
      r.lanes ≤ 1024 ∧ s.get (PORT_STATUS.eee_active r.first) = 0) :=
  ⟨⟨ported 1 6 3 [], 7, port0 1 6, inv_of (by decide +kernel), by decide +kernel⟩,
    ⟨ported 2 6 3 [], 7, port0 2 6, inv_of (by decide +kernel), by decide +kernel, by decide +kernel,
      by decide +kernel, [0, 1, 2], by decide +kernel⟩,
    ⟨laned (ported 2 6 3 []) { partner := true, locked := true }, 7, port0 2 6, inv_of (by decide +kernel),
      by decide +kernel, by decide +kernel, by decide +kernel, [3, 2, 1, 0], by decide +kernel⟩,
    ⟨ported 2 6 3 [], 7, port0 2 6, inv_of (by decide +kernel), by decide +kernel, by decide +kernel,
      by decide +kernel, [3, 2, 1, 0], by decide +kernel⟩,
    ⟨ported 1 6 2 [], 7, port0 1 6, inv_of (by decide +kernel), by decide +kernel⟩,
    ⟨ported 1 6 5 [(PORT_CFG.auto_restart 40, 0)], 7, port0 1 6, inv_of (by decide +kernel), by decide +kernel⟩,
    ⟨ported 1 6 5 [(PORT_CFG.auto_restart 40, 1), (LM_STATUS.pll_lock 5, 1)], 7, port0 1 6, inv_of
      (by decide +kernel), by decide +kernel⟩,
    ⟨ported 1 6 1 [(PORT_CFG.an_adv 40, 0xFF)], 7, port0 1 6, inv_of (by decide +kernel), by decide +kernel,
      by decide +kernel, by decide +kernel, by decide +kernel, 255, true, true, 7, by decide +kernel⟩,
    ⟨ported 1 6 4 [], 7, port0 1 6, inv_of (by decide +kernel), by decide +kernel, by decide +kernel,
      by decide +kernel, 40, by decide +kernel⟩,
    ⟨ported 1 6 4 [], 7, port0 1 6, inv_of (by decide +kernel), by decide +kernel, by decide +kernel,
      by decide +kernel, 43, by decide +kernel⟩,
    ⟨ported 1 6 4 [], 7, port0 1 6, inv_of (by decide +kernel), by decide +kernel⟩,
    ⟨ported 1 6 4 [(esBusy (PORT_ENABLE_STATUS.regOff 40), 1)], 7, port0 1 6, inv_of (by decide +kernel),
      by decide +kernel, by decide +kernel, by decide +kernel, 40, by decide +kernel⟩,
    ⟨ported 1 6 4 [], 7, port0 1 6, inv_of (by decide +kernel), by decide +kernel, by decide +kernel,
      by decide +kernel, 40, by decide +kernel⟩,
    ⟨let s := holding (ported 1 6 7 []) [pkt0 64] [copy0 (7 * 16 + 3)]; { s with buf := { drains := [(7, 0)] } }, 7,
      port0 1 6, inv_of (by decide +kernel), by decide +kernel, by decide +kernel, by decide +kernel,
      by decide +kernel, by decide +kernel, ⟨(7, 0), by decide +kernel⟩⟩,
    ⟨ported 1 6 7 [], 7, port0 1 6, inv_of (by decide +kernel), by decide +kernel⟩,
    ⟨{ linkedAs (ported 2 6 4 []) { linked := true, rate := 1 } with clk := 7999 }, 7, port0 2 6, inv_of
      (by decide +kernel), by decide +kernel⟩,
    ⟨{ linkedAs (ported 2 6 4 []) { linked := true, rate := 1 } with clk := 8000 }, 7, port0 2 6, inv_of
      (by decide +kernel), by decide +kernel⟩,
    ⟨holding (ported 1 6 4 [(PORT_STATUS.eee_active 40, 1)]) [pkt0 64] [copy0 (7 * 16 + 3)], 7, port0 1 6, inv_of
      (by decide +kernel), by decide +kernel⟩,
    ⟨ported 1 6 4 [(PORT_STATUS.eee_active 40, 1)], 7, port0 1 6, inv_of (by decide +kernel), by decide +kernel⟩,
    ⟨ported 1 6 4 [(PORT_STATUS.eee_active 40, 1)], 7, port0 1 6, inv_of (by decide +kernel), by decide +kernel⟩,
    ⟨linkedAs (ported 2 6 4 []) { linked := true, heard := true }, 7, port0 2 6, inv_of (by decide +kernel),
      by decide +kernel⟩,
    ⟨ported 1 6 4 [], 7, port0 1 6, inv_of (by decide +kernel), by decide +kernel⟩⟩

theorem witness_LanesTrainAdaptReceiveAndTest :
    (∃ (s : State) (lane : Fin 1024) (r : PortRec), s.Inv ∧ s.portAt lane = some r ∧ r.first + r.lanes ≤ 1024 ∧ ∃
      (ws : List (List (Int × Nat))) (fom i : Nat), s.get (PORT_STATUS.state r.first) = 2 ∧ (s.lane lane).phase = 1
      ∧ ws.length = (s.lane lane).hi + 1 - (s.lane lane).lo ∧ ws ≠ [] ∧ (s.lane lane).hi ≤ 31 ∧ (ws.map (figure
      (s.nrz r)))[i]? = some fom ∧ (∀ x ∈ ws.map (figure (s.nrz r)), x ≤ fom) ∧ (∀ x ∈ (ws.map (figure (s.nrz
      r))).take i, x < fom) ∧ s.get (LANE_EQ.adapt_en lane) = 1 ∧ s.get (LANE_EQ.fom_thr lane) ≤ fom) ∧
    (∃ (s : State) (lane : Fin 1024) (r : PortRec), s.Inv ∧ s.portAt lane = some r ∧ r.first + r.lanes ≤ 1024 ∧ ∃
      (ws : List (List (Int × Nat))) (fom i : Nat), s.get (PORT_STATUS.state r.first) = 2 ∧ (s.lane lane).phase = 1
      ∧ ws.length = (s.lane lane).hi + 1 - (s.lane lane).lo ∧ ws ≠ [] ∧ (s.lane lane).hi ≤ 31 ∧ (ws.map (figure
      (s.nrz r)))[i]? = some fom ∧ (∀ x ∈ ws.map (figure (s.nrz r)), x ≤ fom) ∧ (∀ x ∈ (ws.map (figure (s.nrz
      r))).take i, x < fom) ∧ s.get (LANE_EQ.adapt_en lane) = 1 ∧ fom < s.get (LANE_EQ.fom_thr lane) ∧ s.trains r =
      true ∧ (s.port r.port).rate < 2 ∧ ∃ k, nextPlace (s.lane lane).far (s.lane lane).tap = some k) ∧
    (∃ (s : State) (lane : Fin 1024) (r : PortRec), s.Inv ∧ s.portAt lane = some r ∧ r.first + r.lanes ≤ 1024 ∧ ∃
      (ws : List (List (Int × Nat))) (fom i : Nat), s.get (PORT_STATUS.state r.first) = 2 ∧ (s.lane lane).phase = 1
      ∧ ws.length = (s.lane lane).hi + 1 - (s.lane lane).lo ∧ ws ≠ [] ∧ (s.lane lane).hi ≤ 31 ∧ (ws.map (figure
      (s.nrz r)))[i]? = some fom ∧ (∀ x ∈ ws.map (figure (s.nrz r)), x ≤ fom) ∧ (∀ x ∈ (ws.map (figure (s.nrz
      r))).take i, x < fom) ∧ s.get (LANE_EQ.adapt_en lane) = 0 ∧ s.get (LANE_EQ.fom_min lane) ≤ fom) ∧
    (∃ (s : State) (lane : Fin 1024) (r : PortRec), s.Inv ∧ s.portAt lane = some r ∧ r.first + r.lanes ≤ 1024 ∧ ∃
      (ws : List (List (Int × Nat))) (fom i : Nat), s.get (PORT_STATUS.state r.first) = 2 ∧ (s.lane lane).phase = 1
      ∧ ws.length = (s.lane lane).hi + 1 - (s.lane lane).lo ∧ ws ≠ [] ∧ (s.lane lane).hi ≤ 31 ∧ (ws.map (figure
      (s.nrz r)))[i]? = some fom ∧ (∀ x ∈ ws.map (figure (s.nrz r)), x ≤ fom) ∧ (∀ x ∈ (ws.map (figure (s.nrz
      r))).take i, x < fom) ∧ s.get (LANE_EQ.adapt_en lane) = 0 ∧ fom < s.get (LANE_EQ.fom_min lane)) ∧
    (∃ (s : State) (lane : Fin 1024) (r : PortRec), s.Inv ∧ s.portAt lane = some r ∧ r.first + r.lanes ≤ 1024 ∧
      s.get (PORT_STATUS.state r.first) = 2 ∧ r.link = 1 ∧ s.trains r = true ∧ (s.lane lane).phase = 2) ∧
    (∃ (s : State) (lane : Fin 1024) (r : PortRec), s.Inv ∧ s.portAt lane = some r ∧ r.first + r.lanes ≤ 1024 ∧
      s.get (PORT_STATUS.state r.first) = 2 ∧ r.link = 1 ∧ s.trains r = true ∧ ∃ (k : Fin 3) (v w : Int), v = signed
      6 (s.get (tapField lane k)) ∧ v ≠ 0 ∧ w = v + (if 0 < v then 1 else -1) ∧ tapInRange k w = true) ∧
    (∃ (s : State) (lane : Fin 1024) (r : PortRec), s.Inv ∧ s.portAt lane = some r ∧ r.first + r.lanes ≤ 1024 ∧
      s.get (PORT_STATUS.state r.first) = 2 ∧ r.link = 1 ∧ s.trains r = true ∧ ∃ (k : Fin 3) (v w : Int), v = signed
      6 (s.get (tapField lane k)) ∧ v ≠ 0 ∧ w = v + (if 0 < v then 1 else -1) ∧ tapInRange k w = false) ∧
    (∃ (s : State) (lane : Fin 1024) (r : PortRec), s.Inv ∧ s.portAt lane = some r ∧ r.first + r.lanes ≤ 1024 ∧
      s.get (PORT_STATUS.state r.first) = 2 ∧ r.link = 1 ∧ s.trains r = true) ∧
    (∃ (s : State) (lane : Fin 1024) (r : PortRec), s.Inv ∧ s.portAt lane = some r ∧ r.first + r.lanes ≤ 1024 ∧ ∃ k,
      s.get (PORT_STATUS.state r.first) = 2 ∧ (s.lane lane).phase = 2 ∧ nextPlace (s.lane lane).far ((s.lane
      lane).tap + 1) = some k) ∧
    (∃ (s : State) (lane : Fin 1024) (r : PortRec), s.Inv ∧ s.portAt lane = some r ∧ r.first + r.lanes ≤ 1024 ∧ ∃
      below above : List (Int × Nat), s.get (PORT_STATUS.state r.first) = 4 ∧ s.get (LANE_EQ.cont_en lane) = 1 ∧
      s.get (LANE_STATUS.ctle lane) ≠ 0 ∧ s.get (LANE_STATUS.fom lane) + 4 ≤ figure (s.nrz r) below ∧ figure (s.nrz
      r) above ≤ figure (s.nrz r) below) ∧
    (∃ (s : State) (lane : Fin 1024) (r : PortRec), s.Inv ∧ s.portAt lane = some r ∧ r.first + r.lanes ≤ 1024 ∧ ∃
      below above : List (Int × Nat), s.get (PORT_STATUS.state r.first) = 4 ∧ s.get (LANE_EQ.cont_en lane) = 1 ∧
      s.get (LANE_STATUS.ctle lane) ≠ 31 ∧ s.get (LANE_STATUS.fom lane) + 4 ≤ figure (s.nrz r) above ∧ figure (s.nrz
      r) below < figure (s.nrz r) above) ∧
    (∃ (s : State) (lane : Fin 1024) (r : PortRec), s.Inv ∧ s.portAt lane = some r ∧ r.first + r.lanes ≤ 1024 ∧ ∃
      below above : List (Int × Nat), s.get (PORT_STATUS.state r.first) = 4 ∧ s.get (LANE_EQ.cont_en lane) = 1 ∧
      figure (s.nrz r) below < s.get (LANE_STATUS.fom lane) + 4 ∧ figure (s.nrz r) above < s.get (LANE_STATUS.fom
      lane) + 4) ∧
    (∃ (s : State) (lane : Fin 1024) (r : PortRec), s.Inv ∧ s.portAt lane = some r ∧ r.first + r.lanes ≤ 1024 ∧ ∃
      (line : List (Fin 4)) (w : List Nat), r.link = 2 ∧ w = lineCodeword (s.nrz r) (polar (s.get
      (LANE_CFG.rx_invert lane) = 1) (s.nrz r) (line.map (·.val))) ∧ s.get (PORT_STATUS.state r.first) = 4 ∧ syncOf
      (codewordBits w) ≠ 0xD2B4 ∧ 3 ≤ (s.lane lane).miss) ∧
    (∃ (s : State) (lane : Fin 1024) (r : PortRec), s.Inv ∧ s.portAt lane = some r ∧ r.first + r.lanes ≤ 1024 ∧ ∃
      (line : List (Fin 4)) (w : List Nat), r.link = 2 ∧ w = lineCodeword (s.nrz r) (polar (s.get
      (LANE_CFG.rx_invert lane) = 1) (s.nrz r) (line.map (·.val))) ∧ s.get (PORT_STATUS.state r.first) = 4 ∧ syncOf
      (codewordBits w) = 0xD2B4 ∧ rsDecode w = none) ∧
    (∃ (s : State) (lane : Fin 1024) (r : PortRec), s.Inv ∧ s.portAt lane = some r ∧ r.first + r.lanes ≤ 1024 ∧ ∃
      (line : List (Fin 4)) (w : List Nat), r.link = 2 ∧ w = lineCodeword (s.nrz r) (polar (s.get
      (LANE_CFG.rx_invert lane) = 1) (s.nrz r) (line.map (·.val))) ∧ ∃ (d : List Nat) (n : Nat), rsDecode w = some
      (d, n) ∧ syncOf (codewordBits w) = 0xD2B4 ∧ s.get (PORT_STATUS.state r.first) = 2 ∧ (rlWord (descramble
      (s.lane lane).hist (codewordBits d))).state ≠ 3) ∧
    (∃ (s : State) (lane : Fin 1024) (r : PortRec), s.Inv ∧ s.portAt lane = some r ∧ r.first + r.lanes ≤ 1024 ∧ ∃
      (line : List (Fin 4)) (w : List Nat), r.link = 2 ∧ w = lineCodeword (s.nrz r) (polar (s.get
      (LANE_CFG.rx_invert lane) = 1) (s.nrz r) (line.map (·.val))) ∧ ∃ (d : List Nat) (n : Nat), rsDecode w = some
      (d, n) ∧ syncOf (codewordBits w) = 0xD2B4 ∧ ∃ (h : RlWord) (f : RlFill), h = rlWord (descramble (s.lane
      lane).hist (codewordBits d)) ∧ f = rlFill (s.port r.port).stream 0 (s.port r.port).off ∧ s.get
      (PORT_STATUS.state r.first) = 4 ∧ h.ok = true ∧ h.state = 0 ∧ h.seq ≠ (s.port r.port).next ∧ (s.port
      r.port).rate = 0 ∧ (s.port r.port).told = 0 ∧ 0 < r.lanes ∧ (∀ c ∈ (s.port r.port).chunks, c.1 ≠ (s.port
      r.port).next)) ∧
    (∃ (s : State) (lane : Fin 1024) (r : PortRec), s.Inv ∧ s.portAt lane = some r ∧ r.first + r.lanes ≤ 1024 ∧
      s.get (LANE_PRBS.gen_en lane) = 1 ∧ s.get (LANE_PRBS.gen_pat lane) ≤ 9) ∧
    (∃ (s : State) (lane : Fin 1024) (r : PortRec), s.Inv ∧ s.portAt lane = some r ∧ r.first + r.lanes ≤ 1024 ∧
      s.get (LANE_PRBS.gen_en lane) = 0) ∧
    (∃ (s : State) (lane : Fin 1024) (r : PortRec), s.Inv ∧ s.portAt lane = some r ∧ r.first + r.lanes ≤ 1024 ∧
      r.first = lane ∧ s.get (PORT_STATUS.state lane) = 4 ∧ s.get (PORT_INJ.symbols lane) ≠ 0 ∧ s.get
      (PORT_STATUS.fec_active lane) ≠ 1 ∧ s.get (PORT_INJ.period lane) = 0) ∧
    (∃ (s : State) (lane : Fin 1024) (r : PortRec), s.Inv ∧ s.portAt lane = some r ∧ r.first + r.lanes ≤ 1024 ∧
      r.first = lane ∧ s.get (PORT_STATUS.state lane) = 4 ∧ s.get (PORT_INJ.symbols lane) ≠ 0 ∧ s.get
      (PORT_STATUS.fec_active lane) ≠ 1 ∧ s.get (PORT_INJ.period lane) ≠ 0) ∧
    (∃ (s : State) (lane : Fin 1024) (r : PortRec), s.Inv ∧ s.portAt lane = some r ∧ r.first + r.lanes ≤ 1024 ∧ ∃
      (locked : Bool) (errors mbits : Nat), s.get (LANE_PRBS.chk_en lane) = 1 ∧ s.get (LANE_PRBS.chk_pat lane) ≤ 9) :=
  ⟨⟨training { phase := 1, lo := 31, hi := 31 } [(LANE_EQ.adapt_en 40, 1), (LANE_EQ.fom_thr 40, 183)], 40, port0 1
      6, inv_of (by decide +kernel), by decide +kernel, by decide +kernel, [window0 9], 183, 0, by decide +kernel⟩,
    ⟨training { phase := 1, lo := 31, hi := 31, far := [0, 0, 0] } [(LANE_EQ.adapt_en 40, 1), (LANE_EQ.fom_thr 40,
      184)], 40, port0 1 6, inv_of (by decide +kernel), by decide +kernel, by decide +kernel, [window0 9], 183, 0,
      by decide +kernel, by decide +kernel, by decide +kernel, by decide +kernel, by decide +kernel,
      by decide +kernel, by decide +kernel, by decide +kernel, by decide +kernel, by decide +kernel,
      by decide +kernel, by decide +kernel, 0, by decide +kernel⟩,
    ⟨training { phase := 1, lo := 31, hi := 31 } [(LANE_EQ.adapt_en 40, 0), (LANE_EQ.fom_min 40, 183)], 40, port0 1
      6, inv_of (by decide +kernel), by decide +kernel, by decide +kernel, [window0 9], 183, 0, by decide +kernel⟩,
    ⟨training { phase := 1, lo := 31, hi := 31 } [(LANE_EQ.adapt_en 40, 0), (LANE_EQ.fom_min 40, 184)], 40, port0 1
      6, inv_of (by decide +kernel), by decide +kernel, by decide +kernel, [window0 9], 183, 0, by decide +kernel⟩,
    ⟨training { phase := 2 } [], 40, port0 1 6, inv_of (by decide +kernel), by decide +kernel⟩,
    ⟨training {} [(LANE_STATUS.tx_c1 40, 41)], 40, port0 1 6, inv_of (by decide +kernel), by decide +kernel,
      by decide +kernel, by decide +kernel, by decide +kernel, by decide +kernel, 2, -23, -24, by decide +kernel⟩,
    ⟨training {} [(LANE_STATUS.tx_cm2 40, 8)], 40, port0 1 6, inv_of (by decide +kernel), by decide +kernel,
      by decide +kernel, by decide +kernel, by decide +kernel, by decide +kernel, 0, 8, 9, by decide +kernel⟩,
    ⟨training {} [], 40, port0 1 6, inv_of (by decide +kernel), by decide +kernel⟩,
    ⟨training { phase := 2, far := [0, 0, 0] } [], 40, port0 1 6, inv_of (by decide +kernel), by decide +kernel,
      by decide +kernel, 1, by decide +kernel⟩,
    ⟨ported 1 6 4 [(LANE_EQ.cont_en 40, 1), (LANE_STATUS.ctle 40, 1), (LANE_STATUS.fom 40, 179)], 40, port0 1 6,
      inv_of (by decide +kernel), by decide +kernel, by decide +kernel, window0 9, window0 100, by decide +kernel⟩,
    ⟨ported 1 6 4 [(LANE_EQ.cont_en 40, 1), (LANE_STATUS.ctle 40, 30), (LANE_STATUS.fom 40, 179)], 40, port0 1 6,
      inv_of (by decide +kernel), by decide +kernel, by decide +kernel, window0 100, window0 9, by decide +kernel⟩,
    ⟨ported 1 6 4 [(LANE_EQ.cont_en 40, 1), (LANE_STATUS.fom 40, 180)], 40, port0 1 6, inv_of (by decide +kernel),
      by decide +kernel, by decide +kernel, window0 9, window0 9, by decide +kernel⟩,
    ⟨laned (ported 2 6 4 []) { miss := 3 }, 40, port0 2 6, inv_of (by decide +kernel), by decide +kernel,
      by decide +kernel, [], lineCodeword false [], by decide +kernel⟩,
    ⟨ported 2 6 4 [], 40, port0 2 6, inv_of (by decide +kernel), by decide +kernel, by decide +kernel, line0
      badHead, badCodeword, by decide +kernel, by decide +kernel, by decide +kernel, by decide +kernel,
      rsDecode_bad⟩,
    ⟨ported 2 6 2 [], 40, port0 2 6, inv_of (by decide +kernel), by decide +kernel, by decide +kernel, line0 head0,
      codeword0, by decide +kernel, by decide +kernel, codeword0, 0, rsDecode_codeword0, by decide +kernel⟩,
    ⟨linkedAs (ported 2 6 4 []) { linked := true, next := 5 }, 40, port0 2 6, inv_of (by decide +kernel),
      by decide +kernel, by decide +kernel, line0 head0, codeword0, by decide +kernel, by decide +kernel, codeword0,
      0, rsDecode_codeword0, by decide +kernel, rlWord (descramble 0 (codewordBits codeword0)), rlFill [] 0 0,
      by decide +kernel⟩,
    ⟨ported 1 6 4 [(LANE_PRBS.gen_en 40, 1)], 40, port0 1 6, inv_of (by decide +kernel), by decide +kernel⟩,
    ⟨ported 1 6 4 [], 40, port0 1 6, inv_of (by decide +kernel), by decide +kernel⟩,
    ⟨ported 1 6 4 [(PORT_INJ.symbols 40, 3), (PORT_STATUS.fec_active 40, 3)], 40, port0 1 6, inv_of
      (by decide +kernel), by decide +kernel⟩,
    ⟨ported 1 6 4 [(PORT_INJ.symbols 40, 3), (PORT_STATUS.fec_active 40, 3), (PORT_INJ.period 40, 1)], 40, port0 1
      6, inv_of (by decide +kernel), by decide +kernel⟩,
    ⟨ported 1 6 4 [(LANE_PRBS.chk_en 40, 1)], 40, port0 1 6, inv_of (by decide +kernel), by decide +kernel,
      by decide +kernel, true, 0, 0, by decide +kernel⟩⟩

theorem witness_HarvestsDeliverAndPostcardsExport :
    (∃ s : State, s.Inv ∧ s.pwrState < 2 ∧ s.get MTR_STATUS.enabled = 1 ∧ s.nowNs < s.mtr.nextAt ∧ s.mtr.now =
      false) ∧
    (∃ s : State, s.Inv ∧ s.pwrState < 2 ∧ s.get MTR_STATUS.enabled = 1 ∧ (s.mtr.nextAt ≤ s.nowNs ∨ s.mtr.now =
      true)) ∧
    (∃ s : State, s.Inv ∧ ∃ (n r : Nat) (w : List Word) (b : Batch), s.seqRuns 2 = true ∧ s.summaryDue = some (n, r)
      ∧ s.headCopy r = (s, some w) ∧ meterBad w = false ∧ (smGet noSum s.mtr.sums n = some b ∨ (smGet noSum
      s.mtr.sums n = none ∧ s.lockOwner = 3 ∧ b = s.summaryBatch n ((smGet noLoss s.mtr.losses n).getD ⟨0, 0, 0,
      0⟩)))) ∧
    (∃ s : State, s.Inv ∧ ∃ d : Delivery, s.mtr.delivery = some d ∧ s.seqRuns 2 = true ∧ d.pair < 16384 ∧ d.waits =
      false ∧ s.summaryDue = none ∧ s.meterRing 0 (s.get MTR_CFG.pf_ring) = false) ∧
    (∃ s : State, s.Inv ∧ ∃ d : Delivery, s.mtr.delivery = some d ∧ s.seqRuns 2 = true ∧ d.pair < 16384 ∧ d.waits =
      false ∧ s.summaryDue = none ∧ ∃ w : List Word, s.meterRing 0 (s.get MTR_CFG.pf_ring) = true ∧ s.headCopy
      (s.get MTR_CFG.pf_ring) = (s, some w) ∧ meterBad w = true) ∧
    (∃ s : State, s.Inv ∧ ∃ d : Delivery, s.mtr.delivery = some d ∧ s.seqRuns 2 = true ∧ d.pair < 16384 ∧ d.waits =
      false ∧ s.summaryDue = none ∧ ∃ w : List Word, s.meterRing 0 (s.get MTR_CFG.pf_ring) = true ∧ s.headCopy
      (s.get MTR_CFG.pf_ring) = (s, some w) ∧ meterBad w = false ∧ (s.keySlot (s.get MTR_CFG.key_slot)).valid = true
      ∧ d.held = none ∧ s.lockOwner ≠ 3) ∧
    (∃ s : State, s.Inv ∧ ∃ d : Delivery, s.mtr.delivery = some d ∧ s.seqRuns 2 = true ∧ d.pair < 16384 ∧ d.waits =
      false ∧ s.summaryDue = none ∧ ∃ w : List Word, s.meterRing 0 (s.get MTR_CFG.pf_ring) = true ∧ s.headCopy
      (s.get MTR_CFG.pf_ring) = (s, some w) ∧ ∃ b : Batch, meterBad w = false ∧ (d.held = some b ∨ (d.held = none ∧
      s.lockOwner = 3 ∧ (s.keySlot (s.get MTR_CFG.key_slot)).valid = true ∧ b = s.pfBatch d (s.batchRoom w)))) ∧
    (∃ s : State, s.Inv ∧ ∃ d : Delivery, s.mtr.delivery = some d ∧ s.seqRuns 2 = true ∧ ∃ (n : Fin 64) (r u : Nat)
      (l : List (Nat × Nat × Nat)) (fails : Bool), 16384 ≤ d.pair ∧ d.vfs = (n.val, r, u) :: l ∧ s.summaryDue = none
      ∧ s.meterRing n r = false) ∧
    (∃ s : State, s.Inv ∧ ∃ d : Delivery, s.mtr.delivery = some d ∧ s.seqRuns 2 = true ∧ 16384 ≤ d.pair ∧ d.vfs =
      []) ∧
    (∃ s : State, s.Inv ∧ ∃ d : Delivery, s.mtr.delivery = some d ∧ s.seqRuns 2 = true ∧ d.waits = true) ∧
    (∃ s : State, s.Inv ∧ ∃ d : Delivery, s.mtr.delivery = some d ∧ s.seqRuns 2 = true ∧ d.waits = false) ∧
    (∃ s : State, s.Inv ∧ s.frameDue = false) ∧
    (∃ s : State, s.Inv ∧ s.frameDue = true) :=
  ⟨⟨{ st [(MTR_STATUS.enabled, 1)] with mtr := { nextAt := 1 } }, inv_of (by decide +kernel), by decide +kernel⟩,
    ⟨st [(MTR_STATUS.enabled, 1)], inv_of (by decide +kernel), by decide +kernel⟩,
    ⟨let s := delivering meterEntry delivery0; { s with
      mtr := { s.mtr with vfs := [(0, 5, 9)], losses := [(0, some ⟨4, 3, 7, 8⟩)], sums := [(0, some batch0)] } },
      inv_of (by decide +kernel), 0, 5, meterEntry, batch0, by decide +kernel, by decide +kernel, headCopy_of
      (by decide +kernel), by decide +kernel⟩,
    ⟨{ State.reset with mtr := { delivery := some delivery0 } }, inv_of (by decide +kernel), delivery0,
      by decide +kernel⟩,
    ⟨delivering (entryOf (5 * 2 ^ 59) 65 9000) delivery0, inv_of (by decide +kernel), delivery0, by decide +kernel,
      by decide +kernel, by decide +kernel, by decide +kernel, by decide +kernel, entryOf (5 * 2 ^ 59) 65 9000,
      by decide +kernel, headCopy_of (by decide +kernel), by decide +kernel⟩,
    ⟨delivering meterEntry delivery0, inv_of (by decide +kernel), delivery0, by decide +kernel, by decide +kernel,
      by decide +kernel, by decide +kernel, by decide +kernel, meterEntry, by decide +kernel, headCopy_of
      (by decide +kernel), by decide +kernel⟩,
    ⟨delivering meterEntry { delivery0 with held := some batch0 }, inv_of (by decide +kernel), { delivery0 with
      held := some batch0 }, by decide +kernel, by decide +kernel, by decide +kernel, by decide +kernel,
      by decide +kernel, meterEntry, by decide +kernel, headCopy_of (by decide +kernel), batch0, by decide +kernel⟩,
    ⟨{ State.reset with mtr := { delivery := some { delivery0 with pair := 16384 } } }, inv_of (by decide +kernel),
      { delivery0 with pair := 16384 }, by decide +kernel, by decide +kernel, 3, 9, 5, [], false, by decide +kernel⟩,
    ⟨{ State.reset with mtr := { delivery := some { delivery0 with pair := 16384, vfs := [] } } }, inv_of
      (by decide +kernel), { delivery0 with pair := 16384, vfs := [] }, by decide +kernel⟩,
    ⟨{ State.reset with mtr := { delivery := some { delivery0 with waits := true } } }, inv_of (by decide +kernel),
      { delivery0 with waits := true }, by decide +kernel⟩,
    ⟨{ State.reset with mtr := { delivery := some delivery0 } }, inv_of (by decide +kernel), delivery0,
      by decide +kernel⟩,
    ⟨State.reset, inv_of (by decide +kernel), by decide +kernel⟩,
    ⟨{ st [(POST_CFG.max_slots, 2)] with
      mtr := { postOn := true, posts := [⟨List.replicate 64 1, 3⟩, ⟨List.replicate 64 1, 3⟩] } }, inv_of
      (by decide +kernel), by decide +kernel⟩⟩

theorem witness_PerformanceCountersAddWrapAndReport :
    (∃ (s t : State) (u b code n : Nat) (a : PerfAttr), s.Inv ∧ u ≤ 32 ∧ b < 64 ∧ code ≠ 0 ∧ t = s.perf (perfBlock u
      b) code a n ∧ ∃ k, k < 4 ∧ s.get (PERF_SEL.event (perfBlock u b) k) = code ∧ s.perfPass (perfBlock u b) k a =
      true ∧ 2 ^ 48 ≤ s.get (PERF_CNT.value (perfBlock u b) k) + n ∧ s.get (PERF_SEL.ov_event (perfBlock u b) k) = 1
      ∧ s.get MTR_CFG2.event_en = 1 ∧ s.ringEnabled (s.get MTR_CFG2.event_ring) = true ∧ s.ringFunc (s.get
      MTR_CFG2.event_ring) = 0 ∧ s.ringKind (s.get MTR_CFG2.event_ring) = 4) ∧
    (∃ (s t : State) (u b code n : Nat) (a : PerfAttr), s.Inv ∧ u ≤ 32 ∧ b < 64 ∧ code ≠ 0 ∧ t = s.perf (perfBlock u
      b) code a n ∧ ∃ k, k < 4 ∧ (s.get (PERF_SEL.event (perfBlock u b) k) ≠ code ∨ s.perfPass (perfBlock u b) k a =
      false)) :=
  ⟨⟨counting, counting.perf (perfBlock 32 6) 2 {} 1, 32, 6, 2, 1, {}, inv_of (by decide +kernel),
      by decide +kernel, by decide +kernel, by decide +kernel, rfl, 3, by decide +kernel⟩,
    ⟨counting, counting.perf (perfBlock 32 6) 2 {} 1, 32, 6, 2, 1, {}, inv_of (by decide +kernel),
      by decide +kernel, by decide +kernel, by decide +kernel, rfl, 0, by decide +kernel⟩⟩

end Sys2Proof.Tests
end

section
/-! PROOFS. Every command completes and keeps the invariant, and so does a clock cycle (00_scope.md R12,
13_time.md R486). -/

-- One declaration at a time: the package is compiled as one text, and a thread for each would not fit.
set_option Elab.async false

namespace Sys2Proof.Machine

/-- Every command but the end of a provisioning completes and keeps what `Keep` says: each arm names the law of the
command's meaning. -/
theorem exec_keep (c : Instr) (s : State) (h : c ≠ .keyProvisionDone) : ∃ t, exec c s = .next t ∧ Keep s t := by
  have k := Keep.refl s
  cases c with
  | registerWrite _ _ _ _ _ => exact ⟨_, rfl, State.hostWriteReg_keep k⟩
  | readClear _ _ _ _ => exact ⟨_, rfl, State.hostRead_keep k⟩
  | rootPllLockLoss => exact ⟨_, rfl, Keep.ite (State.raise_keep (State.puts_keep k)) k⟩
  | refClockLoss => exact ⟨_, rfl, Keep.ite (State.puts_keep k) k⟩
  | lanePllLockLoss _ => exact ⟨_, rfl, State.macroLockLost_keep k⟩
  | frameReceive _ _ _ _ => exact ⟨_, rfl, State.frameReceive_keep k⟩
  | lastByteHeld _ _ _ => exact ⟨_, rfl, State.lastByteHeld_keep k⟩
  | parserEntry _ _ => exact ⟨_, rfl, State.parserEntry_keep k⟩
  | stageExecute _ _ _ _ _ => exact ⟨_, rfl, State.stageExecute_keep k⟩
  | csRepair _ _ _ _ _ =>
    exact ⟨_, rfl, Keep.ite (State.bufferStop_keep (State.csRepair_keep k)) (State.csRepair_keep k)⟩
  | csScrub _ _ _ _ => exact ⟨_, rfl, Keep.ite k (State.storeError_keep k)⟩
  | seqStoreRepair _ _ _ => exact ⟨_, rfl, State.seqRepair_keep k⟩
  | admission _ => exact ⟨_, rfl, State.admission_keep k⟩
  | cellWrite _ _ _ => exact ⟨_, rfl, State.cellWrite_keep k⟩
  | writeStallEnd _ => exact ⟨_, rfl, State.stallEnd_keep k⟩
  | cellRead _ _ _ => exact ⟨_, rfl, State.cellRead_keep k⟩
  | tagSweepComplete _ => exact ⟨_, rfl, State.sweepDone_keep k⟩
  | rakeRefill _ _ _ => exact ⟨_, rfl, State.rakeRefill_keep k⟩
  | rakeRebalance _ => exact ⟨_, rfl, State.rakeRebalance_keep k⟩
  | peakSample => exact ⟨_, rfl, State.samplePeaks_keep k⟩
  | schedDecide _ => exact ⟨_, rfl, State.schedDecide_keep k⟩
  | txStart _ _ => exact ⟨_, rfl, State.txStart_keep k⟩
  | pfcFrameSend _ => exact ⟨_, rfl, State.pfcSend_keep k⟩
  | pfcRefresh _ => exact ⟨_, rfl, State.pfcRefresh_keep k⟩
  | pfcReceive _ _ => exact ⟨_, rfl, State.pfcReceive_keep k⟩
  | pauseReceive _ _ => exact ⟨_, rfl, State.pauseReceive_keep k⟩
  | pauseTimerExpire _ _ => exact ⟨_, rfl, State.pauseExpire_keep k⟩
  | starvationCheck => exact ⟨_, rfl, Keep.ite k (Keep.foldl k (fun _ _ h => State.starveCheck_keep h))⟩
  | gateEntryChange _ => exact ⟨_, rfl, Keep.ite (State.showGates_keep k) k⟩
  | gateTakeoverGo => exact ⟨_, rfl, State.gatedWrite_keep k (fun _ h => State.gateGo_keep h)⟩
  | gateTakeover _ => exact ⟨_, rfl, State.gateTakeover_keep k⟩
  | schedIndWrite => exact ⟨_, rfl, State.gatedWrite_keep k (fun _ h => State.schedIndGo_keep h)⟩
  | schedIndRead => exact ⟨_, rfl, State.gatedWrite_keep k (fun _ h => State.schedIndGo_keep h)⟩
  | indirectCmdComplete _ => exact ⟨_, rfl, State.indDone_keep k⟩
  | structEnable _ _ => exact ⟨_, rfl, State.imageEnable_keep k⟩
  | imageLockTimeout => exact ⟨_, rfl, State.imageLockTimeout_keep k⟩
  | imageTagVerified _ _ _ => exact ⟨_, rfl, State.imageVerified_keep k⟩
  | imageActivate => exact ⟨_, rfl, State.imageActivate_keep k⟩
  | structDisable => exact ⟨_, rfl, State.imageDisable_keep k⟩
  | structDrainEnd => exact ⟨_, rfl, State.drainEnd_keep k⟩
  | structCommitGo _ => exact ⟨_, rfl, State.commitGo_keep k⟩
  | commitAdvance _ => exact ⟨_, rfl, State.commitAdvance_keep k⟩
  | commitSlotTimeout _ => exact ⟨_, rfl, State.slotTimeout_keep k⟩
  | patchEnable _ _ => exact ⟨_, rfl, State.patchEnable_keep k⟩
  | patchLockTimeout => exact ⟨_, rfl, State.patchLockTimeout_keep k⟩
  | patchTagVerified _ _ _ => exact ⟨_, rfl, State.patchVerified_keep k⟩
  | patchLoadDone => exact ⟨_, rfl, State.patchDone_keep k⟩
  | patFlip => exact ⟨_, rfl, State.gatedWrite_keep k (fun _ h => State.patFlip_keep h)⟩
  | patWrite => exact ⟨_, rfl, State.gatedWrite_keep k (fun _ h => State.patGo_keep h)⟩
  | patRead => exact ⟨_, rfl, State.gatedWrite_keep k (fun _ h => State.patGo_keep h)⟩
  | tblNop _ _ _ => exact ⟨_, rfl, State.accept_keep k⟩
  | tblAdd _ _ _ => exact ⟨_, rfl, State.accept_keep k⟩
  | tblModify _ _ _ => exact ⟨_, rfl, State.accept_keep k⟩
  | tblUpsert _ _ _ => exact ⟨_, rfl, State.accept_keep k⟩
  | tblDelete _ _ _ => exact ⟨_, rfl, State.accept_keep k⟩
  | tblRead _ _ _ => exact ⟨_, rfl, State.accept_keep k⟩
  | tblReadNext _ _ _ => exact ⟨_, rfl, State.accept_keep k⟩
  | tblFlush _ _ _ => exact ⟨_, rfl, State.accept_keep k⟩
  | tblCommit _ _ _ => exact ⟨_, rfl, State.accept_keep k⟩
  | tblCmdComplete _ _ => exact ⟨_, rfl, State.kick_keep (State.cmdComplete_keep k)⟩
  | entryMoveEnd _ _ _ => exact ⟨_, rfl, State.moveEnd_keep k⟩
  | rebalanceMove _ _ _ => exact ⟨_, rfl, State.rebalance_keep k⟩
  | tcamScrub _ _ _ _ => exact ⟨_, rfl, State.tcamScrub_keep k⟩
  | parityRepair _ _ _ _ _ _ => exact ⟨_, rfl, Keep.ite k (State.parityRepair_keep k)⟩
  | learnAccept _ => exact ⟨_, rfl, State.learnAccept_keep k⟩
  | stationMove _ => exact ⟨_, rfl, State.stationMove_keep k⟩
  | learnUnblock _ => exact ⟨_, rfl, State.gatedWrite_keep k (fun _ h => State.unblock_keep h)⟩
  | ageVisit _ _ _ _ => exact ⟨_, rfl, State.ageVisit_keep k⟩
  | plEnable => exact ⟨_, rfl, State.gatedWrite_keep k (fun _ h => State.plEnable_keep h)⟩
  | plDisable => exact ⟨_, rfl, State.gatedWrite_keep k (fun _ h => State.plDisable_keep h)⟩
  | plIndWrite => exact ⟨_, rfl, State.gatedWrite_keep k (fun _ h => State.plIndGo_keep h)⟩
  | plIndRead => exact ⟨_, rfl, State.gatedWrite_keep k (fun _ h => State.plIndGo_keep h)⟩
  | levelSnapshot => exact ⟨_, rfl, Keep.ite k (State.levelSnapshot_keep k)⟩
  | flowletSweep _ _ => exact ⟨_, rfl, State.flowletSweep_keep k⟩
  | beaconSend _ => exact ⟨_, rfl, State.beaconSend_keep k⟩
  | beaconReceive _ _ => exact ⟨_, rfl, State.beaconReceive_keep k⟩
  | neighborTimeout _ => exact ⟨_, rfl, State.neighborTimeout_keep k⟩
  | creditReceive _ _ => exact ⟨_, rfl, State.creditReceive_keep k⟩
  | creditReturnSend _ => exact ⟨_, rfl, State.creditSend_keep k⟩
  | bufApply => exact ⟨_, rfl, State.gatedWrite_keep k (fun _ h => State.bufApply_keep h)⟩
  | bufIndWrite => exact ⟨_, rfl, State.gatedWrite_keep k (fun _ h => State.bufIndGo_keep h)⟩
  | bufIndRead => exact ⟨_, rfl, State.gatedWrite_keep k (fun _ h => State.bufIndGo_keep h)⟩
  | portStop _ => exact ⟨_, rfl, State.gatedWrite_keep k (fun _ h => State.portStop_keep h)⟩
  | portStopClear _ => exact ⟨_, rfl, State.gatedWrite_keep k (fun _ h => State.portStopClear_keep h)⟩
  | stopDrainEnd _ => exact ⟨_, rfl, State.stopDrainEnd_keep k⟩
  | harvestEdge => exact ⟨_, rfl, State.harvestEdge_keep k⟩
  | mtrNow => exact ⟨_, rfl, State.mtrNow_keep k⟩
  | mtrEnable => exact ⟨_, rfl, State.gatedWrite_keep k (fun _ h => State.mtrEnable_keep h)⟩
  | mtrDisable => exact ⟨_, rfl, State.gatedWrite_keep k (fun _ h => State.mtrDisable_keep h)⟩
  | meterBatchSend _ => exact ⟨_, rfl, State.batchSend_keep k⟩
  | harvestDone => exact ⟨_, rfl, State.harvestDone_keep k⟩
  | postEnable => exact ⟨_, rfl, State.gatedWrite_keep k (fun _ h => State.postEnable_keep h)⟩
  | postDisable => exact ⟨_, rfl, State.gatedWrite_keep k (fun _ h => State.postDisable_keep h)⟩
  | postcardFrameSend => exact ⟨_, rfl, State.postSend_keep k⟩
  | flowRead => exact ⟨_, rfl, State.gatedWrite_keep k (fun _ h => State.flowGo_keep h)⟩
  | portEnable _ => exact ⟨_, rfl, State.startCheck_keep k⟩
  | portDisable _ => exact ⟨_, rfl, State.portDisable_keep k⟩
  | disableDrainEnd _ => exact ⟨_, rfl, State.disableEnd_keep k⟩
  | portRetrain _ => exact ⟨_, rfl, State.portRetrain_keep k⟩
  | anComplete _ _ => exact ⟨_, rfl, State.anComplete_keep k⟩
  | ctleSweepDone _ _ => exact ⟨_, rfl, State.ctleSweepDone_keep k⟩
  | trainFrameReceive _ _ _ _ => exact ⟨_, rfl, State.trainFrame_keep k⟩
  | tapAckTimeout _ => exact ⟨_, rfl, State.tapTimeout_keep k⟩
  | trainTimeout _ => exact ⟨_, rfl, State.trainTimeout_keep k⟩
  | alignComplete _ _ => exact ⟨_, rfl, State.alignComplete_keep k⟩
  | alignTimeout _ => exact ⟨_, rfl, State.alignTimeout_keep k⟩
  | retryTimer _ => exact ⟨_, rfl, State.retryTimer_keep k⟩
  | lossOfSignal _ => exact ⟨_, rfl, State.lossOfSignal_keep k⟩
  | pcsLockLoss _ => exact ⟨_, rfl, State.ethernetLost_keep k⟩
  | remoteFault _ => exact ⟨_, rfl, State.ethernetLost_keep k⟩
  | rlCodewordReceive _ _ => exact ⟨_, rfl, State.codewordIn_keep k⟩
  | contAdapt _ _ _ => exact ⟨_, rfl, State.contAdapt_keep k⟩
  | lpiEnter _ => exact ⟨_, rfl, State.lpiEnter_keep k⟩
  | keepaliveTimeout _ => exact ⟨_, rfl, State.keepAliveTimeout_keep k⟩
  | prbsInjectOnce _ => exact ⟨_, rfl, State.prbsFlip_keep k⟩
  | fecInjectGo _ => exact ⟨_, rfl, State.injectGo_keep k⟩
  | fecInjectStop _ => exact ⟨_, rfl, State.put_keep k⟩
  | enableCheckDone _ _ => exact ⟨_, rfl, State.checkDone_keep k⟩
  | ringDoorbell _ => exact ⟨_, rfl, State.doorbell_keep k⟩
  | ringEntryFetch _ _ _ => exact ⟨_, rfl, State.entryFetched_keep k⟩
  | ringInval _ => exact ⟨_, rfl, State.ringInval_keep k⟩
  | ringAbort _ => exact ⟨_, rfl, State.startAbort_keep k⟩
  | ringAbortDone _ => exact ⟨_, rfl, State.abortDone_keep k⟩
  | ringEnable _ => exact ⟨_, rfl, State.ringEnable_keep k⟩
  | ringDisable _ => exact ⟨_, rfl, State.ringDisable_keep k⟩
  | injectTake _ _ _ => exact ⟨_, rfl, State.injectTake_keep k⟩
  | puntWrite _ => exact ⟨_, rfl, State.puntWrite_keep k⟩
  | irqTimer _ => exact ⟨_, rfl, State.irqTimer_keep k⟩
  | heldWriteSend _ => exact ⟨_, rfl, State.heldSend_keep k⟩
  | pcieError _ _ _ => exact ⟨_, rfl, State.pcieError_keep k⟩
  | vfReset _ _ => exact ⟨_, rfl, State.vfReset_keep k⟩
  | pfReset _ => exact ⟨_, rfl, State.pfReset_keep k⟩
  | timeSet => exact ⟨_, rfl, State.startCheck_keep k⟩
  | timeStep => exact ⟨_, rfl, State.startCheck_keep k⟩
  | servoEnable => exact ⟨_, rfl, State.startCheck_keep k⟩
  | servoDisable => exact ⟨_, rfl, State.servoDisable_keep k⟩
  | fabTimeEnable => exact ⟨_, rfl, State.startCheck_keep k⟩
  | fabTimeDisable => exact ⟨_, rfl, State.fabDisable_keep k⟩
  | timeNowRead => exact ⟨_, rfl, Keep.plain (State.latchNow_keep k)⟩
  | hostOffsetSample _ => exact ⟨_, rfl, State.hostSample_keep k⟩
  | servoSample => exact ⟨_, rfl, State.servoSample_keep k⟩
  | timeItemSend _ => exact ⟨_, rfl, State.timeItemSend_keep k⟩
  | timeItemReceive _ _ => exact ⟨_, rfl, State.timeItemReceive_keep k⟩
  | timeLinkTimeout _ => exact ⟨_, rfl, State.timeLinkTimeout_keep k⟩
  | poArm _ _ => exact ⟨_, rfl, State.poArm_keep k⟩
  | poDisarm _ => exact ⟨_, rfl, State.poDisarm_keep k⟩
  | pulseEdge _ => exact ⟨_, rfl, State.pulseEdge_keep k⟩
  | captureEdge _ _ => exact ⟨_, rfl, State.captureEdge_keep k⟩
  | loadWindow _ _ => exact ⟨_, rfl, State.loadWindow_keep k⟩
  | capFastCheck _ => exact ⟨_, rfl, State.capFastCheck_keep k⟩
  | capEvaluate _ _ => exact ⟨_, rfl, State.capEvaluate_keep k⟩
  | ratioMove => exact ⟨_, rfl, State.ratioMove_keep k⟩
  | pwrApply => exact ⟨_, rfl, State.startCheck_keep k⟩
  | brineEnter => exact ⟨_, rfl, State.startCheck_keep k⟩
  | brineDrainEnd => exact ⟨_, rfl, State.brineDrainEnd_keep k⟩
  | brineExit => exact ⟨_, rfl, State.startCheck_keep k⟩
  | brineWakeTime => exact ⟨_, rfl, State.brineWakeTime_keep k⟩
  | brineExitDone => exact ⟨_, rfl, State.brineExitDone_keep k⟩
  | thermalThrottle _ => exact ⟨_, rfl, State.thermalThrottle_keep k⟩
  | thermalRelease _ => exact ⟨_, rfl, State.thermalRelease_keep k⟩
  | thermalTrip _ _ => exact ⟨_, rfl, State.thermalTrip_keep k⟩
  | droopFire => exact ⟨_, rfl, State.droopFire_keep k⟩
  | droopRelease => exact ⟨_, rfl, State.droopRelease_keep k⟩
  | throttleEvent => exact ⟨_, rfl, State.throttleEvent_keep k⟩
  | channelError _ _ _ _ _ _ _ _ _ _ => exact ⟨_, rfl, State.channelError_keep k⟩
  | channelResetDone _ => exact ⟨_, rfl, State.channelDone_keep k⟩
  | channelRestart _ => exact ⟨_, rfl, State.channelRestart_keep k⟩
  | faultInject _ => exact ⟨_, rfl, State.faultInject_keep k⟩
  | blockResetRequest _ => exact ⟨_, rfl, State.requestReset_keep k⟩
  | blockResetDone _ => exact ⟨_, rfl, State.blockResetDone_keep k⟩
  | chipResetStart => exact ⟨_, rfl, State.chipReset_keep k⟩
  | histReadUpdate _ => exact ⟨_, rfl, State.histRead_keep k⟩
  | cipherLockReq => exact ⟨_, rfl, State.lockReq_keep k⟩
  | cipherLockRelease => exact ⟨_, rfl, State.lockRelease_keep k⟩
  | cipherLockGrant => exact ⟨_, rfl, State.lockGrant_keep k⟩
  | cipherLockRevoke => exact ⟨_, rfl, State.lockRevoke_keep k⟩
  | cipherStart => exact ⟨_, rfl, State.startCheck_keep k⟩
  | cipherPushAad => exact ⟨_, rfl, State.startCheck_keep k⟩
  | cipherPushText => exact ⟨_, rfl, State.startCheck_keep k⟩
  | cipherFinish => exact ⟨_, rfl, State.startCheck_keep k⟩
  | cipherAbandon => exact ⟨_, rfl, State.startCheck_keep k⟩
  | cipherSetupDone => exact ⟨_, rfl, State.setupDone_keep k⟩
  | cipherBlockDone => exact ⟨_, rfl, State.blockDone_keep k⟩
  | cipherFinishDone => exact ⟨_, rfl, State.sessionDone_keep k⟩
  | keyLoad _ => exact ⟨_, rfl, State.keyCommand_keep k⟩
  | keyClear _ => exact ⟨_, rfl, State.keyCommand_keep k⟩
  | keyProvision _ => exact ⟨_, rfl, State.keyCommand_keep k⟩
  | keyProvisionDone => exact absurd rfl h
  | powerOn => exact ⟨_, rfl, State.coldStart_keep k⟩
  | railFault => exact ⟨_, rfl, State.coldStart_keep k⟩
  | resetPhaseDone _ => exact ⟨_, rfl, State.phaseDone_keep k⟩
  | perstAssert => exact ⟨_, rfl, State.perstAssert_keep k⟩
  | perstRelease => exact ⟨_, rfl, State.perstRelease_keep k⟩
  | pkgWarmReset _ => exact ⟨_, rfl, Keep.ite (State.warmReset_keep k) k⟩
  | pcieLinkTrain _ _ => exact ⟨_, rfl, State.linkTrain_keep k⟩
  | smbReadPkgId => exact ⟨_, rfl, State.smbRead_keep k⟩
  | smbReadPkgCaps => exact ⟨_, rfl, State.smbRead_keep k⟩
  | smbReadPkgSerial => exact ⟨_, rfl, State.smbRead_keep k⟩
  | smbReadBootStatus => exact ⟨_, rfl, State.smbRead_keep k⟩
  | smbReadFltStatus => exact ⟨_, rfl, State.smbRead_keep k⟩
  | smbReadPwrStatus => exact ⟨_, rfl, State.smbRead_keep k⟩
  | smbReadPwrExtLimit => exact ⟨_, rfl, State.smbRead_keep k⟩
  | smbReadFltHistPtr => exact ⟨_, rfl, State.smbRead_keep k⟩
  | smbReadClkStatus => exact ⟨_, rfl, State.smbRead_keep k⟩
  | smbReadAvsStatus => exact ⟨_, rfl, State.smbRead_keep k⟩
  | smbReadPinStatus => exact ⟨_, rfl, State.smbRead_keep k⟩
  | smbReadSmbStat => exact ⟨_, rfl, State.smbRead_keep k⟩
  | smbReadSelftest => exact ⟨_, rfl, State.smbRead_keep k⟩
  | smbReadStraps => exact ⟨_, rfl, State.smbRead_keep k⟩
  | smbBmcCap _ _ => exact ⟨_, rfl, State.smbCap_keep k⟩
  | smbBrineWake _ _ => exact ⟨_, rfl, State.smbWake_keep k⟩
  | smbReservedCmd _ => exact ⟨_, rfl, Keep.ite k (State.smbNack_keep k)⟩
  | smbTimeout => exact ⟨_, rfl, Keep.ite (State.bump_keep k) k⟩
  | avsConfirm _ => exact ⟨_, rfl, State.avsConfirm_keep k⟩
  | avsRetryTimer => exact ⟨_, rfl, State.avsRetry_keep k⟩
  | tapReset => exact ⟨_, rfl, Keep.plain k⟩
  | bypass => exact ⟨_, rfl, State.tapLoad_keep k⟩
  | idcode => exact ⟨_, rfl, State.send_keep (State.tapLoad_keep k)⟩
  | samplePreload _ => exact ⟨_, rfl, State.send_keep (Keep.plain (State.draw_keep' (State.tapLoad_keep k)))⟩
  | extest => exact ⟨_, rfl, State.tapStop_keep k⟩
  | extestPulse => exact ⟨_, rfl, State.tapStop_keep k⟩
  | extestTrain => exact ⟨_, rfl, State.tapStop_keep k⟩
  | clamp => exact ⟨_, rfl, State.tapStop_keep k⟩
  | highz => exact ⟨_, rfl, State.tapStop_keep k⟩
  | refClockReturn => exact ⟨_, rfl, State.put_keep k⟩
  | lanePllRelock _ => exact ⟨_, rfl, Keep.ite (State.setMacroLock_keep k) k⟩
  | partnerLpi _ _ => exact ⟨_, rfl, State.partnerLpi_keep k⟩
  | prbsCheckerLock _ _ _ _ => exact ⟨_, rfl, State.checkerLock_keep k⟩
  | configRequest _ _ => exact ⟨_, rfl, State.configRequest_keep k⟩
  | cipherEngineFault _ => exact ⟨_, rfl, State.cipherFault_keep k⟩
  | harvestRetryTimer => exact ⟨_, rfl, State.retryHarvest_keep k⟩
  | activityRampWindow _ => exact ⟨_, rfl, State.rampWindow_keep k⟩

/-- The invariant does not speak of the queue, the clock and the cipher engine. -/
theorem State.Inv.withOthers {s : State} (h : s.Inv) {pending : List Instr} {clk : Nat} {cip : CipherSt} :
    State.Inv { s with pending := pending, clk := clk, cip := cip } :=
  ⟨⟨h.canonical.regs, h.canonical.cells, h.canonical.entries, h.canonical.meters, h.canonical.flows, h.canonical.gates,
    h.canonical.profiles, h.canonical.policers, h.canonical.groups, h.canonical.members⟩,
    ⟨h.timeOk.total, h.timeOk.quarter⟩⟩

/-- The end of a provisioning writes the fuses of slot 2 and keeps the rest of what `Keep` says (R564). -/
theorem State.provisionDone_extends_inv (s : State) : s.Extends s.provisionDone ∧ (s.Inv → s.provisionDone.Inv) := by
  obtain ⟨c, k⟩ := State.provisionDone_keep (s := s)
  obtain ⟨pending, clk, free, out⟩ := k.extends'
  exact ⟨⟨pending, clk, free, out⟩, fun h => k.inv h.withOthers⟩

/-- Every command completes, extends the state and keeps the invariant. -/
theorem exec_extends_inv (c : Instr) (s : State) :
    ∃ t, exec c s = .next t ∧ s.Extends t ∧ (s.Inv → t.Inv) := by
  by_cases h : c = .keyProvisionDone
  · subst h
    exact ⟨_, rfl, State.provisionDone_extends_inv s⟩
  · obtain ⟨t, e, k⟩ := exec_keep c s h
    exact ⟨t, e, k.extends', k.inv⟩

/-- A TCLK cycle keeps the invariant: time counts on inside its range (R486), then registers and host memory change. -/
theorem State.tick_inv {s : State} (h : s.Inv) : s.tick.Inv := by
  have timed : State.Inv { s.tickTime with clk := s.clk + 1 } :=
    ((State.tickTime_keep (Keep.refl s)).inv h).withOthers
  have rest : Keep { s.tickTime with clk := s.clk + 1 } s.tick :=
    State.serveAll_keep (Keep.ite (State.throttleTick_keep (Keep.refl _)) (Keep.refl _))
  exact rest.inv timed

/-- Settles O3: a step is a TCLK cycle or the front command's effect, and each keeps the invariant. -/
theorem everyStepKeepsTheInvariant : Obligations.EveryStepKeepsTheInvariant := by
  unfold Obligations.EveryStepKeepsTheInvariant
  intro s t h e
  unfold step at e
  cases hp : s.pending with
  | nil =>
    rw [hp] at e
    cases e
    exact State.tick_inv h
  | cons c rest =>
    rw [hp] at e
    obtain ⟨u, eu, -, inv⟩ := exec_extends_inv c { s with pending := rest }
    cases eu.symm.trans e
    exact inv h.withOthers

/-- Settles O5, from the law of each command's meaning. -/
theorem everyCommandExtendsTheState : Obligations.EveryCommandExtendsTheState := by
  unfold Obligations.EveryCommandExtendsTheState
  intro c s
  obtain ⟨t, e, x, -⟩ := exec_extends_inv c s
  exact ⟨t, e, x⟩

/-- Settles O4: the register file lists PKG_BOOT_STATUS alone, away from its Reset column; the other memories are
empty. -/
theorem resetMeetsTheInvariant : Obligations.ResetMeetsTheInvariant := by
  unfold Obligations.ResetMeetsTheInvariant
  exact ⟨⟨by decide, rfl, rfl, rfl, rfl, rfl, rfl, rfl, rfl, rfl⟩, ⟨timeModulus_pos, by decide⟩⟩

end Sys2Proof.Machine
end

section
/-! PROOFS. Accesses of the host to registers (00_scope.md R14, R15, R17). -/

-- One declaration at a time: the package is compiled as one text, and a thread for each would not fit.
set_option Elab.async false

namespace Sys2Proof.Machine

/-- A narrow or unaligned access, and one to an offset that decodes to no register, reaches no register (R15). -/
theorem accessOf_eq_none (f : Nat) (bar2 : Bool) {off width : Nat}
    (h : (width ≠ 4 ∧ width ≠ 8) ∨ off % width ≠ 0 ∨
      regDesc (if bar2 then bar2Base f + off / 8 * 8 else off / 8 * 8) = []) :
    accessOf f bar2 off width = none := by
  unfold accessOf
  dsimp only
  rcases h with ⟨h4, h8⟩ | h | h
  · rw [if_neg (by simp [h4, h8])]
  · refine if_neg (fun c => ?_)
    simp only [Bool.or_eq_true, Bool.and_eq_true, decide_eq_true_eq] at c
    rcases c with ⟨rfl, c⟩ | ⟨rfl, c⟩ <;> exact h c
  · have e : (regDesc (if bar2 then bar2Base f + off / 8 * 8 else off / 8 * 8)).isEmpty = true := by rw [h]; rfl
    cases bar2 <;> simp only [if_true, Bool.false_eq_true, if_false] at e <;> simp [e]

theorem State.hostWriteReg_of_none {s : State} {f : Nat} {bar2 : Bool} {off width : Nat}
    (h : accessOf f bar2 off width = none) (data : Word) : s.hostWriteReg f bar2 off width data = s := by
  unfold State.hostWriteReg; rw [h]

theorem State.hostRead_of_none {s : State} {f : Nat} {bar2 : Bool} {off width : Nat}
    (h : accessOf f bar2 off width = none) : s.hostRead f bar2 off width = { s with readVal := 0 } := by
  unfold State.hostRead; rw [h]

/-- Settles O7: such an access reaches no register. -/
theorem accessesThatReachNoRegisterDoNothing : Obligations.AccessesThatReachNoRegisterDoNothing := by
  unfold Obligations.AccessesThatReachNoRegisterDoNothing
  intro s f bar2 off width data h
  have none := accessOf_eq_none f bar2 h
  exact ⟨congrArg Host.Outcome.next (State.hostWriteReg_of_none none data),
    congrArg Host.Outcome.next (State.hostRead_of_none none)⟩

/-! ### Bits of a written register -/

/-- Bits taken away under a mask. -/
theorem testBit_sub_and (a m i : Nat) : (a - (a &&& m)).testBit i = (a.testBit i && !m.testBit i) := by
  induction i generalizing a m with
  | zero =>
    have le : a &&& m ≤ a := Nat.and_le_left
    have low : (a &&& m) % 2 = 1 ↔ a % 2 = 1 ∧ m % 2 = 1 := Nat.and_mod_two_eq_one
    rw [Nat.testBit_zero, Nat.testBit_zero, Nat.testBit_zero, Bool.eq_iff_iff]
    simp only [decide_eq_true_eq, Bool.and_eq_true, Bool.not_eq_true', decide_eq_false_iff_not]
    omega
  | succ i ih =>
    have le : a &&& m ≤ a := Nat.and_le_left
    have low : (a &&& m) % 2 = 1 ↔ a % 2 = 1 ∧ m % 2 = 1 := Nat.and_mod_two_eq_one
    have high : (a &&& m) / 2 = a / 2 &&& m / 2 := Nat.and_div_two
    have half : (a - (a &&& m)) / 2 = a / 2 - (a / 2 &&& m / 2) := by omega
    rw [Nat.testBit_add_one, half, ih, Nat.testBit_add_one, Nat.testBit_add_one]

/-- The bits of the fields whose access type passes. -/
theorem testBit_accMask (f : Acc → Bool) (l : List FDesc) (i : Nat) :
    (accMask f l).testBit i = l.any (fun d => f d.acc && decide (d.lo ≤ i ∧ i < d.lo + d.w)) := by
  have bits (d : FDesc) : ((2 ^ d.w - 1) * 2 ^ d.lo).testBit i = decide (d.lo ≤ i ∧ i < d.lo + d.w) := by
    rw [Nat.testBit_mul_two_pow, Nat.testBit_two_pow_sub_one, ← Bool.decide_and]
    exact decide_eq_decide.mpr (by omega)
  have step (a : Nat) : (l.foldl (fun a d => if f d.acc then a ||| (2 ^ d.w - 1) * 2 ^ d.lo else a) a).testBit i =
      (a.testBit i || l.any (fun d => f d.acc && decide (d.lo ≤ i ∧ i < d.lo + d.w))) := by
    induction l generalizing a with
    | nil => simp
    | cons d t ih =>
      rw [List.foldl_cons, ih, List.any_cons]
      cases f d.acc <;> simp [bits, Bool.or_assoc]
  unfold accMask
  rw [step, Nat.zero_testBit, Bool.false_or]

/-- The register that a write of `d` over the bits `half` leaves of `old`: RW bits replaced, W1C bits written 1 cleared
(R17). -/
def stored (l : List FDesc) (old d half : Nat) : Nat :=
  (old - (old &&& (accMask (fun a => a = .rw) l &&& half ||| accMask (fun a => a = .w1c) l &&& half &&& d))) |||
    (d &&& (accMask (fun a => a = .rw) l &&& half))

theorem written_eq_stored {k : Nat} (h : k / 0x1000 ≠ CIPHER_LOCK.regOff / 0x1000) (old d half : Nat) :
    written k old d half 0 = fixWritten k (stored (regDesc k) old d half) := by
  unfold written stored
  simp only [if_neg h, Nat.and_zero, Nat.sub_zero, Nat.or_zero]

theorem testBit_stored (l : List FDesc) (old d half i : Nat) :
    (stored l old d half).testBit i =
      if ((accMask (fun a => a = .rw) l).testBit i && half.testBit i) = true then d.testBit i
      else old.testBit i && !((accMask (fun a => a = .w1c) l).testBit i && half.testBit i && d.testBit i) := by
  unfold stored
  simp only [Nat.testBit_or, testBit_sub_and, Nat.testBit_and]
  cases (accMask (fun a => a = .rw) l).testBit i <;> cases half.testBit i <;> simp

theorem stored_lt {l : List FDesc} {old d half n : Nat} (ho : old < 2 ^ n) (hd : d < 2 ^ n) :
    stored l old d half < 2 ^ n := by
  refine Nat.lt_pow_two_of_testBit _ (fun i hi => ?_)
  have le : 2 ^ n ≤ 2 ^ i := Nat.pow_le_pow_right (by decide) hi
  rw [testBit_stored, Nat.testBit_lt_two_pow (by omega : d < 2 ^ i), Nat.testBit_lt_two_pow (by omega : old < 2 ^ i)]
  simp

/-- A field of which the write covers RW bits reads what is written. -/
theorem bitsOf_stored_rw {l : List FDesc} {old d half lo w : Nat}
    (h : ∀ i, lo ≤ i → i < lo + w → (accMask (fun a => a = .rw) l).testBit i = true ∧ half.testBit i = true) :
    bitsOf (stored l old d half) lo w = bitsOf d lo w := by
  refine Nat.eq_of_testBit_eq (fun i => ?_)
  rw [testBit_bitsOf, testBit_bitsOf]
  by_cases hi : i < w
  · obtain ⟨isRw, inHalf⟩ := h (lo + i) (by omega) (by omega)
    rw [testBit_stored, isRw, inHalf, Bool.and_true, if_pos rfl]
  · simp [hi]

/-- A W1C bit that the write covers is cleared where it is written 1. -/
theorem bitsOf_stored_w1c {l : List FDesc} {old d half b : Nat}
    (notRw : (accMask (fun a => a = .rw) l).testBit b = false)
    (isW1c : (accMask (fun a => a = .w1c) l).testBit b = true) (inHalf : half.testBit b = true) :
    bitsOf (stored l old d half) b 1 = if d.testBit b then 0 else bitsOf old b 1 := by
  refine Nat.eq_of_testBit_eq (fun i => ?_)
  rw [testBit_bitsOf]
  by_cases hi : i < 1
  · obtain rfl : i = 0 := by omega
    rw [Nat.add_zero, testBit_stored, notRw, isW1c, inHalf]
    cases d.testBit b
    · simp only [Bool.false_eq_true, if_false, testBit_bitsOf]
      simp
    · simp
  · split <;> simp [hi, testBit_bitsOf]

/-- A field without RW or W1C bits that the write covers keeps its value. -/
theorem bitsOf_stored_kept {l : List FDesc} {old d half lo w : Nat}
    (h : ∀ i, lo ≤ i → i < lo + w → half.testBit i = true →
      (accMask (fun a => a = .rw) l).testBit i = false ∧ (accMask (fun a => a = .w1c) l).testBit i = false) :
    bitsOf (stored l old d half) lo w = bitsOf old lo w := by
  refine Nat.eq_of_testBit_eq (fun i => ?_)
  rw [testBit_bitsOf, testBit_bitsOf]
  by_cases hi : i < w
  · rw [testBit_stored]
    by_cases hh : half.testBit (lo + i) = true
    · obtain ⟨notRw, notW1c⟩ := h (lo + i) (by omega) (by omega) hh
      simp [notRw, notW1c]
    · simp [hh]
  · simp [hi]

/-- The upper half of a register (R14). -/
theorem testBit_upperHalf (i : Nat) : (2 ^ 64 - 2 ^ 32).testBit i = decide (32 ≤ i ∧ i < 64) := by
  rw [show 2 ^ 64 - 2 ^ 32 = (2 ^ 32 - 1) * 2 ^ 32 from rfl, Nat.testBit_mul_two_pow, Nat.testBit_two_pow_sub_one,
    ← Bool.decide_and]
  exact decide_eq_decide.mpr (by omega)

/-! ### Registers that a write only stores -/

/-- The keys of PWR_CAP_CFG and of the fault sources' registers: no write to them is barred or starts anything. -/
def StoredOnly (k : Nat) : Prop := k = PWR_CAP_CFG.regOff ∨ (FLT_SRC.regOff 0 ≤ k ∧ k < FLT_SRC.regOff 2048)

theorem StoredOnly.arrIdx_eq_none {k base n : Nat} (hk : StoredOnly k)
    (h : base + 8 * n ≤ PWR_CAP_CFG.regOff ∨ PWR_CAP_CFG.regOff < base ∧ base + 8 * n ≤ FLT_SRC.regOff 0 ∨
      FLT_SRC.regOff 2048 ≤ base) : arrIdx base n k = none := by
  unfold StoredOnly at hk
  unfold FLT_SRC.regOff PWR_CAP_CFG.regOff at *
  unfold arrIdx
  refine if_neg (fun c => ?_)
  simp only [Bool.and_eq_true, decide_eq_true_eq] at c
  omega

theorem StoredOnly.ne {k c : Nat} (hk : StoredOnly k)
    (h : c ≠ PWR_CAP_CFG.regOff ∧ (c < FLT_SRC.regOff 0 ∨ FLT_SRC.regOff 2048 ≤ c)) : k ≠ c := by
  unfold StoredOnly at hk
  omega

theorem StoredOnly.bounds {k : Nat} (hk : StoredOnly k) : 0x838000 ≤ k ∧ k < 0x840000 := by
  unfold StoredOnly FLT_SRC.regOff PWR_CAP_CFG.regOff at hk
  omega

theorem StoredOnly.gatedKey {k : Nat} (hk : StoredOnly k) : gatedKey k = false := by
  obtain ⟨lo, hi⟩ := hk.bounds
  have blk : 56 ≤ k / 0x1000 % 64 := by omega
  simp [Machine.gatedKey]
  omega

theorem StoredOnly.barred {k : Nat} (hk : StoredOnly k) (s : State) (d : Nat) : s.barred k d = 0 := by
  have noLane : ¬0x1000000 ≤ k := by have := hk.bounds; omega
  have lane : s.laneBarred k d = 0 := by unfold State.laneBarred; simp [noLane]
  have unlocked : s.lockedReg k = false := by
    unfold State.lockedReg
    simp (disch := decide) [hk.arrIdx_eq_none, hk.ne]
  unfold State.barred
  simp (disch := decide) [unlocked, lane, hk.arrIdx_eq_none, hk.ne]

theorem StoredOnly.sharedChange {k : Nat} (hk : StoredOnly k) (s was : State) (half : Nat) :
    s.sharedChange was k half = s := by
  unfold State.sharedChange
  simp (disch := decide) [hk.arrIdx_eq_none, hk.ne]

theorem StoredOnly.commandBits {k : Nat} (hk : StoredOnly k) (s : State) (d : Nat) : s.commandBits k d = s := by
  have noLane : ¬0x1000000 ≤ k := by have := hk.bounds; omega
  have noPulse : (List.range 4).find? (fun i => k = TIME_PO_CTL.regOff i) = none := by
    simp (disch := decide) [List.range, List.range.loop, hk.ne]
  have arrays : s.arrayBits k d = s := by
    unfold State.arrayBits
    simp (disch := decide) [hk.arrIdx_eq_none, noPulse]
  unfold State.commandBits
  simp (disch := decide) [hk.ne, noLane, arrays]

theorem StoredOnly.bar0Write {k : Nat} (hk : StoredOnly k) (s : State) (d half : Nat) :
    s.bar0Write k d half = s.setRaw k (BitVec.ofNat 64 (fixWritten k (stored (regDesc k) (s.raw k).toNat d half))) := by
  have noLane : ¬0x1000000 ≤ k := by have := hk.bounds; omega
  have noCipher : k / 0x1000 ≠ CIPHER_LOCK.regOff / 0x1000 := by
    have := hk.bounds; show _ ≠ 0x837; omega
  unfold State.bar0Write
  simp [hk.gatedKey, noLane, hk.barred, hk.sharedChange, hk.commandBits, State.store, written_eq_stored noCipher]

/-! ### What the statement's writes store -/

theorem regDesc_fltSrc {n : Nat} (h : sourceListed n = true) (hn : n < 2048) :
    regDesc (FLT_SRC.regOff n) = FLT_SRC.desc := by
  have die : (0x83c000 + 0x8 * n) / 0x1000000 = 0 := by omega
  have unit : (0x83c000 + 0x8 * n) / 0x40000 % 64 = 32 := by omega
  have blk : (0x83c000 + 0x8 * n) / 0x1000 % 64 = 60 + n / 512 := by omega
  have idx : (0x83c000 + 0x8 * n) / 8 % 512 = n % 512 := by omega
  have aligned : (0x83c000 + 0x8 * n) % 8 = 0 := by omega
  have number : (60 + n / 512 - 60) * 512 + n % 512 = n := by omega
  have rows : sharedRows (60 + n / 512) = [⟨0, 512, 1, FLT_SRC.desc⟩] := by
    obtain h0 | h1 | h2 | h3 : n / 512 = 0 ∨ n / 512 = 1 ∨ n / 512 = 2 ∨ n / 512 = 3 := by omega
    · rw [h0]; rfl
    · rw [h1]; rfl
    · rw [h2]; rfl
    · rw [h3]; rfl
  have found : rowAt [⟨0, 512, 1, FLT_SRC.desc⟩] (n % 512) = FLT_SRC.desc := by
    have lt : n % 512 < 512 := Nat.mod_lt _ (by decide)
    simp [rowAt, lt, Nat.mod_one]
  unfold regDesc FLT_SRC.regOff
  rw [if_pos (by omega)]
  unfold bar0Desc
  simp only [die, unit, blk, idx, aligned, number, rows, found, h]
  simp

/-- A 32-bit write to the upper half of such a register stores it (R14). -/
theorem hostWrite_upperHalf {s : State} {k : Nat} (hk : StoredOnly k) (aligned : k % 8 = 0) (isReg : regDesc k ≠ [])
    (data : Word) :
    exec (.registerWrite 0 false (k + 4) 4 data) s = .next (s.setRaw k (BitVec.ofNat 64 (fixWritten k
      (stored (regDesc k) (s.raw k).toNat (data.toNat % 2 ^ 32 * 2 ^ 32) (2 ^ 64 - 2 ^ 32))))) := by
  have bound := hk.bounds
  have place : (k + 4) / 8 * 8 = k := by omega
  have access : accessOf 0 false (k + 4) 4 = some (k, 2 ^ 64 - 2 ^ 32) := by
    unfold accessOf
    simp only [place]
    simp [isReg]
    omega
  show Host.Outcome.next (s.hostWriteReg 0 false (k + 4) 4 data) = _
  unfold State.hostWriteReg
  simp only [access]
  rw [if_pos trivial, hk.bar0Write]
  rfl

/-- A 64-bit write to such a register stores it. -/
theorem hostWrite_whole {s : State} {k : Nat} (hk : StoredOnly k) (aligned : k % 8 = 0) (isReg : regDesc k ≠ [])
    (data : Word) :
    exec (.registerWrite 0 false k 8 data) s = .next (s.setRaw k (BitVec.ofNat 64 (fixWritten k
      (stored (regDesc k) (s.raw k).toNat data.toNat (2 ^ 64 - 1))))) := by
  have bound := hk.bounds
  have place : k / 8 * 8 = k := by omega
  have access : accessOf 0 false k 8 = some (k, 2 ^ 64 - 1) := by
    unfold accessOf
    simp only [place]
    simp [isReg]
    omega
  show Host.Outcome.next (s.hostWriteReg 0 false k 8 data) = _
  unfold State.hostWriteReg
  simp only [access]
  rw [if_neg (by decide), hk.bar0Write, Nat.and_two_pow_sub_one_of_lt_two_pow data.isLt]
  rfl

/-- A field of the register that is stored whole. -/
theorem State.get_setRaw_same {s : State} (w : RegsWf s.regs) {v : Nat} (hv : v < 2 ^ 64) {g : Fld} {k : Nat}
    (h : g.off = k) : (s.setRaw k (BitVec.ofNat 64 v)).get g = bitsOf v g.lo g.w := by
  unfold State.get
  rw [h, State.raw_setRaw_same w, BitVec.toNat_ofNat, Nat.mod_eq_of_lt hv]

/-- A register stored whole leaves a field alone of which it keeps the bits. -/
theorem State.Frame.setRaw {s : State} (w : RegsWf s.regs) {k v : Nat} {l : List Fld} (hv : v < 2 ^ 64)
    (keep : ∀ g : Fld, g.off = k → (∀ f ∈ l, g.Apart f) → bitsOf v g.lo g.w = bitsOf (s.raw k).toNat g.lo g.w) :
    s.Frame noRegs l (s.setRaw k (BitVec.ofNat 64 v)) := by
  intro g _ apart
  by_cases h : g.off = k
  · rw [State.get_setRaw_same w hv h, keep g h apart]
    unfold State.get; rw [h]
  · exact State.get_setRaw_far _ h

/-- The bits of a field of the register that a write does not name stay: those it writes all lie in named fields. -/
theorem bitsOf_stored_of_apart {desc : List FDesc} {old d half k : Nat} {l : List Fld}
    (named : ∀ i, half.testBit i = true → (accMask (fun a => a = .rw) desc).testBit i = true ∨
      (accMask (fun a => a = .w1c) desc).testBit i = true → ∃ f ∈ l, f.off = k ∧ f.lo ≤ i ∧ i < f.lo + f.w)
    {g : Fld} (off : g.off = k) (apart : ∀ f ∈ l, g.Apart f) :
    bitsOf (stored desc old d half) g.lo g.w = bitsOf old g.lo g.w := by
  refine bitsOf_stored_kept (fun i lo hi hh => ?_)
  have none : ¬((accMask (fun a => a = .rw) desc).testBit i = true ∨
      (accMask (fun a => a = .w1c) desc).testBit i = true) := by
    intro h
    obtain ⟨f, mem, same, below, above⟩ := named i hh h
    rcases apart f mem with far | left | right
    · exact far (off.trans same.symm)
    · omega
    · omega
  rw [not_or, Bool.not_eq_true, Bool.not_eq_true] at none
  exact none

/-! ### PWR_CAP_CFG -/

theorem storedOnly_capCfg : StoredOnly PWR_CAP_CFG.regOff := Or.inl rfl

theorem regDesc_capCfg : regDesc PWR_CAP_CFG.regOff = PWR_CAP_CFG.desc := by decide

theorem fixWritten_capCfg (v : Nat) : fixWritten PWR_CAP_CFG.regOff v = v := by
  have noFault : arrIdx (FLT_SRC.regOff 0) 2048 PWR_CAP_CFG.regOff = none := by decide
  have noSelect : decide (0xF80 ≤ PWR_CAP_CFG.regOff % 0x1000) = false := by decide
  unfold fixWritten
  simp [noFault, noSelect]

/-- The RW bits of PWR_CAP_CFG. -/
theorem capCfg_rw (i : Nat) : (accMask (fun a => a = .rw) PWR_CAP_CFG.desc).testBit i =
    decide (i < 11 ∨ 16 ≤ i ∧ i < 48) := by
  rw [testBit_accMask, Bool.eq_iff_iff]
  simp [PWR_CAP_CFG.desc]
  omega

theorem capCfg_w1c (i : Nat) : (accMask (fun a => a = .w1c) PWR_CAP_CFG.desc).testBit i = false := by
  rw [testBit_accMask]; simp [PWR_CAP_CFG.desc]

/-- The written bits of PWR_CAP_CFG lie in its four fields. -/
theorem capCfg_bits_in_fields {half i : Nat} (_ : half.testBit i = true)
    (h : (accMask (fun a => a = .rw) PWR_CAP_CFG.desc).testBit i = true ∨
      (accMask (fun a => a = .w1c) PWR_CAP_CFG.desc).testBit i = true) :
    ∃ f ∈ [PWR_CAP_CFG.cap_w, PWR_CAP_CFG.up_slope, PWR_CAP_CFG.down_slope, PWR_CAP_CFG.brine_drain_us],
      f.off = PWR_CAP_CFG.regOff ∧ f.lo ≤ i ∧ i < f.lo + f.w := by
  simp only [capCfg_rw, capCfg_w1c, decide_eq_true_eq, Bool.false_eq_true, or_false] at h
  simp [PWR_CAP_CFG.cap_w, PWR_CAP_CFG.up_slope, PWR_CAP_CFG.down_slope, PWR_CAP_CFG.brine_drain_us]
  omega

/-- A 64-bit write to PWR_CAP_CFG writes its four fields and nothing else. -/
theorem capCfg_write_whole {s : State} (w : RegsWf s.regs) (data : Word) :
    ∃ t, exec (.registerWrite 0 false PWR_CAP_CFG.regOff 8 data) s = .next t ∧
      t.get PWR_CAP_CFG.cap_w = data.toNat % 2 ^ 11 ∧ t.get PWR_CAP_CFG.up_slope = data.toNat / 2 ^ 16 % 2 ^ 8 ∧
      t.get PWR_CAP_CFG.down_slope = data.toNat / 2 ^ 24 % 2 ^ 8 ∧
      t.get PWR_CAP_CFG.brine_drain_us = data.toNat / 2 ^ 32 % 2 ^ 16 ∧ s.Same [] t ∧
      s.Frame noRegs [PWR_CAP_CFG.cap_w, PWR_CAP_CFG.up_slope, PWR_CAP_CFG.down_slope,
        PWR_CAP_CFG.brine_drain_us] t := by
  have lt := stored_lt (l := PWR_CAP_CFG.desc) (half := 2 ^ 64 - 1) (s.raw PWR_CAP_CFG.regOff).isLt data.isLt
  have field (lo n : Nat) (h : lo + n ≤ 11 ∨ 16 ≤ lo ∧ lo + n ≤ 48) :=
    bitsOf_stored_rw (l := PWR_CAP_CFG.desc) (old := (s.raw PWR_CAP_CFG.regOff).toNat) (d := data.toNat)
      (half := 2 ^ 64 - 1) (lo := lo) (w := n) (fun i _ _ => by
        rw [capCfg_rw, Nat.testBit_two_pow_sub_one, decide_eq_true_eq, decide_eq_true_eq]; omega)
  have kept (g : Fld) := bitsOf_stored_of_apart (old := (s.raw PWR_CAP_CFG.regOff).toNat) (d := data.toNat) (g := g)
    (fun i => capCfg_bits_in_fields (half := 2 ^ 64 - 1) (i := i))
  refine ⟨_, hostWrite_whole storedOnly_capCfg (by decide) (by decide) data, ?_⟩
  rw [fixWritten_capCfg, regDesc_capCfg]
  generalize stored _ _ _ _ = v at lt field kept ⊢
  have low : bitsOf data.toNat 0 11 = data.toNat % 2 ^ 11 := congrArg (· % 2 ^ 11) (Nat.div_one _)
  have read (f : Fld) (off : f.off = PWR_CAP_CFG.regOff) := State.get_setRaw_same (g := f) w lt off
  exact ⟨((read _ rfl).trans (field 0 11 (by decide))).trans low, (read _ rfl).trans (field 16 8 (by decide)),
    (read _ rfl).trans (field 24 8 (by decide)), (read _ rfl).trans (field 32 16 (by decide)),
    (State.setRaw_only _ _ _).same _, State.Frame.setRaw w lt kept⟩

theorem bitsOf_zero (v n : Nat) : bitsOf v 0 n = v % 2 ^ n := by
  unfold bitsOf; rw [pow_zero, Nat.div_one]

/-- A field of the data of a write to the upper half. -/
theorem bitsOf_upperHalf (v lo n : Nat) (h : lo + n ≤ 32) :
    bitsOf (v % 2 ^ 32 * 2 ^ 32) (32 + lo) n = bitsOf v lo n := by
  refine Nat.eq_of_testBit_eq (fun i => ?_)
  rw [testBit_bitsOf, testBit_bitsOf, Nat.testBit_mul_two_pow, Nat.testBit_mod_two_pow]
  by_cases hi : i < n
  · have below : lo + i < 32 := by omega
    simp [hi, Nat.add_assoc, below]
  · simp [hi]

theorem upperHalf_lt (v : Nat) : v % 2 ^ 32 * 2 ^ 32 < 2 ^ 64 := by omega

/-- A 32-bit write to the upper half of PWR_CAP_CFG writes the field there and nothing else. -/
theorem capCfg_write_upper {s : State} (w : RegsWf s.regs) (data : Word) :
    ∃ t, exec (.registerWrite 0 false (PWR_CAP_CFG.regOff + 4) 4 data) s = .next t ∧
      t.get PWR_CAP_CFG.brine_drain_us = data.toNat % 2 ^ 16 ∧ s.Same [] t ∧
      s.Frame noRegs [PWR_CAP_CFG.brine_drain_us] t := by
  have lt := stored_lt (l := PWR_CAP_CFG.desc) (half := 2 ^ 64 - 2 ^ 32) (s.raw PWR_CAP_CFG.regOff).isLt
    (upperHalf_lt data.toNat)
  have field : bitsOf (stored PWR_CAP_CFG.desc (s.raw PWR_CAP_CFG.regOff).toNat (data.toNat % 2 ^ 32 * 2 ^ 32)
      (2 ^ 64 - 2 ^ 32)) 32 16 = data.toNat % 2 ^ 16 := by
    rw [bitsOf_stored_rw (fun i _ _ => by
      rw [capCfg_rw, testBit_upperHalf, decide_eq_true_eq, decide_eq_true_eq]; omega)]
    rw [show 32 = 32 + 0 from rfl, bitsOf_upperHalf data.toNat 0 16 (by decide), bitsOf_zero]
  have kept (g : Fld) := bitsOf_stored_of_apart (desc := PWR_CAP_CFG.desc) (old := (s.raw PWR_CAP_CFG.regOff).toNat)
    (d := data.toNat % 2 ^ 32 * 2 ^ 32) (half := 2 ^ 64 - 2 ^ 32) (k := PWR_CAP_CFG.regOff)
    (l := [PWR_CAP_CFG.brine_drain_us]) (g := g) (fun i hh h => by
      rw [testBit_upperHalf, decide_eq_true_eq] at hh
      simp only [capCfg_rw, capCfg_w1c, decide_eq_true_eq, Bool.false_eq_true, or_false] at h
      simp [PWR_CAP_CFG.brine_drain_us]
      omega)
  refine ⟨_, hostWrite_upperHalf storedOnly_capCfg (by decide) (by decide) data, ?_⟩
  rw [fixWritten_capCfg, regDesc_capCfg]
  generalize stored _ _ _ _ = v at lt field kept ⊢
  have read := State.get_setRaw_same (g := PWR_CAP_CFG.brine_drain_us) w lt rfl
  exact ⟨read.trans field, (State.setRaw_only _ _ _).same _, State.Frame.setRaw w lt kept⟩

/-! ### FLT_SRCn -/

theorem storedOnly_fltSrc {n : Nat} (hn : n < 2048) : StoredOnly (FLT_SRC.regOff n) := by
  unfold StoredOnly FLT_SRC.regOff; omega

theorem fixWritten_fltSrc {n : Nat} (listed : sourceListed n = true) (hn : n < 2048) (v : Nat) :
    fixWritten (FLT_SRC.regOff n) v = setBits (if bitsOf v 16 11 = 0 then setBits v 16 11 1 else v) 14 1 1 := by
  have isFault : arrIdx (FLT_SRC.regOff 0) 2048 (FLT_SRC.regOff n) = some n := by
    unfold arrIdx FLT_SRC.regOff
    rw [if_pos (by simp; omega)]
    exact congrArg some (by omega)
  have noSelect : ((regDesc (FLT_SRC.regOff n)).head? = PERF_SEL.desc.head?) = False := by
    rw [regDesc_fltSrc listed hn]; exact eq_false (by decide)
  unfold fixWritten
  simp [isFault, noSelect]

theorem fixWritten_fltSrc_lt {n v : Nat} (listed : sourceListed n = true) (hn : n < 2048) (hv : v < 2 ^ 64) :
    fixWritten (FLT_SRC.regOff n) v < 2 ^ 64 := by
  rw [fixWritten_fltSrc listed hn]
  refine setBits_lt _ _ _ _ ?_ (by decide)
  split
  · exact setBits_lt _ _ _ _ hv (by decide)
  · exact hv

/-- What the device stores in place of a written value differs in vector and in bit 4 of rx_fatal alone (R535, R537). -/
theorem bitsOf_fixWritten_fltSrc {n v lo w : Nat} (listed : sourceListed n = true) (hn : n < 2048)
    (fatal : lo + w ≤ 14 ∨ 15 ≤ lo) (vector : lo + w ≤ 16 ∨ 27 ≤ lo) :
    bitsOf (fixWritten (FLT_SRC.regOff n) v) lo w = bitsOf v lo w := by
  rw [fixWritten_fltSrc listed hn, bitsOf_setBits_other _ _ _ _ fatal]
  split
  · exact bitsOf_setBits_other _ _ _ _ vector
  · rfl

theorem fltSrc_rw (i : Nat) : (accMask (fun a => a = .rw) FLT_SRC.desc).testBit i =
    decide (i < 15 ∨ 16 ≤ i ∧ i < 27) := by
  rw [testBit_accMask, Bool.eq_iff_iff]
  simp [FLT_SRC.desc]
  omega

theorem fltSrc_w1c (i : Nat) : (accMask (fun a => a = .w1c) FLT_SRC.desc).testBit i = decide (32 ≤ i ∧ i < 35) := by
  rw [testBit_accMask, Bool.eq_iff_iff]
  simp [FLT_SRC.desc]
  omega

/-- A 32-bit write to the upper half of FLT_SRCn clears the pending bits that it writes 1 (R17). -/
theorem fltSrc_write_upper {s : State} (w : RegsWf s.regs) (n : Fin 2048) (data : Word)
    (listed : sourceListed n = true) :
    ∃ t, exec (.registerWrite 0 false (FLT_SRC.regOff n + 4) 4 data) s = .next t ∧
      t.get (FLT_SRC.corr_pend n) = (if data.toNat.testBit 0 then 0 else s.get (FLT_SRC.corr_pend n)) ∧
      t.get (FLT_SRC.cont_pend n) = (if data.toNat.testBit 1 then 0 else s.get (FLT_SRC.cont_pend n)) ∧
      t.get (FLT_SRC.fatal_pend n) = (if data.toNat.testBit 2 then 0 else s.get (FLT_SRC.fatal_pend n)) ∧
      s.Same [] t ∧
      s.Frame noRegs [FLT_SRC.rx_fatal n, FLT_SRC.vector n, FLT_SRC.corr_pend n, FLT_SRC.cont_pend n,
        FLT_SRC.fatal_pend n] t := by
  have lt := fixWritten_fltSrc_lt listed n.isLt (stored_lt (l := FLT_SRC.desc) (half := 2 ^ 64 - 2 ^ 32)
    (s.raw (FLT_SRC.regOff n)).isLt (upperHalf_lt data.toNat))
  have pending {b : Nat} (hb : b < 3) : bitsOf (fixWritten (FLT_SRC.regOff n) (stored FLT_SRC.desc
      (s.raw (FLT_SRC.regOff n)).toNat (data.toNat % 2 ^ 32 * 2 ^ 32) (2 ^ 64 - 2 ^ 32))) (32 + b) 1 =
      if data.toNat.testBit b then 0 else bitsOf (s.raw (FLT_SRC.regOff n)).toNat (32 + b) 1 := by
    have bit : (data.toNat % 2 ^ 32 * 2 ^ 32).testBit (32 + b) = data.toNat.testBit b := by
      have below : b < 32 := by omega
      rw [Nat.testBit_mul_two_pow, Nat.testBit_mod_two_pow]
      simp [below]
    rw [bitsOf_fixWritten_fltSrc listed n.isLt (by omega) (by omega), bitsOf_stored_w1c, bit]
    · rw [fltSrc_rw, decide_eq_false_iff_not]; omega
    · rw [fltSrc_w1c, decide_eq_true_eq]; omega
    · rw [testBit_upperHalf, decide_eq_true_eq]; omega
  have kept (g : Fld) (off : g.off = FLT_SRC.regOff n) (apart : ∀ f ∈ [FLT_SRC.rx_fatal n, FLT_SRC.vector n,
      FLT_SRC.corr_pend n, FLT_SRC.cont_pend n, FLT_SRC.fatal_pend n], g.Apart f) :
      bitsOf (fixWritten (FLT_SRC.regOff n) (stored FLT_SRC.desc (s.raw (FLT_SRC.regOff n)).toNat
        (data.toNat % 2 ^ 32 * 2 ^ 32) (2 ^ 64 - 2 ^ 32))) g.lo g.w =
        bitsOf (s.raw (FLT_SRC.regOff n)).toNat g.lo g.w := by
    have fatal := (apart (FLT_SRC.rx_fatal n) (by simp)).resolve_left (absurd off)
    have vector := (apart (FLT_SRC.vector n) (by simp)).resolve_left (absurd off)
    rw [bitsOf_fixWritten_fltSrc listed n.isLt (fatal.imp (fun h => h.trans (show 10 ≤ 14 by decide)) id) vector]
    refine bitsOf_stored_of_apart (fun i hh h => ?_) off apart
    rw [testBit_upperHalf, decide_eq_true_eq] at hh
    rw [fltSrc_rw, fltSrc_w1c, decide_eq_true_eq, decide_eq_true_eq] at h
    simp [FLT_SRC.rx_fatal, FLT_SRC.vector, FLT_SRC.corr_pend, FLT_SRC.cont_pend, FLT_SRC.fatal_pend]
    omega
  have desc := regDesc_fltSrc listed n.isLt
  refine ⟨_, hostWrite_upperHalf (storedOnly_fltSrc n.isLt) (by unfold FLT_SRC.regOff; omega)
    (by rw [desc]; decide) data, ?_⟩
  rw [desc]
  generalize fixWritten _ _ = v at lt pending kept ⊢
  have read (f : Fld) (off : f.off = FLT_SRC.regOff n) := State.get_setRaw_same (g := f) w lt off
  exact ⟨(read _ rfl).trans (pending (b := 0) (by decide)), (read _ rfl).trans (pending (b := 1) (by decide)),
    (read _ rfl).trans (pending (b := 2) (by decide)), (State.setRaw_only _ _ _).same _, State.Frame.setRaw w lt kept⟩

/-! ### TBL_CMD_STAT -/

/-- A 64-bit read of TBL_CMD_STAT returns the register and clears it. -/
theorem hostRead_cmdStat (s : State) :
    s.hostRead 0 false TBL_CMD_STAT.regOff 8 =
      { s.setRaw TBL_CMD_STAT.regOff 0 with readVal := s.raw TBL_CMD_STAT.regOff } := by
  have access : accessOf 0 false TBL_CMD_STAT.regOff 8 = some (TBL_CMD_STAT.regOff, 2 ^ 64 - 1) := by decide
  have all : accMask (fun a => a ≠ .wo && a ≠ .w1s) (regDesc TBL_CMD_STAT.regOff) = 2 ^ 64 - 1 := by decide
  have clears : clearedBy (2 ^ 64 - 1) (regDesc TBL_CMD_STAT.regOff) = 2 ^ 64 - 1 := by decide
  have shown : s.readReg TBL_CMD_STAT.regOff = ((s.raw TBL_CMD_STAT.regOff).toNat, s) := by
    have view : s.view TBL_CMD_STAT.regOff = (s.raw TBL_CMD_STAT.regOff).toNat := rfl
    unfold State.readReg
    rw [view, all, Nat.and_two_pow_sub_one_of_lt_two_pow (BitVec.isLt _)]
    rfl
  have after (u : State) : u.afterRead TBL_CMD_STAT.regOff (2 ^ 64 - 1) = u := rfl
  unfold State.hostRead
  rw [access]
  dsimp only
  rw [if_neg (by decide), shown]
  dsimp only
  rw [if_neg (by decide), clears, after, Nat.and_two_pow_sub_one_of_lt_two_pow (BitVec.isLt _), Nat.sub_self,
    BitVec.ofNat_toNat, BitVec.setWidth_eq]
  rfl

/-- A read of the RC fields of TBL_CMD_STAT returns and clears them (R14). -/
theorem cmdStat_read {s : State} (w : RegsWf s.regs) :
    ∃ t, exec (.readClear 0 false TBL_CMD_STAT.regOff 8) s = .next t ∧
      t.readVal.toNat = s.get TBL_CMD_STAT.accepted + s.get TBL_CMD_STAT.refused * 2 ^ 32 +
        s.get TBL_CMD_STAT.full * 2 ^ 48 ∧
      t.get TBL_CMD_STAT.accepted = 0 ∧ t.get TBL_CMD_STAT.refused = 0 ∧ t.get TBL_CMD_STAT.full = 0 ∧
      s.Same [.readVal] t ∧
      s.Frame noRegs [TBL_CMD_STAT.accepted, TBL_CMD_STAT.refused, TBL_CMD_STAT.full] t := by
  have cleared (lo n : Nat) : (s.setRaw TBL_CMD_STAT.regOff 0).get ⟨TBL_CMD_STAT.regOff, lo, n⟩ = 0 := by
    unfold State.get
    rw [State.raw_setRaw_same w]
    simp [bitsOf]
  have kept (g : Fld) (off : g.off = TBL_CMD_STAT.regOff)
      (apart : ∀ f ∈ [TBL_CMD_STAT.accepted, TBL_CMD_STAT.refused, TBL_CMD_STAT.full], g.Apart f) :
      bitsOf 0 g.lo g.w = bitsOf (s.raw TBL_CMD_STAT.regOff).toNat g.lo g.w := by
    have accepted : g.lo + g.w ≤ 0 ∨ 0 + 32 ≤ g.lo := (apart TBL_CMD_STAT.accepted (by simp)).resolve_left (absurd off)
    have refused : g.lo + g.w ≤ 32 ∨ 32 + 16 ≤ g.lo := (apart TBL_CMD_STAT.refused (by simp)).resolve_left (absurd off)
    have full : g.lo + g.w ≤ 48 ∨ 48 + 16 ≤ g.lo := (apart TBL_CMD_STAT.full (by simp)).resolve_left (absurd off)
    refine Nat.eq_of_testBit_eq (fun i => ?_)
    rw [testBit_bitsOf, testBit_bitsOf, Nat.zero_testBit, Bool.and_false]
    by_cases hi : i < g.w
    · have above : 2 ^ 64 ≤ 2 ^ (g.lo + i) := Nat.pow_le_pow_right (by decide) (by omega)
      rw [Nat.testBit_lt_two_pow (Nat.lt_of_lt_of_le (BitVec.isLt _) above), Bool.and_false]
    · simp [hi]
  refine ⟨_, congrArg Host.Outcome.next (hostRead_cmdStat s), ?_, cleared 0 32, cleared 32 16, cleared 48 16, ?_, ?_⟩
  · have lt : (s.raw TBL_CMD_STAT.regOff).toNat < 2 ^ 64 := BitVec.isLt _
    show (s.raw TBL_CMD_STAT.regOff).toNat = (s.raw TBL_CMD_STAT.regOff).toNat / 2 ^ 0 % 2 ^ 32 +
      (s.raw TBL_CMD_STAT.regOff).toNat / 2 ^ 32 % 2 ^ 16 * 2 ^ 32 +
      (s.raw TBL_CMD_STAT.regOff).toNat / 2 ^ 48 % 2 ^ 16 * 2 ^ 48
    omega
  · intro p m
    cases p with
    | readVal => exact absurd (by decide) m
    | _ => rfl
  · exact (State.Frame.setRaw (v := 0) w (by decide) kept).same rfl

/-- Settles O8: the three registers' access types, one register at a time. -/
theorem registerAccessTypesAreKept : Obligations.RegisterAccessTypesAreKept := by
  unfold Obligations.RegisterAccessTypesAreKept
  intro s inv
  have w := inv.regsWf
  exact ⟨capCfg_write_whole w, capCfg_write_upper w, fltSrc_write_upper w, cmdStat_read w⟩

end Sys2Proof.Machine
end

section
/-! PROOFS. Commands that start a check of their block (00_scope.md R19, R21). -/

-- One declaration at a time: the package is compiled as one text, and a thread for each would not fit.
set_option Elab.async false

namespace Sys2Proof.Machine

/-- A write to a unit that is not gated is performed. -/
theorem State.gatedWrite_run {s : State} (h : s.get PWR_STATUS.state < 2) (f : State → State) :
    s.gatedWrite f = f s := by
  unfold State.gatedWrite State.gated State.pwrState
  rw [if_neg (by rw [decide_eq_true_eq]; omega)]

theorem State.raw_puts_far {s : State} {l : List (Fld × Nat)} {j : Nat} (d : ∀ x ∈ l, j ≠ x.1.off) :
    (s.puts l).raw j = s.raw j := by
  induction l generalizing s with
  | nil => rfl
  | cons x t ih =>
    rw [State.puts, ih (fun y hy => d y (List.mem_cons_of_mem _ hy)), State.raw_put_other (d x List.mem_cons_self)]

/-- What the arguments of a key command are taken from is in no register that the command's write stores. -/
theorem State.keyArgs_puts {s : State} {l : List (Fld × Nat)} (h : ∀ x ∈ l, x.1.off = CIPHER_KEY_CTL.regOff) (d : Nat) :
    (s.puts l).keyArgs d = s.keyArgs d := by
  have far : ∀ j, j ≠ CIPHER_KEY_CTL.regOff → (s.puts l).raw j = s.raw j :=
    fun j hj => State.raw_puts_far (fun x hx => by rw [h x hx]; exact hj)
  unfold State.keyArgs State.ivBytes State.tagBytes State.keyBytes State.regBytes
  simp only [List.range, List.range.loop, List.map_cons, List.map_nil]
  rw [far _ (by decide), far _ (by decide), far _ (by decide), far _ (by decide), far _ (by decide), far _ (by decide),
    far _ (by decide), far _ (by decide)]

/-- What R19 and R21 ask of a command `c` that starts the check `k`. -/
def StartsOneCheck (s : State) (c : Instr) (k : Check) : Prop :=
  (s.get (esBusy k.key) = 0 →
    ∃ t, exec c s = .next t ∧ t.get (esBusy k.key) = 1 ∧ t.checks = s.checks ++ [k] ∧
      (c ≠ .bufApply → t.buf = s.buf) ∧ s.Same [.checks, .buf] t ∧
      s.Frame noRegs (esBusy k.key :: writtenWith c) t) ∧
  (s.get (esBusy k.key) = 1 →
    ∃ t, exec c s = .next t ∧ t.checks = s.checks ∧ s.Same [] t ∧ s.Frame noRegs (writtenWith c) t)

/-- A command that stores fields of other registers and then starts its check. -/
theorem startsOneCheck_of_puts {s : State} (w : RegsWf s.regs) {c : Instr} {k : Check} {l : List (Fld × Nat)}
    (e : exec c s = .next ((s.puts l).startCheck k.key k.op k.args)) (names : ∀ x ∈ l, x.1 ∈ writtenWith c)
    (far : ∀ x ∈ l, k.key ≠ x.1.off) (fit : ∀ x ∈ l, x.1.lo + x.1.w ≤ 64) : StartsOneCheck s c k := by
  have stored : s.Frame noRegs (writtenWith c) (s.puts l) :=
    (State.Frame.refl _ _ s).puts w (fun x hx => ⟨names x hx, fit x hx⟩)
  have rest : OnlyRegs s (s.puts l) := (OnlyRegs.refl s).puts l
  have busy : (s.puts l).get (esBusy k.key) = s.get (esBusy k.key) := State.get_puts_far far
  refine ⟨fun idle => ?_, fun runs => ⟨_, e, ?_⟩⟩
  · obtain ⟨isBusy, joins, same, frame⟩ :=
      State.startCheck_spec (State.puts_regsWf w) (busy.trans idle) k.op k.args
    refine ⟨_, e, isBusy, ?_, fun _ => ?_, ?_, ?_⟩
    · rw [joins, State.puts_checks]
    · exact Eq.trans (same .buf (by decide)) State.puts_buf
    · exact (rest.same _).trans (same.mono (by decide))
    · exact (stored.mono (fun _ h => h) (fun _ h => List.mem_cons_of_mem _ h)).trans
        (frame.mono (fun _ h => h) (by simp))
  · rw [State.startCheck_busy (busy.trans runs)]
    exact ⟨State.puts_checks, rest.same _, stored⟩

theorem startsOneCheck_of_startCheck {s : State} (w : RegsWf s.regs) {c : Instr} {k : Check}
    (e : exec c s = .next (s.startCheck k.key k.op k.args)) : StartsOneCheck s c k :=
  startsOneCheck_of_puts (l := []) w e (fun _ h => nomatch h) (fun _ h => nomatch h) (fun _ h => nomatch h)

/-- A command of a unit gated in Brine that starts its check, outside Brine. -/
theorem startsOneCheck_of_gated {s : State} (w : RegsWf s.regs) {c : Instr} {k : Check} {f : State → State}
    (run : s.get PWR_STATUS.state < 2) (e : exec c s = .next (s.gatedWrite f))
    (start : f s = s.startCheck k.key k.op k.args) : StartsOneCheck s c k :=
  startsOneCheck_of_startCheck w (by rw [e, State.gatedWrite_run run, start])

/-- BUF_CTL.apply takes the staged values with it and starts its check (R328). -/
theorem startsOneCheck_bufApply {s : State} (w : RegsWf s.regs) (run : s.get PWR_STATUS.state < 2) :
    StartsOneCheck s .bufApply ⟨BUF_ENABLE_STATUS.regOff, .buffer, []⟩ := by
  have e : exec .bufApply s = .next s.bufApply := congrArg Host.Outcome.next (State.gatedWrite_run run State.bufApply)
  refine ⟨fun idle => ⟨_, e, ?_⟩, fun runs => ⟨_, e, ?_⟩⟩
  · let u : State := { s with buf := { s.buf with snap := some s.bufSnap } }
    have taken : s.Same [.buf] u := by
      intro p m
      cases p with
      | buf => exact absurd (by decide) m
      | _ => rfl
    have unfolded : s.bufApply = u.startCheck BUF_ENABLE_STATUS.regOff .buffer [] := by
      unfold State.bufApply State.flag; rw [idle]; rfl
    obtain ⟨isBusy, joins, same, frame⟩ := State.startCheck_spec (s := u) w idle .buffer []
    rw [unfolded]
    exact ⟨isBusy, joins, fun h => absurd rfl h, (taken.mono (by decide)).trans (same.mono (by decide)), frame⟩
  · have ignored : s.bufApply = s := by
      unfold State.bufApply State.flag; rw [runs]; rfl
    rw [ignored]
    exact ⟨rfl, .refl _ _, .refl _ _ _⟩

/-- Arming a pulse output stores the settings of the write and starts the check with them (R499). -/
theorem startsOneCheck_poArm {s : State} (w : RegsWf s.regs) (k : Fin 4) (data : Word) :
    StartsOneCheck s (.poArm k data) ⟨TIME_ENABLE_STATUS.regOff, .pulseArm k,
      [bitsOf data.toNat 0 2, bitsOf data.toNat 2 1, bitsOf data.toNat 32 32, s.get (TIME_PO_START.start k),
        s.get (TIME_PO_PERIOD.period k)]⟩ := by
  let l : List (Fld × Nat) := [(TIME_PO_CTL.mode k, bitsOf data.toNat 0 2),
    (TIME_PO_CTL.polarity k, bitsOf data.toNat 2 1), (TIME_PO_CTL.width_ns k, bitsOf data.toNat 32 32)]
  have off : ∀ x ∈ l, x.1.off = 0x834100 + 0x20 * k.val := by
    simp [l, TIME_PO_CTL.mode, TIME_PO_CTL.polarity, TIME_PO_CTL.width_ns, TIME_PO_CTL.regOff]
  have start : (s.puts l).get (TIME_PO_START.start k) = s.get (TIME_PO_START.start k) :=
    State.get_puts_far (fun x hx => by rw [off x hx]; show 0x834108 + 0x20 * k.val ≠ _; omega)
  have period : (s.puts l).get (TIME_PO_PERIOD.period k) = s.get (TIME_PO_PERIOD.period k) :=
    State.get_puts_far (fun x hx => by rw [off x hx]; show 0x834110 + 0x20 * k.val ≠ _; omega)
  refine startsOneCheck_of_puts (l := l) w ?_ (by simp [l, writtenWith]) ?_
    (by simp [l, TIME_PO_CTL.mode, TIME_PO_CTL.polarity, TIME_PO_CTL.width_ns])
  · rw [← start, ← period]; rfl
  · intro x hx; rw [off x hx]; show 0x834008 ≠ _; omega

/-- A key command stores the settings of the write and starts its check with the key registers (R562). -/
theorem startsOneCheck_keyCommand {s : State} (w : RegsWf s.regs) {c : Instr} {op : CheckOp} {data : Word}
    (e : exec c s = .next (s.keyCommand op data))
    (names : writtenWith c = [CIPHER_KEY_CTL.slot, CIPHER_KEY_CTL.len, CIPHER_KEY_CTL.wrapped, CIPHER_KEY_CTL.lock]) :
    StartsOneCheck s c ⟨CIPHER_ENABLE_STATUS.regOff, op, s.keyArgs data.toNat⟩ := by
  let l : List (Fld × Nat) := [(CIPHER_KEY_CTL.slot, bitsOf data.toNat 0 3),
    (CIPHER_KEY_CTL.len, bitsOf data.toNat 3 1), (CIPHER_KEY_CTL.wrapped, bitsOf data.toNat 4 1),
    (CIPHER_KEY_CTL.lock, bitsOf data.toNat 5 1)]
  have off : ∀ x ∈ l, x.1.off = CIPHER_KEY_CTL.regOff := by simp [l]; decide
  refine startsOneCheck_of_puts (l := l) w ?_ (by simp [l, names]) ?_ (by simp [l]; decide)
  · rw [e, ← State.keyArgs_puts off]; rfl
  · intro x hx; rw [off x hx]; show CIPHER_ENABLE_STATUS.regOff ≠ _; decide

/-- Settles O9: a command starts its check at once, outside Brine, or with what its write stores. -/
theorem commandsStartOneCheckOfTheirBlock : Obligations.CommandsStartOneCheckOfTheirBlock := by
  unfold Obligations.CommandsStartOneCheckOfTheirBlock
  intro s c k inv hk run
  have w := inv.regsWf
  show StartsOneCheck s c k
  cases c with
  | bufApply => cases hk; exact startsOneCheck_bufApply w (run (by simp [gatedWrites]))
  | poArm p data => cases hk; exact startsOneCheck_poArm w p data
  | keyLoad _ | keyClear _ | keyProvision _ => cases hk; exact startsOneCheck_keyCommand w rfl rfl
  | gateTakeoverGo | plEnable | mtrEnable | postEnable =>
    cases hk; exact startsOneCheck_of_gated w (run (by simp [gatedWrites])) rfl rfl
  | ringEnable _ | portEnable _ | servoEnable | fabTimeEnable | timeSet | timeStep | pwrApply | brineEnter | brineExit
  | cipherStart | cipherPushAad | cipherPushText | cipherFinish | cipherAbandon =>
    cases hk; exact startsOneCheck_of_startCheck w rfl
  | _ => exact absurd hk.symm (Option.some_ne_none k)

end Sys2Proof.Machine
end

section
/-! PROOFS. Indirect commands (00_scope.md R629): a scheduler write to a node that is in its turn. -/

-- One declaration at a time: the package is compiled as one text, and a thread for each would not fit.
set_option Elab.async false

namespace Sys2Proof.Machine

/-- An indirect write to a node that is in its turn leaves its quantum: what is written waits for the next turn
(R363). -/
theorem State.schedIndWrite_node_quantum_of_inTurn {s : State} {i d : Nat}
    (turn : s.inTurn (i / 64) (16 + i % 64) = true) :
    ((s.schedIndWrite 1 i d).schNode i).quantum = (s.schNode i).quantum := by
  have key : s.child (i / 64) (16 + i % 64) = s.schNode i := by
    unfold State.child
    rw [if_neg (by omega), Nat.add_sub_cancel_left, show i / 64 * 64 + i % 64 = i by omega]
  have retuned : (s.retune (i / 64) (16 + i % 64) d).quantum = (s.schNode i).quantum := by
    unfold State.retune
    dsimp only
    rw [if_pos turn, key]
  have stored : (s.schedIndWrite 1 i d).schNode i = s.retune (i / 64) (16 + i % 64) d := smGet_smPut_same _ _ _ _
  rw [stored, retuned]

/-- The result registers of a scheduler command leave the tree alone. -/
theorem State.schNode_puts (s : State) (l : List (Fld × Nat)) (i : Nat) : (s.puts l).schNode i = s.schNode i := by
  unfold State.schNode; rw [State.puts_sch]

/-- So an accepted write of a node that is in its turn completes with the node's quantum as it was. -/
theorem State.schedIndDone_node_quantum_of_inTurn {s : State} {j : IndJob} (accepted : s.schedIndReason j = 0)
    (isWrite : j.write = true) (isNode : bitsOf j.addr 20 3 = 1)
    (turn : s.inTurn (bitsOf j.addr 0 20 / 64) (16 + bitsOf j.addr 0 20 % 64) = true) :
    ((s.schedIndDone j).schNode (bitsOf j.addr 0 20)).quantum = (s.schNode (bitsOf j.addr 0 20)).quantum := by
  unfold State.schedIndDone
  dsimp only
  rw [State.schNode_puts, if_neg (not_not_intro accepted), if_pos isWrite, isNode]
  exact State.schedIndWrite_node_quantum_of_inTurn turn

/-- A scheduler write of quantum 64 for node 0. -/
def quantumJob : IndJob := ⟨SCHED_IND_CMD.regOff, true, 2 ^ 20, [64]⟩

/-- Node 0 of port 0 is the port's current child with deficit left, its quantum 128, and `quantumJob` runs. -/
def turnState : State :=
  let s := State.reset.put STRUCT_STATUS.state 3
  { s with
    pk := { s.pk with ind := [quantumJob] }
    sch := { s.sch with
      nodes := [(0, { declared := true, parent := 0xFF, quantum := 128, deficit := 1 })]
      roots := [(0, { cur := some 16 })] } }

theorem turnState_inv : turnState.Inv :=
  (Keep.plain (State.put_keep (Keep.refl State.reset))).inv resetMeetsTheInvariant

theorem turnState_accepts : turnState.schedIndReason quantumJob = 0 := by decide

/-- `turnState` as its command has left the list of those that run. -/
def turnStateDone : State := { turnState with pk := { turnState.pk with ind := [] } }

theorem turnState_completes : turnState.indDone SCHED_IND_CMD.regOff = turnStateDone.schedIndDone quantumJob := rfl

/-- Refutes O48: a quantum written during the node's turn applies from its next turn (R363), not as the command
completes. In `turnState` the command is accepted and the node keeps quantum 128, where the statement asks for 64. -/
theorem not_indirectCommandsStartAloneAndComplete : ¬ Obligations.IndirectCommandsStartAloneAndComplete := by
  unfold Obligations.IndirectCommandsStartAloneAndComplete
  intro h
  obtain ⟨-, -, -, -, sched, -⟩ := h turnState turnState_inv
  obtain ⟨t, e, -, -, -, write, -⟩ := sched quantumJob (by rfl)
  obtain ⟨-, node, -⟩ := write turnState_accepts rfl
  obtain ⟨asked, -⟩ := node (by decide)
  have kept : (t.schNode 0).quantum = 128 := by
    cases e
    exact State.schedIndDone_node_quantum_of_inTurn (s := turnStateDone) (j := quantumJob) (by decide) rfl (by decide)
      (by decide)
  exact absurd (asked.symm.trans kept) (by decide)

end Sys2Proof.Machine
end

section
/-! PROOFS. Clock events (01_architecture.md R51-R53): the PLL of eight lanes loses lock while a copy of their port
carries a performance event of a block that is none of the device's. -/

-- One declaration at a time: the package is compiled as one text, and a thread for each would not fit.
set_option Elab.async false

namespace Sys2Proof.Machine

/-- A block whose first counter would be LM_STATUS of lanes 40 to 47, and its event selection PORT_RX2 of lane 47.
`State.Inv` does not bound the block of a note. -/
def strayBlock : Nat := LM_STATUS.regOff 5 - 0xFC0

theorem strayBlock_registers :
    PERF_CNT.regOff strayBlock 0 = LM_STATUS.regOff 5 ∧ PERF_SEL.regOff strayBlock 0 = PORT_RX2.regOff 47 := by decide

/-- Port 7 on lanes 40 to 43. -/
def strayRecord : PortRec := ⟨7, 1, 40, 4, 0x10, 7, 9, false⟩

/-- A copy on its way to port 7 that has met 4 events of code 2 in `strayBlock`. -/
def strayCopy : Copy :=
  { id := 0, pkt := 0, queue := queueOf 7 0, seg := 0, idx := 0, data := 0, ecn := false, admitAt := 0, read := 0
    pooled := false, cut := false, at' := .stages, mcast := false, guarded := false, wire := none
    w := { pipe := 0, stage := 20, port := 7, fn := none, first := true, injected := false, rq := 0, md := []
           look := [], times := [], notes := [⟨strayBlock, 2, {}, 4⟩] } }

/-- Port 7 is up, its PLL locked, and lane 47 has counted 2 FCS errors, which select code 2 in `strayBlock`. -/
def strayState : State :=
  let s := State.reset.puts [(LM_STATUS.pll_lock 5, 1), (PORT_STATUS.state 40, 4), (PORT_RX2.fcs_err 47, 2)]
  { s with io := { s.io with records := [(7, some strayRecord)] }, pk := { s.pk with copies := [strayCopy] } }

theorem strayState_inv : strayState.Inv :=
  (Keep.plain (State.puts_keep (Keep.refl State.reset))).inv resetMeetsTheInvariant

/-- The link that goes down flushes the copy, whose 4 events then count at bit 2 of LM_STATUS, its pll_lock. -/
theorem strayState_locks_again : (strayState.macroLockLost 5).get (LM_STATUS.pll_lock 5) = 1 := by
  decide +kernel

/-- Refutes O23: the invariant lets a copy carry events of any block, so what a port that goes down flushes can count in
the register that shows the PLL's lock. After the loss in `strayState` LM_STATUS shows it locked. -/
theorem not_clockEventsSetTheirStatus : ¬ Obligations.ClockEventsSetTheirStatus := by
  unfold Obligations.ClockEventsSetTheirStatus
  intro h
  obtain ⟨-, -, -, -, -, portGoesDown⟩ := h strayState strayState_inv
  obtain ⟨t, e, -, -, -, unlocked⟩ := portGoesDown 5 strayRecord (by decide) (by decide) (by decide) (by decide)
  have lost : strayState.macroLockLost 5 = t := Host.Outcome.next.inj e
  have locked : t.get (LM_STATUS.pll_lock 5) = 1 := lost ▸ strayState_locks_again
  exact absurd (locked.symm.trans unlocked) (by decide)

end Sys2Proof.Machine
end

section
/-! PROOFS. Counting (10_telemetry_metering.md R376-R378): what performance counters and the plain counters beside them
change. `Tally R l s t` says that `t` came from `s` by writing registers of `R` and fields of `l`, and that of the host
interface nothing but records of counter overflows joined those that wait. -/

-- One declaration at a time: the package is compiled as one text, and a thread for each would not fit.
set_option Elab.async false

namespace Sys2Proof.Machine

variable {s t u : State} {R : Region} {l : List Fld}

theorem State.SameHost.of_hif (h : t.hif = s.hif) : s.SameHost t := by
  unfold State.SameHost State.ring
  rw [h]
  exact ⟨rfl, fun _ => ⟨⟨[], List.append_nil _⟩, rfl⟩⟩

theorem State.SameHost.trans (h : s.SameHost t) (g : t.SameHost u) : s.SameHost u :=
  ⟨g.1.trans h.1, fun r => ⟨(h.2 r).1.trans (g.2 r).1, (g.2 r).2.trans (h.2 r).2⟩⟩

theorem State.ring_setRing_same (s : State) (r : Nat) (x : RingSt) : (s.setRing r x).ring r = x :=
  smGet_smPut_same _ _ _ _

theorem State.ring_setRing_other (s : State) {r i : Nat} (h : i ≠ r) (x : RingSt) :
    (s.setRing r x).ring i = s.ring i :=
  smGet_smPut_other _ _ _ h

/-- A record that joins the due events of its ring is all that changes of the host interface. -/
theorem State.queueEvent_sameHost (s : State) (r : Nat) (w : List Word) : s.SameHost (s.queueEvent r w) := by
  unfold State.queueEvent
  split
  · refine ⟨by simp [State.setRing, scansAfter, scans], fun i => ?_⟩
    by_cases e : i = r
    · subst e
      rw [State.ring_setRing_same]
      exact ⟨⟨[w], rfl⟩, rfl⟩
    · rw [State.ring_setRing_other _ e]
      exact ⟨⟨[], List.append_nil _⟩, rfl⟩
  · exact .of_hif State.bump_hif

/-- `t` came from `s` by counting in registers of `R` and fields of `l`. -/
structure Tally (R : Region) (l : List Fld) (s t : State) : Prop where
  rest : t = { s with regs := t.regs, hif := t.hif }
  host : s.SameHost t
  frame : s.Frame R l t
  wf : RegsWf s.regs → RegsWf t.regs

theorem Tally.refl (R : Region) (l : List Fld) (s : State) : Tally R l s s :=
  ⟨rfl, .of_hif rfl, .refl _ _ _, id⟩

theorem Tally.trans (h : Tally R l s t) (g : Tally R l t u) : Tally R l s u where
  rest := by rw [g.rest, h.rest]
  host := h.host.trans g.host
  frame := h.frame.trans g.frame
  wf w := g.wf (h.wf w)

theorem Tally.mono {S : Region} {k : List Fld} (h : Tally R l s t) (hR : ∀ x, R x → S x) (hl : ∀ f ∈ l, f ∈ k) :
    Tally S k s t :=
  { h with frame := h.frame.mono hR hl }

/-- A put of a field that the tally names. -/
theorem Tally.put (h : Tally R l s t) (w : RegsWf s.regs) {f : Fld} (m : f ∈ l) (fit : f.lo + f.w ≤ 64) (v : Nat) :
    Tally R l s (t.put f v) where
  rest := by rw [h.rest]; rfl
  host := h.host.trans (.of_hif State.put_hif)
  frame := h.frame.put (h.wf w) m fit v
  wf w := (h.wf w).put f v

theorem Tally.bump (h : Tally R l s t) (w : RegsWf s.regs) {f : Fld} (m : f ∈ l) (fit : f.lo + f.w ≤ 64) (n : Nat) :
    Tally R l s (t.bump f n) := h.put w m fit _

/-- A put into a register of the tally's region. -/
theorem Tally.putIn (h : Tally R l s t) {f : Fld} (m : R f.off) (v : Nat) : Tally R l s (t.put f v) where
  rest := by rw [h.rest]; rfl
  host := h.host.trans (.of_hif State.put_hif)
  frame := h.frame.putIn m v
  wf w := (h.wf w).put f v

/-- Every part of the state but the host interface is the same. -/
theorem Tally.sameCounting (h : Tally R l s t) (k : List Part) : s.SameCounting k t := by
  intro p _
  split
  · exact h.host
  · next notHif =>
    rw [h.rest]
    cases p with
    | hif => exact absurd rfl notHif
    | _ => rfl

theorem Tally.queueEvent (h : Tally R l s t) (ev : ∀ k, eventRegs k → R k) {r : Nat} (hr : r < 1024) (x : List Word) :
    Tally R l s (t.queueEvent r x) := by
  have host := h.host.trans (t.queueEvent_sameHost r x)
  unfold State.queueEvent at host ⊢
  split at host
  · next c => rw [if_pos c]; exact ⟨by rw [h.rest]; rfl, host, h.frame.same rfl, h.wf⟩
  · next c =>
    rw [if_neg c]
    refine h.putIn (ev _ ?_) _
    show RING_STAT.regOff 0 ≤ RING_STAT.regOff r ∧ RING_STAT.regOff r < RING_STAT.regOff 1024
    unfold RING_STAT.regOff
    omega

/-- Counting in one counter writes its register and, on an overflow, may queue a record (R378). -/
theorem Tally.perfOne {b k : Nat} (h : Tally (perfRegs b) l s t) (hk : k < 4) (code : Nat) (a : PerfAttr) (n : Nat) :
    Tally (perfRegs b) l s (t.perfOne b k code a n) := by
  have counter : perfRegs b (PERF_CNT.regOff b k) := perfCnt_mem hk
  unfold State.perfOne
  split
  · dsimp only
    have counted := h.putIn (f := PERF_CNT.value b k) counter (t.get (PERF_CNT.value b k) + n)
    have wrapped := counted.putIn (f := PERF_CNT.overflow b k) counter 1
    split
    · exact counted
    · split
      · exact wrapped.queueEvent (fun _ => Or.inr) (State.get_ring_lt _) _
      · exact wrapped
  · exact h

theorem Tally.perf {b : Nat} (h : Tally (perfRegs b) l s t) (code : Nat) (a : PerfAttr) (n : Nat) :
    Tally (perfRegs b) l s (t.perf b code a n) :=
  (((h.perfOne (by decide) code a n).perfOne (by decide) code a n).perfOne (by decide) code a n).perfOne
     (by decide) code a n

/-! ### What stays -/

theorem Tally.laneOf (h : Tally R l s t) (p : Nat) : t.laneOf p = s.laneOf p := by rw [h.rest]; rfl

theorem Tally.pipeOf (h : Tally R l s t) (p : Nat) : t.pipeOf p = s.pipeOf p := by rw [h.rest]; rfl

theorem Tally.pk (h : Tally R l s t) : t.pk = s.pk := by rw [h.rest]

/-- A field outside the tally reads as before. -/
theorem Tally.get (h : Tally R l s t) {g : Fld} (out : ¬R g.off) (apart : ∀ f ∈ l, g.Apart f) : t.get g = s.get g :=
  h.frame g out apart

/-- A counter outside the tally that counts after it. -/
theorem Tally.get_bump (h : Tally R l s t) (w : RegsWf s.regs) {f : Fld} (out : ¬R f.off) (apart : ∀ g ∈ l, f.Apart g)
    (fit : f.lo + f.w ≤ 64) (n : Nat) : (t.bump f n).get f = satAdd f.w (s.get f) n := by
  rw [State.get_bump_same (h.wf w) fit, h.get out apart]
  rfl

/-! ### Where the counters stand -/

/-- No lane or port register is a performance counter of eight lanes or a count of a ring. -/
theorem laneKey_not_perfRegs {a b j : Nat} (hj : j < 32) : ¬perfRegs (lmBase a) (laneKey b j) := by
  unfold perfRegs eventRegs PERF_CNT.regOff RING_STAT.regOff lmBase laneKey
  omega

/-- No register of the first die but those of the rings is such a counter. -/
theorem firstDie_not_perfRegs {a k : Nat} (h : k < 0x832000 ∨ 0x834000 ≤ k ∧ k < 0x1000000) :
    ¬perfRegs (lmBase a) k := by
  unfold perfRegs eventRegs PERF_CNT.regOff RING_STAT.regOff lmBase
  omega

end Sys2Proof.Machine
end

section
/-! PROOFS. The receive FIFO of a section and the counters of a received frame (01_architecture.md R46,
11_serial_lanes.md R411). -/

-- One declaration at a time: the package is compiled as one text, and a thread for each would not fit.
set_option Elab.async false

namespace Sys2Proof.Machine

variable {s t : State}

/-! ### The FIFO -/

theorem State.fifo_setFifo_same (s : State) (sec : Nat) (x : List RxFrame) : (s.setFifo sec x).fifo sec = x :=
  smGet_smPut_same _ _ _ _

theorem State.fifo_setFifo_other (s : State) {sec i : Nat} (h : i ≠ sec) (x : List RxFrame) :
    (s.setFifo sec x).fifo i = s.fifo i :=
  smGet_smPut_other _ _ _ h

theorem State.fifo_congr (h : t.pk = s.pk) (sec : Nat) : t.fifo sec = s.fifo sec := by
  unfold State.fifo; rw [h]

theorem State.fifoFill_congr (h : t.pk = s.pk) (sec : Nat) : t.fifoFill sec = s.fifoFill sec := by
  unfold State.fifoFill; rw [h]

/-- Bytes of waiting frames. -/
def bytesIn (x : List RxFrame) : Nat := sumNat (x.map (fun f => f.bytes.length))

theorem sumNat_eq_sum (x : List Nat) : sumNat x = x.sum := List.sum_eq_foldl.symm

/-- What a section's FIFO holds beside its waiting frames does not change with them. -/
theorem State.fifoFill_setFifo (s : State) (sec : Nat) (x : List RxFrame) :
    (s.setFifo sec x).fifoFill sec + bytesIn (s.fifo sec) = s.fifoFill sec + bytesIn x := by
  have fill : ∀ t : State, t.fifoFill sec = bytesIn (t.fifo sec) +
      sumNat ((t.pk.pkts.filter (fun p => p.fromFifo && p.w.pipe = sec)).map
        (fun p => p.bytes.length - 256 * p.cells.length)) :=
    fun _ => rfl
  rw [fill, fill, State.fifo_setFifo_same]
  show _ + sumNat ((s.pk.pkts.filter _).map _) + _ = _
  omega

theorem bytesIn_append (x : List RxFrame) (f : RxFrame) : bytesIn (x ++ [f]) = bytesIn x + f.bytes.length := by
  simp [bytesIn, sumNat_eq_sum]

/-- Replacing the frames equal to `f` adds to the bytes what each of them gains. -/
theorem bytesIn_replace (x : List RxFrame) (f g : RxFrame) :
    bytesIn (x.map (fun y => if y = f then g else y)) + x.count f * f.bytes.length =
      bytesIn x + x.count f * g.bytes.length := by
  induction x with
  | nil => simp
  | cons y x ih =>
    unfold bytesIn at ih ⊢
    simp only [sumNat_eq_sum, List.map_cons, List.sum_cons, List.count_cons] at ih ⊢
    by_cases e : y = f
    · simp only [e, if_true, beq_self_eq_true, Nat.add_mul, Nat.one_mul]
      omega
    · simp only [e, if_false, beq_eq_false_iff_ne.mpr e, Bool.false_eq_true, Nat.add_zero]
      omega

/-- Up to 96 KiB no class goes to XOFF (R46). -/
theorem State.fifoGrown_of_le {sec : Nat} (h : s.fifoFill sec ≤ 98304) (was : Nat) : s.fifoGrown sec was = s := by
  unfold State.fifoGrown
  rw [if_neg (by simp [h])]

/-- No class of a section's ports has headroom: none goes to XOFF. -/
theorem State.fifoGrown_of_no_headroom {sec : Nat} (h : ∀ x ∈ s.buf.headActive, s.pipeOf (x.1 / 4) ≠ sec) (was : Nat) :
    s.fifoGrown sec was = s := by
  unfold State.fifoGrown
  have none : (s.buf.headActive.map (·.1)).filter (fun k => s.pipeOf (k / 4) = sec) = [] := by
    simpa [List.filter_eq_nil_iff] using h
  rw [none, List.foldl_nil, ite_self]

/-- No class of a section's ports is in XOFF: none is looked at again. -/
theorem State.xoffSweep_of_no_xoff {sec : Nat} (h : ∀ x ∈ s.buf.xoff, s.pipeOf (x.1 / 4) ≠ sec) :
    s.xoffSweep sec = s := by
  unfold State.xoffSweep
  have none : (s.buf.xoff.map (·.1)).filter (fun k => s.pipeOf (k / 4) = sec) = [] := by
    simpa [List.filter_eq_nil_iff] using h
  rw [none, List.foldl_nil]

/-- A frame that finds room joins the section's FIFO (R46). -/
theorem State.enqueueRx_of_room {sec : Nat} {f : RxFrame} (room : s.fifoFill sec + f.bytes.length ≤ 98304)
    (some : 0 < f.bytes.length) : s.enqueueRx sec f = s.setFifo sec (s.fifo sec ++ [f]) := by
  have fill := s.fifoFill_setFifo sec (s.fifo sec ++ [f])
  rw [bytesIn_append] at fill
  unfold State.enqueueRx
  have notFull : ¬98304 ≤ s.fifoFill sec := by omega
  rw [if_neg (by simp [notFull]), State.fifoGrown_of_le (by omega)]

/-- A frame of a lossy class that finds 96 KiB is dropped (R46; notes/assumptions/63.md). -/
theorem State.enqueueRx_of_full {sec : Nat} {f : RxFrame} (lossy : f.lossless = false) (full : 98304 ≤ s.fifoFill sec) :
    s.enqueueRx sec f = s.bump (PORT_RX2.overrun (s.laneOf f.port)) 1 := by
  unfold State.enqueueRx
  rw [if_pos (by simp [lossy, full])]

/-! ### The counters of a received frame (R411) -/

/-- A frame and its bytes are counted at its port, and in the performance counters of its lanes. -/
def State.countFrame (s : State) (port : Nat) (b : List Byte) : State :=
  (((s.bump (PORT_RX0.rx_frames (s.laneOf port)) 1).bump (PORT_RX1.rx_bytes (s.laneOf port)) b.length).lanePerf port
    0x40 1).lanePerf port 0x41 b.length

/-- A frame of allowed length with a good FCS is counted and found good. -/
theorem State.countRx_of_good {port : Nat} {b : List Byte}
    (fits : b.length ≤ s.get (PORT_CFG.max_frame (s.laneOf port)))
    (fcs : fcsOk b = true) : s.countRx port b false = (s.countFrame port b, false) := by
  unfold State.countRx
  simp [fcs, Nat.not_lt.mpr fits, State.countFrame]

/-- One with a bad FCS is counted as such. -/
theorem State.countRx_of_bad {port : Nat} {b : List Byte}
    (fits : b.length ≤ s.get (PORT_CFG.max_frame (s.laneOf port)))
    (fcs : fcsOk b = false) : s.countRx port b false =
      (((s.countFrame port b).lanePerf port 0x47 1).bump (PORT_RX2.fcs_err (s.laneOf port)) 1, true) := by
  unfold State.countRx
  simp [fcs, Nat.not_lt.mpr fits, State.countFrame]

/-- The fields in which a received frame is counted. -/
def rxFields (lane : Nat) : List Fld := [PORT_RX0.rx_frames lane, PORT_RX1.rx_bytes lane]

/-- A field shares no bit with the counters of a received frame. -/
theorem apart_rxFields {g : Fld} {lane : Nat} (h : ∀ j, j = 22 ∨ j = 23 → g.off ≠ laneKey lane j) :
    ∀ f ∈ rxFields lane, g.Apart f := by
  intro f m
  simp only [rxFields, List.mem_cons, List.not_mem_nil, or_false] at m
  rcases m with rfl | rfl
  · exact Or.inl (h 22 (Or.inl rfl))
  · exact Or.inl (h 23 (Or.inr rfl))

theorem laneKey_ne {lane i j : Nat} (h : i ≠ j) : laneKey lane i ≠ laneKey lane j := by
  unfold laneKey; omega

theorem Tally.lanePerf {l : List Fld} {port : Nat} (h : Tally (perfRegs (lmBase (s.laneOf port))) l s t)
    (code n : Nat) : Tally (perfRegs (lmBase (s.laneOf port))) l s (t.lanePerf port code n) := by
  unfold State.lanePerf
  rw [h.laneOf]
  exact h.perf _ _ _

/-- What counting a frame changes, and the two counters themselves. -/
theorem State.countFrame_spec (w : RegsWf s.regs) (port : Nat) (b : List Byte) :
    Tally (perfRegs (lmBase (s.laneOf port))) (rxFields (s.laneOf port)) s (s.countFrame port b) ∧
    (s.countFrame port b).get (PORT_RX0.rx_frames (s.laneOf port)) =
      satAdd 48 (s.get (PORT_RX0.rx_frames (s.laneOf port))) 1 ∧
    (s.countFrame port b).get (PORT_RX1.rx_bytes (s.laneOf port)) =
      satAdd 48 (s.get (PORT_RX1.rx_bytes (s.laneOf port))) b.length := by
  generalize hL : s.laneOf port = lane
  generalize hu : s.bump (PORT_RX0.rx_frames lane) 1 = u
  generalize hv : u.bump (PORT_RX1.rx_bytes lane) b.length = v
  have tu : Tally (perfRegs (lmBase lane)) (rxFields lane) s u :=
    hu ▸ (Tally.refl _ _ s).bump w (by simp [rxFields]) (Nat.le_of_ble_eq_true rfl) 1
  have tv : Tally (perfRegs (lmBase lane)) (rxFields lane) s v :=
    hv ▸ tu.bump w (by simp [rxFields]) (Nat.le_of_ble_eq_true rfl) b.length
  have lane' : v.laneOf port = lane := (tv.laneOf port).trans hL
  have counted : Tally (perfRegs (lmBase lane)) [] v (s.countFrame port b) := by
    unfold State.countFrame
    rw [hL, hu, hv]
    have first := (Tally.refl (perfRegs (lmBase (v.laneOf port))) [] v)
    rw [← lane']
    exact (first.lanePerf 0x40 1).lanePerf 0x41 b.length
  have far : ∀ j < 32, ¬perfRegs (lmBase lane) (laneKey lane j) := fun _ => laneKey_not_perfRegs
  have frames : u.get (PORT_RX0.rx_frames lane) = satAdd 48 (s.get (PORT_RX0.rx_frames lane)) 1 :=
    hu ▸ State.get_bump_same w (Nat.le_of_ble_eq_true rfl) 1
  have bytes : v.get (PORT_RX1.rx_bytes lane) = satAdd 48 (s.get (PORT_RX1.rx_bytes lane)) b.length := by
    have old : u.get (PORT_RX1.rx_bytes lane) = s.get (PORT_RX1.rx_bytes lane) :=
      hu ▸ State.get_put_far _ (laneKey_ne (by decide))
    rw [← old, ← hv]
    exact State.get_bump_same (tu.wf w) (Nat.le_of_ble_eq_true rfl) _
  refine ⟨tv.trans (counted.mono (fun _ => id) (fun _ m => nomatch m)), ?_, ?_⟩
  · rw [counted.get (far 22 (by decide)) (fun _ m => nomatch m), ← frames, ← hv]
    exact State.get_put_far _ (laneKey_ne (by decide))
  · rw [counted.get (far 23 (by decide)) (fun _ m => nomatch m), bytes]

end Sys2Proof.Machine
end

section
/-! PROOFS. A whole frame of an Ethernet port (01_architecture.md R46, 11_serial_lanes.md R411, R412,
14_power_thermal.md R523): what it leaves, and when it is dropped instead. -/

-- One declaration at a time: the package is compiled as one text, and a thread for each would not fit.
set_option Elab.async false

namespace Sys2Proof.Machine

variable {s t u : State} {port : Nat} {b : List Byte}

/-- A tally, and then a change of the parts of `k` alone. -/
theorem Tally.sameCounting_then {R : Region} {l : List Fld} {k : List Part} (h : Tally R l s u) (same : u.Same k t) :
    s.SameCounting k t := by
  intro p m
  have before := h.sameCounting k p m
  have after := same p m
  split at before
  · next e => subst e; rw [if_pos rfl]; exact before.trans (.of_hif after)
  · next e => rw [if_neg e]; exact before.trans after

/-! ### Outcomes of the checks (R411) -/

/-- A frame that is counted and found good. -/
theorem State.countFrame_tally (w : RegsWf s.regs) (port : Nat) (b : List Byte) :
    Tally (perfRegs (lmBase (s.laneOf port))) (rxFields (s.laneOf port)) s (s.countFrame port b) :=
  (s.countFrame_spec w port b).1

/-- A frame with a bad FCS is counted as errored, and nothing else of the state changes. -/
theorem State.countRx_bad_spec (w : RegsWf s.regs) (fits : b.length ≤ s.get (PORT_CFG.max_frame (s.laneOf port)))
    (fcs : fcsOk b = false) : ∃ t, s.countRx port b false = (t, true) ∧
      t.get (PORT_RX2.fcs_err (s.laneOf port)) = satAdd 16 (s.get (PORT_RX2.fcs_err (s.laneOf port))) 1 ∧
      Tally (perfRegs (lmBase (s.laneOf port)))
        (rxFields (s.laneOf port) ++ [PORT_RX2.fcs_err (s.laneOf port)]) s t := by
  have counted := (s.countFrame_tally w port b).lanePerf 0x47 1
  refine ⟨_, s.countRx_of_bad fits fcs, ?_, ?_⟩
  · exact counted.get_bump w (laneKey_not_perfRegs (j := 24) (by decide))
      (apart_rxFields (fun j hj => laneKey_ne (by omega))) (Nat.le_of_ble_eq_true rfl) 1
  · exact (counted.mono (fun _ => id) (fun _ => List.mem_append_left _)).bump w (by simp) (Nat.le_of_ble_eq_true rfl) 1

/-! ### MAC control frames (R360) -/

/-- What a PFC frame does to the timer of priority `i`. -/
def State.loadTimer (port : Nat) (b : List Byte) (s : State) (i : Nat) : State :=
  if bitAt (beAt b 16 2) i then
    let n := beAt b (18 + 2 * i) 2
    { s with sch := { s.sch with
      pause := smPut natZero s.sch.pause (port * 8 + i) (if n = 0 then 0 else s.clk + s.quantaClocks port n) } }
  else s

/-- Loading timers changes the timers alone. -/
theorem State.loadTimer_foldl (port : Nat) (b : List Byte) (l : List Nat) (s : State) :
    ∃ x, l.foldl (State.loadTimer port b) s = { s with sch := { s.sch with pause := x } } := by
  induction l generalizing s with
  | nil => exact ⟨s.sch.pause, rfl⟩
  | cons i l ih =>
    have one : ∃ y, s.loadTimer port b i = { s with sch := { s.sch with pause := y } } := by
      unfold State.loadTimer
      split
      · exact ⟨_, rfl⟩
      · exact ⟨s.sch.pause, rfl⟩
    obtain ⟨y, e⟩ := one
    obtain ⟨x, e'⟩ := ih (s.loadTimer port b i)
    exact ⟨x, by rw [List.foldl_cons, e', e]⟩

/-- The register file does not see the schedulers. -/
theorem State.put_bump_sch (s : State) (x : SchedSt) (f g : Fld) (v n : Nat) :
    (State.put { s with sch := x } f v).bump g n = { (s.put f v).bump g n with sch := x } := rfl

/-- A PFC frame loads pause timers, shows the queues that they hold and is counted in the port's pipe. -/
theorem State.controlFrame_of_pfc (pfc : isPfc b = true) (s : State) (port : Nat) :
    ∃ x v, s.controlFrame port b =
      { (s.put (SCHED_PORT_STAT.paused port) v).bump (SCHED_PIPE_STAT0.pfc_rx (s.pipeOf port)) 1 with
        sch := { s.sch with pause := x } } := by
  have loads : s.controlFrame port b = (((List.range 8).foldl (State.loadTimer port b) s).showPaused port).bump
      (SCHED_PIPE_STAT0.pfc_rx (((List.range 8).foldl (State.loadTimer port b) s).pipeOf port)) 1 := if_pos pfc
  obtain ⟨x, e⟩ := State.loadTimer_foldl port b (List.range 8) s
  rw [loads, e]
  exact ⟨x, _, State.put_bump_sch s _ _ _ _ 1⟩

theorem State.controlFrame_of_pause (pfc : isPfc b = false) (s : State) (port : Nat) :
    s.controlFrame port b = s.bump SCHED_STAT.pause_discards 1 := by
  unfold State.controlFrame
  rw [pfc]
  rfl

/-! ### The port's checks -/

/-- An Ethernet port that is up and has no frame under way. -/
structure State.Receives (s : State) (port : Nat) : Prop where
  up : s.portUp port = true
  ethernet : s.isRistlink port = false
  closed : s.rxOpen port = false

theorem State.Receives.portState (h : s.Receives port) : s.portState port = 4 := of_decide_eq_true h.up

theorem State.Receives.linkPasses (h : s.Receives port) : s.linkPasses port = true := by
  unfold State.linkPasses
  rw [h.portState]
  rfl

/-- Outside RUN a frame is discarded (R523). -/
theorem State.Receives.standby (h : s.Receives port) (gated : s.pwrState ≠ 0) :
    s.frameReceive port b true false = s.bump (PORT_RX3.brine_discards (s.laneOf port)) 1 := by
  unfold State.frameReceive
  simp [h.linkPasses, gated]

/-- Without an active image it is dropped and counted. -/
theorem State.Receives.noImage (h : s.Receives port) (run : s.pwrState = 0) (none : s.get STRUCT_STATUS.state ≠ 3) :
    s.frameReceive port b true false = s.bump (PORT_RX2.no_image (s.laneOf port)) 1 := by
  unfold State.frameReceive
  simp [h.linkPasses, h.portState, h.closed, run, State.imageActive, none]

/-- A frame below 64 bytes is counted as a length error. -/
theorem State.Receives.short (h : s.Receives port) (run : s.pwrState = 0) (image : s.get STRUCT_STATUS.state = 3)
    (short : b.length < 64) : s.frameReceive port b true false =
      ((s.bump (PORT_RX0.rx_frames (s.laneOf port)) 1).bump (PORT_RX1.rx_bytes (s.laneOf port)) b.length).bump
        (PORT_RX2.len_err (s.laneOf port)) 1 := by
  unfold State.frameReceive
  simp [h.linkPasses, h.portState, h.closed, h.ethernet, run, State.imageActive, image, short]

/-- The frame of bytes `b` as it waits in its section's FIFO. -/
def State.arrived (s : State) (port : Nat) (b : List Byte) : RxFrame :=
  ⟨port, b, true, false, s.arrivalClass false b [], s.isLossless port (s.arrivalClass false b []),
    s.stamp (s.get (TIME_PORT.rx_adj port)), []⟩

/-- Any other frame of allowed length is counted; a good one is a control frame or joins the FIFO. -/
theorem State.Receives.counted (h : s.Receives port) (run : s.pwrState = 0) (image : s.get STRUCT_STATUS.state = 3)
    (long : 64 ≤ b.length) (fits : b.length ≤ s.get (PORT_CFG.max_frame (s.laneOf port))) {bad : Bool}
    (e : s.countRx port b false = (t, bad)) : s.frameReceive port b true false =
      if bad then t else if isControl b then t.controlFrame port b
      else (t.ptpRx port (s.arrived port b).rx b).enqueueRx (t.pipeOf port) (s.arrived port b) := by
  have cut : s.cutFrame port b = b := List.take_of_length_le (by omega)
  unfold State.frameReceive
  simp [h.linkPasses, h.portState, h.closed, h.ethernet, run, State.imageActive, image, Nat.not_lt.mpr long, e, cut,
    State.arrived]

end Sys2Proof.Machine
end

section
/-! PROOFS. FRAME_RECEIVE of a whole frame at an Ethernet port, outcome by outcome (01_architecture.md R46,
11_serial_lanes.md R411, R412, 14_power_thermal.md R523). -/

-- One declaration at a time: the package is compiled as one text, and a thread for each would not fit.
set_option Elab.async false

namespace Sys2Proof.Machine

variable {s : State} {port : Fin 1024} {b : List Byte}

theorem exec_frameReceive (port : Fin 1024) (b : List Byte) (s : State) :
    exec (.frameReceive port b true false) s = .next (s.frameReceive port b true false) := rfl

/-- A counter that counts, and nothing else. -/
theorem State.bump_alone (w : RegsWf s.regs) {f : Fld} (fit : f.lo + f.w ≤ 64) (n : Nat) :
    (s.bump f n).get f = satAdd f.w (s.get f) n ∧ s.Same [] (s.bump f n) ∧ s.Frame noRegs [f] (s.bump f n) :=
  ⟨State.get_bump_same w fit n, ((OnlyRegs.refl s).bump f n).same [],
    (State.Frame.refl _ _ s).bump w List.mem_cons_self fit n⟩

theorem State.same_sch (u : State) (x : SchedSt) : u.Same [.sch] { u with sch := x } := by
  intro p m
  cases p with
  | sch => exact absurd (by decide) m
  | _ => rfl

theorem State.regs_sch (u : State) (x : SchedSt) : State.regs { u with sch := x } = u.regs := rfl

theorem frameReceive_standby (w : RegsWf s.regs) (h : s.Receives port) (gated : s.pwrState ≠ 0) :
    ∃ t, exec (.frameReceive port b true false) s = .next t ∧
      t.get (PORT_RX3.brine_discards (s.laneOf port)) = satAdd 32 (s.get (PORT_RX3.brine_discards (s.laneOf port))) 1 ∧
      s.Same [] t ∧ s.Frame noRegs [PORT_RX3.brine_discards (s.laneOf port)] t := by
  rw [exec_frameReceive, h.standby gated]
  exact ⟨_, rfl, State.bump_alone w (Nat.le_of_ble_eq_true rfl) 1⟩

theorem frameReceive_noImage (w : RegsWf s.regs) (h : s.Receives port) (run : s.pwrState = 0)
    (none : s.get STRUCT_STATUS.state ≠ 3) :
    ∃ t, exec (.frameReceive port b true false) s = .next t ∧
      t.get (PORT_RX2.no_image (s.laneOf port)) = satAdd 16 (s.get (PORT_RX2.no_image (s.laneOf port))) 1 ∧
      s.Same [] t ∧ s.Frame noRegs [PORT_RX2.no_image (s.laneOf port)] t := by
  rw [exec_frameReceive, h.noImage run none]
  exact ⟨_, rfl, State.bump_alone w (Nat.le_of_ble_eq_true rfl) 1⟩

/-- What counting three fields of different registers one after the other shows. -/
theorem State.bump_three (w : RegsWf s.regs) {f g h : Fld} {a b c : Nat} (ff : f.lo + f.w ≤ 64) (fg : g.lo + g.w ≤ 64)
    (fh : h.lo + h.w ≤ 64) (gf : f.off ≠ g.off) (hf : f.off ≠ h.off) (hg : g.off ≠ h.off) :
    (((s.bump f a).bump g b).bump h c).get f = satAdd f.w (s.get f) a ∧
    (((s.bump f a).bump g b).bump h c).get g = satAdd g.w (s.get g) b ∧
    (((s.bump f a).bump g b).bump h c).get h = satAdd h.w (s.get h) c ∧
    s.Same [] (((s.bump f a).bump g b).bump h c) ∧ s.Frame noRegs [f, g, h] (((s.bump f a).bump g b).bump h c) := by
  have w1 : RegsWf (s.bump f a).regs := State.bump_regsWf w
  have w2 : RegsWf ((s.bump f a).bump g b).regs := State.bump_regsWf w1
  have bumped : ∀ {t : State} {x y : Fld} {n : Nat}, y.off ≠ x.off → (t.bump x n).get y = t.get y :=
    State.get_put_far _
  have counts : ∀ {t : State} {x : Fld} {n : Nat}, RegsWf t.regs → x.lo + x.w ≤ 64 →
      (t.bump x n).get x = satAdd x.w (t.get x) n := fun wt fx => State.get_bump_same wt fx _
  refine ⟨?_, ?_, ?_, ((((OnlyRegs.refl s).bump f a).bump g b).bump h c).same [],
    (((State.Frame.refl _ _ s).bump w (by simp) ff a).bump w1 (by simp) fg b).bump w2 (by simp) fh c⟩
  · rw [bumped hf, bumped gf, counts w ff]
  · rw [bumped hg, counts w1 fg, bumped gf.symm]
  · rw [counts w2 fh, bumped hg.symm, bumped hf.symm]

theorem frameReceive_short (w : RegsWf s.regs) (h : s.Receives port) (run : s.pwrState = 0)
    (image : s.get STRUCT_STATUS.state = 3) (short : b.length < 64) :
    ∃ t, exec (.frameReceive port b true false) s = .next t ∧
      t.get (PORT_RX2.len_err (s.laneOf port)) = satAdd 16 (s.get (PORT_RX2.len_err (s.laneOf port))) 1 ∧
      t.get (PORT_RX0.rx_frames (s.laneOf port)) = satAdd 48 (s.get (PORT_RX0.rx_frames (s.laneOf port))) 1 ∧
      t.get (PORT_RX1.rx_bytes (s.laneOf port)) = satAdd 48 (s.get (PORT_RX1.rx_bytes (s.laneOf port))) b.length ∧
      s.Same [] t ∧ s.Frame noRegs [PORT_RX0.rx_frames (s.laneOf port), PORT_RX1.rx_bytes (s.laneOf port),
        PORT_RX2.len_err (s.laneOf port)] t := by
  rw [exec_frameReceive, h.short run image short]
  obtain ⟨frames, bytes, errors, rest⟩ := State.bump_three w (f := PORT_RX0.rx_frames (s.laneOf port))
    (g := PORT_RX1.rx_bytes (s.laneOf port)) (h := PORT_RX2.len_err (s.laneOf port)) (a := 1) (b := b.length) (c := 1)
    (Nat.le_of_ble_eq_true rfl) (Nat.le_of_ble_eq_true rfl) (Nat.le_of_ble_eq_true rfl) (laneKey_ne (by decide))
    (laneKey_ne (by decide)) (laneKey_ne (by decide))
  exact ⟨_, rfl, errors, frames, bytes, rest⟩

theorem State.countFrame_rx_en (w : RegsWf s.regs) :
    (s.countFrame port b).get (TIME_PORT.rx_en port) = s.get (TIME_PORT.rx_en port) := by
  refine (s.countFrame_tally w port b).get (firstDie_not_perfRegs (Or.inr ?_)) (apart_rxFields (fun j _ => ?_))
  · show 0x834000 ≤ 0x835000 + 0x8 * port.val ∧ 0x835000 + 0x8 * port.val < 0x1000000
    omega
  · show 0x835000 + 0x8 * port.val ≠ _
    unfold laneKey
    omega

section

variable (w : RegsWf s.regs) (h : s.Receives port) (run : s.pwrState = 0) (image : s.get STRUCT_STATUS.state = 3)
  (long : 64 ≤ b.length) (fits : b.length ≤ s.get (PORT_CFG.max_frame (s.laneOf port)))
include w h run image long fits

theorem frameReceive_badFcs (fcs : fcsOk b = false) :
    ∃ t, exec (.frameReceive port b true false) s = .next t ∧
      t.get (PORT_RX2.fcs_err (s.laneOf port)) = satAdd 16 (s.get (PORT_RX2.fcs_err (s.laneOf port))) 1 ∧
      s.SameCounting [] t ∧ s.Frame (perfRegs (lmBase (s.laneOf port))) [PORT_RX0.rx_frames (s.laneOf port),
        PORT_RX1.rx_bytes (s.laneOf port), PORT_RX2.fcs_err (s.laneOf port)] t := by
  obtain ⟨t, bad, errors, tally⟩ := State.countRx_bad_spec w fits fcs
  rw [exec_frameReceive, h.counted run image long fits bad, if_pos rfl]
  exact ⟨t, rfl, errors, tally.sameCounting [], tally.frame⟩

theorem frameReceive_pause (fcs : fcsOk b = true) (pause : isPause b = true) (notPfc : isPfc b = false) :
    ∃ t, exec (.frameReceive port b true false) s = .next t ∧
      t.get SCHED_STAT.pause_discards = satAdd 32 (s.get SCHED_STAT.pause_discards) 1 ∧ s.SameCounting [] t ∧
      s.Frame (perfRegs (lmBase (s.laneOf port))) [PORT_RX0.rx_frames (s.laneOf port),
        PORT_RX1.rx_bytes (s.laneOf port), SCHED_STAT.pause_discards] t := by
  have control : isControl b = true := by rw [isControl, pause, Bool.or_true]
  have counted := s.countFrame_tally w port b
  rw [exec_frameReceive, h.counted run image long fits (State.countRx_of_good fits fcs), if_neg (by decide),
    if_pos control, State.controlFrame_of_pause notPfc]
  have tally := (counted.mono (k := rxFields (s.laneOf port) ++ [SCHED_STAT.pause_discards]) (fun _ => id)
    (fun _ => List.mem_append_left _)).bump (f := SCHED_STAT.pause_discards) w (by simp) (by decide) 1
  refine ⟨_, rfl, ?_, tally.sameCounting [], tally.frame⟩
  exact counted.get_bump w (firstDie_not_perfRegs (Or.inl (by decide)))
    (apart_rxFields (fun j _ => by show 0x81c020 ≠ _; unfold laneKey; omega)) (by decide) 1

theorem frameReceive_pfc (fcs : fcsOk b = true) (pfc : isPfc b = true) :
    ∃ t, exec (.frameReceive port b true false) s = .next t ∧
      t.get (SCHED_PIPE_STAT0.pfc_rx (s.pipeOf port)) = satAdd 32 (s.get (SCHED_PIPE_STAT0.pfc_rx (s.pipeOf port))) 1 ∧
      t.sch = { s.sch with pause := t.sch.pause } ∧ s.SameCounting [.sch] t ∧
      s.Frame (perfRegs (lmBase (s.laneOf port))) [PORT_RX0.rx_frames (s.laneOf port),
        PORT_RX1.rx_bytes (s.laneOf port), SCHED_PORT_STAT.paused port, SCHED_PIPE_STAT0.pfc_rx (s.pipeOf port)] t := by
  have control : isControl b = true := by rw [isControl, pfc, Bool.true_or]
  have counted := s.countFrame_tally w port b
  obtain ⟨x, v, loads⟩ := State.controlFrame_of_pfc pfc (s.countFrame port b) port
  rw [exec_frameReceive, h.counted run image long fits (State.countRx_of_good fits fcs), if_neg (by decide),
    if_pos control, loads, counted.pipeOf]
  have shown := (counted.mono (k := rxFields (s.laneOf port) ++ [SCHED_PORT_STAT.paused port]) (fun _ => id)
    (fun _ => List.mem_append_left _)).put (f := SCHED_PORT_STAT.paused port) w (by simp) (Nat.le_of_ble_eq_true rfl) v
  have tally := (shown.mono (k := rxFields (s.laneOf port) ++
    [SCHED_PORT_STAT.paused port, SCHED_PIPE_STAT0.pfc_rx (s.pipeOf port)]) (fun _ => id) (by simp; tauto)).bump
    (f := SCHED_PIPE_STAT0.pfc_rx (s.pipeOf port)) w (by simp) (Nat.le_of_ble_eq_true rfl) 1
  have sch : (s.countFrame port b).sch = s.sch := by rw [counted.rest]
  refine ⟨_, rfl, ?_, ?_, tally.sameCounting_then (State.same_sch _ _),
    tally.frame.same (State.regs_sch _ _)⟩
  · refine (State.get_congr (State.regs_sch _ _) _).trans (shown.get_bump w ?_ ?_ (Nat.le_of_ble_eq_true rfl) 1)
    · unfold perfRegs eventRegs PERF_CNT.regOff RING_STAT.regOff lmBase
      show ¬(_ ≤ 0x25000 + 0x40000 * (s.laneOf port / 32) ∧ 0x25000 + 0x40000 * (s.laneOf port / 32) < _ ∨
        _ ≤ 0x25000 + 0x40000 * (s.laneOf port / 32) ∧ 0x25000 + 0x40000 * (s.laneOf port / 32) < _)
      omega
    · intro f m
      simp only [List.mem_append, List.mem_singleton] at m
      rcases m with m | rfl
      · refine apart_rxFields (fun j hj => ?_) f m
        show 0x25000 + 0x40000 * (s.laneOf port / 32) ≠ _
        unfold laneKey
        omega
      · refine Or.inl ?_
        show 0x25000 + 0x40000 * (s.laneOf port / 32) ≠ 0x822000 + 0x8 * port.val
        omega
  · exact congrArg (fun (y : SchedSt) => { y with pause := x }) sch

end

end Sys2Proof.Machine
end

section
/-! PROOFS. Frames in a section's FIFO (01_architecture.md R46, 11_serial_lanes.md R411, R412): one that joins it whole,
one that finds it full, and the last byte of one that waits there. -/

-- One declaration at a time: the package is compiled as one text, and a thread for each would not fit.
set_option Elab.async false

namespace Sys2Proof.Machine

variable {s : State} {port : Fin 1024} {b rest : List Byte} {f : RxFrame}

theorem State.setFifo_same (u : State) (sec : Nat) (x : List RxFrame) : u.Same [.pk] (u.setFifo sec x) := by
  intro p m
  cases p with
  | pk => exact absurd (by decide) m
  | _ => rfl

theorem State.setFifo_regs (u : State) (sec : Nat) (x : List RxFrame) : (u.setFifo sec x).regs = u.regs := rfl

theorem State.setFifo_pk (u : State) (sec : Nat) (x : List RxFrame) :
    (u.setFifo sec x).pk = { u.pk with fifo := (u.setFifo sec x).pk.fifo } := rfl

/-- A received frame is no PTP event where its port takes none (R490). -/
theorem State.ptpRx_of_off (off : s.get (TIME_PORT.rx_en port) = 0) (t : Nat) (l : List Byte) :
    s.ptpRx port t l = s := by
  have flag : s.flag (TIME_PORT.rx_en port) = false := by rw [State.flag, off]; rfl
  unfold State.ptpRx
  split
  · rw [flag]; rfl
  · rfl

/-- What a counted frame leaves once the FIFO of its section holds `x`. -/
theorem State.countFrame_setFifo (w : RegsWf s.regs) (port : Nat) (b : List Byte) (x : List RxFrame) :
    ((s.countFrame port b).setFifo (s.pipeOf port) x).fifo (s.pipeOf port) = x ∧
    (∀ sec, sec ≠ s.pipeOf port → ((s.countFrame port b).setFifo (s.pipeOf port) x).fifo sec = s.fifo sec) ∧
    ((s.countFrame port b).setFifo (s.pipeOf port) x).get (PORT_RX0.rx_frames (s.laneOf port)) =
      satAdd 48 (s.get (PORT_RX0.rx_frames (s.laneOf port))) 1 ∧
    ((s.countFrame port b).setFifo (s.pipeOf port) x).get (PORT_RX1.rx_bytes (s.laneOf port)) =
      satAdd 48 (s.get (PORT_RX1.rx_bytes (s.laneOf port))) b.length ∧
    ((s.countFrame port b).setFifo (s.pipeOf port) x).pk =
      { s.pk with fifo := ((s.countFrame port b).setFifo (s.pipeOf port) x).pk.fifo } ∧
    s.SameCounting [.pk] ((s.countFrame port b).setFifo (s.pipeOf port) x) ∧
    s.Frame (perfRegs (lmBase (s.laneOf port))) [PORT_RX0.rx_frames (s.laneOf port), PORT_RX1.rx_bytes (s.laneOf port)]
      ((s.countFrame port b).setFifo (s.pipeOf port) x) := by
  obtain ⟨tally, frames, bytes⟩ := s.countFrame_spec w port b
  generalize s.countFrame port b = u at tally frames bytes ⊢
  refine ⟨State.fifo_setFifo_same _ _ _, fun sec ne => ?_, (State.get_congr (u.setFifo_regs _ _) _).trans frames,
    (State.get_congr (u.setFifo_regs _ _) _).trans bytes, ?_, tally.sameCounting_then (u.setFifo_same _ _),
    tally.frame.same (u.setFifo_regs _ _)⟩
  · rw [State.fifo_setFifo_other _ ne, State.fifo_congr tally.pk]
  · rw [← tally.pk]; exact u.setFifo_pk _ _

/-! ### A whole frame -/

section

variable (w : RegsWf s.regs) (h : s.Receives port) (run : s.pwrState = 0) (image : s.get STRUCT_STATUS.state = 3)
  (long : 64 ≤ b.length) (fits : b.length ≤ s.get (PORT_CFG.max_frame (s.laneOf port))) (fcs : fcsOk b = true)
  (data : isControl b = false) (off : s.get (TIME_PORT.rx_en port) = 0)
include w h run image long fits fcs data off

/-- A good frame that is neither a control frame nor a PTP event is offered to its section's FIFO. -/
theorem State.Receives.enqueued : s.frameReceive port b true false =
    (s.countFrame port b).enqueueRx (s.pipeOf port) (s.arrived port b) := by
  rw [h.counted run image long fits (State.countRx_of_good fits fcs), if_neg (by decide), data,
    if_neg (by decide), State.ptpRx_of_off (State.countFrame_rx_en w |>.trans off),
    (s.countFrame_tally w port b).pipeOf]

theorem frameReceive_queued (room : s.fifoFill (s.pipeOf port) + b.length ≤ 98304) :
    ∃ t, exec (.frameReceive port b true false) s = .next t ∧
      t.fifo (s.pipeOf port) = s.fifo (s.pipeOf port) ++ [⟨port, b, true, false, s.arrivalClass false b [],
        s.isLossless port (s.arrivalClass false b []), s.stamp (s.get (TIME_PORT.rx_adj port)), []⟩] ∧
      (∀ sec, sec ≠ s.pipeOf port → t.fifo sec = s.fifo sec) ∧
      t.get (PORT_RX0.rx_frames (s.laneOf port)) = satAdd 48 (s.get (PORT_RX0.rx_frames (s.laneOf port))) 1 ∧
      t.get (PORT_RX1.rx_bytes (s.laneOf port)) = satAdd 48 (s.get (PORT_RX1.rx_bytes (s.laneOf port))) b.length ∧
      t.pk = { s.pk with fifo := t.pk.fifo } ∧ s.SameCounting [.pk] t ∧
      s.Frame (perfRegs (lmBase (s.laneOf port))) [PORT_RX0.rx_frames (s.laneOf port),
        PORT_RX1.rx_bytes (s.laneOf port)] t := by
  have counted := s.countFrame_tally w port b
  have room' : (s.countFrame port b).fifoFill (s.pipeOf port) + (s.arrived port b).bytes.length ≤ 98304 := by
    rw [State.fifoFill_congr counted.pk]; exact room
  rw [exec_frameReceive, h.enqueued w run image long fits fcs data off,
    State.enqueueRx_of_room room' (by show 0 < b.length; omega), State.fifo_congr counted.pk]
  exact ⟨_, rfl, State.countFrame_setFifo w port b _⟩

theorem frameReceive_overrun (full : 98304 ≤ s.fifoFill (s.pipeOf port))
    (lossy : s.isLossless port (s.arrivalClass false b []) = false) :
    ∃ t, exec (.frameReceive port b true false) s = .next t ∧
      t.get (PORT_RX2.overrun (s.laneOf port)) = satAdd 16 (s.get (PORT_RX2.overrun (s.laneOf port))) 1 ∧
      s.SameCounting [] t ∧ s.Frame (perfRegs (lmBase (s.laneOf port))) [PORT_RX0.rx_frames (s.laneOf port),
        PORT_RX1.rx_bytes (s.laneOf port), PORT_RX2.overrun (s.laneOf port)] t := by
  have counted := s.countFrame_tally w port b
  have full' : 98304 ≤ (s.countFrame port b).fifoFill (s.pipeOf port) := by
    rw [State.fifoFill_congr counted.pk]; exact full
  rw [exec_frameReceive, h.enqueued w run image long fits fcs data off, State.enqueueRx_of_full lossy full']
  show ∃ t, Host.Outcome.next
    ((s.countFrame port b).bump (PORT_RX2.overrun ((s.countFrame port b).laneOf port)) 1) = .next t ∧ _
  rw [counted.laneOf]
  have tally := (counted.mono (k := rxFields (s.laneOf port) ++ [PORT_RX2.overrun (s.laneOf port)]) (fun _ => id)
    (fun _ => List.mem_append_left _)).bump (f := PORT_RX2.overrun (s.laneOf port)) w (by simp)
    (Nat.le_of_ble_eq_true rfl) 1
  refine ⟨_, rfl, ?_, tally.sameCounting [], tally.frame⟩
  exact counted.get_bump w (laneKey_not_perfRegs (j := 24) (by decide))
    (apart_rxFields (fun j hj => laneKey_ne (by omega))) (Nat.le_of_ble_eq_true rfl) 1

end

/-! ### The last byte of a frame that waits -/

theorem filterMap_replace (x : List RxFrame) (f g : RxFrame) :
    x.filterMap (fun y => if y = f then some g else some y) = x.map (fun y => if y = f then g else y) := by
  rw [← List.filterMap_eq_map]
  congr 1
  funext y
  show _ = some (if y = f then g else y)
  split <;> rfl

theorem filterMap_remove (x : List RxFrame) (f : RxFrame) :
    x.filterMap (fun y => if y = f then none else some y) = x.filter (fun y => y ≠ f) := by
  induction x with
  | nil => rfl
  | cons y x ih => by_cases e : y = f <;> simp [e, ih]

theorem exec_lastByteHeld (port : Fin 1024) (rest : List Byte) (s : State) :
    exec (.lastByteHeld port rest false) s = .next (s.lastByteHeld port rest false) := rfl

section

variable (w : RegsWf s.regs) (ethernet : s.isRistlink port = false)
  (waits : (s.fifo (s.pipeOf port)).find? (fun x => decide (x.port = port.val) && !x.whole) = some f)
  (long : 64 ≤ (f.bytes ++ rest).length)
  (fits : (f.bytes ++ rest).length ≤ s.get (PORT_CFG.max_frame (s.laneOf port))) (err : f.err = false)
include ethernet waits fits err

/-- The bytes of a waiting frame are joined by the rest. -/
theorem State.lastByteHeld_of_waiting : f.port = port.val ∧
    s.lastByteHeld port rest false = s.completeWaiting f (f.bytes ++ rest) f.hdr false := by
  have found := List.find?_some waits
  simp only [Bool.and_eq_true, decide_eq_true_eq] at found
  refine ⟨found.1, ?_⟩
  have cut : s.cutFrame port (f.bytes ++ rest) = f.bytes ++ rest := List.take_of_length_le (by omega)
  unfold State.lastByteHeld
  simp [ethernet, waits, cut, err]

include w long

/-- With a good FCS it stands whole in the FIFO. -/
theorem lastByteHeld_completes (off : s.get (TIME_PORT.rx_en port) = 0) (once : (s.fifo (s.pipeOf port)).count f = 1)
    (data : f.hdr ≠ [] ∨ isControl (f.bytes ++ rest) = false) (fcs : fcsOk (f.bytes ++ rest) = true)
    (room : s.fifoFill (s.pipeOf port) + rest.length ≤ 98304) :
    ∃ t, exec (.lastByteHeld port rest false) s = .next t ∧
      t.fifo (s.pipeOf port) = (s.fifo (s.pipeOf port)).map (fun x =>
        if x = f then { f with bytes := f.bytes ++ rest, whole := true } else x) ∧
      t.get (PORT_RX0.rx_frames (s.laneOf port)) = satAdd 48 (s.get (PORT_RX0.rx_frames (s.laneOf port))) 1 ∧
      t.get (PORT_RX1.rx_bytes (s.laneOf port)) =
        satAdd 48 (s.get (PORT_RX1.rx_bytes (s.laneOf port))) (f.bytes ++ rest).length ∧
      t.pk = { s.pk with fifo := t.pk.fifo } ∧ s.SameCounting [.pk] t ∧
      s.Frame (perfRegs (lmBase (s.laneOf port))) [PORT_RX0.rx_frames (s.laneOf port),
        PORT_RX1.rx_bytes (s.laneOf port)] t := by
  obtain ⟨hport, held⟩ := State.lastByteHeld_of_waiting ethernet waits fits err
  have counted := s.countFrame_tally w port (f.bytes ++ rest)
  have notControl : (f.hdr.isEmpty && isControl (f.bytes ++ rest)) = false := by
    rcases data with hdr | data
    · simp [hdr]
    · rw [data, Bool.and_false]
  generalize hg : ({ f with bytes := f.bytes ++ rest, whole := true } : RxFrame) = g
  have whole : s.completeWaiting f (f.bytes ++ rest) f.hdr false =
      ((s.countFrame port (f.bytes ++ rest)).setFifo (s.pipeOf port)
        ((s.fifo (s.pipeOf port)).map (fun x => if x = f then g else x))).fifoGrown (s.pipeOf port)
        (s.fifoFill (s.pipeOf port)) := by
    unfold State.completeWaiting
    rw [hport]
    simp only [Nat.not_lt.mpr long, if_false, State.countRx_of_good fits fcs, Bool.false_eq_true, notControl,
      State.ptpRx_of_off (State.countFrame_rx_en w |>.trans off), if_true, filterMap_replace, ← hg, hport]
  have fill : ((s.countFrame port (f.bytes ++ rest)).setFifo (s.pipeOf port)
      ((s.fifo (s.pipeOf port)).map (fun x => if x = f then g else x))).fifoFill (s.pipeOf port) ≤ 98304 := by
    have moved := (s.countFrame port (f.bytes ++ rest)).fifoFill_setFifo (s.pipeOf port)
      ((s.fifo (s.pipeOf port)).map (fun x => if x = f then g else x))
    have gains := bytesIn_replace (s.fifo (s.pipeOf port)) f g
    have length : g.bytes.length = f.bytes.length + rest.length := by rw [← hg, ← List.length_append]
    rw [State.fifo_congr counted.pk, State.fifoFill_congr counted.pk] at moved
    rw [once, length] at gains
    omega
  rw [exec_lastByteHeld, held, whole, State.fifoGrown_of_le fill]
  obtain ⟨here, -, counters⟩ := State.countFrame_setFifo w port (f.bytes ++ rest)
    ((s.fifo (s.pipeOf port)).map (fun x => if x = f then g else x))
  exact ⟨_, rfl, here, counters⟩

/-- With a bad FCS it goes. -/
theorem lastByteHeld_drops (fcs : fcsOk (f.bytes ++ rest) = false) :
    ∃ t, exec (.lastByteHeld port rest false) s = .next t ∧
      t.fifo (s.pipeOf port) = (s.fifo (s.pipeOf port)).filter (fun x => x ≠ f) ∧
      t.get (PORT_RX2.fcs_err (s.laneOf port)) = satAdd 16 (s.get (PORT_RX2.fcs_err (s.laneOf port))) 1 ∧
      t.pk = { s.pk with fifo := t.pk.fifo } ∧ s.SameCounting [.pk] t ∧
      s.Frame (perfRegs (lmBase (s.laneOf port))) [PORT_RX0.rx_frames (s.laneOf port),
        PORT_RX1.rx_bytes (s.laneOf port), PORT_RX2.fcs_err (s.laneOf port)] t := by
  obtain ⟨hport, held⟩ := State.lastByteHeld_of_waiting ethernet waits fits err
  obtain ⟨u, bad, errors, tally⟩ := State.countRx_bad_spec w fits fcs
  have gone : s.completeWaiting f (f.bytes ++ rest) f.hdr false =
      u.setFifo (s.pipeOf port) ((s.fifo (s.pipeOf port)).filter (fun x => x ≠ f)) := by
    unfold State.completeWaiting
    rw [hport]
    simp only [Nat.not_lt.mpr long, if_false, bad, if_true, Bool.false_eq_true, filterMap_remove]
  rw [exec_lastByteHeld, held, gone]
  refine ⟨_, rfl, State.fifo_setFifo_same _ _ _, (State.get_congr (u.setFifo_regs _ _) _).trans errors, ?_,
    tally.sameCounting_then (u.setFifo_same _ _), tally.frame.same (u.setFifo_regs _ _)⟩
  rw [← tally.pk]
  exact u.setFifo_pk _ _

end

end Sys2Proof.Machine
end

section
/-! PROOFS. The last byte of a frame that entered its pipe before it (04_parser_classification.md R164,
11_serial_lanes.md R412). -/

-- One declaration at a time: the package is compiled as one text, and a thread for each would not fit.
set_option Elab.async false

namespace Sys2Proof.Machine

variable {s t : State} {port : Fin 1024} {rest : List Byte} {p q : Pkt}

/-! ### Packets by number -/

/-- A packet replaced is found by its number. -/
theorem find_replaced {l : List Pkt} (h : l.find? (fun x => x.id = p.id) = some q) :
    (l.map (fun x => if x.id = p.id then p else x)).find? (fun x => x.id = p.id) = some p := by
  induction l with
  | nil => cases h
  | cons x l ih =>
    by_cases e : x.id = p.id
    · simp [e]
    · rw [List.find?_cons_of_neg (by simpa using e)] at h
      simpa [e] using ih h

/-- Every other packet is found as before. -/
theorem find_unreplaced (l : List Pkt) {i : Nat} (h : i ≠ p.id) :
    (l.map (fun x => if x.id = p.id then p else x)).find? (fun x => x.id = i) = l.find? (fun x => x.id = i) := by
  induction l with
  | nil => rfl
  | cons x l ih =>
    by_cases e : x.id = p.id
    · have ne : ¬x.id = i := fun h' => h (h'.symm.trans e)
      simpa [e, h.symm, ne] using ih
    · rw [List.map_cons, if_neg e, List.find?_cons, List.find?_cons, ih]

theorem State.pkt_setPkt_same (h : s.pkt p.id = some q) : (s.setPkt p).pkt p.id = some p := find_replaced h

theorem State.pkt_setPkt_other (s : State) {i : Nat} (h : i ≠ p.id) : (s.setPkt p).pkt i = s.pkt i :=
  find_unreplaced _ h

theorem State.pkt_congr (h : t.pk.pkts = s.pk.pkts) (i : Nat) : t.pkt i = s.pkt i := by
  unfold State.pkt; rw [h]

/-! ### The rest of a packet -/

/-- A packet that is not admitted does not settle. -/
theorem State.settle_of_not_admitted (h : s.pkt p.id = some p) (not : p.admitted = false) : s.settle p.id = s := by
  unfold State.settle
  rw [h]
  simp [not]

/-- The packet with all its bytes and its length. -/
def wholePkt (p : Pkt) (l : List Byte) : Pkt :=
  { p with bytes := l, whole := true, w := { p.w with md := mdPut p.w.md 2 6 14 (lengthField true l) } }

/-- The copies of packet `id` with the length of `l`. -/
def lengthened (id : Nat) (l : List Byte) (copies : List Copy) : List Copy :=
  copies.map (fun c =>
    if c.pkt = id then { c with w := { c.w with md := mdPut c.w.md 2 6 14 (lengthField true l) } } else c)

theorem lateWords_of_plain (l : List Byte) (md : List Nat) :
    lateWords l [] md = mdPut md 2 6 14 (lengthField true l) := rfl

/-- A good end of a packet that waits for nothing, in a section without headroom and XOFF: the packet and its copies
take its bytes and length. -/
theorem State.completePkt_of_plain {l : List Byte} (here : s.pkt p.id = some p) (notAdmitted : p.admitted = false)
    (pending : p.pending = []) (hdr : p.hdr = []) (noXoff : ∀ x ∈ s.buf.xoff, s.pipeOf (x.1 / 4) ≠ p.w.pipe)
    (noHeadroom : ∀ x ∈ s.buf.headActive, s.pipeOf (x.1 / 4) ≠ p.w.pipe) :
    s.completePkt p l [] false =
      { s.setPkt (wholePkt p l) with
        pk := { (s.setPkt (wholePkt p l)).pk with copies := lengthened p.id l s.pk.copies } } := by
  have same : ({ p with bytes := l, whole := true, err := p.err || false, hdr := [], pending := []
                        w := { p.w with md := lateWords l [] p.w.md } } : Pkt) = wholePkt p l := by
    rw [lateWords_of_plain, Bool.or_false]
    unfold wholePkt
    rw [← hdr, ← pending]
  generalize hu : ({ s.setPkt (wholePkt p l) with
    pk := { (s.setPkt (wholePkt p l)).pk with copies := lengthened p.id l s.pk.copies } } : State) = u
  have found : u.pkt p.id = some (wholePkt p l) :=
    (State.pkt_congr (by rw [← hu]) _).trans (State.pkt_setPkt_same (p := wholePkt p l) here)
  have grown : u.fifoGrown p.w.pipe (s.fifoFill p.w.pipe) = u :=
    State.fifoGrown_of_no_headroom (by rw [← hu]; exact noHeadroom) _
  have settled : u.settle p.id = u := State.settle_of_not_admitted (p := wholePkt p l) found notAdmitted
  have swept : u.xoffSweep p.w.pipe = u := State.xoffSweep_of_no_xoff (by rw [← hu]; exact noXoff)
  have steps : s.completePkt p l [] false =
      ((u.fifoGrown p.w.pipe (s.fifoFill p.w.pipe)).settle p.id).xoffSweep p.w.pipe := by
    unfold State.completePkt
    rw [pending, same, ← hu]
    rfl
  rw [steps, grown, settled, swept]

section

variable (w : RegsWf s.regs) (ethernet : s.isRistlink port = false) (off : s.get (TIME_PORT.rx_en port) = 0)
  (entered : (s.fifo (s.pipeOf port)).find? (fun x => decide (x.port = port.val) && !x.whole) = none)
  (only : s.pk.pkts.filter (fun x => decide (x.port = port.val) && !x.whole && !x.w.injected) = [p])
  (here : s.pkt p.id = some p) (notAdmitted : p.admitted = false) (pending : p.pending = []) (hdr : p.hdr = [])
  (rxErr : p.rxErr = false) (noXoff : ∀ x ∈ s.buf.xoff, s.pipeOf (x.1 / 4) ≠ p.w.pipe)
  (noHeadroom : ∀ x ∈ s.buf.headActive, s.pipeOf (x.1 / 4) ≠ p.w.pipe) (fcs : fcsOk (p.bytes ++ rest) = true)
  (fits : (p.bytes ++ rest).length ≤ s.get (PORT_CFG.max_frame (s.laneOf port)))
include w ethernet off entered only here hdr rxErr fcs fits

/-- A good last byte: the frame is counted, and the packet that it ends takes its bytes. -/
theorem State.lastByteHeld_of_entered : s.lastByteHeld port rest false =
    (s.countFrame port (p.bytes ++ rest)).completePkt p (p.bytes ++ rest) [] false := by
  have cut : s.cutFrame port (p.bytes ++ rest) = p.bytes ++ rest := List.take_of_length_le (by omega)
  have counted := s.countFrame_tally w port (p.bytes ++ rest)
  have found : (s.countFrame port (p.bytes ++ rest)).pkt p.id = some p :=
    (State.pkt_congr (congrArg (·.pkts) counted.pk) _).trans here
  unfold State.lastByteHeld
  simp [ethernet, entered, only, cut, rxErr, State.countRx_of_good fits fcs,
    State.ptpRx_of_off (State.countFrame_rx_en w |>.trans off), found, hdr]

include notAdmitted pending noXoff noHeadroom

theorem lastByteHeld_ends :
    ∃ t, exec (.lastByteHeld port rest false) s = .next t ∧
      t.pkt p.id = some { p with bytes := p.bytes ++ rest, whole := true
                                 w := { p.w with md := mdPut p.w.md 2 6 14 (lengthField true (p.bytes ++ rest)) } } ∧
      (∀ i, i ≠ p.id → t.pkt i = s.pkt i) ∧
      t.get (PORT_RX0.rx_frames (s.laneOf port)) = satAdd 48 (s.get (PORT_RX0.rx_frames (s.laneOf port))) 1 ∧
      t.pk = { s.pk with pkts := t.pk.pkts, copies := t.pk.copies } ∧ s.SameCounting [.pk] t ∧
      s.Frame (perfRegs (lmBase (s.laneOf port))) [PORT_RX0.rx_frames (s.laneOf port),
        PORT_RX1.rx_bytes (s.laneOf port)] t := by
  obtain ⟨tally, frames, -⟩ := s.countFrame_spec w port (p.bytes ++ rest)
  rw [exec_lastByteHeld, State.lastByteHeld_of_entered w ethernet off entered only here hdr rxErr fcs fits]
  generalize s.countFrame port (p.bytes ++ rest) = u at tally frames ⊢
  have pkts : ∀ i, u.pkt i = s.pkt i := State.pkt_congr (congrArg (·.pkts) tally.pk)
  have buf : u.buf = s.buf := by rw [tally.rest]
  rw [State.completePkt_of_plain ((pkts _).trans here) notAdmitted pending hdr
    (by rw [buf]; intro x m; rw [tally.pipeOf]; exact noXoff x m)
    (by rw [buf]; intro x m; rw [tally.pipeOf]; exact noHeadroom x m)]
  refine ⟨_, rfl, ?_, fun i ne => ?_, (State.get_congr rfl _).trans frames, ?_, tally.sameCounting_then (fun x m => ?_),
    tally.frame.same rfl⟩
  · exact (State.pkt_congr rfl _).trans
      (State.pkt_setPkt_same (p := wholePkt p (p.bytes ++ rest)) ((pkts _).trans here))
  · exact ((State.pkt_congr rfl _).trans
      (State.pkt_setPkt_other (p := wholePkt p (p.bytes ++ rest)) u ne)).trans (pkts i)
  · rw [← tally.pk]; rfl
  · cases x with
    | pk => exact absurd (by decide) m
    | _ => rfl

end

end Sys2Proof.Machine
end

section
/-! PROOFS. Cells that cross a die-to-die channel (01_architecture.md R55, 15_faults.md R545-R547): each is read as it
arrives (notes/assumptions/33.md). -/

-- One declaration at a time: the package is compiled as one text, and a thread for each would not fit.
set_option Elab.async false

namespace Sys2Proof.Machine

variable {s t : State} {c q : Nat} {d : Bool}

/-- `t` differs from `s` in the queues of die-to-die channels alone. -/
def OnlyChannels (s t : State) : Prop := t = { s with flt := { s.flt with channels := t.flt.channels } }

theorem OnlyChannels.trans {u : State} (h : OnlyChannels s t) (g : OnlyChannels t u) : OnlyChannels s u := by
  unfold OnlyChannels at *
  rw [g, h]

theorem OnlyChannels.same (h : OnlyChannels s t) : s.Same [.flt] t := by
  intro p m
  rw [h]
  cases p with
  | flt => exact absurd (by decide) m
  | _ => rfl

theorem OnlyChannels.regs (h : OnlyChannels s t) : t.regs = s.regs := by rw [h]

theorem State.setChQueue_only (s : State) (k : Nat) (x : ChQueue) : OnlyChannels s (s.setChQueue k x) := rfl

theorem State.chSend_only (s : State) (c : Nat) (d : Bool) (q : Nat) (i : ChItem) :
    OnlyChannels s (s.chSend c d q i) := by
  unfold State.chSend
  dsimp only
  split
  · exact s.setChQueue_only _ _
  · rfl

theorem State.chRead_only (s : State) (c : Nat) (d : Bool) : OnlyChannels s (s.chRead c d).1 := by
  unfold State.chRead
  split
  · rfl
  · exact s.setChQueue_only _ _

theorem State.chCross_only (s : State) (c : Nat) (d : Bool) (q : Nat) (i : ChItem) (n : Nat) :
    OnlyChannels s (s.chCross c d q i n) := by
  induction n generalizing s with
  | zero => rfl
  | succ n ih => exact ((s.chSend_only c d q i).trans (State.chRead_only _ c d)).trans (ih _)

theorem State.chQueue_setChQueue_same (s : State) (k : Nat) (x : ChQueue) : (s.setChQueue k x).chQueue k = x :=
  smGet_smPut_same _ _ _ _

theorem State.chQueue_setChQueue_other (s : State) {k j : Nat} (h : j ≠ k) (x : ChQueue) :
    (s.setChQueue k x).chQueue j = s.chQueue j :=
  smGet_smPut_other _ _ _ h

theorem chKey_ne {i : Nat} (h : i ≠ q) : chKey c d i ≠ chKey c d q := by
  unfold chKey; omega

/-- The queue after `n` items, each read as it arrived: the pointers have moved on and every credit is back. -/
def ChQueue.passed (x : ChQueue) (n : Nat) : ChQueue :=
  ⟨(x.writeA + n) % 128, (x.writeB + n) % 128, (x.readA + n) % 128, (x.readB + n) % 128, x.credits, []⟩

theorem ChQueue.passed_passed (x : ChQueue) (m n : Nat) : (x.passed m).passed n = x.passed (m + n) := by
  simp [ChQueue.passed, Nat.add_assoc]

/-- An empty queue as item `i` has been sent into it against a credit. -/
def ChQueue.sent (x : ChQueue) (i : ChItem) : ChQueue :=
  ⟨(x.writeA + 1) % 128, (x.writeB + 1) % 128, x.readA, x.readB, x.credits - 1, [i]⟩

/-- Nothing stands in the channel's direction, and queue `q` of it can send. -/
structure State.ChannelIdle (s : State) (c : Nat) (d : Bool) (q : Nat) : Prop where
  queue : q < 3
  ready : s.chReady c d q = true
  empty : ∀ i < 3, (s.chQueue (chKey c d i)).items = []
  fits : (s.chQueue (chKey c d q)).credits ≤ chSlots q

theorem State.ChannelIdle.credit (h : s.ChannelIdle c d q) : 0 < (s.chQueue (chKey c d q)).credits := by
  have ready := h.ready
  simp only [State.chReady, Bool.and_eq_true, decide_eq_true_eq] at ready
  exact ready.2

/-- The only queue with an item is the one that is read. -/
theorem find_queue {p : Nat → Bool} (hq : q < 3) (holds : p q = true) (others : ∀ i < 3, i ≠ q → p i = false) :
    [0, 1, 2].find? p = some q := by
  obtain rfl | rfl | rfl : q = 0 ∨ q = 1 ∨ q = 2 := by omega
  · rw [List.find?_cons_of_pos holds]
  · rw [List.find?_cons_of_neg (by simp [others 0]), List.find?_cons_of_pos holds]
  · rw [List.find?_cons_of_neg (by simp [others 0]), List.find?_cons_of_neg (by simp [others 1]),
      List.find?_cons_of_pos holds]

/-- One item passes. -/
theorem State.ChannelIdle.pass (h : s.ChannelIdle c d q) (i : ChItem) :
    ((s.chSend c d q i).chRead c d).1.chQueue (chKey c d q) = (s.chQueue (chKey c d q)).passed 1 ∧
    ((s.chSend c d q i).chRead c d).1.ChannelIdle c d q := by
  have credit := h.credit
  have fits := h.fits
  have noItem := h.empty q h.queue
  generalize hx : s.chQueue (chKey c d q) = x at credit fits noItem
  have sends : s.chSend c d q i = s.setChQueue (chKey c d q) (x.sent i) := by
    unfold State.chSend
    dsimp only
    rw [if_pos h.ready, hx, noItem]
    rfl
  have reads : ((s.setChQueue (chKey c d q) (x.sent i)).chRead c d).1 =
      (s.setChQueue (chKey c d q) (x.sent i)).setChQueue (chKey c d q) (x.passed 1) := by
    unfold State.chRead
    rw [find_queue h.queue (by rw [State.chQueue_setChQueue_same]; rfl) (fun j hj ne => by
      rw [State.chQueue_setChQueue_other _ (chKey_ne ne), h.empty j hj]; rfl)]
    dsimp only
    rw [State.chQueue_setChQueue_same]
    have back : min (chSlots q) (x.credits - 1 + 1) = x.credits := by omega
    simp only [ChQueue.sent, back, ChQueue.passed, List.drop_one, List.tail_cons]
  rw [sends, reads]
  have here : ((s.setChQueue (chKey c d q) (x.sent i)).setChQueue (chKey c d q) (x.passed 1)).chQueue (chKey c d q) =
      x.passed 1 :=
    State.chQueue_setChQueue_same _ _ _
  refine ⟨here, h.queue, ?_, fun j hj => ?_, ?_⟩
  · have ready := h.ready
    unfold State.chReady at ready ⊢
    rw [here]
    rw [hx] at ready
    exact ready
  · by_cases e : j = q
    · rw [e, here]; rfl
    · rw [State.chQueue_setChQueue_other _ (chKey_ne e), State.chQueue_setChQueue_other _ (chKey_ne e)]
      exact h.empty j hj
  · rw [here]; exact fits

/-- Any number of items above 0 pass. -/
theorem State.ChannelIdle.cross (h : s.ChannelIdle c d q) (i : ChItem) (n : Nat) :
    (s.chCross c d q i (n + 1)).chQueue (chKey c d q) = (s.chQueue (chKey c d q)).passed (n + 1) := by
  induction n generalizing s with
  | zero => exact (h.pass i).1
  | succ n ih =>
    obtain ⟨first, idle⟩ := h.pass i
    calc (s.chCross c d q i (n + 1 + 1)).chQueue (chKey c d q)
        = (((s.chSend c d q i).chRead c d).1.chQueue (chKey c d q)).passed (n + 1) := ih idle
      _ = (s.chQueue (chKey c d q)).passed (n + 1 + 1) := by
        rw [first, ChQueue.passed_passed, Nat.add_comm 1]

/-- A frame that may cross belongs to the queue that is ready (R547). -/
theorem readyIn_lossless {lossless : Bool} {depth : Nat} {l : List RxFrame} {ports : List Nat} {f : RxFrame}
    (h : readyIn lossless depth l ports = some f) : f.lossless = lossless := by
  induction l generalizing ports with
  | nil => cases h
  | cons g l ih =>
    unfold readyIn at h
    split at h
    · exact ih h
    · next same =>
      split at h
      · cases h; exact not_not.mp same
      · exact ih h

theorem State.chReady_of_readyFrame {sec : Nat} {f : RxFrame} (h : s.readyFrame sec = some f) :
    s.chReady sec false (chData f.lossless) = true := by
  have of : ∀ lossless : Bool, (if s.chReady sec false (chData lossless) then
      readyIn lossless s.intakeDepth (s.fifo sec) [] else none) = some f →
      s.chReady sec false (chData f.lossless) = true := by
    intro lossless e
    split at e
    · next ready => rw [readyIn_lossless e]; exact ready
    · cases e
  unfold State.readyFrame at h
  dsimp only at h
  split at h
  · next e => cases h; exact of true e
  · exact of false h

end Sys2Proof.Machine
end

section
/-! PROOFS. A frame of the receive FIFO at its pipe's parser (04_parser_classification.md R151-R164, R177). -/

-- One declaration at a time: the package is compiled as one text, and a thread for each would not fit.
set_option Elab.async false

namespace Sys2Proof.Machine

variable {s t u : State} {p : Nat}

/-- `t` came from `s` by writes to registers of pipe `p` other than its count of packets, and by drawing free values. -/
structure InPipe (p : Nat) (s t : State) : Prop where
  rest : t = { s with regs := t.regs, free := t.free }
  frame : s.Frame (pipeRegs p) [] t
  packets : t.get (PRS_CNT_PKT.packets p) = s.get (PRS_CNT_PKT.packets p)
  wf : RegsWf s.regs → RegsWf t.regs

theorem InPipe.refl (p : Nat) (s : State) : InPipe p s s := ⟨rfl, .refl _ _ _, rfl, id⟩

theorem InPipe.trans (h : InPipe p s t) (g : InPipe p t u) : InPipe p s u where
  rest := by rw [g.rest, h.rest]
  frame := h.frame.trans g.frame
  packets := g.packets.trans h.packets
  wf w := g.wf (h.wf w)

theorem InPipe.put (h : InPipe p s t) {f : Fld} (m : PRS_CNT_PKT.regOff p < f.off) (m' : f.off < 0x40000 * (p + 1))
    (v : Nat) : InPipe p s (t.put f v) where
  rest := by rw [h.rest]; rfl
  frame := h.frame.putIn (by unfold PRS_CNT_PKT.regOff at m; unfold pipeRegs; omega) v
  packets := (State.get_put_far v (Nat.ne_of_lt m)).trans h.packets
  wf w := (h.wf w).put f v

theorem InPipe.bump (h : InPipe p s t) {f : Fld} (m : PRS_CNT_PKT.regOff p < f.off) (m' : f.off < 0x40000 * (p + 1))
    (n : Nat) : InPipe p s (t.bump f n) := h.put m m' _

theorem InPipe.foldl {α : Type} {f : State → α → State} {l : List α} (h : InPipe p s t)
    (hf : ∀ t, ∀ x ∈ l, InPipe p t (f t x)) : InPipe p s (l.foldl f t) := by
  induction l generalizing t with
  | nil => exact h
  | cons x l ih =>
    exact ih (h.trans (hf t x List.mem_cons_self)) (fun t y m => hf t y (List.mem_cons_of_mem _ m))

theorem InPipe.same (h : InPipe p s t) : s.Same [.free] t := by
  intro x m
  rw [h.rest]
  cases x with
  | free => exact absurd (by decide) m
  | _ => rfl

/-! ### Tagging, payload patterns and the walk's counters -/

theorem State.tracerTag_inPipe (s : State) (p : Nat) (x : Bool) : InPipe p s (s.tracerTag p x).1 := by
  have tagged : ∀ t : State, InPipe p s t → InPipe p s (t.bump (TEL_PIPE_STAT1.tracers p) 1) := fun t h =>
    h.bump (by show 0x20000 + 0x40000 * p < 0x26008 + 0x40000 * p; omega)
      (by show 0x26008 + 0x40000 * p < 0x40000 * (p + 1); omega) 1
  have drawn : InPipe p s { s with free := s.free + 1 } := ⟨rfl, .refl _ _ _, rfl, id⟩
  unfold State.tracerTag State.draw
  dsimp only
  split
  · exact .refl p s
  · split
    · dsimp only
      split
      · exact tagged _ drawn
      · exact drawn
    · dsimp only
      split
      · exact tagged _ (.refl p s)
      · exact .refl p s

theorem State.payload_inPipe (s : State) (p bank : Nat) (l : List Byte) (parseEnd depth : Nat) (md : List Nat) :
    InPipe p s (s.payload p bank l parseEnd depth md).1 := by
  have hits : ∀ f : Nat → Nat, InPipe p s
      ((List.range 8).foldl (fun s k => if 0x80 ≤ f k then s.bump (PRS_CNT_PAY.hits p k) 1 else s) s) := fun f =>
    (InPipe.refl p s).foldl (fun t k m => by
      have hk := List.mem_range.mp m
      split
      · refine (InPipe.refl p t).bump ?_ ?_ 1
        · show 0x20000 + 0x40000 * p < 0x20040 + 0x40000 * p + 0x8 * k
          omega
        · show 0x20040 + 0x40000 * p + 0x8 * k < 0x40000 * (p + 1)
          omega
      · exact .refl p t)
  unfold State.payload
  dsimp only
  split <;> exact hits _

theorem finalStatus_le {code : Nat} (h : code ≤ 6) (csum : Bool) : finalStatus code csum ≤ 6 := by
  unfold finalStatus
  split
  · exact h
  · split <;> omega

theorem tooFar_le {i : WalkIn} {pos n c : Nat} (h : tooFar i pos n = some c) : c ≤ 6 := by
  unfold tooFar at h
  split_ifs at h
  all_goals cases h; decide

/-- The outcomes of R161. -/
theorem parseWalk_status_le (i : WalkIn) (fuel node pos visits : Nat) (csum : Bool) (md : List Nat) :
    (parseWalk i fuel node pos visits csum md).status ≤ 6 := by
  induction fuel generalizing node pos visits csum md with
  | zero => exact finalStatus_le (code := 4) (by decide) csum
  | succ fuel ih =>
    unfold parseWalk
    dsimp only
    split
    · exact finalStatus_le (code := 1) (by decide) csum
    · split
      · next e => exact finalStatus_le (tooFar_le e) csum
      · split
        · exact finalStatus_le (code := 5) (by decide) csum
        · split
          · next e => exact finalStatus_le (tooFar_le e) csum
          · split
            · exact finalStatus_le (code := 1) (by decide) _
            · split
              · exact finalStatus_le (code := 0) (by decide) _
              · exact ih _ _ _ _ _

/-- A walk counts its packet, and its outcome beside it (R177). -/
theorem State.countWalk_inPipe (s : State) (p port : Nat) {r : Parsed} (le : r.status ≤ 6) (acted : Bool) :
    InPipe p (s.bump (PRS_CNT_PKT.packets p) 1) (s.countWalk p port r acted) := by
  unfold State.countWalk
  dsimp only
  split
  · exact .refl _ _
  · next bad =>
    have positive : r.status ≠ 0 := fun e => bad (by rw [e]; rfl)
    generalize s.bump (PRS_CNT_PKT.packets p) 1 = u
    have above : PRS_CNT_PKT.regOff p < PRS_CNT_ERR.regOff p r.status := by
      unfold PRS_CNT_PKT.regOff PRS_CNT_ERR.regOff; omega
    have below : PRS_CNT_ERR.regOff p r.status < 0x40000 * (p + 1) := by unfold PRS_CNT_ERR.regOff; omega
    have last : PRS_CNT_PKT.regOff p < PRS_LAST_ERR.regOff p := by unfold PRS_CNT_PKT.regOff PRS_LAST_ERR.regOff; omega
    have last' : PRS_LAST_ERR.regOff p < 0x40000 * (p + 1) := by unfold PRS_LAST_ERR.regOff; omega
    have seen := (InPipe.refl p u).bump (f := PRS_CNT_ERR.seen p r.status) above below 1
    have counted : InPipe p u (if acted then
        (u.bump (PRS_CNT_ERR.seen p r.status) 1).bump (PRS_CNT_ERR.acted p r.status) 1
        else u.bump (PRS_CNT_ERR.seen p r.status) 1) := by
      split
      · exact seen.bump (f := PRS_CNT_ERR.acted p r.status) above below 1
      · exact seen
    exact (((counted.put (f := PRS_LAST_ERR.code p) last last' _).put (f := PRS_LAST_ERR.node p) last last' _).put
      (f := PRS_LAST_ERR.offset p) last last' _).put (f := PRS_LAST_ERR.port p) last last' _

/-- Parsing counts the packet in its pipe and changes the packet's metadata and notes. -/
theorem State.parse_spec (s : State) (q : Pkt) (held : Bool) : ∃ (u v : State) (md : List Nat) (notes : List PerfNote),
    InPipe q.w.pipe s u ∧ InPipe q.w.pipe (u.bump (PRS_CNT_PKT.packets q.w.pipe) 1) v ∧
    s.parse q held = v.setPkt { q with w := { q.w with md := md, notes := notes } } := by
  unfold State.parse
  dsimp only
  generalize hr : parseWalk _ _ _ _ _ _ _ = r
  have le : r.status ≤ 6 := hr ▸ parseWalk_status_le _ _ _ _ _ _ _
  generalize hy : s.payload _ _ _ _ _ _ = y
  have u : InPipe q.w.pipe s y.1 := hy ▸ s.payload_inPipe _ _ _ _ _ _
  obtain ⟨t, md⟩ := y
  dsimp only
  generalize t.errAction r.status md = z
  obtain ⟨md', acted⟩ := z
  dsimp only
  have counted := t.countWalk_inPipe q.w.pipe (mdIngress md') le acted
  split
  · exact ⟨t, _, _, _, u, counted, rfl⟩
  · exact ⟨t, _, _, _, u, counted, rfl⟩

end Sys2Proof.Machine
end

section
/-! PROOFS. PARSER_ENTRY of a frame of the receive FIFO (01_architecture.md R46, R55, 04_parser_classification.md R151,
R177), and the frame's way from its port to its packet. -/

-- One declaration at a time: the package is compiled as one text, and a thread for each would not fit.
set_option Elab.async false

namespace Sys2Proof.Machine

variable {s t : State} {f : RxFrame} {r : PortRec}

theorem exec_parserEntry (pipe : Fin 32) (s : State) :
    exec (.parserEntry pipe (0, [])) s = .next (s.parserEntry pipe 0 []) :=
  rfl

/-- Frame `f` has left the FIFO of section `p`, and its intake depth has crossed the channel. -/
def State.crossFrame (s : State) (p : Nat) (f : RxFrame) : State :=
  (s.setFifo p (removeFrame f (s.fifo p))).chCross p false (chData f.lossless) (.cell f.port f.lossless)
    (ceilDiv (min f.bytes.length s.intakeDepth) 256)

/-- The packet that frame `f` becomes, before its walk. -/
def State.entrant (s : State) (p : Nat) (f : RxFrame) (depth : Nat) (md : List Nat) : Pkt :=
  { s.newPkt p f.port f.bytes f.whole f.err f.rx f.hdr md with crossed := depth, via := chData f.lossless }

/-- The frame that is ready crosses, is perhaps tagged, and joins the packets in flight as it is parsed. -/
theorem State.parserEntry_of_ready {p : Nat} (run : s.slotsRun p = true) (image : s.get STRUCT_STATUS.state = 3)
    (ready : s.readyFrame p = some f) (mapped : s.mapRec f.port = some r) :
    ∃ (tracer : Bool) (md : List Nat) (held : Bool),
      let u := ((s.crossFrame p f).tracerTag p tracer).1
      let q := u.entrant p f (min f.bytes.length s.intakeDepth) md
      s.parserEntry p 0 [] = (u.admitPkt q).parse q held := by
  have active : s.imageActive = true := decide_eq_true image
  unfold State.parserEntry State.enterFrame
  rw [run, ready, active]
  simp only [Bool.not_true, Bool.false_eq_true, if_false, if_true, mapped]
  exact ⟨_, _, _, rfl⟩

theorem State.crossFrame_only (s : State) (p : Nat) (f : RxFrame) :
    OnlyChannels (s.setFifo p (removeFrame f (s.fifo p))) (s.crossFrame p f) := State.chCross_only _ _ _ _ _ _

theorem State.intakeDepth_pos (s : State) : 0 < s.intakeDepth := by
  unfold State.intakeDepth; split <;> decide

/-- What the queue of the channel that a frame crosses shows afterwards. -/
theorem State.crossFrame_chQueue {p : Nat} (ready : s.readyFrame p = some f) (bytes : f.bytes ≠ [])
    (empty : ∀ i < 3, (s.chQueue (chKey p false i)).items = [])
    (fits : (s.chQueue (chKey p false (chData f.lossless))).credits ≤ chSlots (chData f.lossless)) :
    (s.crossFrame p f).chQueue (chKey p false (chData f.lossless)) =
      (s.chQueue (chKey p false (chData f.lossless))).passed (ceilDiv (min f.bytes.length s.intakeDepth) 256) := by
  have idle : (s.setFifo p (removeFrame f (s.fifo p))).ChannelIdle p false (chData f.lossless) :=
    ⟨by unfold chData; split <;> decide, State.chReady_of_readyFrame (s := s) ready, empty, fits⟩
  have length := List.length_pos_of_ne_nil bytes
  have depth := s.intakeDepth_pos
  obtain ⟨n, cells⟩ : ∃ n, ceilDiv (min f.bytes.length s.intakeDepth) 256 = n + 1 :=
    Nat.exists_eq_succ_of_ne_zero (by unfold ceilDiv; omega)
  unfold State.crossFrame
  rw [cells]
  exact idle.cross _ n

/-! ### Admission to the packets in flight -/

theorem State.pkt_admitPkt_same {q : Pkt} (new : s.pkt q.id = none) : (s.admitPkt q).pkt q.id = some q := by
  show (s.pk.pkts ++ [q]).find? (fun x => x.id = q.id) = some q
  rw [List.find?_append, show s.pk.pkts.find? (fun x => x.id = q.id) = none from new]
  simp

theorem State.pkt_admitPkt_other (s : State) {q : Pkt} {i : Nat} (h : i ≠ q.id) : (s.admitPkt q).pkt i = s.pkt i := by
  show (s.pk.pkts ++ [q]).find? (fun x => x.id = i) = s.pk.pkts.find? (fun x => x.id = i)
  rw [List.find?_append]
  simp [h.symm]

theorem State.admitPkt_same (s : State) (q : Pkt) : s.Same [.img, .pk] (s.admitPkt q) := by
  intro p m
  cases p with
  | img => exact absurd (by decide) m
  | pk => exact absurd (by decide) m
  | _ => rfl

theorem State.setPkt_same (s : State) (q : Pkt) : s.Same [.pk] (s.setPkt q) := by
  intro p m
  cases p with
  | pk => exact absurd (by decide) m
  | _ => rfl

/-! ### The frame as a packet -/

/-- The states that frame `f` of section `p` passes as it becomes packet `q`: its cells have crossed (`c`), it may have
been tagged (`u`), its walk is over (`a`) and counted (`v`). -/
structure State.Enters (s : State) (p : Nat) (f : RxFrame) (q : Pkt) (c u a v : State) : Prop where
  crossed : OnlyChannels (s.setFifo p (removeFrame f (s.fifo p))) c
  tagged : InPipe p c u
  walked : InPipe p (u.admitPkt q) a
  counted : InPipe p (a.bump (PRS_CNT_PKT.packets p) 1) v

section

variable {p : Nat} {q : Pkt} {c u a v : State} (h : s.Enters p f q c u a v)
include h

theorem State.Enters.pk_before : u.pk = (s.setFifo p (removeFrame f (s.fifo p))).pk := by
  rw [h.tagged.rest, h.crossed]

theorem State.Enters.pk_after : v.pk = (u.admitPkt q).pk := by
  rw [h.counted.rest, State.bump_pk, h.walked.rest]

theorem State.Enters.version : u.version = s.version := by
  unfold State.version
  rw [h.tagged.rest, h.crossed]
  rfl

theorem State.Enters.chQueue (k : Nat) : v.chQueue k = c.chQueue k := by
  unfold State.chQueue
  rw [h.counted.rest, State.bump_flt, h.walked.rest]
  show smGet noQueue u.flt.channels k = _
  rw [h.tagged.rest]

/-- The packet is the one packet more. -/
theorem State.Enters.pk : v.pk = { s.pk with pkts := v.pk.pkts, fifo := v.pk.fifo, nextPkt := s.pk.nextPkt + 1 } := by
  have joined : (u.admitPkt q).pk =
      { u.pk with pkts := (u.admitPkt q).pk.pkts, nextPkt := u.pk.nextPkt + 1 } := rfl
  rw [h.pk_after, joined, h.pk_before]
  rfl

theorem State.Enters.pkt (new : s.pkt q.id = none) : v.pkt q.id = some q :=
  (State.pkt_congr (congrArg (·.pkts) h.pk_after) _).trans
    (State.pkt_admitPkt_same ((State.pkt_congr (congrArg (·.pkts) h.pk_before) _).trans new))

theorem State.Enters.pkt_other {i : Nat} (ne : i ≠ q.id) : v.pkt i = s.pkt i :=
  ((State.pkt_congr (congrArg (·.pkts) h.pk_after) _).trans (State.pkt_admitPkt_other u ne)).trans
    (State.pkt_congr (congrArg (·.pkts) h.pk_before) _)

theorem State.Enters.fifos (sec : Nat) : v.fifo sec = (s.setFifo p (removeFrame f (s.fifo p))).fifo sec :=
  (State.fifo_congr h.pk_after sec).trans (State.fifo_congr (t := u) h.pk_before sec)

theorem State.Enters.same : s.Same [.pk, .img, .free, .flt] v := by
  have left := (s.setFifo_same p (removeFrame f (s.fifo p))).mono (k := [.pk, .img, .free, .flt]) (by decide)
  have here := h.crossed.same.mono (k := [.pk, .img, .free, .flt]) (by decide)
  have marked := h.tagged.same.mono (k := [.pk, .img, .free, .flt]) (by decide)
  have joined := (u.admitPkt_same q).mono (k := [.pk, .img, .free, .flt]) (by decide)
  have parsed := h.walked.same.mono (k := [.pk, .img, .free, .flt]) (by decide)
  have bumped := ((OnlyRegs.refl a).bump (PRS_CNT_PKT.packets p) 1).same [.pk, .img, .free, .flt]
  exact left.trans (here.trans (marked.trans (joined.trans (parsed.trans (bumped.trans
    (h.counted.same.mono (by decide)))))))

theorem State.Enters.frame : s.Frame (pipeRegs p) [] v := by
  have crossed : s.Frame (pipeRegs p) [] c := (State.Frame.refl _ _ s).same h.crossed.regs
  have walked := ((crossed.trans h.tagged.frame).same (u := u.admitPkt q) rfl).trans h.walked.frame
  refine (walked.putIn (f := PRS_CNT_PKT.packets p) ?_ _).trans h.counted.frame
  show 0x40000 * p ≤ 0x20000 + 0x40000 * p ∧ 0x20000 + 0x40000 * p < 0x40000 * (p + 1)
  omega

/-- The packet is counted in its pipe (R177). -/
theorem State.Enters.packets (w : RegsWf s.regs) :
    v.get (PRS_CNT_PKT.packets p) = satAdd 48 (s.get (PRS_CNT_PKT.packets p)) 1 := by
  have wf : RegsWf a.regs := h.walked.wf (h.tagged.wf (by rw [h.crossed.regs]; exact w))
  have old : a.get (PRS_CNT_PKT.packets p) = s.get (PRS_CNT_PKT.packets p) :=
    calc a.get (PRS_CNT_PKT.packets p) = u.get (PRS_CNT_PKT.packets p) := h.walked.packets
      _ = c.get (PRS_CNT_PKT.packets p) := h.tagged.packets
      _ = s.get (PRS_CNT_PKT.packets p) := State.get_congr h.crossed.regs _
  rw [h.counted.packets, ← old]
  exact State.get_bump_same wf (Nat.le_of_ble_eq_true rfl) 1

end

theorem parserEntry_frame (w : RegsWf s.regs) {pipe : Fin 32} (run : s.slotsRun pipe = true)
    (image : s.get STRUCT_STATUS.state = 3) (ready : s.readyFrame pipe = some f) (mapped : s.mapRec f.port = some r)
    (new : s.pkt s.pk.nextPkt = none) :
    ∃ (t : State) (q : Pkt), exec (.parserEntry pipe (0, [])) s = .next t ∧ t.pkt s.pk.nextPkt = some q ∧
      q.port = f.port ∧ q.bytes = f.bytes ∧ q.whole = f.whole ∧ q.err = false ∧ q.rxErr = f.err ∧ q.rx = f.rx ∧
      q.hdr = f.hdr ∧ q.ver = s.version ∧ q.bank = s.get PRS_PAT_CTL.active_bank ∧ q.admitted = false ∧ q.w.stage = 0 ∧
      q.w.pipe = pipe ∧ q.w.injected = false ∧ q.w.first = true ∧ q.crossed = min f.bytes.length s.intakeDepth ∧
      (∀ x : ChQueue, f.bytes ≠ [] → x = s.chQueue (chKey pipe false (chData f.lossless)) →
        (∀ i < 3, (s.chQueue (chKey pipe false i)).items = []) → x.credits ≤ chSlots (chData f.lossless) →
        t.chQueue (chKey pipe false (chData f.lossless)) =
          ⟨(x.writeA + ceilDiv q.crossed 256) % 128, (x.writeB + ceilDiv q.crossed 256) % 128,
           (x.readA + ceilDiv q.crossed 256) % 128, (x.readB + ceilDiv q.crossed 256) % 128, x.credits, []⟩) ∧
      (∀ i, i ≠ s.pk.nextPkt → t.pkt i = s.pkt i) ∧ t.fifo pipe = removeFrame f (s.fifo pipe) ∧
      (∀ sec, sec ≠ pipe.val → t.fifo sec = s.fifo sec) ∧
      t.get (PRS_CNT_PKT.packets pipe) = satAdd 48 (s.get (PRS_CNT_PKT.packets pipe)) 1 ∧
      t.pk = { s.pk with pkts := t.pk.pkts, fifo := t.pk.fifo, nextPkt := s.pk.nextPkt + 1 } ∧
      s.SameCounting [.pk, .img, .free, .flt] t ∧ s.Frame (pipeRegs pipe) [] t := by
  obtain ⟨tracer, md, held, parsed⟩ := State.parserEntry_of_ready run image ready mapped
  have queues := State.crossFrame_chQueue (s := s) (p := pipe) ready
  have crossed := s.crossFrame_only pipe f
  have tagged := (s.crossFrame pipe f).tracerTag_inPipe pipe tracer
  rw [exec_parserEntry, parsed]
  clear parsed
  generalize ((s.crossFrame pipe f).tracerTag pipe tracer).1 = u at tagged ⊢
  generalize s.crossFrame pipe f = c at crossed queues tagged
  dsimp only
  generalize hq : u.entrant pipe f (min f.bytes.length s.intakeDepth) md = q
  have inPipe : q.w.pipe = pipe.val := by rw [← hq]; rfl
  obtain ⟨a, v, md', notes, walked, counted, packet⟩ := (u.admitPkt q).parse_spec q held
  rw [inPipe] at walked counted
  have enters : s.Enters pipe f q c u a v := ⟨crossed, tagged, walked, counted⟩
  have number : q.id = s.pk.nextPkt := by rw [← hq]; exact congrArg (·.nextPkt) enters.pk_before
  generalize hq' : ({ q with w := { q.w with md := md', notes := notes } } : Pkt) = q' at packet
  have number' : q'.id = q.id := by rw [← hq']
  have bank : u.get PRS_PAT_CTL.active_bank = s.get PRS_PAT_CTL.active_bank :=
    (tagged.frame _ (by show ¬(_ ≤ 0x807018 ∧ 0x807018 < _); omega) (fun _ m => nomatch m)).trans
      (State.get_congr crossed.regs _)
  have here : (v.setPkt q').pkt s.pk.nextPkt = some q' := by
    rw [← number, ← number']
    exact State.pkt_setPkt_same (by rw [number']; exact enters.pkt (number ▸ new))
  have elsewhere : ∀ i, i ≠ s.pk.nextPkt → (v.setPkt q').pkt i = s.pkt i := fun i ne =>
    (State.pkt_setPkt_other _ (by rw [number', number]; exact ne)).trans (enters.pkt_other (by rw [number]; exact ne))
  have left : (v.setPkt q').fifo pipe = removeFrame f (s.fifo pipe) :=
    (enters.fifos pipe).trans (State.fifo_setFifo_same _ _ _)
  have sections : ∀ sec, sec ≠ pipe.val → (v.setPkt q').fifo sec = s.fifo sec := fun sec ne =>
    (enters.fifos sec).trans (State.fifo_setFifo_other _ ne _)
  have counts : (v.setPkt q').pk = { s.pk with
      pkts := (v.setPkt q').pk.pkts, fifo := (v.setPkt q').pk.fifo, nextPkt := s.pk.nextPkt + 1 } :=
    congrArg (fun x : PktSt => { x with pkts := (v.setPkt q').pk.pkts }) enters.pk
  have same : s.SameCounting [.pk, .img, .free, .flt] (v.setPkt q') :=
    (Tally.refl noRegs [] s).sameCounting_then (enters.same.trans ((v.setPkt_same q').mono (by decide)))
  have frame : s.Frame (pipeRegs pipe) [] (v.setPkt q') := enters.frame.same rfl
  subst hq'
  subst hq
  exact ⟨_, _, congrArg _ packet, here, rfl, rfl, rfl, rfl, rfl, rfl, rfl, enters.version, bank, rfl, rfl, rfl, rfl,
    rfl, rfl, fun x bytes e empty fits => (enters.chQueue _).trans (e ▸ queues bytes empty (e ▸ fits)), elsewhere, left,
    sections, enters.packets w, counts, same, frame⟩

/-- Settles O51: each clause is what one outcome of the checks leaves, and a frame that enters is followed from its FIFO
over the channel to its packet. -/
theorem framesAreQueuedCompletedAndParsed : Obligations.FramesAreQueuedCompletedAndParsed := by
  unfold Obligations.FramesAreQueuedCompletedAndParsed
  intro s inv
  have w := inv.regsWf
  refine ⟨fun port b up ethernet closed => ?_, fun port rest ethernet off => ⟨?_, ?_⟩, ?_⟩
  · have h : s.Receives port := ⟨up, ethernet, closed⟩
    refine ⟨frameReceive_standby w h, frameReceive_noImage w h, fun run image => ⟨frameReceive_short w h run image,
      frameReceive_badFcs w h run image, frameReceive_pause w h run image, frameReceive_pfc w h run image,
      fun long fits fcs data off => ⟨frameReceive_queued w h run image long fits fcs data off,
        frameReceive_overrun w h run image long fits fcs data off⟩⟩⟩
  · intro f waits once long fits err data
    exact ⟨lastByteHeld_completes w ethernet waits long fits err off once data,
      lastByteHeld_drops w ethernet waits long fits err⟩
  · intro p entered only here notAdmitted pending hdr rxErr noXoff noHeadroom fcs fits
    exact lastByteHeld_ends w ethernet off entered only here notAdmitted pending hdr rxErr noXoff noHeadroom fcs fits
  · intro pipe f r run image ready mapped new
    exact parserEntry_frame w run image ready mapped new

end Sys2Proof.Machine
end

section
/-! PROOFS. Reads of the register file after a put, of any register file: a put lists the register anew, so that none of
these rests on the canonical form; and which part of the state an update of one part changes. -/

-- One declaration at a time: the package is compiled as one text, and a thread for each would not fit.
set_option Elab.async false

namespace Sys2Proof.Machine

theorem State.raw_setRaw_self (s : State) (k : Nat) (w : Word) : (s.setRaw k w).raw k = w :=
  smGet_smPut_same _ _ _ _

/-- A field reads what was put into it, cut to its width. -/
theorem State.get_put_self (s : State) {f : Fld} (fit : f.lo + f.w ≤ 64) (v : Nat) :
    (s.put f v).get f = v % 2 ^ f.w := by
  have read : (s.put f v).raw f.off = BitVec.ofNat 64 (setBits (s.raw f.off).toNat f.lo f.w v) := smGet_smPut_same _ _ _ _
  unfold State.get
  rw [read, BitVec.toNat_ofNat, Nat.mod_eq_of_lt (setBits_lt _ _ _ _ (BitVec.isLt _) fit), bitsOf_setBits_same]

/-- A put leaves a field alone that shares no bit with the one it writes. -/
theorem State.get_put_apart (s : State) {f g : Fld} (fit : f.lo + f.w ≤ 64) (d : g.Apart f) (v : Nat) :
    (s.put f v).get g = s.get g := by
  by_cases e : g.off = f.off
  · have read : (s.put f v).raw f.off = BitVec.ofNat 64 (setBits (s.raw f.off).toNat f.lo f.w v) :=
      smGet_smPut_same _ _ _ _
    unfold State.get
    rw [e, read, BitVec.toNat_ofNat, Nat.mod_eq_of_lt (setBits_lt _ _ _ _ (BitVec.isLt _) fit)]
    exact bitsOf_setBits_other _ _ _ _ (d.resolve_left (fun h => h e))
  · exact State.get_put_far _ e

/-- `State.get_put_apart` between two fields of one register, where all that is asked can be decided. -/
theorem State.get_put_disjoint (s : State) {f g : Fld} (v : Nat)
    (d : f.lo + f.w ≤ 64 ∧ (g.lo + g.w ≤ f.lo ∨ f.lo + f.w ≤ g.lo)) : (s.put f v).get g = s.get g :=
  s.get_put_apart d.1 (Or.inr d.2) v

/-! ### One part of the state is another one -/

theorem State.Same.of_img (s : State) (i : StructSt) : s.Same [.img] { s with img := i } := by
  intro p m
  cases p with
  | img => exact absurd (by decide) m
  | _ => rfl

theorem State.Same.of_buf (s : State) (x : BufSt) : s.Same [.buf] { s with buf := x } := by
  intro p m
  cases p with
  | buf => exact absurd (by decide) m
  | _ => rfl

theorem State.Same.of_pl (s : State) (x : PlSt) : s.Same [.pl] { s with pl := x } := by
  intro p m
  cases p with
  | pl => exact absurd (by decide) m
  | _ => rfl

theorem State.Same.of_mtr (s : State) (x : MtrSt) : s.Same [.mtr] { s with mtr := x } := by
  intro p m
  cases p with
  | mtr => exact absurd (by decide) m
  | _ => rfl

theorem State.Same.of_sch (s : State) (x : SchedSt) : s.Same [.sch] { s with sch := x } := by
  intro p m
  cases p with
  | sch => exact absurd (by decide) m
  | _ => rfl

end Sys2Proof.Machine
end

section
/-! PROOFS. What a commit leaves alone as it ends, and what a disable leaves of the image (02_structure_image.md R89,
R90, R104). The ring that a commit completes is not bounded here: its registers stand past those of the image anyway. -/

-- One declaration at a time: the package is compiled as one text, and a thread for each would not fit.
set_option Elab.async false

namespace Sys2Proof.Machine

variable {s t u : State}

/-! ### Completions on any ring -/

/-- The registers from the sequencers' on, past those of the structure image and of commits. -/
def pastStructure : Region := fun k => SEQ_STATUS.regOff 0 ≤ k

theorem pastStructure_of_hostRegs {k : Nat} (h : hostRegs k) : pastStructure k := by
  unfold hostRegs perfRegs eventRegs hifBlock perfBlock PERF_CNT.regOff RING_STAT.regOff HIF_STAT.regOff at h
  unfold pastStructure SEQ_STATUS.regOff
  omega

theorem pastStructure_ringStat (r : Nat) : pastStructure (RING_STAT.regOff r) := by
  unfold pastStructure RING_STAT.regOff SEQ_STATUS.regOff
  omega

theorem Calm.past (h : Calm hostRegs s t) : Calm pastStructure s t := h.mono (fun _ => pastStructure_of_hostRegs)

/-- Counting in the command engine's counters. -/
theorem State.perfEngine_past (code : Nat) (a : PerfAttr) (n : Nat) :
    Calm pastStructure s (s.perf (perfBlock 32 4) code a n) := by
  refine (State.perf_calm code a n).mono (fun k h => h.elim (fun own => ?_) pastStructure_of_hostRegs)
  unfold perfRegs eventRegs perfBlock PERF_CNT.regOff RING_STAT.regOff at own
  unfold pastStructure SEQ_STATUS.regOff
  omega

theorem State.afterCompletion_past (r status : Nat) : Calm pastStructure s (s.afterCompletion r status) := by
  unfold State.afterCompletion
  extract_lets k f s1 s2 s3
  have counted : Calm pastStructure s s2 :=
    (((Calm.refl _ s).bump (pastStructure_ringStat r) 1).trans (State.perfHif_calm _ _ _).past).trans
      (State.perfHif_calm _ _ _).past
  have done : Calm pastStructure s s3 := .ite (counted.bump (pastStructure_ringStat r) 1) counted
  exact .ite (.ite ((done.trans (State.setRing_calm _).past).trans (State.msix_calm _ _).past)
    (done.trans (State.setRing_calm _).past)) done

theorem State.writeEntry_past (r i : Nat) (w : List Word) : Calm pastStructure s (s.writeEntry r i w) :=
  ((State.hostSend_calm _ _).past.trans (State.hostSend_calm _ _).past).trans (State.afterCompletion_past r _)

theorem State.drainRing_past (r n : Nat) : Calm pastStructure s (s.drainRing r n) := by
  induction n generalizing s with
  | zero => exact .refl _ _
  | succ n ih =>
    unfold State.drainRing
    dsimp only
    split
    · exact ((State.setRing_calm _).past.trans (State.writeEntry_past r _ _)).trans ih
    · exact .refl _ _

theorem State.finishEntry_past (r i : Nat) (res : List Word → List Word) :
    Calm pastStructure s (s.finishEntry r i res) :=
  .ite (.refl _ _) ((State.setRing_calm _).past.trans (State.drainRing_past r _))

/-! ### What a disable leaves alone -/

/-- `t` shows the image's state that `s` shows, and holds its image, its table entries and its receive FIFOs. -/
structure ImageStays (s t : State) : Prop where
  state : t.get STRUCT_STATUS.state = s.get STRUCT_STATUS.state
  active : t.img.active = s.img.active
  entries : t.tbl.entries = s.tbl.entries
  fifo : t.pk.fifo = s.pk.fifo

theorem ImageStays.refl (s : State) : ImageStays s s := ⟨rfl, rfl, rfl, rfl⟩

theorem ImageStays.trans (h : ImageStays s t) (g : ImageStays t u) : ImageStays s u :=
  ⟨g.state.trans h.state, g.active.trans h.active, g.entries.trans h.entries, g.fifo.trans h.fifo⟩

/-- An update that leaves the registers, the image, the entries and the FIFOs alone. -/
theorem ImageStays.of_eq (regs : t.regs = s.regs) (img : t.img.active = s.img.active)
    (tbl : t.tbl.entries = s.tbl.entries) (pk : t.pk.fifo = s.pk.fifo) : ImageStays s t :=
  ⟨State.get_congr regs _, img, tbl, pk⟩

theorem ImageStays.put (h : ImageStays s t) {f : Fld} (d : STRUCT_STATUS.regOff < f.off) (v : Nat) :
    ImageStays s (t.put f v) :=
  h.trans ⟨State.get_put_far v (Nat.ne_of_lt d), rfl, rfl, rfl⟩

theorem ImageStays.calm (h : ImageStays s t) (g : Calm pastStructure t u) : ImageStays s u := by
  refine h.trans ⟨g.frame _ ?_ (fun _ m => by cases m), ?_, ?_, ?_⟩
  · show ¬SEQ_STATUS.regOff 0 ≤ STRUCT_STATUS.regOff
    decide
  all_goals rw [g.same]

theorem ImageStays.foldl {α : Type} {f : State → α → State} (l : List α) (hf : ∀ t x, ImageStays t (f t x))
    (s : State) : ImageStays s (l.foldl f s) :=
  List.foldlRecOn l f (.refl s) (fun t h x _ => h.trans (hf t x))

/-! ### A commit that ends -/

/-- The commit leaves the list, and its group's busy bit shows whether another one waits (R103). -/
def State.leaveCommits (s : State) (c : CommitJob) : State :=
  { s with img := { s.img with jobs := s.img.jobs.erase c } }.putFlag (STRUCT_GROUP_STATUS.busy c.group)
    ((s.img.jobs.erase c).any (fun x => x.group = c.group))

/-- The end of a commit that STRUCT_COMMIT requested, shown there. -/
def State.showEnd (s : State) (status reason : Nat) : State :=
  s.puts [(STRUCT_COMMIT.busy, 0), (STRUCT_COMMIT.pending, 0), (STRUCT_COMMIT.result, reason),
    (STRUCT_COMMIT.aborted, b2n (status = 1))]

/-- A refused commit of a ring is counted. -/
def State.bumpRefused (s : State) (status : Nat) : State := if status = 2 then s.bump TBL_CMD_STAT.refused 1 else s

theorem State.endCommit_none (s : State) {c : CommitJob} (ring : c.ring = structCommit) (status reason : Nat) :
    s.endCommit c status reason none = (s.leaveCommits c).showEnd status reason := by
  unfold State.endCommit
  rw [if_pos ring]
  rfl

theorem State.endCommit_some (s : State) {c : CommitJob} (ring : c.ring = structCommit) (status reason v : Nat) :
    s.endCommit c status reason (some v) =
      ((s.leaveCommits c).showEnd status reason).put STRUCT_COMMIT.last_version v := by
  unfold State.endCommit
  rw [if_pos ring]
  rfl

theorem State.endCommit_onRing (s : State) {c : CommitJob} (ring : c.ring ≠ structCommit) (status reason : Nat)
    (made : Option Nat) : s.endCommit c status reason made =
      ((((s.leaveCommits c).bumpRefused status).perf (perfBlock 32 4) 0x0E
        { func := some (((s.leaveCommits c).bumpRefused status).ringFunc c.ring) } 1).finishEntry c.ring c.index
        (fun w => completed w status [(1, reason + made.getD 0 * 2 ^ 32)])) := by
  unfold State.endCommit
  rw [if_neg ring]
  rfl

theorem State.leaveCommits_imageStays (s : State) (c : CommitJob) : ImageStays s (s.leaveCommits c) := by
  refine .trans (t := { s with img := { s.img with jobs := s.img.jobs.erase c } }) (.of_eq rfl rfl rfl rfl)
    ((ImageStays.refl _).put ?_ _)
  show 0x800020 < 0x800200 + 0x8 * c.group
  omega

theorem State.showEnd_imageStays (s : State) (status reason : Nat) : ImageStays s (s.showEnd status reason) :=
  ((((ImageStays.refl s).put (by decide) _).put (by decide) _).put (by decide) _).put (by decide) _

/-- A commit that ends leaves the image as it is, whatever ring it completes. -/
theorem State.endCommit_imageStays (s : State) (c : CommitJob) (status reason : Nat) (made : Option Nat) :
    ImageStays s (s.endCommit c status reason made) := by
  have left := s.leaveCommits_imageStays c
  by_cases ring : c.ring = structCommit
  · have shown := left.trans (State.showEnd_imageStays _ status reason)
    cases made with
    | none => exact s.endCommit_none ring status reason ▸ shown
    | some v => exact s.endCommit_some ring status reason v ▸ shown.put (by decide) v
  · rw [s.endCommit_onRing ring]
    have counted : ImageStays s ((s.leaveCommits c).bumpRefused status) := by
      unfold State.bumpRefused
      split
      · exact left.put (by decide) _
      · exact left
    exact (counted.calm (State.perfEngine_past _ _ _)).calm (State.finishEntry_past _ _ _)

/-! ### Intake stops (R57, R89) -/

theorem State.setXoff_imageStays (s : State) (k v : Nat) : ImageStays s (s.setXoff k v) := by
  refine .trans (t := { s with buf := { s.buf with xoff := smPut natZero s.buf.xoff k v } }) (.of_eq rfl rfl rfl rfl)
    ((ImageStays.refl _).put ?_ _)
  show 0x800020 < 0x81a000 + 0x8 * (k / 4 % 1024)
  omega

theorem State.xoffTry_imageStays (s : State) (k : Nat) : ImageStays s (s.xoffTry k) := by
  unfold State.xoffTry
  dsimp only
  split
  · exact (s.setXoff_imageStays k 0).trans (.of_eq rfl rfl rfl rfl)
  · exact .refl s

theorem State.xoffSweep_imageStays (s : State) (sec : Nat) : ImageStays s (s.xoffSweep sec) :=
  .foldl _ State.xoffTry_imageStays s

/-- The frames that wait are counted at their ports as discarded without an image. -/
def State.countWaiting (s : State) : State :=
  s.pk.fifo.foldl (fun s x => x.2.foldl (fun s f => s.bump (PORT_RX2.no_image (s.laneOf f.port)) 1) s) s

theorem State.countWaiting_imageStays (s : State) : ImageStays s s.countWaiting := by
  refine .foldl _ (fun t x => .foldl _ (fun t f => (ImageStays.refl t).put ?_ _) t) s
  show 0x800020 < laneKey _ 24
  unfold laneKey
  omega

/-- Frames that wait as intake stops are dropped, and the image stays. -/
theorem State.dropWaiting_spec (s : State) : s.dropWaiting.get STRUCT_STATUS.state = s.get STRUCT_STATUS.state ∧
    s.dropWaiting.img.active = s.img.active ∧ s.dropWaiting.tbl.entries = s.tbl.entries ∧
    s.dropWaiting.pk.fifo = [] := by
  have counted := s.countWaiting_imageStays
  have swept := ImageStays.foldl (s.countWaiting.pk.fifo.map (·.1)) State.xoffSweep_imageStays
    { s.countWaiting with pk := { s.countWaiting.pk with fifo := [] } }
  exact ⟨swept.state.trans counted.state, swept.active.trans counted.active, swept.entries.trans counted.entries,
    swept.fifo⟩

/-- STRUCT_CTL.disable on an active image: the drain begins with intake stopped, and the image stays (R89). -/
theorem State.imageDisable_spec (h : s.get STRUCT_STATUS.state = 3) : s.imageDisable.get STRUCT_STATUS.state = 4 ∧
    s.imageDisable.pk.fifo = [] ∧ s.imageDisable.img.active = s.img.active ∧
    s.imageDisable.tbl.entries = s.tbl.entries := by
  have run : s.imageActive = true := decide_eq_true h
  unfold State.imageDisable
  rw [run, if_neg (by decide)]
  dsimp only
  generalize dropped : (s.put STRUCT_STATUS.state 4).dropWaiting = u
  obtain ⟨state, active, entries, fifo⟩ := dropped ▸ (s.put STRUCT_STATUS.state 4).dropWaiting_spec
  have ended := ImageStays.foldl u.img.jobs (fun t c => t.endCommit_imageStays c 1 0 none) u
  refine ⟨?_, ended.fifo.trans fifo, ended.active.trans active, ended.entries.trans entries⟩
  exact ended.state.trans (state.trans (s.get_put_self (f := STRUCT_STATUS.state) (by decide) 4))

end Sys2Proof.Machine
end

section
/-! PROOFS. What running the command engine leaves alone (06_table_access_learning.md R213-R222): it changes tables,
counters, the host interface and the commands that commits cover, but no rule version, and of a group's status no more
than the count of staged rules. One lemma per operation of Machine/Tables.lean and Machine/Commands.lean. -/

-- One declaration at a time: the package is compiled as one text, and a thread for each would not fit.
set_option Elab.async false

namespace Sys2Proof.Machine

variable {s t a : State}

/-- Fields that the engine does not write: those of the structure image, of commits and of a group's status, but for the
staged rules that STRUCT_GROUP_STATUS counts (R103). -/
def EngineLeaves (g : Fld) : Prop := ¬pastStructure g.off ∧ ∀ n, g.Apart (STRUCT_GROUP_STATUS.staged n)

/-- `t` came from `a` by running the engine: of the image's state only the list of commits changed, and the fields that
the engine leaves read as before. -/
structure EngineKeeps (a t : State) : Prop where
  img : t.img = { a.img with jobs := t.img.jobs }
  frame : ∀ g, EngineLeaves g → t.get g = a.get g

namespace EngineKeeps

theorem refl (a : State) : EngineKeeps a a := ⟨rfl, fun _ _ => rfl⟩

theorem trans (h : EngineKeeps a s) (g : EngineKeeps s t) : EngineKeeps a t :=
  ⟨by rw [g.img, h.img], fun f l => (g.frame f l).trans (h.frame f l)⟩

theorem ite {p : Prop} [Decidable p] (h : EngineKeeps a s) (g : EngineKeeps a t) : EngineKeeps a (if p then s else t) := by
  split <;> assumption

theorem foldl {α : Type} {f : State → α → State} {l : List α} (h : EngineKeeps a s)
    (hf : ∀ t x, EngineKeeps a t → EngineKeeps a (f t x)) : EngineKeeps a (l.foldl f s) :=
  List.foldlRecOn l f h (fun t k x _ => hf t x k)

/-- An update of the tables, or of the list of commits. -/
theorem of_eq (h : EngineKeeps a s) (regs : t.regs = s.regs) (img : t.img = { s.img with jobs := t.img.jobs }) :
    EngineKeeps a t :=
  h.trans ⟨img, fun g _ => State.get_congr regs g⟩

theorem tbl (h : EngineKeeps a s) (x : TblSt) : EngineKeeps a { s with tbl := x } := h.of_eq rfl rfl

theorem put (h : EngineKeeps a s) {f : Fld} (m : pastStructure f.off) (v : Nat) : EngineKeeps a (s.put f v) :=
  h.trans ⟨rfl, fun _ l => State.get_put_far v (fun e => l.1 (e ▸ m))⟩

theorem bump (h : EngineKeeps a s) {f : Fld} (m : pastStructure f.off) (n : Nat) : EngineKeeps a (s.bump f n) :=
  h.put m _

theorem calm (h : EngineKeeps a s) (g : Calm pastStructure s t) : EngineKeeps a t :=
  h.trans ⟨by rw [g.same], fun f l => g.frame f l.1 (fun _ m => by cases m)⟩

/-! ### Registers of tables and ports -/

theorem showGroup (h : EngineKeeps a s) (g : Nat) : EngineKeeps a (s.showGroup g) :=
  h.trans ⟨rfl, fun _ l => s.get_put_apart (f := STRUCT_GROUP_STATUS.staged g) (by show 0 + 17 ≤ 64; decide) (l.2 g) _⟩

theorem portOver (h : EngineKeeps a s) (p : Nat) : EngineKeeps a (s.portOver p) :=
  h.put (by show _ ≤ LRN_PORT.regOff p; unfold LRN_PORT.regOff SEQ_STATUS.regOff; omega) _

theorem unlearn (h : EngineKeeps a s) (p : Nat) : EngineKeeps a (s.unlearn p) :=
  (h.put (by show _ ≤ LRN_PORT.regOff p; unfold LRN_PORT.regOff SEQ_STATUS.regOff; omega) _).portOver p

theorem blockedPipes (h : EngineKeeps a s) (t v : Nat) : EngineKeeps a (s.put (TBL_LRN_CFG.blocked_pipes t) v) :=
  h.put (by show _ ≤ TBL_LRN_CFG.regOff t; unfold TBL_LRN_CFG.regOff SEQ_STATUS.regOff; omega) _

/-- The record of a learning event; its ring is a field of ten bits. -/
theorem lrnEvent (h : EngineKeeps a s) (ev t dom port old pipe key : Nat) :
    EngineKeeps a (s.lrnEvent ev t dom port old pipe key) :=
  .ite (h.calm (State.event_calm (State.get_lt _) _).past) h

/-! ### Entries, nodes and moves -/

theorem fitNodes (h : EngineKeeps a s) (p t : Nat) : EngineKeeps a (s.fitNodes p t) := by
  unfold State.fitNodes
  split
  · exact .ite (h.tbl _) h
  · exact h

theorem putUnit (h : EngineKeeps a s) (u t pos : Nat) (e : Option Entry) : EngineKeeps a (s.putUnit u t pos e) :=
  h.foldl (fun _ _ g => (g.tbl _).fitNodes _ _)

theorem freeAt (h : EngineKeeps a s) (p t pos : Nat) : EngineKeeps a (s.freeAt p t pos) := by
  have freed := ((h.tbl _).fitNodes p t (s := s.putEntry p t pos none)).tbl
  exact .ite ((freed _).blockedPipes _ _) (freed _)

theorem freeCopies (h : EngineKeeps a s) (t q : Nat) : EngineKeeps a (s.freeCopies t q) :=
  (h.foldl (fun _ _ g => g.freeAt _ _ _)).tbl _

theorem mapCopies (h : EngineKeeps a s) (t q : Nat) (f : Entry → Entry) : EngineKeeps a (s.mapCopies t q f) := h.tbl _

theorem deleteEntry (h : EngineKeeps a s) (t : Nat) (e : Entry) : EngineKeeps a (s.deleteEntry t e) := by
  have freed := h.freeCopies t e.seq
  have counted : EngineKeeps a (if s.isLearned t e && !e.deleted && !e.stagedAdd then
      (s.freeCopies t e.seq).unlearn (bitsOf e.data 0 10) else s.freeCopies t e.seq) := .ite (freed.unlearn _) freed
  exact .ite (counted.showGroup _) counted

theorem startMove (h : EngineKeeps a s) (job t u src dst : Nat) : EngineKeeps a (s.startMove job t u src dst) := by
  refine (h.foldl (fun v p g => .ite (g.tbl _) ?_)).tbl _
  split
  · exact (g.tbl _).tbl _
  · exact g

theorem rowMove (h : EngineKeeps a s) (j : TblJob) (old : Entry) (u : Nat) : EngineKeeps a (s.rowMove j old u) := by
  unfold State.rowMove
  dsimp only
  split
  · refine (h.foldl (fun v p g => ?_)).tbl _
    split
    · exact g.tbl _
    · exact g
  · exact h

/-! ### Discards and the end of a command -/

theorem discardUpTo (h : EngineKeeps a s) (g n : Nat) : EngineKeeps a (s.discardUpTo g n) := by
  refine (h.foldl (fun v x k => ?_)).showGroup g
  split
  · exact .ite (k.freeCopies _ _) (k.mapCopies _ _ _)
  · exact k

theorem discardDue (h : EngineKeeps a s) : EngineKeeps a s.discardDue :=
  h.foldl (fun _ _ k => .ite ((k.tbl _).discardUpTo _ _) k)

theorem setJob (h : EngineKeeps a s) (j : TblJob) : EngineKeeps a (s.setJob j) := h.tbl _

theorem uncover (h : EngineKeeps a s) (id : Nat) : EngineKeeps a (s.uncover id) := h.of_eq rfl rfl

theorem finishJob (h : EngineKeeps a s) (j : TblJob) : EngineKeeps a (s.finishJob j) :=
  ((h.setJob _).uncover _).discardDue

theorem refuseJob (h : EngineKeeps a s) (j : TblJob) (reason detail : Nat) :
    EngineKeeps a (s.refuseJob j reason detail) := by
  have finished := h.finishJob { j with status := 2, reason := reason, detail := detail }
  have counted := finished.bump (f := TBL_CMD_STAT.refused) (by show 0x804000 ≤ 0x80a018; decide) 1
  exact .ite finished (.ite (counted.bump (by show 0x804000 ≤ 0x80a018; decide) 1) counted)

/-! ### A new entry takes its place -/

theorem rewrite (h : EngineKeeps a s) (j : TblJob) (e : Entry) : EngineKeeps a (s.rewrite j e) :=
  .ite ((h.mapCopies _ _ _).unlearn _) (h.mapCopies _ _ _)

theorem retireOld (h : EngineKeeps a s) (j : TblJob) (old : Entry) : EngineKeeps a (s.retireOld j old) :=
  .ite (h.foldl (fun _ _ k => k.rowMove _ _ _)) (h.mapCopies _ _ _)

theorem publish (h : EngineKeeps a s) (j : TblJob) : EngineKeeps a (s.publish j) := by
  unfold State.publish
  extract_lets old s1 s2 s3
  have shown : EngineKeeps a s1 := h.mapCopies _ _ _
  have retired : EngineKeeps a s2 := by
    unfold s2
    generalize old = o
    cases o with
    | some e => exact shown.retireOld j e
    | none => exact shown
  exact (EngineKeeps.ite retired (retired.showGroup _)).finishJob _

theorem learnDone (h : EngineKeeps a s) (j : TblJob) : EngineKeeps a (s.learnDone j) :=
  ((h.tbl _).portOver _).lrnEvent _ _ _ _ _ _ _

theorem placeFailed (h : EngineKeeps a s) (j : TblJob) (u : Nat) : EngineKeeps a (s.placeFailed j u) := by
  unfold State.placeFailed
  extract_lets s1 s2 blocked now s3
  have refused : EngineKeeps a s2 := (h.freeCopies j.table j.seq).refuseJob _ _ _
  have counted : EngineKeeps a s3 := ((refused.unlearn j.flushPort).blockedPipes j.table now).bump
    (f := TBL_LRN_STAT.fail) (by show 0x804000 ≤ 0x80e800; decide) 1
  exact .ite ((counted.tbl _).lrnEvent _ _ _ _ _ _ _) refused

theorem placeWrite (h : EngineKeeps a s) (d : TblDecl) (j : TblJob) (x : Placing) (pos : Nat) :
    EngineKeeps a (s.placeWrite d j x pos).1 := h.putUnit _ _ _ _

theorem placeFresh (h : EngineKeeps a s) (d : TblDecl) (j : TblJob) (x : Placing) :
    EngineKeeps a (s.placeFresh d j x).1 := by
  unfold State.placeFresh
  split
  · exact h
  · split
    · exact h.placeWrite d j x _
    · exact h.startMove _ _ _ _ _
    all_goals exact h

theorem placeStep (h : EngineKeeps a s) (d : TblDecl) (j : TblJob) (x : Placing) :
    EngineKeeps a (s.placeStep d j x).1 := by
  unfold State.placeStep
  split
  · exact h
  · dsimp only
    split
    · split
      · exact h.placeFresh d j _
      · exact h.startMove _ _ _ _ _
    · split
      · exact h.placeFresh d j _
      · exact h.placeWrite d j x _
    · exact h.placeFresh d j x

theorem placeAll (d : TblDecl) (j : TblJob) (todo done : List Placing) (h : EngineKeeps a s) :
    EngineKeeps a (s.placeAll d j todo done) := by
  induction todo generalizing s done with
  | nil =>
    unfold State.placeAll
    extract_lets k s1
    have published : EngineKeeps a s1 := (h.setJob k).publish k
    refine .ite (.ite (published.learnDone k) published) ?_
    split
    · exact .ite ((h.setJob k).placeFailed k _) (h.setJob k)
    · exact h.setJob k
  | cons x todo ih => exact ih _ (h.placeStep d j x)

theorem advance (h : EngineKeeps a s) (id : Nat) : EngineKeeps a (s.advance id) := by
  unfold State.advance
  split
  · split
    · exact .ite (placeAll _ _ _ _ h) h
    · exact .ite (h.refuseJob _ _ _) h
  · exact h

theorem beginPlace (h : EngineKeeps a s) (d : TblDecl) (j : TblJob) : EngineKeeps a (s.beginPlace d j) :=
  (h.setJob _).advance _

/-! ### Commands by their opcode -/

theorem addEntry (h : EngineKeeps a s) (d : TblDecl) (j : TblJob) (old : Option Entry) :
    EngineKeeps a (s.addEntry d j old) := .ite (h.refuseJob _ _ _) (h.beginPlace d j)

theorem modifyEntry (h : EngineKeeps a s) (d : TblDecl) (j : TblJob) (e : Entry) :
    EngineKeeps a (s.modifyEntry d j e) :=
  .ite (.ite (h.beginPlace d j) ((h.rewrite j e).finishJob _)) (h.addEntry d j _)

theorem deleteJob (h : EngineKeeps a s) (d : TblDecl) (j : TblJob) (e : Entry) : EngineKeeps a (s.deleteJob d j e) := by
  have deleted := h.deleteEntry j.table e
  exact .ite (.ite (h.refuseJob _ _ _) ((EngineKeeps.ite deleted (deleted.showGroup _)).finishJob _))
    (.ite (h.refuseJob _ _ _) (((h.mapCopies _ _ _).showGroup _).finishJob j))

theorem readNext (h : EngineKeeps a s) (d : TblDecl) (j : TblJob) : EngineKeeps a (s.readNext d j) := by
  unfold State.readNext
  split <;> exact h.finishJob _

theorem readJob (h : EngineKeeps a s) (j : TblJob) : EngineKeeps a (s.readJob j) := by
  unfold State.readJob
  split
  · exact h.refuseJob _ _ _
  · exact h.finishJob _
  · exact h.refuseJob _ _ _

theorem flushJob (h : EngineKeeps a s) (d : TblDecl) (j : TblJob) : EngineKeeps a (s.flushJob d j) :=
  (h.foldl (fun _ _ k => k.deleteEntry _ _)).finishJob _

theorem writeJob (h : EngineKeeps a s) (d : TblDecl) (j : TblJob) : EngineKeeps a (s.writeJob d j) := by
  unfold State.writeJob
  extract_lets e op k
  split
  · exact h.refuseJob _ _ _
  · refine .ite (h.refuseJob _ _ _) (.ite (h.refuseJob _ _ _) (.ite (h.refuseJob _ _ _) ?_))
    generalize op = o, e = x
    split
    · exact h.addEntry d k none
    · exact h.modifyEntry d k _
    · exact h.deleteJob d k _
    · exact h.refuseJob _ _ _

theorem startJob (h : EngineKeeps a s) (j : TblJob) : EngineKeeps a (s.startJob j) := by
  unfold State.startJob
  split
  · exact h.refuseJob _ _ _
  · exact .ite (h.readJob j) (.ite (h.readNext _ j) (.ite (h.flushJob _ j) (.ite (h.refuseJob _ _ _) (h.writeJob _ j))))

theorem runJobs (n : Nat) (h : EngineKeeps a s) : EngineKeeps a (s.runJobs n) := by
  induction n generalizing s with
  | zero => exact h
  | succ n ih =>
    unfold State.runJobs
    split
    · exact ih (h.startJob _)
    · exact h

theorem kick (h : EngineKeeps a s) : EngineKeeps a s.kick :=
  h.foldl (fun _ _ k => runJobs _ (k.foldl (fun _ _ k => k.advance _)))

end EngineKeeps

end Sys2Proof.Machine
end

section
/-! PROOFS. Commits (02_structure_image.md R98-R105): a request, the version that it makes, and its ends without one. -/

-- One declaration at a time: the package is compiled as one text, and a thread for each would not fit.
set_option Elab.async false

namespace Sys2Proof.Machine

variable {s t : State} {c : CommitJob}

theorem commit_ne_groupStatus (g : Nat) : STRUCT_COMMIT.regOff ≠ STRUCT_GROUP_STATUS.regOff g := by
  unfold STRUCT_COMMIT.regOff STRUCT_GROUP_STATUS.regOff
  omega

/-! ### The request (R100, R103) -/

/-- The commit that STRUCT_COMMIT requests for group `g`: it covers the group's commands accepted so far. -/
def State.requestedCommit (s : State) (g : Nat) : CommitJob :=
  { group := g, ring := structCommit, index := 0, upTo := s.tbl.seq, waiting := false
    covers := (s.tbl.jobs.filter (fun j => j.fn = g && !j.imm && !j.done && j.src ≠ learnSource)).map (·.id) }

/-- A commit covers the commands of its group, but for immediate ones, learning's and those done. -/
theorem State.requestedCommit_covers (s : State) (g : Nat) {j : TblJob} (h : j ∈ s.tbl.jobs) :
    j.id ∈ (s.requestedCommit g).covers ∨ j.fn ≠ g ∨ j.imm = true ∨ j.done = true ∨ j.src = learnSource := by
  by_cases covered : j.fn = g ∧ j.imm = false ∧ j.done = false ∧ j.src ≠ learnSource
  · obtain ⟨fn, imm, done, src⟩ := covered
    exact Or.inl (List.mem_map_of_mem (List.mem_filter.2 ⟨h, by simp [fn, imm, done, src]⟩))
  · grind

/-- STRUCT_COMMIT shows the request. -/
def State.showRequest (s : State) (g : Nat) : State :=
  (s.put STRUCT_COMMIT.group g).puts [(STRUCT_COMMIT.busy, 1), (STRUCT_COMMIT.aborted, 0)]

/-- The request joins the list of commits, and its group is busy. -/
def State.joinCommits (s : State) (g : Nat) : State :=
  { s with img := { s.img with jobs := s.img.jobs ++ [s.requestedCommit g] } }.put (STRUCT_GROUP_STATUS.busy g) 1

theorem State.commitGo_eq (s : State) (g : Nat) : s.commitGo g =
    if (s.put STRUCT_COMMIT.group g).flag STRUCT_COMMIT.busy then s.put STRUCT_COMMIT.group g
    else if ((s.showRequest g).joinCommits g).imageActive then (s.showRequest g).joinCommits g
    else ((s.showRequest g).joinCommits g).endCommit ((s.showRequest g).requestedCommit g) 2 0x116 none := rfl

theorem State.put_group_get_busy (s : State) (g : Nat) :
    (s.put STRUCT_COMMIT.group g).get STRUCT_COMMIT.busy = s.get STRUCT_COMMIT.busy :=
  s.get_put_disjoint g (by decide)

theorem State.commitGo_of_busy (busy : s.get STRUCT_COMMIT.busy = 1) (g : Nat) :
    s.commitGo g = s.put STRUCT_COMMIT.group g :=
  (s.commitGo_eq g).trans (if_pos (decide_eq_true ((s.put_group_get_busy g).trans busy)))

theorem State.showRequest_only (s : State) (g : Nat) : OnlyRegs s (s.showRequest g) :=
  ((OnlyRegs.refl s).put _ _).puts _

theorem State.showRequest_state (s : State) (g : Nat) :
    (s.showRequest g).get STRUCT_STATUS.state = s.get STRUCT_STATUS.state :=
  (State.get_puts_far (by decide)).trans (State.get_put_far _ (by decide))

/-- Joining the commits writes the group's busy bit alone. -/
theorem State.joinCommits_get (s : State) {g : Nat} {f : Fld} (far : f.off ≠ STRUCT_GROUP_STATUS.regOff g) :
    (s.joinCommits g).get f = s.get f :=
  (State.get_put_far _ far).trans (State.get_congr rfl f)

theorem State.commitGo_of_idle (idle : s.get STRUCT_COMMIT.busy = 0) (active : s.get STRUCT_STATUS.state = 3) (g : Nat) :
    s.commitGo g = (s.showRequest g).joinCommits g := by
  have run : ((s.showRequest g).joinCommits g).imageActive = true := by
    refine decide_eq_true (((State.joinCommits_get _ ?_).trans (s.showRequest_state g)).trans active)
    show 0x800020 ≠ 0x800200 + 0x8 * g
    omega
  have free : (s.put STRUCT_COMMIT.group g).flag STRUCT_COMMIT.busy = false := by
    unfold State.flag
    rw [s.put_group_get_busy, idle]
    rfl
  rw [s.commitGo_eq, free, if_neg (by decide), if_pos run]

/-- What a request shows. -/
theorem State.showRequest_spec (w : RegsWf s.regs) (g : Fin 64) :
    (s.showRequest g).get STRUCT_COMMIT.busy = 1 ∧ (s.showRequest g).get STRUCT_COMMIT.group = g ∧
    (s.showRequest g).get STRUCT_COMMIT.aborted = 0 ∧ RegsWf (s.showRequest g).regs ∧
    s.Frame noRegs [STRUCT_COMMIT.busy, STRUCT_COMMIT.group, STRUCT_COMMIT.aborted] (s.showRequest g) := by
  have groupWf := State.put_regsWf w (f := STRUCT_COMMIT.group) (v := g)
  refine ⟨?_, ?_, State.get_put_self _ (by decide) 0, State.puts_regsWf groupWf, ?_⟩
  · exact (State.get_put_disjoint _ 0 (by decide)).trans (State.get_put_self _ (by decide) 1)
  · exact (State.get_put_disjoint _ 0 (by decide)).trans ((State.get_put_disjoint _ 1 (by decide)).trans
      ((State.get_put_self _ (by decide) _).trans (Nat.mod_eq_of_lt g.isLt)))
  · exact ((State.Frame.refl _ _ s).put w (by simp) (by decide) _).puts groupWf (by simp; decide)

/-- STRUCT_COMMIT.go on an active image with no commit of it busy (R100). -/
theorem structCommitGo_starts (w : RegsWf s.regs) (g : Fin 64) (idle : s.get STRUCT_COMMIT.busy = 0)
    (active : s.get STRUCT_STATUS.state = 3) :
    ∃ t, exec (.structCommitGo g) s = .next t ∧ t.get STRUCT_COMMIT.busy = 1 ∧ t.get STRUCT_COMMIT.group = g ∧
      t.get STRUCT_COMMIT.aborted = 0 ∧ t.get (STRUCT_GROUP_STATUS.busy g) = 1 ∧
      (∃ c : CommitJob, t.img = { s.img with jobs := s.img.jobs ++ [c] } ∧ c.group = g ∧ c.ring = 1024 ∧
        c.upTo = s.tbl.seq ∧ c.waiting = false ∧
        ∀ j ∈ s.tbl.jobs, j.id ∈ c.covers ∨ j.fn ≠ g ∨ j.imm = true ∨ j.done = true ∨ j.src = learnSource) ∧
      s.Same [.img] t ∧ s.Frame noRegs [STRUCT_COMMIT.busy, STRUCT_COMMIT.group, STRUCT_COMMIT.aborted,
        STRUCT_GROUP_STATUS.busy g] t := by
  obtain ⟨busy, group, aborted, wf, frame⟩ := State.showRequest_spec w g
  have only := s.showRequest_only g
  refine ⟨s.commitGo g, rfl, ?_⟩
  rw [State.commitGo_of_idle idle active]
  generalize s.showRequest g = u at busy group aborted wf frame only
  have img : u.img = s.img := only.agrees .img
  have tbl : u.tbl = s.tbl := only.agrees .tbl
  refine ⟨(u.joinCommits_get (commit_ne_groupStatus g)).trans busy,
    (u.joinCommits_get (commit_ne_groupStatus g)).trans group,
    (u.joinCommits_get (commit_ne_groupStatus g)).trans aborted,
    State.get_put_self _ (by show 24 + 1 ≤ 64; decide) 1, ⟨u.requestedCommit g, ?_, rfl, rfl, ?_, rfl, ?_⟩, ?_, ?_⟩
  · show { u.img with jobs := u.img.jobs ++ [u.requestedCommit g] } = _
    rw [img]
  · exact congrArg TblSt.seq tbl
  · exact fun j m => u.requestedCommit_covers g (tbl.symm ▸ m)
  · exact (only.same _).trans ((State.Same.of_img u _).trans ((State.put_only _ _ _).same _))
  · exact (frame.mono (fun _ => id) (by simp +contextual [or_imp])).trans
      (((State.Frame.refl _ _ u).same rfl).put wf (by simp) (by show 24 + 1 ≤ 64; decide) 1)

/-! ### The end of a commit of STRUCT_COMMIT -/

theorem State.leaveCommits_same (s : State) (c : CommitJob) : s.Same [.img] (s.leaveCommits c) :=
  (State.Same.of_img s _).trans ((State.put_only _ _ _).same _)

theorem State.showEnd_only (s : State) (status reason : Nat) : OnlyRegs s (s.showEnd status reason) :=
  (OnlyRegs.refl s).puts _

/-- What an end shows, and what it changes beside the registers. -/
theorem State.showEnd_spec (s : State) (c : CommitJob) (status reason : Nat) {u : State}
    (h : (s.leaveCommits c).showEnd status reason = u) :
    u.get STRUCT_COMMIT.busy = 0 ∧ u.get STRUCT_COMMIT.pending = 0 ∧ u.get STRUCT_COMMIT.result = reason % 2 ^ 16 ∧
    u.img = { s.img with jobs := s.img.jobs.erase c } ∧ s.Same [.img] u := by
  have only := (s.leaveCommits c).showEnd_only status reason
  subst h
  refine ⟨?_, ?_, ?_, only.agrees .img, (s.leaveCommits_same c).trans (only.same _)⟩
  · exact (State.get_put_disjoint _ _ (by decide)).trans ((State.get_put_disjoint _ _ (by decide)).trans
      ((State.get_put_disjoint _ _ (by decide)).trans (State.get_put_self _ (by decide) 0)))
  · exact (State.get_put_disjoint _ _ (by decide)).trans ((State.get_put_disjoint _ _ (by decide)).trans
      (State.get_put_self _ (by decide) 0))
  · exact (State.get_put_disjoint _ _ (by decide)).trans (State.get_put_self _ (by decide) reason)

/-! ### The version that a commit makes (R94, R97) -/

theorem retire_getLast? (l : List LiveVer) (tags : List Nat) : (retire l tags).1.getLast? = l.getLast? := by
  induction l generalizing tags with
  | nil => rfl
  | cons x l ih =>
    cases l with
    | nil => rfl
    | cons y l =>
      unfold retire
      split
      · rw [ih, List.getLast?_cons_cons]
      · rfl

theorem State.nextVersion_lt (s : State) : s.nextVersion < 2 ^ 32 := Nat.mod_lt _ (by norm_num)

theorem State.version_congr (h : t.img.live.getLast? = s.img.live.getLast?) : t.version = s.version := by
  unfold State.version
  rw [h]

theorem State.retireVersions_regs (s : State) : s.retireVersions.regs = s.regs := rfl

/-- Retiring versions keeps the current one. -/
theorem State.retireVersions_version (s : State) : s.retireVersions.version = s.version :=
  State.version_congr (retire_getLast? _ _)

theorem EngineKeeps.version {a : State} (h : EngineKeeps a t) : t.version = a.version :=
  State.version_congr (by rw [h.img])

theorem engineLeaves_commit {f : Fld} (h : f.off = STRUCT_COMMIT.regOff) : EngineLeaves f :=
  ⟨h ▸ by show ¬0x804000 ≤ 0x800048; decide, fun n => Or.inl (h ▸ commit_ne_groupStatus n)⟩

theorem engineLeaves_lastVersion (g : Fin 64) : EngineLeaves (STRUCT_GROUP_STATUS.last_version g) := by
  refine ⟨?_, fun n => Or.inr (Or.inr (by show 0 + 17 ≤ 32; decide))⟩
  show ¬0x804000 ≤ 0x800200 + 0x8 * g.val
  omega

/-- The next version is live, and what the commit staged is stamped with its tag. -/
def State.stamped (s : State) (g n : Nat) : State :=
  { s with
    tbl := { s.tbl with entries := s.tbl.entries.map (fun (x : Nat × Option Entry) =>
      (x.1, x.2.map (restamped g n (s.nextVersion % 16)))) }
    img := { s.img with live := s.img.live ++ [(⟨s.nextVersion, 0⟩ : LiveVer)]
                        tags := setAt s.img.tags (s.nextVersion % 16) 1 } }

/-- The version that is made is the current one. -/
theorem State.stamped_version (s : State) (g n : Nat) : (s.stamped g n).version = s.nextVersion := by
  have last : (s.stamped g n).img.live.getLast? = some ⟨s.nextVersion, 0⟩ := List.getLast?_concat
  unfold State.version
  rw [last]

/-- The new version as its group shows it, with the learned entries that it deletes no longer counted (R241). -/
def State.unlearned (s : State) (g n : Nat) : State :=
  (((s.learnedDeletes g n).foldl (fun s p => s.unlearn p) (s.stamped g n)).showGroup g)

theorem State.advanceVersion_eq (s : State) (g n : Nat) : s.advanceVersion g n =
    ((s.unlearned g n).put (STRUCT_GROUP_STATUS.last_version g) s.nextVersion).retireVersions := rfl

theorem State.unlearned_engineKeeps (s : State) (g n : Nat) : EngineKeeps (s.stamped g n) (s.unlearned g n) :=
  ((EngineKeeps.refl _).foldl (fun _ p k => k.unlearn p)).showGroup g

/-- The number after the current version's is the version, and the group's latest; STRUCT_COMMIT is not written. -/
theorem State.advanceVersion_spec (s : State) (g : Fin 64) (n : Nat) : (s.advanceVersion g n).version = s.nextVersion ∧
    (s.advanceVersion g n).get (STRUCT_GROUP_STATUS.last_version g) = s.nextVersion ∧
    (∀ f : Fld, f.off = STRUCT_COMMIT.regOff → (s.advanceVersion g n).get f = s.get f) := by
  have kept := s.unlearned_engineKeeps g n
  rw [s.advanceVersion_eq]
  generalize s.unlearned g n = u at kept ⊢
  have read (f : Fld) := State.get_congr (State.retireVersions_regs
    (u.put (STRUCT_GROUP_STATUS.last_version g) s.nextVersion)) f
  refine ⟨?_, ?_, fun f hf => ?_⟩
  · calc (u.put (STRUCT_GROUP_STATUS.last_version g) s.nextVersion).retireVersions.version
        = (u.put (STRUCT_GROUP_STATUS.last_version g) s.nextVersion).version := State.retireVersions_version _
      _ = u.version := State.version_congr (by rw [State.put_img])
      _ = (s.stamped g n).version := kept.version
      _ = s.nextVersion := s.stamped_version g n
  · exact (read _).trans
      ((u.get_put_self (by show 32 + 32 ≤ 64; decide) _).trans (Nat.mod_eq_of_lt s.nextVersion_lt))
  · refine (read f).trans
      ((State.get_put_far _ (hf ▸ commit_ne_groupStatus g)).trans ((kept.frame f (engineLeaves_commit hf)).trans ?_))
    exact State.get_congr rfl f

/-! ### The oldest commit of a group goes on (R100-R102) -/

section
variable {g : Fin 64} (first : s.img.jobs.find? (fun c => c.group = g.val) = some c)
include first

theorem State.slotTimeout_of_waiting (waiting : c.waiting = true) (full : 8 ≤ s.img.live.length)
    (limit : s.get STRUCT_VER_CFG.commit_wait_ms ≠ 0) : s.slotTimeout g = s.endCommit c 2 0x115 none := by
  unfold State.slotTimeout
  rw [first]
  exact if_pos (by simp [waiting, full, limit])

variable (covered : c.covers = []) (run : s.engineRuns = true) (active : s.get STRUCT_STATUS.state = 3)
include covered run active

theorem State.commitAdvance_of_covered : s.commitAdvance g =
    if (s.stagedUpTo g c.upTo).isEmpty then s.endCommit c 0 0 none
    else if 8 ≤ s.img.live.length || nth s.img.tags (s.nextVersion % 16) ≠ 0 then s.commitWaits c true
    else ((s.endCommit c 0 0 (some s.nextVersion)).advanceVersion g c.upTo).kick := by
  have image : s.imageActive = true := decide_eq_true active
  unfold State.commitAdvance
  rw [first]
  exact if_neg (by simp [covered, run, image])

/-- Without staged rules a commit ends without a version. -/
theorem commitAdvance_without_rules (ring : c.ring = structCommit) (unstaged : s.stagedUpTo g c.upTo = []) :
    ∃ t, exec (.commitAdvance g) s = .next t ∧ t.get STRUCT_COMMIT.busy = 0 ∧ t.get STRUCT_COMMIT.result = 0 ∧
      t.img = { s.img with jobs := s.img.jobs.erase c } ∧ s.Same [.img] t := by
  obtain ⟨busy, -, result, img, same⟩ := s.showEnd_spec c 0 0 rfl
  refine ⟨s.commitAdvance g, rfl, ?_⟩
  rw [s.commitAdvance_of_covered first covered run active, if_pos (by rw [unstaged]; rfl), s.endCommit_none ring]
  exact ⟨busy, result, img, same⟩

/-- With staged rules, a free slot and a free tag it makes the next version. -/
theorem commitAdvance_makes_version (ring : c.ring = structCommit) (staged : s.stagedUpTo g c.upTo ≠ [])
    (slot : s.img.live.length < 8) (tag : nth s.img.tags (s.nextVersion % 16) = 0) :
    ∃ t, exec (.commitAdvance g) s = .next t ∧ t.get STRUCT_COMMIT.busy = 0 ∧
      t.get STRUCT_COMMIT.last_version = s.nextVersion ∧
      t.get (STRUCT_GROUP_STATUS.last_version g) = s.nextVersion ∧ t.version = s.nextVersion := by
  obtain ⟨busy, -, -, img, -⟩ := s.showEnd_spec c 0 0 rfl
  generalize ended : (s.leaveCommits c).showEnd 0 0 = u at busy img
  have next : (u.put STRUCT_COMMIT.last_version s.nextVersion).nextVersion = s.nextVersion := by
    have same : (u.put STRUCT_COMMIT.last_version s.nextVersion).version = s.version :=
      State.version_congr (by rw [State.put_img, img])
    unfold State.nextVersion at same ⊢
    rw [same]
  obtain ⟨version, group, commit⟩ := (u.put STRUCT_COMMIT.last_version s.nextVersion).advanceVersion_spec g c.upTo
  have kicked := (EngineKeeps.refl ((u.put STRUCT_COMMIT.last_version s.nextVersion).advanceVersion g c.upTo)).kick
  refine ⟨s.commitAdvance g, rfl, ?_⟩
  rw [s.commitAdvance_of_covered first covered run active, if_neg (by simpa using staged),
    if_neg (by simp [slot, tag]), s.endCommit_some ring, ended]
  refine ⟨?_, ?_, ?_, kicked.version.trans (version.trans next)⟩
  · exact ((kicked.frame _ (engineLeaves_commit rfl)).trans (commit _ rfl)).trans
      ((u.get_put_disjoint _ (by decide)).trans busy)
  · exact ((kicked.frame _ (engineLeaves_commit rfl)).trans (commit _ rfl)).trans
      ((u.get_put_self (by decide) _).trans (Nat.mod_eq_of_lt s.nextVersion_lt))
  · exact (kicked.frame _ (engineLeaves_lastVersion g)).trans (group.trans next)

/-- With staged rules and neither a slot nor a tag for them it waits, and shows that it does. -/
theorem commitAdvance_waits (w : RegsWf s.regs) (ring : c.ring = structCommit) (staged : s.stagedUpTo g c.upTo ≠ [])
    (taken : 8 ≤ s.img.live.length ∨ nth s.img.tags (s.nextVersion % 16) ≠ 0) :
    ∃ t, exec (.commitAdvance g) s = .next t ∧ t.get STRUCT_COMMIT.pending = 1 ∧ t.img.live = s.img.live ∧
      { c with waiting := true } ∈ t.img.jobs ∧ s.Same [.img] t ∧ s.Frame noRegs [STRUCT_COMMIT.pending] t := by
  have waits : s.commitAdvance g = { s with img := { s.img with jobs := s.img.jobs.map (fun (x : CommitJob) =>
      if x = c then { x with waiting := true } else x) } }.put STRUCT_COMMIT.pending 1 := by
    rw [s.commitAdvance_of_covered first covered run active, if_neg (by simpa using staged),
      if_pos (by simpa using taken)]
    exact if_pos ring
  refine ⟨s.commitAdvance g, rfl, ?_⟩
  rw [waits]
  refine ⟨State.get_put_self _ (by decide) 1, rfl, ?_, ?_, ?_⟩
  · exact List.mem_map.2 ⟨c, List.mem_of_find?_eq_some first, if_pos rfl⟩
  · exact (State.Same.of_img s _).trans ((State.put_only _ _ _).same _)
  · exact ((State.Frame.refl _ _ s).same rfl).put w (by simp) (by decide) 1

end

end Sys2Proof.Machine
end

section
/-! PROOFS. A harvest edge and the final harvest of an image disable (10_telemetry_metering.md R382, R383, R398;
notes/assumptions/94.md): what they show in MTR_STATUS, and what they leave alone. -/

-- One declaration at a time: the package is compiled as one text, and a thread for each would not fit.
set_option Elab.async false

namespace Sys2Proof.Machine

variable {s t u : State}

/-! ### Snapshots (R383) -/

/-- `t` came from `s` by writing counters and snapshots, which stand at the end of each block's 4 KiB. -/
structure SnapsOnly (s t : State) : Prop where
  only : OnlyRegs s t
  raw : ∀ k, k % 0x1000 < 0xfc0 → t.raw k = s.raw k

theorem SnapsOnly.refl (s : State) : SnapsOnly s s := ⟨.refl s, fun _ _ => rfl⟩

theorem SnapsOnly.trans (h : SnapsOnly s t) (g : SnapsOnly t u) : SnapsOnly s u :=
  ⟨h.only.trans g.only, fun k m => (g.raw k m).trans (h.raw k m)⟩

theorem SnapsOnly.foldl {α : Type} {f : State → α → State} (l : List α) (s : State)
    (hf : ∀ t, ∀ x ∈ l, SnapsOnly t (f t x)) : SnapsOnly s (l.foldl f s) :=
  List.foldlRecOn l f (.refl s) (fun t h x m => h.trans (hf t x m))

theorem State.perfBlocks_aligned {b : Nat} (h : b ∈ s.perfBlocks) : b % 0x1000 = 0 := by
  unfold State.perfBlocks at h
  rw [List.mem_eraseDups, List.mem_map] at h
  obtain ⟨x, -, rfl⟩ := h
  exact Nat.mul_mod_left _ _

theorem State.snapCounter_snapsOnly (s : State) {b k : Nat} (aligned : b % 0x1000 = 0) (small : k < 4) :
    SnapsOnly s (s.snapCounter b k) := by
  have far (j : Nat) (m : j % 0x1000 < 0xfc0) : j ≠ PERF_SNAP.regOff b k ∧ j ≠ PERF_CNT.regOff b k := by
    unfold PERF_SNAP.regOff PERF_CNT.regOff
    omega
  have copied : SnapsOnly s (s.setRaw (PERF_SNAP.regOff b k) (s.raw (PERF_CNT.regOff b k))) :=
    ⟨(OnlyRegs.refl s).setRaw _ _, fun j m => State.raw_setRaw_other (far j m).1 _⟩
  unfold State.snapCounter
  dsimp only
  split
  · exact copied.trans ⟨(OnlyRegs.refl _).put _ _, fun j m => State.raw_put_other (far j m).2⟩
  · exact copied

theorem State.snapAll_snapsOnly (s : State) : SnapsOnly s s.snapAll :=
  .foldl _ s (fun t _ m => .foldl _ t (fun u _ k =>
    u.snapCounter_snapsOnly (State.perfBlocks_aligned m) (List.mem_range.1 k)))

/-! ### The edge (R382) -/

/-- Counters are snapshot, and the time of the edge is shown. -/
def State.takeEdge (s : State) : State :=
  s.snapAll.puts [(MTR_LAST0.sec, fullSec s.snapAll.nowNs), (MTR_LAST0.frac, s.snapAll.now16 % 65536),
    (MTR_LAST1.ns, fullNano s.snapAll.nowNs)]

theorem State.takeEdge_only (s : State) : OnlyRegs s s.takeEdge := s.snapAll_snapsOnly.only.puts _

theorem State.takeEdge_raw (s : State) {k : Nat} (low : k % 0x1000 < 0xfc0) (sec : k ≠ MTR_LAST0.regOff)
    (ns : k ≠ MTR_LAST1.regOff) : s.takeEdge.raw k = s.raw k := by
  refine (State.raw_puts_far ?_).trans (s.snapAll_snapsOnly.raw k low)
  simp only [List.mem_cons, List.not_mem_nil, or_false, forall_eq_or_imp, forall_eq]
  exact ⟨sec, sec, ns⟩

theorem State.takeEdge_status (s : State) {f : Fld} (h : f.off = MTR_STATUS.regOff) : s.takeEdge.get f = s.get f := by
  unfold State.get
  rw [h, s.takeEdge_raw (by decide) (by decide) (by decide)]

/-- MTR_STATUS as a delivery begins. -/
def State.showDelivery (s : State) : State :=
  (s.put MTR_STATUS.seq (s.get MTR_STATUS.seq + 1)).puts [(MTR_STATUS.busy, 1), (MTR_STATUS.stalled, 0)]

/-- An edge while a delivery runs is folded into it. -/
theorem State.harvest_of_busy (busy : s.get MTR_STATUS.busy = 1) (scheduled onDemand : Bool) :
    s.harvest scheduled onDemand = s.takeEdge.bump MTR_STAT.merged 1 := by
  unfold State.harvest
  exact if_pos (decide_eq_true ((s.takeEdge_status rfl).trans busy))

/-- The state of metering and of device time is another one. -/
def State.withMeters (s : State) (m : MtrSt) (x : TimeSt) : State := { s with mtr := m, time := x }

theorem State.withMeters_raw (s : State) (m : MtrSt) (x : TimeSt) (k : Nat) : (s.withMeters m x).raw k = s.raw k := rfl

theorem State.withMeters_get (s : State) (m : MtrSt) (x : TimeSt) (f : Fld) : (s.withMeters m x).get f = s.get f :=
  State.get_congr rfl f

theorem State.withMeters_same (s : State) (m : MtrSt) (x : TimeSt) : s.Same [.mtr, .time] (s.withMeters m x) := by
  intro p n
  cases p with
  | mtr | time => exact absurd (by decide) n
  | _ => rfl

/-- Else it begins a delivery. -/
theorem State.harvest_of_idle (idle : s.get MTR_STATUS.busy = 0) (scheduled onDemand : Bool) :
    ∃ m x, s.harvest scheduled onDemand = s.takeEdge.showDelivery.withMeters m x := by
  have free : s.takeEdge.flag MTR_STATUS.busy = false := by
    unfold State.flag
    rw [s.takeEdge_status rfl, idle]
    rfl
  unfold State.harvest
  exact ⟨_, _, if_neg (by rw [Bool.not_eq_true]; exact free)⟩

theorem State.showDelivery_spec (s : State) : s.showDelivery.get MTR_STATUS.busy = 1 ∧
    s.showDelivery.get MTR_STATUS.seq = (s.get MTR_STATUS.seq + 1) % 2 ^ 32 ∧
    s.showDelivery.get MTR_STATUS.enabled = s.get MTR_STATUS.enabled ∧ OnlyRegs s s.showDelivery ∧
    ∀ k, k ≠ MTR_STATUS.regOff → s.showDelivery.raw k = s.raw k := by
  refine ⟨?_, ?_, ?_, ((OnlyRegs.refl s).put _ _).puts _, fun k far => ?_⟩
  · exact (State.get_put_disjoint _ 0 (by decide)).trans (State.get_put_self _ (by decide) 1)
  · exact (State.get_put_disjoint _ 0 (by decide)).trans ((State.get_put_disjoint _ 1 (by decide)).trans
      (State.get_put_self _ (by decide) _))
  · exact (State.get_put_disjoint _ 0 (by decide)).trans ((State.get_put_disjoint _ 1 (by decide)).trans
      (State.get_put_disjoint _ _ (by decide)))
  · exact (State.raw_put_other far).trans ((State.raw_put_other far).trans (State.raw_put_other far))

/-! ### The final harvest (R398) -/

/-- With metering disabled there is none. -/
theorem State.lastHarvest_of_disabled (h : s.get MTR_STATUS.enabled ≠ 1) : s.lastHarvest = s := by
  unfold State.lastHarvest
  exact if_pos (by simp [State.flag, h])

/-- The final harvest runs (2), or is owed until the delivery under way has ended (1). -/
def State.oweFinal (s : State) (n : Nat) : State := s.withMeters { s.mtr with final := n } s.time

theorem State.oweFinal_delivery (s : State) (n : Nat) : (s.oweFinal n).mtr.delivery = s.mtr.delivery := rfl

theorem State.lastHarvest_of_enabled (h : s.get MTR_STATUS.enabled = 1) :
    s.lastHarvest = (s.harvest false false).oweFinal (if s.flag MTR_STATUS.busy then 1 else 2) := by
  unfold State.lastHarvest
  exact if_neg (by simp [State.flag, h])

/-- While a delivery runs the final harvest is owed, and the delivery goes on. -/
theorem State.lastHarvest_of_busy (h : s.get MTR_STATUS.enabled = 1) (busy : s.get MTR_STATUS.busy = 1) :
    s.lastHarvest = (s.takeEdge.bump MTR_STAT.merged 1).oweFinal 1 := by
  have running : s.flag MTR_STATUS.busy = true := decide_eq_true busy
  rw [State.lastHarvest_of_enabled h, State.harvest_of_busy busy, if_pos running]

/-- Else it begins at once. -/
theorem State.lastHarvest_of_idle (h : s.get MTR_STATUS.enabled = 1) (idle : s.get MTR_STATUS.busy = 0) :
    ∃ m x, s.lastHarvest = (s.takeEdge.showDelivery.withMeters m x).oweFinal 2 := by
  have free : s.flag MTR_STATUS.busy ≠ true := by simp [State.flag, idle]
  obtain ⟨m, x, harvest⟩ := State.harvest_of_idle idle false false
  exact ⟨m, x, by rw [State.lastHarvest_of_enabled h, harvest, if_neg free]⟩

/-- A delivery that runs as the final harvest is owed stands in MTR_STATUS as before. -/
theorem State.lastHarvest_owed (h : s.get MTR_STATUS.enabled = 1) (busy : s.get MTR_STATUS.busy = 1) :
    s.lastHarvest.mtr.final = 1 ∧ s.lastHarvest.mtr.delivery = s.mtr.delivery ∧
    ∀ f : Fld, f.off = MTR_STATUS.regOff → s.lastHarvest.get f = s.get f := by
  have mtr : (s.takeEdge.bump MTR_STAT.merged 1).mtr = s.mtr := (s.takeEdge_only.bump MTR_STAT.merged 1).agrees .mtr
  rw [State.lastHarvest_of_busy h busy]
  refine ⟨rfl, (State.oweFinal_delivery _ 1).trans (congrArg MtrSt.delivery mtr), fun f hf => ?_⟩
  exact (State.withMeters_get _ _ _ f).trans ((State.get_put_far _ (hf ▸ by decide)).trans (s.takeEdge_status hf))

/-- The final harvest, as it begins at once, is a delivery of the next number. -/
theorem State.lastHarvest_begun (h : s.get MTR_STATUS.enabled = 1) (idle : s.get MTR_STATUS.busy = 0) :
    s.lastHarvest.mtr.final = 2 ∧ s.lastHarvest.get MTR_STATUS.busy = 1 ∧
    s.lastHarvest.get MTR_STATUS.seq = (s.get MTR_STATUS.seq + 1) % 2 ^ 32 ∧
    s.lastHarvest.get MTR_STATUS.enabled = s.get MTR_STATUS.enabled := by
  obtain ⟨m, x, last⟩ := State.lastHarvest_of_idle h idle
  obtain ⟨busy, seq, enabled, -, -⟩ := s.takeEdge.showDelivery_spec
  rw [s.takeEdge_status rfl] at seq enabled
  have read (f : Fld) : s.lastHarvest.get f = s.takeEdge.showDelivery.get f := by
    rw [last]
    exact (State.withMeters_get _ _ _ f).trans (State.withMeters_get _ _ _ f)
  exact ⟨last ▸ rfl, (read _).trans busy, (read _).trans seq, (read _).trans enabled⟩

/-- A flag that is not 0 is 1. -/
theorem State.get_eq_one (s : State) {f : Fld} (h : f.w = 1) (ne : s.get f ≠ 0) : s.get f = 1 := by
  have lt : s.get f < 2 ^ 1 := h ▸ s.get_lt f
  omega

/-- The final harvest leaves the image, the tables, the buffer and the image's registers alone. -/
theorem State.lastHarvest_frame (s : State) : s.Same [.mtr, .time] s.lastHarvest ∧
    ∀ k, k = STRUCT_STATUS.regOff ∨ k = STRUCT_IMAGE_ID.regOff → s.lastHarvest.raw k = s.raw k := by
  by_cases h : s.get MTR_STATUS.enabled = 1
  · have taken (k : Nat) (m : k = STRUCT_STATUS.regOff ∨ k = STRUCT_IMAGE_ID.regOff) :
        s.takeEdge.raw k = s.raw k ∧ k ≠ MTR_STAT.regOff ∧ k ≠ MTR_STATUS.regOff := by
      rcases m with rfl | rfl <;> exact ⟨s.takeEdge_raw (by decide) (by decide) (by decide), by decide, by decide⟩
    by_cases idle : s.get MTR_STATUS.busy = 0
    · obtain ⟨m, x, last⟩ := State.lastHarvest_of_idle h idle
      obtain ⟨-, -, -, shown, raw⟩ := s.takeEdge.showDelivery_spec
      rw [last]
      exact ⟨((s.takeEdge_only.trans shown).same _).trans ((State.withMeters_same _ _ _).trans
        (State.withMeters_same _ _ _)), fun k n => (State.withMeters_raw _ _ _ k).trans
        ((State.withMeters_raw _ m x k).trans ((raw k (taken k n).2.2).trans (taken k n).1))⟩
    · rw [State.lastHarvest_of_busy h (s.get_eq_one rfl idle)]
      exact ⟨((s.takeEdge_only.bump _ _).same _).trans (State.withMeters_same _ _ _),
        fun k n => (State.withMeters_raw _ _ _ k).trans ((State.raw_put_other (taken k n).2.1).trans (taken k n).1)⟩
  · rw [State.lastHarvest_of_disabled h]
    exact ⟨.refl _ _, fun _ _ => rfl⟩

end Sys2Proof.Machine
end

section
/-! PROOFS. The end of a drain (02_structure_image.md R89-R92): what it clears, and, where nothing remains of traffic and
of table commands, that it changes nothing of metering before the final harvest. -/

-- One declaration at a time: the package is compiled as one text, and a thread for each would not fit.
set_option Elab.async false

namespace Sys2Proof.Machine

variable {s t u : State}

/-! ### The steps of the clearing -/

theorem OnlyRegs.foldl {α : Type} {f : State → α → State} (l : List α) (s : State) (hf : ∀ t x, OnlyRegs t (f t x)) :
    OnlyRegs s (l.foldl f s) :=
  List.foldlRecOn l f (.refl s) (fun t h x _ => h.trans (hf t x))

/-- Tables, learn queues, moves and discards are empty; of the commands only those of hosts stay. -/
def State.emptyTables (s : State) : State :=
  { s with tbl := { s.tbl with
    jobs := s.tbl.jobs.filter (fun j => j.src ≠ learnSource), entries := [], moves := [], learn := [], bad := []
    discards := [], nodes := [] } }

theorem State.emptyTables_spec (s : State) :
    s.emptyTables.tbl.entries = [] ∧ s.emptyTables.tbl.learn = [] ∧ s.emptyTables.tbl.moves = [] := ⟨rfl, rfl, rfl⟩

def State.clearGroups (s : State) : State :=
  (List.range 64).foldl (fun s g => s.setRaw (STRUCT_GROUP_STATUS.regOff g) 0) s

def State.clearLearned (s : State) : State :=
  (List.range 1024).foldl (fun s p => if s.get (LRN_PORT.learned p) = 0 then s
    else (s.put (LRN_PORT.learned p) 0).portOver p) s

def State.clearBlocked (s : State) : State :=
  (List.range 256).foldl (fun s t => s.put (TBL_LRN_CFG.blocked_pipes t) 0) s

def State.clearFailed (s : State) : State :=
  s.regs.foldl (fun s (x : Nat × Word) => if regDesc x.1 = TBL_ERR.desc then
    s.setRaw x.1 (BitVec.ofNat 64 (setBits x.2.toNat 48 1 0)) else s) s

/-- The registers of groups, of learning and of failed tables. -/
def State.clearTableRegs (s : State) : State := s.clearGroups.clearLearned.clearBlocked.clearFailed

theorem State.endTables_eq (s : State) :
    s.endTables = (s.completeJobs (2 ^ 20)).emptyTables.clearTableRegs := rfl

theorem State.clearTableRegs_only (s : State) : OnlyRegs s s.clearTableRegs :=
  (((OnlyRegs.foldl _ _ (fun t _ => (OnlyRegs.refl t).setRaw _ _)).trans
    (.foldl _ _ (fun t _ => .ite (.refl t) (((OnlyRegs.refl t).put _ _).putFlag _ _)))).trans
    (.foldl _ _ (fun t _ => (OnlyRegs.refl t).put _ _))).trans
    (.foldl _ _ (fun t _ => .ite ((OnlyRegs.refl t).setRaw _ _) (.refl t)))

/-- Charges of headroom go. -/
def State.freeHeadroom (s : State) : State :=
  s.buf.headUsed.foldl (fun s x => s.unchargeCells (.headroom x.1) x.2) s

/-- The registers of the pools. -/
def State.clearPoolRegs (s : State) : State :=
  ((List.range 8).foldl (fun s k => s.puts [(BUF_POOL_CFG.size k, 0), (BUF_POOL_CFG.code k, 0),
    (BUF_POOL_STAT.size_active k, 0), (BUF_POOL_STAT.code_active k, 0), (BUF_POOL_STAT.used k, 0)]) s).puts
    [(BUF_G_ACTIVE.resv_cells, 0), (BUF_G_ACTIVE.class_pool, 0)]

def State.emptyQuotas (s : State) : State :=
  { s with buf := { s.buf with
    quotaStaged := [], quotaActive := [], quotaUsed := [], headStaged := [], headActive := [] } }

theorem State.clearPools_eq (s : State) : s.clearPools = s.freeHeadroom.clearPoolRegs.emptyQuotas := rfl

theorem State.emptyQuotas_spec (s : State) :
    s.Same [.buf] s.emptyQuotas ∧ s.emptyQuotas.buf.quotaActive = [] ∧ s.emptyQuotas.buf.headActive = [] :=
  ⟨.of_buf s _, rfl, rfl⟩

theorem State.setXoff_same (s : State) (k v : Nat) : s.Same [.buf] (s.setXoff k v) :=
  (State.Same.of_buf s _).trans ((State.put_only _ _ _).same _)

theorem State.xoffTry_same (s : State) (k : Nat) : s.Same [.buf] (s.xoffTry k) := by
  unfold State.xoffTry
  dsimp only
  split
  · exact (s.setXoff_same k 0).trans (.of_buf _ _)
  · exact .refl _ _

theorem State.freeHeadroom_same (s : State) : s.Same [.buf] s.freeHeadroom :=
  List.foldlRecOn (motive := fun t : State => s.Same [.buf] t) _ _ (.refl _ _) (fun t h x _ =>
    h.trans ((State.Same.of_buf t _).trans (State.xoffTry_same _ x.1)))

theorem State.clearPoolRegs_only (s : State) : OnlyRegs s s.clearPoolRegs :=
  (OnlyRegs.foldl _ _ (fun t _ => (OnlyRegs.refl t).puts _)).puts _

theorem State.clearPools_same (s : State) : s.Same [.buf] s.clearPools := by
  rw [State.clearPools_eq]
  exact s.freeHeadroom_same.trans ((s.freeHeadroom.clearPoolRegs_only.same _).trans (State.emptyQuotas_spec _).1)

/-- The marks of duplicate chips go. -/
def State.clearDup (s : State) : State := (List.range 128).foldl (fun s f => s.put (PL_LINK.dup_chip f) 0) s

def State.dropFlowlets (s : State) : State := { s with pl := { s.pl with flowlets := [] } }

theorem State.plDisable_eq (s : State) : s.plDisable =
    if !s.flag PL_FAB_STATUS.enabled then s else s.clearDup.dropFlowlets.put PL_FAB_STATUS.enabled 0 := rfl

theorem State.plDisable_same (s : State) : s.Same [.pl] s.plDisable := by
  have cleared : OnlyRegs s s.clearDup := .foldl _ _ (fun t _ => (OnlyRegs.refl t).put _ _)
  rw [State.plDisable_eq]
  split
  · exact .refl _ _
  · exact (cleared.same _).trans (.trans (.of_pl _ _) ((State.put_only _ _ _).same _))

theorem State.postDisable_same (s : State) : s.Same [.mtr] s.postDisable := .of_mtr s _

theorem State.showGates_only (s : State) (p : Nat) : OnlyRegs s (s.showGates p) := by
  unfold State.showGates
  split <;> exact (OnlyRegs.refl s).puts _

theorem State.stopGates_same (s : State) : s.Same [.sch] s.stopGates :=
  (State.Same.of_sch s _).trans ((OnlyRegs.foldl _ _ (fun t p => (t.showGates_only p).put _ _)).same _)

theorem State.schedClear_same (s : State) : s.Same [.sch] s.schedClear :=
  (s.stopGates_same.trans (.of_sch _ _)).trans
    ((OnlyRegs.foldl _ _ (fun t _ => (OnlyRegs.refl t).put _ _)).same _)

/-- Everything of the image but its own state is cleared. -/
def State.clearAll (s : State) : State := (s.discardAll.endTables.clearPools).plDisable.postDisable.schedClear

/-- The tables and quotas are empty once the drain has ended. -/
theorem State.clearAll_spec (s : State) : s.clearAll.tbl.entries = [] ∧ s.clearAll.tbl.learn = [] ∧
    s.clearAll.tbl.moves = [] ∧ s.clearAll.buf.quotaActive = [] ∧ s.clearAll.buf.headActive = [] := by
  generalize emptied : (s.discardAll.completeJobs (2 ^ 20)).emptyTables = u
  have rest : u.clearTableRegs.clearPools.Same [.pl, .mtr, .sch] s.clearAll := by
    unfold State.clearAll
    rw [State.endTables_eq, emptied]
    exact ((State.plDisable_same _).mono (by decide)).trans (((State.postDisable_same _).mono (by decide)).trans
      ((State.schedClear_same _).mono (by decide)))
  have pools := u.clearTableRegs.clearPools_same
  have tbl : u.clearTableRegs.clearPools.tbl = u.clearTableRegs.tbl := pools .tbl (by decide)
  have regs : u.clearTableRegs.tbl = u.tbl := u.clearTableRegs_only.agrees .tbl
  have cleared : s.clearAll.tbl = u.clearTableRegs.clearPools.tbl := rest .tbl (by decide)
  have buf : s.clearAll.buf = u.clearTableRegs.clearPools.buf := rest .buf (by decide)
  obtain ⟨-, quota, head⟩ := u.clearTableRegs.freeHeadroom.clearPoolRegs.emptyQuotas_spec
  obtain ⟨entries, learn, moves⟩ := (s.discardAll.completeJobs (2 ^ 20)).emptyTables_spec
  rw [emptied] at entries learn moves
  rw [cleared, tbl, regs, buf, State.clearPools_eq]
  exact ⟨entries, learn, moves, quota, head⟩

/-! ### The state is EMPTY (R89) -/

/-- The image and its versions go, and the image's registers show it. -/
def State.dropImage (s : State) : State :=
  ({ s with img := { s.img with active := none, live := [], tags := List.replicate 16 0, jobs := [] } }.setRaw
    STRUCT_IMAGE_ID.regOff 0).put STRUCT_STATUS.state 0

theorem State.drainEnd_of_draining (h : s.get STRUCT_STATUS.state = 4) :
    s.drainEnd = s.clearAll.dropImage.lastHarvest := by
  unfold State.drainEnd
  exact if_neg (fun n => n h)

theorem State.dropImage_img (s : State) :
    s.dropImage.img.active = none ∧ s.dropImage.img.live = [] ∧ s.dropImage.img.jobs = [] := by
  unfold State.dropImage
  rw [State.put_img, State.setRaw_img]
  exact ⟨rfl, rfl, rfl⟩

theorem State.dropImage_same (s : State) : s.Same [.img] s.dropImage :=
  (State.Same.of_img s _).trans ((((OnlyRegs.refl _).setRaw _ _).put _ _).same _)

theorem State.dropImage_raw_id (s : State) : s.dropImage.raw STRUCT_IMAGE_ID.regOff = 0 :=
  (State.raw_put_other (by decide)).trans (State.raw_setRaw_self _ _ _)

theorem State.dropImage_raw_meters (s : State) : s.dropImage.raw MTR_STATUS.regOff = s.raw MTR_STATUS.regOff :=
  (State.raw_put_other (by decide)).trans (State.raw_setRaw_other (by decide) _)

/-- What the end of a drain clears. -/
theorem State.drainEnd_clears (h : s.get STRUCT_STATUS.state = 4) : s.drainEnd.get STRUCT_STATUS.state = 0 ∧
    s.drainEnd.raw STRUCT_IMAGE_ID.regOff = 0 ∧ s.drainEnd.img.active = none ∧ s.drainEnd.img.live = [] ∧
    s.drainEnd.img.jobs = [] ∧ s.drainEnd.tbl.entries = [] ∧ s.drainEnd.tbl.learn = [] ∧ s.drainEnd.tbl.moves = [] ∧
    s.drainEnd.buf.quotaActive = [] ∧ s.drainEnd.buf.headActive = [] := by
  obtain ⟨entries, learn, moves, quota, head⟩ := s.clearAll_spec
  rw [State.drainEnd_of_draining h]
  generalize s.clearAll = u at entries learn moves quota head
  obtain ⟨same, raw⟩ := u.dropImage.lastHarvest_frame
  have img : u.dropImage.lastHarvest.img = u.dropImage.img := same .img (by decide)
  have tbl : u.dropImage.lastHarvest.tbl = u.dropImage.tbl := same .tbl (by decide)
  have buf : u.dropImage.lastHarvest.buf = u.dropImage.buf := same .buf (by decide)
  have dropTbl : u.dropImage.tbl = u.tbl := u.dropImage_same .tbl (by decide)
  have dropBuf : u.dropImage.buf = u.buf := u.dropImage_same .buf (by decide)
  have state : u.dropImage.lastHarvest.get STRUCT_STATUS.state = u.dropImage.get STRUCT_STATUS.state := by
    unfold State.get
    rw [raw STRUCT_STATUS.state.off (Or.inl rfl)]
  obtain ⟨active, live, jobs⟩ := u.dropImage_img
  rw [img, tbl, buf, dropTbl, dropBuf]
  exact ⟨state.trans (State.get_put_self _ (by decide) 0), (raw _ (Or.inr rfl)).trans u.dropImage_raw_id, active, live,
    jobs, entries, learn, moves, quota, head⟩

/-- With metering enabled a final harvest runs or is owed (R398). -/
theorem State.lastHarvest_final (h : s.lastHarvest.get MTR_STATUS.enabled = 1) :
    s.lastHarvest.get MTR_STATUS.busy = 1 ∧ (s.lastHarvest.mtr.final = 1 ∨ s.lastHarvest.mtr.final = 2) := by
  by_cases enabled : s.get MTR_STATUS.enabled = 1
  · by_cases idle : s.get MTR_STATUS.busy = 0
    · obtain ⟨final, busy, -, -⟩ := State.lastHarvest_begun enabled idle
      exact ⟨busy, Or.inr final⟩
    · have busy := s.get_eq_one rfl idle
      obtain ⟨final, -, status⟩ := State.lastHarvest_owed enabled busy
      exact ⟨(status _ rfl).trans busy, Or.inl final⟩
  · exact absurd (State.lastHarvest_of_disabled enabled ▸ h) enabled

/-! ### Metering where nothing remains -/

/-- MTR_STATUS and the delivery under way stay. -/
structure MeterStays (s t : State) : Prop where
  status : t.raw MTR_STATUS.regOff = s.raw MTR_STATUS.regOff
  delivery : t.mtr.delivery = s.mtr.delivery

theorem MeterStays.refl (s : State) : MeterStays s s := ⟨rfl, rfl⟩

theorem MeterStays.trans (h : MeterStays s t) (g : MeterStays t u) : MeterStays s u :=
  ⟨g.status.trans h.status, g.delivery.trans h.delivery⟩

theorem MeterStays.setRaw (h : MeterStays s t) {k : Nat} (far : MTR_STATUS.regOff ≠ k) (w : Word) :
    MeterStays s (t.setRaw k w) := h.trans ⟨State.raw_setRaw_other far w, rfl⟩

theorem MeterStays.put (h : MeterStays s t) {f : Fld} (far : MTR_STATUS.regOff ≠ f.off) (v : Nat) :
    MeterStays s (t.put f v) := h.setRaw far _

theorem MeterStays.ite {p : Prop} [Decidable p] (h : MeterStays s t) (g : MeterStays s u) :
    MeterStays s (if p then t else u) := by
  split <;> assumption

theorem MeterStays.foldl {α : Type} {f : State → α → State} (l : List α) (s : State)
    (hf : ∀ t, ∀ x ∈ l, MeterStays t (f t x)) : MeterStays s (l.foldl f s) :=
  List.foldlRecOn l f (.refl s) (fun t h x m => h.trans (hf t x m))

theorem MeterStays.get (h : MeterStays s t) {f : Fld} (hf : f.off = MTR_STATUS.regOff) : t.get f = s.get f := by
  unfold State.get
  rw [hf, h.status]

theorem MeterStays.of_eq (regs : t.regs = s.regs) (mtr : t.mtr.delivery = s.mtr.delivery) : MeterStays s t :=
  ⟨by unfold State.raw; rw [regs], mtr⟩

theorem State.discardAll_of_empty (h : s.pk = {}) :
    s.discardAll = s.bump STRUCT_DISCARD_CNT.drain_discards 0 := by
  unfold State.discardAll State.endCopies
  simp [h]

theorem State.completeJobs_of_no_moves (h : s.tbl.moves = []) (n : Nat) : s.completeJobs n = s := by
  cases n with
  | zero => rfl
  | succ n =>
    unfold State.completeJobs
    rw [h]

theorem State.clearTableRegs_meterStays (s : State) : MeterStays s s.clearTableRegs := by
  have groups (t : State) : MeterStays t t.clearGroups := .foldl _ _ (fun u g m => (MeterStays.refl u).setRaw (by
    have := List.mem_range.1 m
    unfold MTR_STATUS.regOff STRUCT_GROUP_STATUS.regOff
    omega) _)
  have learned (t : State) : MeterStays t t.clearLearned := .foldl _ _ (fun u p m => by
    have far : MTR_STATUS.regOff ≠ LRN_PORT.regOff p := by
      have := List.mem_range.1 m
      unfold MTR_STATUS.regOff LRN_PORT.regOff
      omega
    exact .ite (.refl u) (((MeterStays.refl u).put far 0).put far _))
  have blocked (t : State) : MeterStays t t.clearBlocked := .foldl _ _ (fun u n m => (MeterStays.refl u).put (by
    have := List.mem_range.1 m
    show MTR_STATUS.regOff ≠ TBL_LRN_CFG.regOff n
    unfold MTR_STATUS.regOff TBL_LRN_CFG.regOff
    omega) _)
  have failed (t : State) : MeterStays t t.clearFailed := .foldl _ _ (fun u x _ => by
    split
    · next desc => exact (MeterStays.refl u).setRaw (fun e => absurd (e ▸ desc) (by decide)) _
    · exact .refl u)
  exact ((((groups s).trans (learned _)).trans (blocked _)).trans (failed _))

theorem State.emptyTables_meterStays (s : State) : MeterStays s s.emptyTables := .of_eq rfl rfl

theorem State.endTables_meterStays (h : s.tbl = {}) : MeterStays s s.endTables := by
  rw [State.endTables_eq, State.completeJobs_of_no_moves (by rw [h])]
  exact s.emptyTables_meterStays.trans s.emptyTables.clearTableRegs_meterStays

/-- With the tables empty their end leaves scheduling and the buffer alone. -/
theorem State.endTables_of_empty (h : s.tbl = {}) : s.endTables.sch = s.sch ∧ s.endTables.buf = s.buf := by
  rw [State.endTables_eq, State.completeJobs_of_no_moves (by rw [h])]
  have regs := s.emptyTables.clearTableRegs_only
  exact ⟨(regs.agrees .sch : s.emptyTables.clearTableRegs.sch = s.emptyTables.sch),
    (regs.agrees .buf : s.emptyTables.clearTableRegs.buf = s.emptyTables.buf)⟩

theorem State.emptyQuotas_meterStays (s : State) : MeterStays s s.emptyQuotas := .of_eq rfl rfl

theorem State.clearPools_meterStays (h : s.buf.headUsed = []) : MeterStays s s.clearPools := by
  have kept : s.freeHeadroom = s := by
    unfold State.freeHeadroom
    rw [h]
    rfl
  rw [State.clearPools_eq, kept]
  have pools (t : State) (k : Nat) (m : k ∈ List.range 8) : MeterStays t (t.puts [(BUF_POOL_CFG.size k, 0),
      (BUF_POOL_CFG.code k, 0), (BUF_POOL_STAT.size_active k, 0), (BUF_POOL_STAT.code_active k, 0),
      (BUF_POOL_STAT.used k, 0)]) := by
    have cfg : MTR_STATUS.regOff ≠ BUF_POOL_CFG.regOff k := by
      have := List.mem_range.1 m
      unfold MTR_STATUS.regOff BUF_POOL_CFG.regOff
      omega
    have stat : MTR_STATUS.regOff ≠ BUF_POOL_STAT.regOff k := by
      have := List.mem_range.1 m
      unfold MTR_STATUS.regOff BUF_POOL_STAT.regOff
      omega
    exact (((((MeterStays.refl t).put cfg 0).put cfg 0).put stat 0).put stat 0).put stat 0
  exact (((MeterStays.foldl _ s fun t k m => pools t k m).put (by decide) 0).put (by decide) 0).trans
    (State.emptyQuotas_meterStays _)

theorem State.dropFlowlets_meterStays (s : State) : MeterStays s s.dropFlowlets := .of_eq rfl rfl

theorem State.plDisable_meterStays (s : State) : MeterStays s s.plDisable := by
  have cleared : MeterStays s s.clearDup := .foldl _ _ (fun t n m => (MeterStays.refl t).put (by
    have := List.mem_range.1 m
    show MTR_STATUS.regOff ≠ PL_LINK.regOff n
    unfold MTR_STATUS.regOff PL_LINK.regOff
    omega) 0)
  rw [State.plDisable_eq]
  exact .ite (.refl s) ((cleared.trans (State.dropFlowlets_meterStays _)).put (by decide) 0)

theorem State.postDisable_meterStays (s : State) : MeterStays s s.postDisable := .of_eq rfl rfl

/-- The trees and gate lists are empty. -/
def State.emptySched (s : State) : State :=
  { s with sch := { s.sch with nodes := [], queues := [], roots := [], polBuckets := [], lists := [], pend := [] } }

theorem State.schedClear_of_empty (h : s.sch = {}) : s.schedClear = s.emptySched := by
  unfold State.schedClear State.stopGates
  simp only [h, List.map_nil, List.append_nil, List.foldl_nil, List.eraseDups_nil]
  unfold State.emptySched
  rw [h]

theorem State.emptySched_meterStays (s : State) : MeterStays s s.emptySched := .of_eq rfl rfl

/-- Where no packet, no table command, no tree and no headroom charge is left, clearing leaves metering alone. -/
theorem State.clearAll_meterStays (pk : s.pk = {}) (sch : s.sch = {}) (tbl : s.tbl = {}) (head : s.buf.headUsed = []) :
    MeterStays s s.clearAll := by
  unfold State.clearAll
  rw [State.discardAll_of_empty pk]
  have counted : MeterStays s (s.bump STRUCT_DISCARD_CNT.drain_discards 0) := (MeterStays.refl s).put (by decide) _
  have schOfCount : (s.bump STRUCT_DISCARD_CNT.drain_discards 0).sch = {} := State.bump_sch.trans sch
  have tblOfCount : (s.bump STRUCT_DISCARD_CNT.drain_discards 0).tbl = {} := State.bump_tbl.trans tbl
  have headOfCount : (s.bump STRUCT_DISCARD_CNT.drain_discards 0).buf.headUsed = [] :=
    (congrArg BufSt.headUsed State.bump_buf).trans head
  generalize s.bump STRUCT_DISCARD_CNT.drain_discards 0 = a at counted schOfCount tblOfCount headOfCount ⊢
  have ended := State.endTables_meterStays tblOfCount
  obtain ⟨schOfEnd, bufOfEnd⟩ := State.endTables_of_empty tblOfCount
  generalize a.endTables = b at ended schOfEnd bufOfEnd ⊢
  have pools := State.clearPools_meterStays ((congrArg BufSt.headUsed bufOfEnd).trans headOfCount)
  have schOfPools : b.clearPools.sch = b.sch := b.clearPools_same .sch (by decide)
  generalize b.clearPools = c at pools schOfPools ⊢
  have schOfFabric : c.plDisable.sch = c.sch := c.plDisable_same .sch (by decide)
  have schOfPost : c.plDisable.postDisable.sch = c.plDisable.sch := State.postDisable_same _ .sch (by decide)
  have empty : c.plDisable.postDisable.sch = {} :=
    schOfPost.trans (schOfFabric.trans (schOfPools.trans (schOfEnd.trans schOfCount)))
  rw [State.schedClear_of_empty empty]
  exact ((((counted.trans ended).trans pools).trans c.plDisable_meterStays).trans
    (State.postDisable_meterStays _)).trans (State.emptySched_meterStays _)

theorem State.dropImage_meterStays (s : State) : MeterStays s s.dropImage :=
  ⟨s.dropImage_raw_meters, congrArg MtrSt.delivery (s.dropImage_same .mtr (by decide))⟩

end Sys2Proof.Machine
end

section
/-! PROOFS. Disabling and committing (02_structure_image.md R89-R92, R98-R105), O43. -/

-- One declaration at a time: the package is compiled as one text, and a thread for each would not fit.
set_option Elab.async false

namespace Sys2Proof.Machine

variable {s : State}

/-- The final harvest of a drain that left nothing to clear, from what stood in MTR_STATUS as the drain ended. -/
theorem State.drainEnd_meters (h : s.get STRUCT_STATUS.state = 4) (pk : s.pk = {}) (sch : s.sch = {}) (tbl : s.tbl = {})
    (head : s.buf.headUsed = []) :
    s.drainEnd.get MTR_STATUS.enabled = s.get MTR_STATUS.enabled ∧
    (s.get MTR_STATUS.enabled = 1 → s.get MTR_STATUS.busy = 0 → s.drainEnd.mtr.final = 2 ∧
      s.drainEnd.get MTR_STATUS.busy = 1 ∧ s.drainEnd.get MTR_STATUS.seq = (s.get MTR_STATUS.seq + 1) % 2 ^ 32) ∧
    (s.get MTR_STATUS.enabled = 1 → s.get MTR_STATUS.busy = 1 →
      s.drainEnd.mtr.final = 1 ∧ s.drainEnd.mtr.delivery = s.mtr.delivery) := by
  have stays : MeterStays s s.clearAll.dropImage :=
    (State.clearAll_meterStays pk sch tbl head).trans s.clearAll.dropImage_meterStays
  rw [State.drainEnd_of_draining h]
  generalize s.clearAll.dropImage = u at stays ⊢
  rw [← stays.get (f := MTR_STATUS.enabled) rfl, ← stays.get (f := MTR_STATUS.busy) rfl,
    ← stays.get (f := MTR_STATUS.seq) rfl, ← stays.delivery]
  refine ⟨?_, fun enabled idle => ?_, fun enabled busy => ?_⟩
  · by_cases enabled : u.get MTR_STATUS.enabled = 1
    · by_cases idle : u.get MTR_STATUS.busy = 0
      · exact (State.lastHarvest_begun enabled idle).2.2.2
      · exact (State.lastHarvest_owed enabled (u.get_eq_one rfl idle)).2.2 _ rfl
    · rw [State.lastHarvest_of_disabled enabled]
  · obtain ⟨final, busy, seq, -⟩ := State.lastHarvest_begun enabled idle
    exact ⟨final, busy, seq⟩
  · obtain ⟨final, delivery, -⟩ := State.lastHarvest_owed enabled busy
    exact ⟨final, delivery⟩

/-- A commit requested while another runs is ignored, but its group stands in the register (R100). -/
theorem State.commitGo_ignored (w : RegsWf s.regs) (g : Fin 64) (busy : s.get STRUCT_COMMIT.busy = 1) :
    (s.commitGo g).get STRUCT_COMMIT.group = g ∧ s.Same [] (s.commitGo g) ∧
    s.Frame noRegs [STRUCT_COMMIT.group] (s.commitGo g) := by
  rw [State.commitGo_of_busy busy]
  exact ⟨(s.get_put_self (by decide) g).trans (Nat.mod_eq_of_lt g.isLt), (s.put_only _ _).same [],
    ((State.Frame.refl _ _ s).same rfl).put w (by simp) (by decide) g⟩

/-- A waiting commit that times out is refused for want of a slot (R104). -/
theorem State.slotTimeout_refuses {g : Fin 64} {c : CommitJob}
    (first : s.img.jobs.find? (fun c => c.group = g.val) = some c) (waiting : c.waiting = true) (ring : c.ring = 1024)
    (full : 8 ≤ s.img.live.length) (limit : s.get STRUCT_VER_CFG.commit_wait_ms ≠ 0) :
    (s.slotTimeout g).get STRUCT_COMMIT.busy = 0 ∧ (s.slotTimeout g).get STRUCT_COMMIT.pending = 0 ∧
    (s.slotTimeout g).get STRUCT_COMMIT.result = 0x115 ∧
    (s.slotTimeout g).img = { s.img with jobs := s.img.jobs.erase c } ∧ s.Same [.img] (s.slotTimeout g) := by
  rw [State.slotTimeout_of_waiting first waiting full limit, s.endCommit_none ring]
  obtain ⟨busy, pending, result, img, same⟩ := s.showEnd_spec c 2 0x115 rfl
  exact ⟨busy, pending, result, img, same⟩

/-- Settles O43: the steps of a disable keep what R89 keeps, the end of a drain clears the rest, and a commit takes one
way through its request, its wait and its end, each by the lemma about that branch. -/
theorem commitsMakeVersionsUntilTheImageDrains : Obligations.CommitsMakeVersionsUntilTheImageDrains := by
  unfold Obligations.CommitsMakeVersionsUntilTheImageDrains
  intro s inv
  refine ⟨fun active => ⟨s.imageDisable, rfl, State.imageDisable_spec active⟩,
    fun draining => ⟨s.drainEnd, rfl, ?_⟩,
    fun g idle active => structCommitGo_starts inv.regsWf g idle active,
    fun g busy => ⟨s.commitGo g, rfl, State.commitGo_ignored inv.regsWf g busy⟩,
    fun g c first covered ring run active => ⟨
      fun unstaged => commitAdvance_without_rules first covered run active ring unstaged,
      fun staged slot tag => commitAdvance_makes_version first covered run active ring staged slot tag,
      fun staged taken => commitAdvance_waits first covered run active inv.regsWf ring staged taken⟩,
    fun g c first waiting ring full limit => ⟨s.slotTimeout g, rfl,
      State.slotTimeout_refuses first waiting ring full limit⟩⟩
  obtain ⟨state, id, active, live, jobs, entries, learn, moves, quota, head⟩ := State.drainEnd_clears draining
  have final : s.drainEnd.get MTR_STATUS.enabled = 1 →
      s.drainEnd.get MTR_STATUS.busy = 1 ∧ (s.drainEnd.mtr.final = 1 ∨ s.drainEnd.mtr.final = 2) := by
    rw [State.drainEnd_of_draining draining]
    exact State.lastHarvest_final
  exact ⟨state, id, active, live, jobs, entries, learn, moves, quota, head, final, State.drainEnd_meters draining⟩

end Sys2Proof.Machine
end

section
/-! PROOFS. Store words in Brine (03_action_microcode.md R137, 14_power_thermal.md R523, R524): the scrubber stands still
with its pipe. -/

-- One declaration at a time: the package is compiled as one text, and a thread for each would not fit.
set_option Elab.async false

namespace Sys2Proof.Machine

/-- The power unit holds the gated units still from BRINE on (R523). -/
theorem State.gated_of_brine {s : State} (brine : 2 ≤ s.get PWR_STATUS.state) : s.gated = true :=
  decide_eq_true brine

/-- No word is read for scrubbing while the pipes are gated, so that no error of one is met. -/
theorem csScrub_of_gated {s : State} (gated : s.gated = true) (pipe stage : Fin 32) (word : Fin 1024) (ecc : Fin 3) :
    exec (.csScrub pipe stage word ecc) s = .next s :=
  congrArg Host.Outcome.next (if_pos gated)

/-- The reset state with the power unit in BRINE. -/
def brineState : State := State.reset.put PWR_STATUS.state 2

theorem brineState_inv : brineState.Inv := (State.put_keep (Keep.refl State.reset)).inv resetMeetsTheInvariant

theorem brineState_gated : brineState.gated = true := State.gated_of_brine (by decide)

/-- Refutes O27: a state in Brine meets the invariant, and there the scrubber of a control store stands still (R523), where
the statement has it find and count an error. In `brineState` a scrub of word 5 leaves ACT_CS_ECC.last_word at 0. -/
theorem not_storeErrorsAreRepairedOrStop : ¬ Obligations.StoreErrorsAreRepairedOrStop := by
  unfold Obligations.StoreErrorsAreRepairedOrStop
  intro h
  obtain ⟨-, -, scrub, -⟩ := h brineState brineState_inv
  obtain ⟨t, e, asked, -⟩ := scrub 0 0 5
  have still : brineState = t :=
    Host.Outcome.next.inj ((csScrub_of_gated brineState_gated 0 0 5 1).symm.trans e)
  have kept : t.get (ACT_CS_ECC.last_word 0 0) = 0 := still ▸ (by decide : brineState.get (ACT_CS_ECC.last_word 0 0) = 0)
  exact absurd (asked.symm.trans kept) (by decide)

end Sys2Proof.Machine
end

section
/-! PROOFS. A word of microcode that writes a metadata word (03_action_microcode.md R110, R111, R117): the 32 bits that it
may write are replaced, and whatever stands above them stays. -/

-- One declaration at a time: the package is compiled as one text, and a thread for each would not fit.
set_option Elab.async false

namespace Sys2Proof.Machine

/-- A write of a scratch register replaces its low 32 bits alone (R111). -/
theorem nth_putWord_scratch (first : Bool) (st : Nat) {md : List Nat} {w : Nat} (lo : 28 ≤ w) (hi : w ≤ 31)
    (held : w < md.length) (v : Nat) :
    nth (putWord first st md w v) w = nth md w / 2 ^ 32 * 2 ^ 32 + v % 2 ^ 32 := by
  have all : writable first st w = 2 ^ 32 - 1 := by interval_cases w <;> rfl
  have read : nth (putWord first st md w v) w =
      nth md w - (nth md w &&& writable first st w) + (v &&& writable first st w) := by
    unfold putWord putMasked setAt
    rw [nth, List.getD_eq_getElem?_getD, List.getElem?_set_self held, Option.getD_some]
  rw [read, all, Nat.and_two_pow_sub_one_eq_mod, Nat.and_two_pow_sub_one_eq_mod]
  omega

/-- The microcode word that moves metadata word 0 to scratch register 0 and goes on at word 0 of stage 0. -/
def clearScratch : Nat := (1 + 256 * 2 ^ 11) * 2 ^ 88

/-- 128 metadata words, of which scratch register 0 holds 2 ^ 32 and so one bit more than R110 gives it. `State.Inv` does
not bound the words of a packet. -/
def wideWords : List Nat := setAt (List.replicate 128 0) 28 (2 ^ 32)

theorem wideWords_length : wideWords.length = 128 := by
  rw [wideWords, setAt, List.length_set, List.length_replicate]

/-- A packet of one byte in stage 0 of pipe 0 with these metadata words. -/
def widePkt : Pkt :=
  { id := 0, port := 0, bytes := [0], whole := true, err := false, rxErr := false, exported := false, fromFifo := false
    crossed := 0, via := 0, bank := 0, ver := 0, force := 0, rx := 0, policed := false, admitted := false, pd := 0
    copies := 0, gone := [], charge := .none, charged := 0, reserved := 0, cells := [], last := false, ended := false
    inject := none, hdr := [], fabDst := none, pending := []
    w := { pipe := 0, stage := 0, port := 0, fn := none, first := true, injected := false, rq := 0, md := wideWords
           look := [], times := [] } }

/-- The packet is in flight, and a vendor patch has loaded the microcode word at word 0 of stage 0. -/
def wideState : State :=
  { State.reset with
    img := { State.reset.img with patch := [⟨0, 0, [clearScratch]⟩] }
    pk := { State.reset.pk with pkts := [widePkt] } }

theorem wideState_inv : wideState.Inv := (Keep.plain (Keep.refl State.reset)).inv resetMeetsTheInvariant

/-- The stage of `wideState` writes 0 to scratch register 0 and nothing else. -/
theorem wideState_writes :
    opSlots (wideState.compat 0) (mdPut wideWords 24 26 1 0) clearScratch = ⟨[(28, 0)], none, none, 0, 0⟩ := by
  decide +kernel

/-- So the register still holds 2 ^ 32 as the stage ends. -/
theorem wideState_keeps_high_bit :
    nth (mdPut (putWord true 0 (mdPut wideWords 24 26 1 0) 28 0) 24 0 15 (mwNext clearScratch)) 28 = 2 ^ 32 := by
  have apart : ∀ (md : List Nat) (v : Nat), nth (mdPut md 24 0 15 v) 28 = nth md 28 := fun md v => by
    unfold nth mdPut setAt
    rw [List.getD_eq_getElem?_getD, List.getElem?_set_ne (by decide), ← List.getD_eq_getElem?_getD]
  rw [apart, nth_putWord_scratch true 0 (by decide) (by decide) (by decide +kernel)]
  decide +kernel

/-- Refutes O52: the invariant does not hold a metadata word to 32 bits, and a write of one leaves what stands above them
(R111), so that the register does not always read as the result of the word's op (R117). In `wideState` the op's result
is 0, and scratch register 0 holds 2 ^ 32. -/
theorem not_packetsPassStagesAndAreAdmitted : ¬ Obligations.PacketsPassStagesAndAreAdmitted := by
  unfold Obligations.PacketsPassStagesAndAreAdmitted
  intro h
  obtain ⟨stages, -⟩ := h wideState widePkt wideState_inv rfl rfl (by decide)
  obtain ⟨-, executes⟩ := stages (by decide) rfl
  obtain ⟨passes, -⟩ := executes clearScratch (by decide) (by decide) (by decide) (by decide +kernel)
  obtain ⟨t, q, -, -, -, -, words, result, -⟩ :=
    passes (by decide) (by decide) (by decide) (congrArg OpAcc.trap wideState_writes) (congrArg OpAcc.ctl wideState_writes)
  obtain ⟨asked, -⟩ := result 0 0 (by decide) wideWords_length (by decide) (by decide) (by decide) (by decide) (by decide)
    (by decide +kernel)
  have kept : nth q.w.md 28 = 2 ^ 32 := by
    rw [words]
    change nth (mdPut (applyOps true 0 _ (opSlots (wideState.compat 0) (mdPut wideWords 24 26 1 0) clearScratch)) 24 0 15 _)
      28 = _
    rw [wideState_writes]
    exact wideState_keeps_high_bit
  exact absurd (asked.symm.trans kept) (by decide)

end Sys2Proof.Machine
end

section
/-! PROOFS. A disable of metering while the final harvest of an image is delivered (10_telemetry_metering.md R398,
notes/assumptions/94.md): the harvest is no longer the final one. -/

-- One declaration at a time: the package is compiled as one text, and a thread for each would not fit.
set_option Elab.async false

namespace Sys2Proof.Machine

/-- A disable of metering forgets an on-demand harvest and an owed or running final one; a delivery goes on (R398). -/
theorem State.mtrDisable_mtr (s : State) : s.mtrDisable.mtr = { s.mtr with now := false, final := 0 } := rfl

/-- While its unit is not gated, a disable of metering is performed. -/
theorem mtrDisable_of_running {s : State} (running : s.pwrState < 2) : exec .mtrDisable s = .next s.mtrDisable :=
  congrArg Host.Outcome.next (State.gatedWrite_run running State.mtrDisable)

/-- A final harvest that begins at once leaves the state of the power unit alone. -/
theorem State.lastHarvest_pwrState {s : State} (enabled : s.get MTR_STATUS.enabled = 1)
    (idle : s.get MTR_STATUS.busy = 0) : s.lastHarvest.pwrState = s.pwrState := by
  obtain ⟨m, x, last⟩ := State.lastHarvest_of_idle enabled idle
  obtain ⟨-, -, -, -, shown⟩ := s.takeEdge.showDelivery_spec
  have kept : s.takeEdge.showDelivery.raw PWR_STATUS.regOff = s.raw PWR_STATUS.regOff :=
    (shown _ (by decide)).trans (s.takeEdge_raw (by decide) (by decide) (by decide))
  have read : s.lastHarvest.raw PWR_STATUS.regOff = s.raw PWR_STATUS.regOff := by
    rw [last]
    exact (State.withMeters_raw _ _ _ _).trans ((State.withMeters_raw _ m x _).trans kept)
  exact congrArg (fun w : Word => bitsOf w.toNat PWR_STATUS.state.lo PWR_STATUS.state.w) read

/-- The reset state with metering enabled. -/
def meteringState : State := State.reset.put MTR_STATUS.enabled 1

theorem meteringState_enabled : meteringState.get MTR_STATUS.enabled = 1 := by decide

theorem meteringState_idle : meteringState.get MTR_STATUS.busy = 0 := by decide

/-- The final harvest, with which the drain of an image ends, has begun. -/
def finalHarvestState : State := meteringState.lastHarvest

theorem finalHarvestState_inv : finalHarvestState.Inv :=
  (State.lastHarvest_keep (State.put_keep (Keep.refl State.reset))).inv resetMeetsTheInvariant

theorem finalHarvestState_final : finalHarvestState.mtr.final = 2 :=
  (State.lastHarvest_begun meteringState_enabled meteringState_idle).1

theorem finalHarvestState_running : finalHarvestState.pwrState < 2 := by
  unfold finalHarvestState
  rw [State.lastHarvest_pwrState meteringState_enabled meteringState_idle]
  decide

/-- Refutes O49: a disable of metering also forgets that the harvest under delivery is the final one of an image, where the
statement has it change nothing of the meters' state but the note of an on-demand harvest. In `finalHarvestState` that
harvest runs (final = 2), and MTR_DISABLE leaves final at 0. -/
theorem not_unitsFlipAndDisableAtOnce : ¬ Obligations.UnitsFlipAndDisableAtOnce := by
  unfold Obligations.UnitsFlipAndDisableAtOnce
  intro h
  obtain ⟨-, -, -, ⟨t, e, -, asked, -⟩, -⟩ := h finalHarvestState finalHarvestState_inv finalHarvestState_running
  have disabled : t = finalHarvestState.mtrDisable :=
    Host.Outcome.next.inj (e.symm.trans (mtrDisable_of_running finalHarvestState_running))
  rw [disabled, State.mtrDisable_mtr] at asked
  have kept : 0 = finalHarvestState.mtr.final := congrArg MtrSt.final asked
  exact absurd (kept.trans finalHarvestState_final) (by decide)

end Sys2Proof.Machine
end

section
/-! PROOFS. A table command that ends while a discard is due (06_table_access_learning.md R104, R218, R233): the discard
happens with it, so that even a NOP can take staged entries with it. -/

-- One declaration at a time: the package is compiled as one text, and a thread for each would not fit.
set_option Elab.async false

namespace Sys2Proof.Machine

/-- Tables and image may be replaced where the entries stay in canonical form. -/
theorem State.Inv.withTables {s : State} (h : s.Inv) {img : StructSt} {tbl : TblSt}
    (entries : smWf noEntry tbl.entries none = true) : State.Inv { s with img := img, tbl := tbl } :=
  have c := h.canonical
  ⟨⟨c.regs, c.cells, entries, c.meters, c.flows, c.gates, c.profiles, c.policers, c.groups, c.members⟩,
    ⟨h.timeOk.total, h.timeOk.quarter⟩⟩

/-- An entry of table 3 that command 0 staged for the physical function's group. -/
def stagedRule : Entry :=
  { newEntry (State.reset.learnJob ⟨3, 0, 11, 2, false⟩) with stagedAdd := true, addedBase := false, hidden := false }

/-- The command engine runs, a NOP waits in TBL_CMD, and a discard of group 0 is due: no command that it would wait for
is on its way. -/
def discardDueState : State :=
  { State.reset.put (SEQ_STATUS.state 0) 1 with
    img := State.reset.img
    tbl := { entries := [(entryKey 0 3 5, some stagedRule)], seq := 1, discards := [(0, 1)], goArgs := some [0] } }

theorem discardDueState_inv : discardDueState.Inv :=
  ((State.put_keep (Keep.refl State.reset)).inv resetMeetsTheInvariant).withTables (by decide)

/-- The NOP ends, the discard happens, and the staged entry is gone. -/
theorem discardDueState_discards :
    (discardDueState.accept 1024 (fun o => o = 0 || 8 < o) true []).tbl.entries = [] := by decide +kernel

/-- Refutes O45: its clause on a NOP does not ask, as its other clauses do, that no discard is waiting, and the end of any
command lets the discards happen that are due. In `discardDueState` the NOP leaves no entry where one was staged. -/
theorem not_tableCommandsTakeEffectInTheirTurn : ¬ Obligations.TableCommandsTakeEffectInTheirTurn := by
  unfold Obligations.TableCommandsTakeEffectInTheirTurn
  intro h
  obtain ⟨-, nop, -⟩ := h discardDueState discardDueState_inv
  obtain ⟨t, e, -, asked, -⟩ := nop [0] true rfl (by decide) (by decide)
  have ended : discardDueState.accept 1024 (fun o => o = 0 || 8 < o) true [] = t := Host.Outcome.next.inj e
  have emptied : t.tbl.entries = [] := ended ▸ discardDueState_discards
  exact absurd (asked.symm.trans emptied) (List.cons_ne_nil _ _)

end Sys2Proof.Machine
end

section
/-! PROOFS. Background moves (05_lookup_tables.md R192, R207, R211) of an entry at a position that stands for an LPM node
in the model: the move is listed, and no entry is copied. -/

-- One declaration at a time: the package is compiled as one text, and a thread for each would not fit.
set_option Elab.async false

namespace Sys2Proof.Machine

/-- A move between places of nodes copies nodes, and no entry. -/
theorem State.startMove_entries_of_node {src : Nat} (node : isNodePlace src = true) (s : State) (job t u dst : Nat) :
    (s.startMove job t u src dst).tbl.entries = s.tbl.entries := by
  unfold State.startMove
  refine List.foldlRecOn (motive := fun v : State => v.tbl.entries = s.tbl.entries) (unitPipes u) _ rfl
    (fun v same p _ => ?_)
  rw [if_pos node]
  exact same

theorem State.rebalance_entries_of_node {src : Nat} (node : isNodePlace src = true) (s : State) (t u : Nat) :
    (s.rebalance t u src).tbl.entries = s.tbl.entries := by
  unfold State.rebalance
  split
  · dsimp only
    split
    · rfl
    · split
      · split
        · exact s.startMove_entries_of_node node _ _ _ _
        · rfl
      · rfl
  · rfl

/-- An exact-match table of all pipes alike, in the four tiles of stage 0. -/
def sparseTable : TblDecl :=
  ⟨3, 1, 1, 32, 16, 100, 0, 0, 0, 0, List.replicate 12 0, 15 :: List.replicate 31 0, 0⟩

/-- An entry of that table with key `k`. -/
def sparseEntry (k : Nat) : Entry :=
  { newEntry (State.reset.learnJob ⟨3, 0, k, 2, false⟩) with hidden := false, seq := k }

/-- Background moves are on, and the table holds two entries from position 2^19 on. `State.Inv` does not bound the
positions of entries, and from 2^19 on a place is a node's (`nodePlace`). -/
def highPositionsState : State :=
  { State.reset.puts [(TBL_PL_CFG.rebalance_en, 1), (TBL_PL_CFG.bg_move_rate, 1)] with
    img := { active := some ⟨0, [], [sparseTable], [], [], [], [], [], [], []⟩ }
    tbl := { entries :=
      [(entryKey 0 3 (2 ^ 19), some (sparseEntry 1)), (entryKey 0 3 (2 ^ 19 + 1), some (sparseEntry 2))] } }

theorem highPositionsState_inv : highPositionsState.Inv :=
  ((State.puts_keep (Keep.refl State.reset)).inv resetMeetsTheInvariant).withTables (by decide)

/-- The move that the background begins there. -/
theorem highPositionsState_moves :
    (highPositionsState.rebalance 3 32 (2 ^ 19)).tbl.moves = [⟨0, 3, 32, 2 ^ 19, 1008⟩] := by decide +kernel

/-- Refutes O46: an entry at a position from 2^19 on, which the invariant allows, is taken for a node of an LPM table, so
that a background move copies nothing. In `highPositionsState` the move of position 2^19 to position 1,008 leaves position
1,008 empty. -/
theorem not_tablesAreRelocatedScrubbedAndRepaired : ¬ Obligations.TablesAreRelocatedScrubbedAndRepaired := by
  unfold Obligations.TablesAreRelocatedScrubbedAndRepaired
  intro h
  obtain ⟨-, -, -, -, move, -⟩ := h highPositionsState highPositionsState_inv
  obtain ⟨t, e, ⟨dst, tables, -, copied⟩, -⟩ := move 3 32 (2 ^ 19) sparseTable (sparseEntry 1) rfl rfl (by decide)
    (by decide) (by decide) rfl rfl (by decide) (by decide) (by decide) ⟨0, by decide, by decide +kernel⟩
  obtain rfl : highPositionsState.rebalance 3 32 (2 ^ 19) = t := Host.Outcome.next.inj e
  have listed : [(⟨0, 3, 32, 2 ^ 19, 1008⟩ : Move)] = [⟨0, 3, 32, 2 ^ 19, dst⟩] :=
    highPositionsState_moves.symm.trans (congrArg TblSt.moves tables)
  obtain rfl : 1008 = dst := congrArg Move.dst (List.head_eq_of_cons_eq listed)
  have copy := (copied (by decide) 0 (by decide) (sparseEntry 1) (by decide)).1
  have empty : (highPositionsState.rebalance 3 32 (2 ^ 19)).entryAt 0 3 1008 = none :=
    (congrArg (fun m => smGet noEntry m (entryKey 0 3 1008))
      (highPositionsState.rebalance_entries_of_node (by decide) 3 32)).trans (by decide)
  exact absurd (copy.symm.trans empty) (by decide)

end Sys2Proof.Machine
end

section
/-! PROOFS. The entries of a table as a memory (05_lookup_tables.md R204-R208, R219): which of them stand after one is
put, rewritten in every copy, or freed, and what freeing one leaves alone. -/

-- One declaration at a time: the package is compiled as one text, and a thread for each would not fit.
set_option Elab.async false

namespace Sys2Proof.Machine

variable {s t : State}

/-! ### Sparse memories -/

theorem mem_smErase {α : Type} {m : List (Nat × α)} {k : Nat} {x : Nat × α} :
    x ∈ smErase m k ↔ x ∈ m ∧ x.1 ≠ k := by
  induction m with
  | nil => simp [smErase]
  | cons y m ih =>
    obtain ⟨a, v⟩ := y
    by_cases e : k = a
    · subst e
      simp only [smErase, if_true, ih, List.mem_cons]
      constructor
      · exact fun h => ⟨.inr h.1, h.2⟩
      · rintro ⟨rfl | h, ne⟩
        · exact absurd rfl ne
        · exact ⟨h, ne⟩
    · simp only [smErase, if_neg e, ih, List.mem_cons]
      constructor
      · rintro (rfl | h)
        · exact ⟨.inl rfl, Ne.symm e⟩
        · exact ⟨.inr h.1, h.2⟩
      · rintro ⟨rfl | h, ne⟩
        · exact .inl rfl
        · exact .inr ⟨h, ne⟩

theorem mem_smInsert {α : Type} {m : List (Nat × α)} {k : Nat} {v : α} {x : Nat × α} (h : x ∈ smInsert m k v) :
    x = (k, v) ∨ x ∈ m := by
  induction m with
  | nil => exact .inl (List.mem_singleton.mp h)
  | cons y m ih =>
    obtain ⟨a, w⟩ := y
    unfold smInsert at h
    split at h
    · exact List.mem_cons.mp h
    · split at h
      · exact (List.mem_cons.mp h).imp_right (List.mem_cons_of_mem _)
      · rcases List.mem_cons.mp h with rfl | h
        · exact .inr List.mem_cons_self
        · exact (ih h).imp_right (List.mem_cons_of_mem _)

theorem mem_smPut {α : Type} [DecidableEq α] {d : Nat → α} {m : List (Nat × α)} {k : Nat} {v : α} {x : Nat × α}
    (h : x ∈ smPut d m k v) : x = (k, v) ∨ x ∈ m := by
  unfold smPut at h
  split at h
  · exact .inr (mem_smErase.mp h).1
  · exact mem_smInsert h

/-- What a memory of entries reads is listed in it. -/
theorem mem_of_smGet {m : List (Nat × Option Entry)} {k : Nat} {e : Entry} (h : smGet noEntry m k = some e) :
    (k, some e) ∈ m := by
  induction m with
  | nil => cases h
  | cons y m ih =>
    obtain ⟨a, v⟩ := y
    unfold smGet at h
    split at h
    · next key => exact key ▸ h ▸ List.mem_cons_self
    · exact List.mem_cons_of_mem _ (ih h)

/-- Rewriting what a memory holds rewrites what it reads. -/
theorem smGet_map {α : Type} {d : Nat → α} {m : List (Nat × α)} {f : Nat × α → Nat × α} {g : Nat → α → α}
    (hf : ∀ x, f x = (x.1, g x.1 x.2)) (k : Nat) (hd : g k (d k) = d k) : smGet d (m.map f) k = g k (smGet d m k) := by
  induction m with
  | nil => exact hd.symm
  | cons y m ih =>
    rw [List.map_cons, hf]
    unfold smGet
    split
    · next key => rw [key]
    · exact ih

/-! ### Keys of positions -/

theorem entryKey_table {p tb pos : Nat} (small : tb < 256) (inside : pos < 2 ^ 20) :
    entryKey p tb pos / 2 ^ 20 % 256 = tb := by
  unfold entryKey tableKey
  omega

/-- The pipe and the position that a key of table `tb` spells. -/
theorem entryKey_of_table {k tb : Nat} (h : k / 2 ^ 20 % 256 = tb) : entryKey (k / 2 ^ 28) tb (k % 2 ^ 20) = k := by
  unfold entryKey tableKey
  omega

theorem entryKey_pipe_inj {p q tb pos : Nat} (h : entryKey p tb pos = entryKey q tb pos) : p = q := by
  unfold entryKey tableKey at h
  omega

/-! ### Entries of a table -/

theorem State.mem_tableEntries {tb : Nat} {y : Nat × Entry} :
    y ∈ s.tableEntries tb ↔ (y.1, some y.2) ∈ s.tbl.entries ∧ y.1 / 2 ^ 20 % 256 = tb := by
  obtain ⟨k, e⟩ := y
  unfold State.tableEntries
  rw [List.mem_filterMap]
  constructor
  · rintro ⟨⟨a, v⟩, mem, h⟩
    split at h
    · next same =>
      obtain ⟨e', rfl, pair⟩ := Option.map_eq_some_iff.mp h
      obtain ⟨rfl, rfl⟩ := Prod.mk.inj pair
      exact ⟨mem, same⟩
    · cases h
  · rintro ⟨mem, same⟩
    exact ⟨_, mem, by rw [if_pos same]; rfl⟩

/-- The entry at a position of a table is one of the table's. -/
theorem State.entryAt_mem {p tb pos : Nat} {e : Entry} (small : tb < 256) (inside : pos < 2 ^ 20)
    (h : s.entryAt p tb pos = some e) : (entryKey p tb pos, e) ∈ s.tableEntries tb :=
  State.mem_tableEntries.mpr ⟨mem_of_smGet h, entryKey_table small inside⟩

theorem State.tableEntries_congr (entries : t.tbl.entries = s.tbl.entries) (tb : Nat) :
    t.tableEntries tb = s.tableEntries tb := by
  unfold State.tableEntries
  rw [entries]

theorem State.entryAt_congr (entries : t.tbl.entries = s.tbl.entries) (p tb pos : Nat) :
    t.entryAt p tb pos = s.entryAt p tb pos := by
  unfold State.entryAt
  rw [entries]

/-! ### Every copy rewritten (R204, R208) -/

theorem State.mem_rowsOf (s : State) (tb q : Nat) : q ∈ s.rowsOf tb q := List.mem_cons_self

theorem State.mapCopies_keys (s : State) (tb q : Nat) (f : Entry → Entry) :
    (s.mapCopies tb q f).tbl.entries.map (·.1) = s.tbl.entries.map (·.1) := by
  unfold State.mapCopies
  rw [List.map_map]
  refine List.map_congr_left (fun x _ => ?_)
  show (if x.1 / 2 ^ 20 % 256 = tb then _ else x).1 = x.1
  split <;> rfl

theorem State.entryAt_mapCopies {p tb pos q : Nat} {f : Entry → Entry} (small : tb < 256) (inside : pos < 2 ^ 20) :
    (s.mapCopies tb q f).entryAt p tb pos =
      (s.entryAt p tb pos).map (fun e => if (s.rowsOf tb q).contains e.seq then f e else e) := by
  unfold State.entryAt State.mapCopies
  rw [smGet_map (g := fun k o => if k / 2 ^ 20 % 256 = tb then
      o.map (fun e => if (s.rowsOf tb q).contains e.seq then f e else e) else o)]
  · exact if_pos (entryKey_table small inside)
  · intro x
    split <;> rfl
  · exact ite_self _

/-- The copy of entry `q` at a position is rewritten with the others. -/
theorem State.entryAt_mapCopies_same {p tb pos : Nat} {e : Entry} {f : Entry → Entry} (small : tb < 256)
    (inside : pos < 2 ^ 20) (h : s.entryAt p tb pos = some e) :
    (s.mapCopies tb e.seq f).entryAt p tb pos = some (f e) := by
  rw [State.entryAt_mapCopies small inside, h]
  exact congrArg some (if_pos (List.contains_iff_mem.mpr (s.mem_rowsOf tb e.seq)))

/-- What stands in the table after the rewrite under the acceptance number of entry `q` is a rewritten copy. -/
theorem State.mapCopies_rewritten {tb q : Nat} {f : Entry → Entry} (kept : ∀ e, (f e).seq = e.seq) {y : Nat × Entry}
    (mem : y ∈ (s.mapCopies tb q f).tableEntries tb) (h : y.2.seq = q) : ∃ e : Entry, e.seq = q ∧ y.2 = f e := by
  obtain ⟨listed, table⟩ := State.mem_tableEntries.mp mem
  obtain ⟨⟨k, o⟩, -, image⟩ := List.mem_map.mp listed
  dsimp only at image
  have same : k = y.1 := by
    split at image <;> exact congrArg Prod.fst image
  rw [if_pos (same ▸ table)] at image
  obtain ⟨e, -, changed⟩ := Option.map_eq_some_iff.mp (congrArg Prod.snd image)
  split at changed
  · exact ⟨e, (kept e).symm.trans (changed ▸ h), changed.symm⟩
  · next absent =>
    exact absurd (List.contains_iff_mem.mpr (show e.seq ∈ s.rowsOf tb q by rw [changed, h]; exact s.mem_rowsOf tb q)) absent

/-! ### Nodes follow the leaves -/

/-- Nodes are no entries: fitting them changes nothing else. -/
theorem State.fitNodes_eq (s : State) (p tb : Nat) : ∃ n, s.fitNodes p tb = { s with tbl := { s.tbl with nodes := n } } := by
  unfold State.fitNodes
  split
  · split
    · exact ⟨_, rfl⟩
    · exact ⟨_, rfl⟩
  · exact ⟨_, rfl⟩

/-- An entry put into a unit is put into each of its pipes. -/
theorem State.putUnit_eq (s : State) (u tb pos : Nat) (e : Option Entry) :
    ∃ n, s.putUnit u tb pos e = { s with tbl := { s.tbl with
      nodes := n
      entries := (unitPipes u).foldl (fun m p => smPut noEntry m (entryKey p tb pos) e) s.tbl.entries } } := by
  unfold State.putUnit
  generalize unitPipes u = pipes
  induction pipes generalizing s with
  | nil => exact ⟨_, rfl⟩
  | cons p pipes ih =>
    obtain ⟨n, fitted⟩ := (s.putEntry p tb pos e).fitNodes_eq p tb
    rw [List.foldl_cons, fitted]
    exact ih _

theorem smGet_foldl_smPut {tb pos : Nat} (e : Option Entry) {p : Nat} (pipes : List Nat) (m : List (Nat × Option Entry)) :
    smGet noEntry (pipes.foldl (fun m q => smPut noEntry m (entryKey q tb pos) e) m) (entryKey p tb pos) =
      if p ∈ pipes then e else smGet noEntry m (entryKey p tb pos) := by
  induction pipes generalizing m with
  | nil => rfl
  | cons q pipes ih =>
    rw [List.foldl_cons, ih]
    by_cases later : p ∈ pipes
    · rw [if_pos later, if_pos (List.mem_cons_of_mem _ later)]
    · rw [if_neg later]
      by_cases here : p = q
      · rw [here, if_pos List.mem_cons_self, smGet_smPut_same]
      · rw [if_neg (by simp [here, later]), smGet_smPut_other _ _ _ (fun h => here (entryKey_pipe_inj h))]

theorem mem_foldl_smPut {tb pos : Nat} {e : Option Entry} {pipes : List Nat} {m : List (Nat × Option Entry)}
    {x : Nat × Option Entry} (h : x ∈ pipes.foldl (fun m q => smPut noEntry m (entryKey q tb pos) e) m) :
    x.2 = e ∨ x ∈ m := by
  induction pipes generalizing m with
  | nil => exact .inr h
  | cons q pipes ih =>
    rcases ih h with new | put
    · exact .inl new
    · exact (mem_smPut put).imp_left (congrArg Prod.snd)

/-! ### Copies freed (R208, R219, R240, R241) -/

/-- LRN_PORT (R247). -/
def lrnPortRegs : Region := fun k => LRN_PORT.regOff 0 ≤ k ∧ k < LRN_PORT.regOff 1024

theorem lrnPortRegs_of_port {p : Nat} (h : p < 1024) : lrnPortRegs (LRN_PORT.regOff p) := by
  unfold lrnPortRegs LRN_PORT.regOff
  omega

/-- `t` came from `s` by freeing entries of table `tb`, which may be counted off their ports: of the tables the entries,
nodes, error marks and moves changed, and of the registers LRN_PORT and the table's blocked pipes. -/
structure Frees (tb : Nat) (s t : State) : Prop where
  rest : t = { s with regs := t.regs, tbl := { s.tbl with
    entries := t.tbl.entries, nodes := t.tbl.nodes, bad := t.tbl.bad, moves := t.tbl.moves } }
  frame : s.Frame lrnPortRegs [TBL_LRN_CFG.blocked_pipes tb] t

namespace Frees

variable {a : State} {tb : Nat}

theorem refl (tb : Nat) (s : State) : Frees tb s s := ⟨rfl, .refl _ _ _⟩

theorem tbl (h : Frees tb a s) {m : List (Nat × Option Entry)} {n : List (Nat × List LpmNode)} {b : List Nat}
    {l : List Move} :
    Frees tb a { s with tbl := { s.tbl with entries := m, nodes := n, bad := b, moves := l } } where
  rest := by rw [h.rest]
  frame := h.frame.same rfl

theorem putPort (h : Frees tb a s) {f : Fld} (m : lrnPortRegs f.off) (v : Nat) : Frees tb a (s.put f v) where
  rest := by rw [h.rest]; rfl
  frame := h.frame.putIn m v

theorem unlearn (h : Frees tb a s) {p : Nat} (port : p < 1024) : Frees tb a (s.unlearn p) :=
  (h.putPort (f := LRN_PORT.learned p) (lrnPortRegs_of_port port) _).putPort (f := LRN_PORT.over p) (lrnPortRegs_of_port port) _

theorem putBlocked (h : Frees tb a s) (v : Nat) : Frees tb a (s.put (TBL_LRN_CFG.blocked_pipes tb) v) where
  rest := by rw [h.rest]; rfl
  frame := h.frame.trans (fun _ _ apart =>
    s.get_put_apart (f := TBL_LRN_CFG.blocked_pipes tb) (by show 32 + 32 ≤ 64; decide) (apart _ List.mem_cons_self) v)

theorem freeAt (h : Frees tb a s) (p pos : Nat) : Frees tb a (s.freeAt p tb pos) := by
  obtain ⟨n, fitted⟩ := (s.putEntry p tb pos none).fitNodes_eq p tb
  unfold State.freeAt
  rw [fitted]
  dsimp only
  split
  · exact Frees.putBlocked h.tbl _
  · exact h.tbl

theorem freeCopies (h : Frees tb a s) (q : Nat) : Frees tb a (s.freeCopies tb q) :=
  Frees.tbl (List.foldlRecOn (motive := Frees tb a) _ _ h (fun _ g _ _ => g.freeAt _ _))

/-- A deleted entry with nothing staged leaves the count of staged rules alone. -/
theorem deleteEntry (h : Frees tb a s) {e : Entry} (added : e.stagedAdd = false) (kept : e.stagedDel = false) :
    Frees tb a (s.deleteEntry tb e) := by
  have freed := h.freeCopies e.seq
  have unstaged : ¬(e.stagedAdd || e.stagedDel) = true := by rw [added, kept]; decide
  unfold State.deleteEntry
  dsimp only
  rw [if_neg unstaged]
  split
  · exact freed.unlearn (bitsOf_lt _ _ 10)
  · exact freed

end Frees

theorem State.freeAt_entries (s : State) (p tb pos : Nat) :
    (s.freeAt p tb pos).tbl.entries = smErase s.tbl.entries (entryKey p tb pos) := by
  obtain ⟨n, fitted⟩ := (s.putEntry p tb pos none).fitNodes_eq p tb
  unfold State.freeAt
  rw [fitted]
  dsimp only
  split <;> rfl

/-- An entry that stands after positions were freed stood before, at none of them. -/
theorem State.mem_foldl_freeAt {tb : Nat} {ks : List Nat} {x : Nat × Option Entry}
    (h : x ∈ (ks.foldl (fun s k => s.freeAt (k / 2 ^ 28) tb (k % 2 ^ 20)) s).tbl.entries) :
    x ∈ s.tbl.entries ∧ ∀ k ∈ ks, x.1 ≠ entryKey (k / 2 ^ 28) tb (k % 2 ^ 20) := by
  induction ks generalizing s with
  | nil => exact ⟨h, fun _ m => by cases m⟩
  | cons k ks ih =>
    obtain ⟨before, others⟩ := ih h
    rw [State.freeAt_entries] at before
    obtain ⟨stood, first⟩ := mem_smErase.mp before
    exact ⟨stood, List.forall_mem_cons.mpr ⟨first, others⟩⟩

/-- No key of a copy of entry `q` is listed once its copies are freed. -/
theorem State.freeCopies_unlisted {tb : Nat} {y : Nat × Entry} (stood : y ∈ s.tableEntries tb) (o : Option Entry) :
    (y.1, o) ∉ (s.freeCopies tb y.2.seq).tbl.entries := by
  intro listed
  obtain ⟨-, elsewhere⟩ := State.mem_foldl_freeAt listed
  have key : y.1 ∈ ((s.tableEntries tb).filter (fun x => x.2.seq = y.2.seq)).map (·.1) :=
    List.mem_map.mpr ⟨y, List.mem_filter.mpr ⟨stood, decide_eq_true rfl⟩, rfl⟩
  exact elsewhere y.1 (List.mem_append_left _ key) (entryKey_of_table (State.mem_tableEntries.mp stood).2).symm

theorem State.freeCopies_gone {tb q : Nat} {y : Nat × Entry} (h : y ∈ (s.freeCopies tb q).tableEntries tb) :
    y.2.seq ≠ q := by
  rintro rfl
  obtain ⟨listed, table⟩ := State.mem_tableEntries.mp h
  have stood : y ∈ s.tableEntries tb := State.mem_tableEntries.mpr ⟨(State.mem_foldl_freeAt listed).1, table⟩
  exact State.freeCopies_unlisted stood _ listed

/-- The position of a freed copy is empty. -/
theorem State.entryAt_freeCopies {p tb pos : Nat} {e : Entry} (small : tb < 256) (inside : pos < 2 ^ 20)
    (h : s.entryAt p tb pos = some e) : (s.freeCopies tb e.seq).entryAt p tb pos = none :=
  Option.eq_none_iff_forall_ne_some.mpr
    (fun _ stays => State.freeCopies_unlisted (State.entryAt_mem small inside h) _ (mem_of_smGet stays))

/-- A deletion frees the entry's copies; the rest of it is in the registers. -/
theorem State.deleteEntry_entries (s : State) (tb : Nat) (e : Entry) :
    (s.deleteEntry tb e).tbl.entries = (s.freeCopies tb e.seq).tbl.entries := by
  unfold State.deleteEntry
  dsimp only
  split <;> split <;> rfl

theorem State.deleteEntry_gone {tb : Nat} {e : Entry} {y : Nat × Entry} (h : y ∈ (s.deleteEntry tb e).tableEntries tb) :
    y.2.seq ≠ e.seq := by
  rw [State.tableEntries_congr (s.deleteEntry_entries tb e)] at h
  exact State.freeCopies_gone h

theorem State.entryAt_deleteEntry {p tb pos : Nat} {e : Entry} (small : tb < 256) (inside : pos < 2 ^ 20)
    (h : s.entryAt p tb pos = some e) : (s.deleteEntry tb e).entryAt p tb pos = none := by
  rw [State.entryAt_congr (s.deleteEntry_entries tb e)]
  exact State.entryAt_freeCopies small inside h

/-! ### Tables and registers alone -/

theorem OnlyRegs.tbl_eq (h : OnlyRegs s t) : t.tbl = s.tbl := by
  unfold OnlyRegs at h
  rw [h]

theorem State.Same.of_tbl (h : t = { s with regs := t.regs, tbl := t.tbl }) : s.Same [.tbl] t := by
  intro p m
  rw [h]
  cases p with
  | tbl => exact absurd (by decide) m
  | _ => rfl

theorem Frees.same {tb : Nat} (h : Frees tb s t) : s.Same [.tbl] t := .of_tbl (by rw [h.rest])

/-! ### No command waits, and no record is asked for -/

theorem State.kick_idle (h : s.tbl.jobs = []) : s.kick = s := by
  unfold State.kick State.kickOnce
  rw [h]
  show (((s.tbl.jobs.filter _).map _).foldl _ s).runJobs _ = s
  rw [h]
  show s.runJobs s.tbl.jobs.length = s
  rw [h]
  rfl

/-- A table that does not notify sends no record (R246). -/
theorem State.lrnEvent_silent {tb : Nat} (h : s.get (TBL_LRN_CFG.notify tb) = 0) (ev dom port old pipe key : Nat) :
    s.lrnEvent ev tb dom port old pipe key = s :=
  if_neg (by rw [State.flag, h]; decide)

end Sys2Proof.Machine
end

section
/-! PROOFS. The counts of learned entries (06_table_access_learning.md R237, R238, R241): what LRN_PORT shows once an entry
is counted on a port, off a port, or moves between two. -/

-- One declaration at a time: the package is compiled as one text, and a thread for each would not fit.
set_option Elab.async false

namespace Sys2Proof.Machine

variable {s t : State}

theorem lrnPort_ne {p q : Nat} (h : p ≠ q) : LRN_PORT.regOff p ≠ LRN_PORT.regOff q := by
  unfold LRN_PORT.regOff
  omega

theorem lrnPort_ne_lrnStat {p : Nat} (h : p < 1024) : LRN_PORT.regOff p ≠ TBL_LRN_STAT.regOff := by
  unfold LRN_PORT.regOff TBL_LRN_STAT.regOff
  omega

/-- No port's register is one of a table's settings. -/
theorem lrnPort_ne_lrnCfg {p tb : Nat} (h : tb < 256) : TBL_LRN_CFG.regOff tb ≠ LRN_PORT.regOff p := by
  unfold LRN_PORT.regOff TBL_LRN_CFG.regOff
  omega

/-- A count leaves the registers of every other kind and port alone. -/
theorem State.get_relearn_far {p : Nat} {g : Fld} (d : g.off ≠ LRN_PORT.regOff p) : (s.relearn p).get g = s.get g :=
  (State.get_put_far _ d).trans (State.get_put_far _ d)

theorem State.get_unlearn_far {p : Nat} {g : Fld} (d : g.off ≠ LRN_PORT.regOff p) : (s.unlearn p).get g = s.get g :=
  (State.get_put_far _ d).trans (State.get_put_far _ d)

theorem State.portOver_learned (s : State) (p : Nat) :
    (s.portOver p).get (LRN_PORT.learned p) = s.get (LRN_PORT.learned p) :=
  s.get_put_disjoint (f := LRN_PORT.over p) _ (by show 17 + 1 ≤ 64 ∧ (32 + 16 ≤ 17 ∨ 17 + 1 ≤ 32); decide)

theorem State.put_learned (s : State) (p v : Nat) :
    ((s.put (LRN_PORT.learned p) v).portOver p).get (LRN_PORT.learned p) = v % 2 ^ 16 :=
  (State.portOver_learned _ p).trans (s.get_put_self (f := LRN_PORT.learned p) (by show 32 + 16 ≤ 64; decide) v)

/-- A port below its limit counts one more. -/
theorem State.relearn_learned {p : Nat} (below : s.get (LRN_PORT.learned p) < s.get (LRN_PORT.limit p)) :
    (s.relearn p).get (LRN_PORT.learned p) = s.get (LRN_PORT.learned p) + 1 := by
  have limit : s.get (LRN_PORT.limit p) < 2 ^ 16 := State.get_lt _
  exact (s.put_learned p _).trans (Nat.mod_eq_of_lt (by omega))

theorem State.unlearn_learned (s : State) (p : Nat) :
    (s.unlearn p).get (LRN_PORT.learned p) = s.get (LRN_PORT.learned p) - 1 := by
  have counted : s.get (LRN_PORT.learned p) < 2 ^ 16 := State.get_lt _
  exact (s.put_learned p _).trans (Nat.mod_eq_of_lt (by omega))

/-- A put of a field that the frame names, of any register file. -/
theorem State.Frame.putNamed {R : Region} {l : List Fld} (h : s.Frame R l t) {f : Fld} (m : f ∈ l)
    (fit : f.lo + f.w ≤ 64) (v : Nat) : s.Frame R l (t.put f v) :=
  h.trans (fun _ _ apart => t.get_put_apart fit (apart f m) v)

/-- A count at port `p`, in a frame that names the port's count and whether it is over. -/
theorem State.Frame.putLearned {R : Region} {l : List Fld} (h : s.Frame R l t) {p : Nat} (count : LRN_PORT.learned p ∈ l)
    (full : LRN_PORT.over p ∈ l) (v : Nat) : s.Frame R l ((t.put (LRN_PORT.learned p) v).portOver p) :=
  (h.putNamed count (by show 32 + 16 ≤ 64; decide) v).putNamed full (by show 17 + 1 ≤ 64; decide) _

/-- A learned entry leaves port `old` for port `new`, and the move is counted (R238). -/
def State.countMove (s : State) (old new : Nat) : State := ((s.unlearn old).relearn new).bump TBL_LRN_STAT.moves 1

variable {old new : Nat}

theorem State.countMove_only (s : State) (old new : Nat) : OnlyRegs s (s.countMove old new) :=
  (((((OnlyRegs.refl s).put _ _).putFlag _ _).put _ _).putFlag _ _).bump _ _

theorem State.countMove_new (other : old ≠ new) (port : new < 1024)
    (below : s.get (LRN_PORT.learned new) < s.get (LRN_PORT.limit new)) :
    (s.countMove old new).get (LRN_PORT.learned new) = s.get (LRN_PORT.learned new) + 1 := by
  have far : LRN_PORT.regOff new ≠ LRN_PORT.regOff old := lrnPort_ne (Ne.symm other)
  have count : (s.unlearn old).get (LRN_PORT.learned new) = s.get (LRN_PORT.learned new) := State.get_unlearn_far far
  have limit : (s.unlearn old).get (LRN_PORT.limit new) = s.get (LRN_PORT.limit new) := State.get_unlearn_far far
  calc (s.countMove old new).get (LRN_PORT.learned new)
      = ((s.unlearn old).relearn new).get (LRN_PORT.learned new) := State.get_put_far _ (lrnPort_ne_lrnStat port)
    _ = (s.unlearn old).get (LRN_PORT.learned new) + 1 := State.relearn_learned (by rw [count, limit]; exact below)
    _ = s.get (LRN_PORT.learned new) + 1 := by rw [count]

theorem State.countMove_old (other : old ≠ new) (port : old < 1024) :
    (s.countMove old new).get (LRN_PORT.learned old) = s.get (LRN_PORT.learned old) - 1 :=
  calc (s.countMove old new).get (LRN_PORT.learned old)
      = ((s.unlearn old).relearn new).get (LRN_PORT.learned old) := State.get_put_far _ (lrnPort_ne_lrnStat port)
    _ = (s.unlearn old).get (LRN_PORT.learned old) := State.get_relearn_far (lrnPort_ne other)
    _ = s.get (LRN_PORT.learned old) - 1 := s.unlearn_learned old

theorem State.countMove_moves (oldPort : old < 1024) (newPort : new < 1024) :
    (s.countMove old new).get TBL_LRN_STAT.moves = min (s.get TBL_LRN_STAT.moves + 1) 65535 := by
  have kept : ((s.unlearn old).relearn new).get TBL_LRN_STAT.moves = s.get TBL_LRN_STAT.moves :=
    (State.get_relearn_far (lrnPort_ne_lrnStat newPort).symm).trans (State.get_unlearn_far (lrnPort_ne_lrnStat oldPort).symm)
  have counted : (s.countMove old new).get TBL_LRN_STAT.moves = min (s.get TBL_LRN_STAT.moves + 1) 65535 % 2 ^ 16 :=
    (State.get_put_self _ (by decide) _).trans (by rw [kept]; rfl)
  exact counted.trans (Nat.mod_eq_of_lt (by omega))

theorem State.countMove_frame (s : State) (old new : Nat) :
    s.Frame noRegs [LRN_PORT.learned new, LRN_PORT.over new, LRN_PORT.learned old, LRN_PORT.over old, TBL_LRN_STAT.moves]
      (s.countMove old new) :=
  ((((State.Frame.refl _ _ s).putLearned (p := old) (by simp) (by simp) _).putLearned (p := new) (by simp) (by simp)
    _).putNamed (by simp) (by decide) _)

end Sys2Proof.Machine
end

section
/-! PROOFS. Blocked pipes and aging (06_table_access_learning.md R240, R242-R245; 14_power_thermal.md R524). -/

-- One declaration at a time: the package is compiled as one text, and a thread for each would not fit.
set_option Elab.async false

namespace Sys2Proof.Machine

variable {s : State}

/-! ### Unblocking (R240) -/

theorem State.unblock_blocked (s : State) (tb : Nat) : (s.unblock tb).get (TBL_LRN_CFG.blocked_pipes tb) = 0 :=
  s.get_put_self (f := TBL_LRN_CFG.blocked_pipes tb) (by show 32 + 32 ≤ 64; decide) 0

theorem State.unblock_frame (s : State) (tb : Nat) : s.Frame noRegs [TBL_LRN_CFG.blocked_pipes tb] (s.unblock tb) :=
  (State.Frame.refl _ _ s).putNamed List.mem_cons_self (by show 32 + 32 ≤ 64; decide) 0

/-- In Brine a write to a gated unit is discarded and counted (R524). -/
theorem State.gatedWrite_discarded (brine : 2 ≤ s.pwrState) (f : State → State) :
    s.gatedWrite f = s.bump PWR_STAT.brine_writes 1 :=
  if_pos (decide_eq_true brine)

theorem State.bump_brineWrites (s : State) :
    (s.bump PWR_STAT.brine_writes 1).get PWR_STAT.brine_writes = min (s.get PWR_STAT.brine_writes + 1) 65535 :=
  (s.get_put_self (f := PWR_STAT.brine_writes) (by decide) _).trans
    (Nat.mod_eq_of_lt (by show min _ (2 ^ 16 - 1) < 2 ^ 16; omega))

/-! ### The sweep's visit (R242-R244) -/

/-- The sweep meets entry `e` at position `pos` of table `tb` in pipe `p`, and the entry is one that ages. -/
structure State.SweepMeets (s : State) (tb p pos : Nat) (e : Entry) : Prop where
  stands : s.entryAt p tb pos = some e
  on : s.ageOn tb = true
  interval : s.get (TBL_AGE_CFG.interval_ms tb) ≠ 0
  running : s.pwrState < 2
  ages : s.get (TBL_LRN_CFG.age_all tb) = 1 ∨ e.data.testBit 10 = true
  added : e.stagedAdd = false
  kept : e.stagedDel = false
  shown : e.hidden = false
  idle : s.identityBusy tb e.domain e.key = false

theorem State.ageVisit_late (s : State) (tb p pos : Nat) : s.ageVisit tb p pos true = s := by
  unfold State.ageVisit
  split
  · rfl
  · exact if_pos (by simp)

/-- The entry once the sweep has set its age. -/
def sweptTo (age : Nat) (e : Entry) : Entry := { e with hit := false, age := age }

/-- What the visit does with an entry that ages. -/
def State.sweepEntry (s : State) (tb : Nat) (e : Entry) : State :=
  if s.anyHit tb e.seq then s.mapCopies tb e.seq (sweptTo 0)
  else if max 1 (s.get (TBL_AGE_CFG.age_limit tb)) ≤ e.age + 1 then
    if !s.learnTurn then s
    else ((s.tookLearnTurn.deleteEntry tb e).lrnEvent 0x22 tb e.domain
      (if bitAt e.data 10 then bitsOf e.data 0 10 else 0) 0 0 e.key).kick
  else s.mapCopies tb e.seq (sweptTo (e.age + 1))

variable {tb p pos : Nat} {e : Entry}

theorem State.SweepMeets.ageVisit (h : s.SweepMeets tb p pos e) : s.ageVisit tb p pos false = s.sweepEntry tb e := by
  have aged : (s.flag (TBL_LRN_CFG.age_all tb) || bitAt e.data 10) = true := by
    rw [bitAt_eq_testBit, Bool.or_eq_true]
    exact h.ages.imp_left decide_eq_true
  have running : s.gated = false := decide_eq_false (by have := h.running; omega)
  unfold State.ageVisit
  rw [h.stands]
  refine if_neg ?_
  rw [h.on, running, aged, isStaged, h.added, h.kept, h.shown, h.idle, decide_eq_true h.interval]
  decide

/-- A hit makes the age of every copy 0 (R244). -/
theorem State.SweepMeets.hit (h : s.SweepMeets tb p pos e) (hit : s.anyHit tb e.seq = true) :
    s.ageVisit tb p pos false = s.mapCopies tb e.seq (sweptTo 0) :=
  h.ageVisit.trans (if_pos hit)

theorem State.SweepMeets.young (h : s.SweepMeets tb p pos e) (unhit : s.anyHit tb e.seq = false)
    (young : e.age + 1 < max 1 (s.get (TBL_AGE_CFG.age_limit tb))) :
    s.ageVisit tb p pos false = s.mapCopies tb e.seq (sweptTo (e.age + 1)) :=
  h.ageVisit.trans ((if_neg (by simp [unhit])).trans (if_neg (Nat.not_le.mpr young)))

/-- An entry that reaches the limit is deleted in the engine's turn for learning (R213, R243). -/
theorem State.SweepMeets.old (h : s.SweepMeets tb p pos e) (small : tb < 256) (unhit : s.anyHit tb e.seq = false)
    (old : max 1 (s.get (TBL_AGE_CFG.age_limit tb)) ≤ e.age + 1) (turn : s.learnTurn = true) (jobs : s.tbl.jobs = [])
    (silent : s.get (TBL_LRN_CFG.notify tb) = 0) :
    s.ageVisit tb p pos false = s.tookLearnTurn.deleteEntry tb e := by
  have freed := (Frees.refl tb s.tookLearnTurn).deleteEntry h.added h.kept
  have unasked : (s.tookLearnTurn.deleteEntry tb e).get (TBL_LRN_CFG.notify tb) = 0 := by
    refine (freed.frame _ ?_ ?_).trans silent
    · show ¬lrnPortRegs (TBL_LRN_CFG.regOff tb)
      unfold lrnPortRegs TBL_LRN_CFG.regOff LRN_PORT.regOff
      omega
    · rintro f m
      obtain rfl := List.mem_singleton.mp m
      exact Or.inr (Or.inl (by show 2 + 1 ≤ 32; decide))
  have idle : (s.tookLearnTurn.deleteEntry tb e).tbl.jobs = [] := by
    rw [freed.rest]
    exact jobs
  rw [h.ageVisit, State.sweepEntry, if_neg (by simp [unhit]), if_pos old, if_neg (by simp [turn]),
    State.lrnEvent_silent unasked, State.kick_idle idle]

/-- The visit that rewrites the copies of the entry that it meets rewrites nothing else. -/
theorem State.SweepMeets.rewritten (h : s.SweepMeets tb p pos e) (small : tb < 256) (inside : pos < 2 ^ 20)
    (age : Nat) {t : State} (ht : t = s.mapCopies tb e.seq (sweptTo age)) :
    t.entryAt p tb pos = some { e with hit := false, age := age } ∧
      (∀ y ∈ t.tableEntries tb, y.2.seq = e.seq → y.2.hit = false ∧ y.2.age = age) ∧ s.Same [.tbl] t ∧
      t.regs = s.regs := by
  subst ht
  refine ⟨State.entryAt_mapCopies_same small inside h.stands, fun y mem seq => ?_, .of_tbl rfl, rfl⟩
  obtain ⟨x, -, copy⟩ := State.mapCopies_rewritten (f := sweptTo age) (fun _ => rfl) mem seq
  rw [copy]
  exact ⟨rfl, rfl⟩

end Sys2Proof.Machine
end

section
/-! PROOFS. Station moves (06_table_access_learning.md R213, R238): a learned entry's port is rewritten in place. -/

-- One declaration at a time: the package is compiled as one text, and a thread for each would not fit.
set_option Elab.async false

namespace Sys2Proof.Machine

variable {s : State}

/-- The learned entry that a move request means: visible, with nothing of its deletion staged. -/
def State.station (s : State) (r : LearnReq) : Option (Nat × Entry) :=
  (s.tableEntries r.table).find? (fun y => y.2.domain = r.domain && y.2.key = r.key && !y.2.moveSrc &&
    s.visibleNow y.2 && s.isLearned r.table y.2 && !y.2.stagedDel)

/-- The entry as it stands at its new port. -/
def movedTo (port : Nat) (e : Entry) : Entry :=
  { e with data := setBits e.data 0 10 port, hit := false, age := 0, addedBase := true }

/-- A request whose entry is at another port, with room at the new one. -/
theorem State.moveStation_moves {r : LearnReq} {x : Nat × Entry} (found : s.station r = some x)
    (other : bitsOf x.2.data 0 10 ≠ r.port) (small : r.table < 256)
    (below : s.get (LRN_PORT.learned r.port) < s.get (LRN_PORT.limit r.port))
    (silent : s.get (TBL_LRN_CFG.notify r.table) = 0) :
    s.moveStation r = (s.mapCopies r.table x.2.seq (movedTo r.port)).countMove (bitsOf x.2.data 0 10) r.port := by
  have far : ∀ q, TBL_LRN_CFG.regOff r.table ≠ LRN_PORT.regOff q := fun q => lrnPort_ne_lrnCfg small
  have unasked : ((s.mapCopies r.table x.2.seq (movedTo r.port)).countMove (bitsOf x.2.data 0 10) r.port).get
      (TBL_LRN_CFG.notify r.table) = 0 := by
    refine (State.get_put_far _ ?_).trans ((State.get_relearn_far (far _)).trans ((State.get_unlearn_far (far _)).trans silent))
    show TBL_LRN_CFG.regOff r.table ≠ TBL_LRN_STAT.regOff
    unfold TBL_LRN_CFG.regOff TBL_LRN_STAT.regOff
    omega
  unfold State.moveStation
  rw [show (s.tableEntries r.table).find? _ = some x from found]
  exact (if_neg other).trans ((if_neg (Nat.not_le.mpr below)).trans (State.lrnEvent_silent unasked _ _ _ _ _ _))

/-- The engine takes the move request at the head of a learn queue in its turn (R213). -/
theorem State.stationMove_taken {p : Nat} {r : LearnReq} {rest : List LearnReq} (queue : s.learnQueue p = r :: rest)
    (move : r.move = true) (turn : s.learnTurn = true) (idle : s.identityBusy r.table r.domain r.key = false) :
    s.stationMove p = ((s.setLearnQueue p rest).tookLearnTurn).moveStation r := by
  unfold State.stationMove
  rw [queue]
  exact if_neg (by rw [move, turn, idle]; decide)

end Sys2Proof.Machine
end

section
/-! PROOFS. Learning (06_table_access_learning.md R213, R221, R238): a learn request's entry is placed in every pipe of its
unit and published, with no other command on its way. -/

-- One declaration at a time: the package is compiled as one text, and a thread for each would not fit.
set_option Elab.async false

namespace Sys2Proof.Machine

variable {s v w : State} {d : TblDecl} {j k : TblJob} {u pos : Nat}

/-! ### The present entry -/

/-- Nothing of an identity that no shown entry of the table has. -/
theorem State.identity_nil (h : ∀ x ∈ s.tableEntries j.table, (sameIdentity j x.2 && !x.2.hidden) = false) :
    s.identity j = [] := by
  refine List.foldlRecOn (motive := fun l : List Entry => l = []) _ _ rfl (fun l empty x mem => ?_)
  rw [if_neg, empty]
  have unmet := h x mem
  revert unmet
  cases sameIdentity j x.2 <;> cases x.2.hidden <;> simp

theorem State.present_none (imm : j.imm = true) (h : s.identity j = []) : s.present j = none := by
  unfold State.present
  rw [h]
  exact if_pos imm

/-! ### One placement (R192, R206) -/

theorem State.unitEntries_congr (entries : w.tbl.entries = s.tbl.entries) (u tb : Nat) :
    w.unitEntries u tb = s.unitEntries u tb := by
  unfold State.unitEntries State.tableEntries State.pipeEntries
  rw [entries]

theorem State.full_congr (entries : w.tbl.entries = s.tbl.entries) (d : TblDecl) (u : Nat) : w.full d u = s.full d u := by
  unfold State.full State.usedIn State.pipeEntries
  rw [entries]

/-- A plan rests on the entries, nodes and moves of the tables alone. -/
theorem State.plan_congr (entries : w.tbl.entries = s.tbl.entries) (nodes : w.tbl.nodes = s.tbl.nodes)
    (moves : w.tbl.moves = s.tbl.moves) (d : TblDecl) (u : Nat) (j : TblJob) : w.plan d u j = s.plan d u j := by
  have unit := State.unitEntries_congr entries u d.id
  have moving : ∀ pos, w.moving u d.id pos = s.moving u d.id pos := fun pos => by
    unfold State.moving
    rw [moves]
  have held : w.nodesOf (firstOf u) d.id = s.nodesOf (firstOf u) d.id := by
    unfold State.nodesOf
    rw [nodes]
  simp only [State.plan, State.emPlan, State.lpmPlan, State.ternPlan, unit, moving, held]

/-- A placement that has not begun, and one whose copy is in place without a move. -/
def placing0 (u : Nat) : Placing := ⟨u, false, false, 0, [], none⟩

def placed0 (u : Nat) : Placing := ⟨u, true, false, 0, [], none⟩

/-- Command `j`, alone in the engine with no move on its way, has a place for its entry: position `pos` of unit `u`. -/
structure State.HasPlace (s : State) (d : TblDecl) (j : TblJob) (u pos : Nat) : Prop where
  jobs : s.tbl.jobs = [j]
  moves : s.tbl.moves = []
  room : s.full d u = false
  plan : s.plan d u j = .write pos

theorem State.HasPlace.placeStep (h : s.HasPlace d j u pos) :
    s.placeStep d j (placing0 u) = (s.putUnit u d.id pos (some (newEntry j)), placed0 u) := by
  have still : s.tbl.moves.any (fun m => m.job = j.id && m.unit = u) = false := by rw [h.moves]; rfl
  have alone : s.unitBusy j u = false := by
    unfold State.unitBusy
    rw [h.jobs]
    simp
  have begins : s.placeStep d j (placing0 u) = s.placeFresh d j (placing0 u) := if_neg (by
    show ¬(false || false || s.tbl.moves.any (fun m => m.job = j.id && m.unit = u) || s.unitBusy j u) = true
    rw [still, alone]
    decide)
  rw [begins, State.placeFresh, if_neg (by rw [show s.full d (placing0 u).unit = false from h.room]; simp),
    show s.plan d (placing0 u).unit j = .write pos from h.plan]
  rfl

/-! ### The entry is shown (R221) -/

/-- An entry that is in place in every pipe. -/
def shown (e : Entry) : Entry := { e with hidden := false }

/-- A finished command that waits for nothing else. -/
theorem State.finishJob_calm (discards : s.tbl.discards = []) (j : TblJob) :
    s.finishJob j = (s.setJob { j with started := true, done := true }).uncover j.id := by
  unfold State.finishJob State.discardDue
  rw [show ((s.setJob { j with started := true, done := true }).uncover j.id).tbl.discards = [] from discards]
  rfl

/-- An immediate command whose identity had no entry shows its own, and completes. -/
theorem State.publish_new (imm : j.imm = true) (absent : s.present j = none) (discards : s.tbl.discards = []) :
    ∃ k : TblJob, k.id = j.id ∧ s.publish j = ((s.mapCopies j.table j.seq shown).setJob k).uncover j.id := by
  unfold State.publish
  rw [absent]
  dsimp only
  rw [if_pos imm]
  refine ⟨?job, ?id, ?ended⟩
  case ended => exact State.finishJob_calm (s := s.mapCopies j.table j.seq shown) discards _
  case id => rfl

/-- Showing whether a port is over reads and writes the port's register alone. -/
theorem State.portOver_withTables (s : State) (i : StructSt) (x : TblSt) (p : Nat) :
    State.portOver { s with img := i, tbl := x } p = { s with regs := (s.portOver p).regs, img := i, tbl := x } := rfl

/-- The learned entry is in place: the learning engine's command leaves the list. -/
theorem State.learnDone_silent (jobs : s.tbl.jobs = [k]) (id : k.id = j.id) (small : j.table < 256)
    (silent : s.get (TBL_LRN_CFG.notify j.table) = 0) :
    s.learnDone j = State.portOver { s with tbl := { s.tbl with jobs := [] } } j.flushPort := by
  unfold State.learnDone
  rw [jobs, List.filter_cons_of_neg (by simp [id]), List.filter_nil]
  exact State.lrnEvent_silent (s := State.portOver { s with tbl := { s.tbl with jobs := [] } } j.flushPort)
    ((State.get_put_far (f := LRN_PORT.over j.flushPort) _ (lrnPort_ne_lrnCfg small)).trans silent) _ _ _ _ _ _

/-! ### From the start of the placement to its end -/

/-- A command that has begun its only placement, and one that has ended it. -/
def TblJob.begun (j : TblJob) (u h : Nat) : TblJob := { j with started := true, places := [placing0 u], handle := h }

def TblJob.settled (j : TblJob) (u h : Nat) : TblJob := { j with started := true, places := [placed0 u], handle := h }

/-- The state in which `j` is the only command. -/
def State.withJob (s : State) (j : TblJob) : State := { s with tbl := { s.tbl with jobs := [j] } }

theorem State.setJob_alone (jobs : s.tbl.jobs = [j]) (id : j.id = k.id) : s.setJob k = s.withJob k := by
  unfold State.setJob
  rw [jobs]
  simp [id, State.withJob]

/-- The copy of `j`'s entry in each pipe of its unit, hidden until all are in place (R221). -/
def State.withCopies (s : State) (d : TblDecl) (j : TblJob) (u pos h : Nat) : State :=
  (((s.withJob (j.begun u h)).putUnit u d.id pos (some (newEntry (j.begun u h)))).setJob (j.settled u h))

/-- The only placement of a learned entry has room and ends at once. -/
theorem State.beginPlace_places (place : s.HasPlace d j u pos) (decl : s.decl j.table = some d)
    (units : s.unitsOf d j.domain = [u]) (absent : s.present j = none) (going : j.done = false)
    (source : j.src = learnSource) {h : Nat} (handle : s.freeHandle j.table = h) :
    s.beginPlace d j = ((s.withCopies d j u pos h).publish (j.settled u h)).learnDone (j.settled u h) := by
  have begun : (s.withJob (j.begun u h)).HasPlace d (j.begun u h) u pos :=
    ⟨rfl, place.moves, (State.full_congr rfl d u).trans place.room, (State.plan_congr rfl rfl rfl d u _).trans place.plan⟩
  have job : (s.withJob (j.begun u h)).job j.id = some (j.begun u h) := List.find?_cons_of_pos (decide_eq_true rfl)
  have known : (s.withJob (j.begun u h)).decl (j.begun u h).table = some d := decl
  have active : ((j.begun u h).started && !(j.begun u h).done) = true := by
    show (true && !j.done) = true
    rw [going]
    rfl
  unfold State.beginPlace
  rw [absent, units, handle]
  change (s.setJob (j.begun u h)).advance j.id = _
  rw [State.setJob_alone (k := j.begun u h) place.jobs rfl, State.advance, job]
  dsimp only
  rw [known]
  refine (if_pos active).trans ?_
  change State.placeAll _ d (j.begun u h) [placing0 u] [] = _
  rw [State.placeAll, begun.placeStep]
  change State.placeAll _ d (j.begun u h) [] [placed0 u] = _
  unfold State.placeAll
  exact (if_pos rfl).trans (if_pos source)

/-- A declaration is found under its own number. -/
theorem State.decl_id {tb : Nat} (h : s.decl tb = some d) : d.id = tb := by
  unfold State.decl at h
  split at h
  · simpa using List.find?_some h
  · cases h

theorem State.withCopies_eq (s : State) (d : TblDecl) (j : TblJob) (u pos h : Nat) :
    ∃ n, s.withCopies d j u pos h = { s with tbl := { s.tbl with
      entries := (unitPipes u).foldl (fun m p => smPut noEntry m (entryKey p d.id pos) (some (newEntry (j.begun u h))))
        s.tbl.entries
      nodes := n
      jobs := [j.settled u h] } } := by
  obtain ⟨n, put⟩ := (s.withJob (j.begun u h)).putUnit_eq u d.id pos (some (newEntry (j.begun u h)))
  unfold State.withCopies
  rw [put, State.setJob_alone (j := j.begun u h) (k := j.settled u h) rfl rfl]
  exact ⟨n, rfl⟩

/-- While it is hidden, the new entry is no present one. -/
theorem State.withCopies_absent {h : Nat} (imm : j.imm = true)
    (fresh : ∀ x ∈ s.tableEntries j.table, sameIdentity j x.2 = false) :
    (s.withCopies d j u pos h).present (j.settled u h) = none := by
  refine State.present_none imm (State.identity_nil (fun x mem => ?_))
  obtain ⟨listed, table⟩ := State.mem_tableEntries.mp mem
  obtain ⟨n, placed⟩ := s.withCopies_eq d j u pos h
  rw [placed] at listed
  rcases mem_foldl_smPut listed with new | before
  · rw [Option.some.inj new]
    exact Bool.and_false _
  · rw [show sameIdentity (j.settled u h) x.2 = false from fresh x (State.mem_tableEntries.mpr ⟨before, table⟩)]
    rfl

/-- Once shown, the new entry stands in each pipe of its unit. -/
theorem State.withCopies_shown {h q : Nat} (named : d.id = j.table) (small : j.table < 256) (inside : pos < 2 ^ 20)
    (moves : s.tbl.moves = []) (pipe : q ∈ unitPipes u) :
    ((s.withCopies d j u pos h).mapCopies j.table j.seq shown).entryAt q d.id pos =
      some { newEntry j with hidden := false, handle := h } := by
  obtain ⟨n, placed⟩ := s.withCopies_eq d j u pos h
  have still : (s.withCopies d j u pos h).tbl.moves = [] := by rw [placed]; exact moves
  have stands : (s.withCopies d j u pos h).entryAt q d.id pos = some (newEntry (j.begun u h)) := by
    rw [placed]
    exact (smGet_foldl_smPut _ _ _).trans (if_pos pipe)
  rw [named] at stands ⊢
  exact State.entryAt_mapCopies_same small inside stands

/-- A learned entry takes its place: afterwards no command is left, and of the state beside the tables only the commands
that commits wait for and LRN_PORT.over have changed. -/
theorem State.beginPlace_learns (place : s.HasPlace d j u pos) (discards : s.tbl.discards = [])
    (decl : s.decl j.table = some d) (units : s.unitsOf d j.domain = [u]) (inside : pos < 2 ^ 20)
    (fresh : ∀ x ∈ s.tableEntries j.table, sameIdentity j x.2 = false) (imm : j.imm = true) (going : j.done = false)
    (source : j.src = learnSource) (small : j.table < 256) (silent : s.get (TBL_LRN_CFG.notify j.table) = 0) :
    ∃ n c m, s.beginPlace d j = { s with
        regs := (s.portOver j.flushPort).regs, img := { s.img with jobs := c }
        tbl := { s.tbl with entries := m, nodes := n, jobs := [] } } ∧
      ∀ q ∈ unitPipes u, smGet noEntry m (entryKey q d.id pos) =
        some { newEntry j with hidden := false, handle := s.freeHandle j.table } := by
  have absent : s.present j = none :=
    State.present_none imm (State.identity_nil (fun x mem => by rw [fresh x mem]; rfl))
  rw [State.beginPlace_places place decl units absent going source rfl]
  generalize s.freeHandle j.table = h
  have stands := fun q => s.withCopies_shown (h := h) (q := q) (u := u) (State.decl_id decl) small inside place.moves
  have missing := State.withCopies_absent (d := d) (u := u) (pos := pos) (h := h) imm fresh
  obtain ⟨n, placed⟩ := s.withCopies_eq d j u pos h
  generalize s.withCopies d j u pos h = w at *
  obtain ⟨k, id, published⟩ := State.publish_new (j := j.settled u h) imm missing (by rw [placed]; exact discards)
  have alone : (w.mapCopies j.table j.seq shown).tbl.jobs = [j.settled u h] := by rw [State.mapCopies, placed]
  have jobs : ((w.publish (j.settled u h))).tbl.jobs = [k] := by
    rw [published]
    exact congrArg (fun v : State => v.tbl.jobs) (State.setJob_alone alone id.symm)
  have unasked : (w.publish (j.settled u h)).get (TBL_LRN_CFG.notify j.table) = 0 := by
    rw [published]
    exact (State.get_congr (show w.regs = s.regs by rw [placed]) _).trans silent
  rw [State.learnDone_silent jobs id small unasked, published]
  refine ⟨n, (((w.mapCopies j.table j.seq shown).setJob k).uncover j.id).img.jobs,
    (w.mapCopies j.table j.seq shown).tbl.entries, Eq.trans (congrArg (State.portOver · j.flushPort) ?_)
      (s.portOver_withTables _ _ j.flushPort), stands⟩
  rw [placed]
  rfl

end Sys2Proof.Machine
end

section
/-! PROOFS. Learning, moving and aging (06_table_access_learning.md R238-R245), O47. -/

-- One declaration at a time: the package is compiled as one text, and a thread for each would not fit.
set_option Elab.async false

namespace Sys2Proof.Machine

variable {s : State}

/-! ### Learn requests (R213, R238) -/

/-- A learn queue reads what was set. -/
theorem State.learnQueue_set (s : State) (p : Nat) (l : List LearnReq) : (s.setLearnQueue p l).learnQueue p = l :=
  smGet_smPut_same _ _ _ _

/-- The state in which the engine has taken the request at the head of pipe `p`'s learn queue. -/
def State.tookRequest (s : State) (p : Nat) (rest : List LearnReq) : State := (s.setLearnQueue p rest).tookLearnTurn

theorem State.learnAccept_taken {p : Nat} {r : LearnReq} {rest : List LearnReq} {d : TblDecl}
    (queue : s.learnQueue p = r :: rest) (decl : s.decl r.table = some d) (learn : r.move = false)
    (turn : s.learnTurn = true) (jobs : s.tbl.jobs = []) : s.learnAccept p = (s.tookRequest p rest).learnNew d r := by
  have idle : s.identityBusy r.table r.domain r.key = false := by
    unfold State.identityBusy
    rw [jobs]
    rfl
  unfold State.learnAccept
  rw [queue]
  dsimp only
  rw [decl]
  exact if_neg (by rw [learn, turn, idle]; decide)

/-- With no command, move or discard on its way, learn request `r` finds its key absent, its port below its limit, and for
its entry position `pos` of the only unit `u`; its table does not notify. -/
structure State.LearnsAt (s : State) (r : LearnReq) (d : TblDecl) (u pos : Nat) : Prop where
  jobs : s.tbl.jobs = []
  moves : s.tbl.moves = []
  discards : s.tbl.discards = []
  decl : s.decl r.table = some d
  fresh : ∀ x ∈ s.tableEntries r.table, sameIdentity (s.learnJob r) x.2 = false
  below : s.get (LRN_PORT.learned r.port) < s.get (LRN_PORT.limit r.port)
  units : s.unitsOf d r.domain = [u]
  room : s.full d u = false
  plan : s.plan d u (s.learnJob r) = .write pos
  inside : pos < 2 ^ 20
  small : r.table < 256
  silent : s.get (TBL_LRN_CFG.notify r.table) = 0

/-- The engine's only command is the learn request's; the registers are `g`. -/
def State.learnStarted (s : State) (g : List (Nat × Word)) (r : LearnReq) : State :=
  { s with regs := g, tbl := { s.tbl with
      jobs := [s.learnJob r], nextJob := s.tbl.nextJob + 1, seq := s.tbl.seq + 1 } }

theorem State.relearn_only (s : State) (p : Nat) : OnlyRegs s (s.relearn p) :=
  ((OnlyRegs.refl s).put _ _).putFlag _ _

section
variable {r : LearnReq} {d : TblDecl} {u pos : Nat}

/-- The entry that the request learns, in each pipe of its unit. -/
def State.learnedEntry (s : State) (r : LearnReq) : Entry :=
  { newEntry (s.learnJob r) with hidden := false, handle := s.freeHandle r.table }

/-- Taken in its turn the request leaves its queue's rest, and the tables as they were. -/
theorem State.LearnsAt.tookRequest (h : s.LearnsAt r d u pos) (p : Nat) (rest : List LearnReq) :
    (s.tookRequest p rest).LearnsAt r d u pos where
  jobs := h.jobs
  moves := h.moves
  discards := h.discards
  decl := h.decl
  fresh := h.fresh
  below := h.below
  units := h.units
  room := (State.full_congr rfl d u).trans h.room
  plan := (State.plan_congr rfl rfl rfl d u (s.learnJob r)).trans h.plan
  inside := h.inside
  small := h.small
  silent := h.silent

theorem State.LearnsAt.learnNew_starts (h : s.LearnsAt r d u pos) :
    s.learnNew d r = (s.learnStarted (s.relearn r.port).regs r).beginPlace d (s.learnJob r) := by
  have unlearned : ¬((s.tableEntries r.table).any (fun x => sameIdentity (s.learnJob r) x.2)) = true := by
    rw [List.any_eq_true]
    rintro ⟨x, mem, same⟩
    exact absurd same (by rw [h.fresh x mem]; decide)
  have placed : ¬(s.unitsOf d r.domain).isEmpty = true := by rw [h.units]; simp
  have only := s.relearn_only r.port
  unfold State.learnNew State.learnStarted
  dsimp only
  rw [if_neg unlearned, if_neg (Nat.not_le.mpr h.below), if_neg placed]
  unfold OnlyRegs at only
  generalize (s.relearn r.port).regs = g at only ⊢
  rw [only]
  dsimp only
  rw [h.jobs]
  rfl

/-- The lowest free number of an iteration does not rest on a command that has not started. -/
theorem State.learnStarted_freeHandle {g : List (Nat × Word)} (jobs : s.tbl.jobs = []) :
    (s.learnStarted g r).freeHandle r.table = s.freeHandle r.table := by
  have unstarted : (s.learnStarted g r).tbl.jobs.filter (fun j => j.table = r.table && j.started && !j.done) = [] :=
    List.filter_cons_of_neg (by show ¬(_ && false && true) = true; simp)
  unfold State.freeHandle
  rw [unstarted, jobs]
  rfl

/-- The request's command, once started, adds its entry in every pipe of its unit; what it leaves of the registers rests on
those it starts with. -/
theorem State.LearnsAt.beginPlace (h : s.LearnsAt r d u pos) {g : List (Nat × Word)}
    (silent : regGet g (TBL_LRN_CFG.notify r.table) = 0) :
    ∃ n c m, (s.learnStarted g r).beginPlace d (s.learnJob r) = { s with
        regs := ((s.learnStarted g r).portOver r.port).regs, img := { s.img with jobs := c }
        tbl := { s.tbl with
          entries := m, nodes := n, jobs := [], nextJob := s.tbl.nextJob + 1, seq := s.tbl.seq + 1 } } ∧
      ∀ q ∈ unitPipes u, smGet noEntry m (entryKey q d.id pos) = some (s.learnedEntry r) := by
  have place : (s.learnStarted g r).HasPlace d (s.learnJob r) u pos :=
    ⟨rfl, h.moves, (State.full_congr rfl d u).trans h.room, (State.plan_congr rfl rfl rfl d u _).trans h.plan⟩
  obtain ⟨n, c, m, learned, stands⟩ :=
    State.beginPlace_learns place h.discards h.decl h.units h.inside h.fresh rfl rfl rfl h.small silent
  have handle : (s.learnStarted g r).freeHandle (s.learnJob r).table = s.freeHandle r.table :=
    State.learnStarted_freeHandle h.jobs
  rw [handle] at stands
  exact ⟨n, c, m, learned, stands⟩

/-- The request adds its entry in every pipe of its unit, and its port counts it. -/
theorem State.LearnsAt.learnNew (h : s.LearnsAt r d u pos) :
    ∃ n c m g, s.learnNew d r = { s with
        regs := g, img := { s.img with jobs := c }
        tbl := { s.tbl with
          entries := m, nodes := n, jobs := [], nextJob := s.tbl.nextJob + 1, seq := s.tbl.seq + 1 } } ∧
      (∀ q ∈ unitPipes u, smGet noEntry m (entryKey q d.id pos) = some (s.learnedEntry r)) ∧
      regGet g (LRN_PORT.learned r.port) = s.get (LRN_PORT.learned r.port) + 1 := by
  have unasked : regGet (s.relearn r.port).regs (TBL_LRN_CFG.notify r.table) = 0 := by
    rw [← State.get_eq, State.get_relearn_far (lrnPort_ne_lrnCfg h.small)]
    exact h.silent
  obtain ⟨n, c, m, learned, stands⟩ := h.beginPlace unasked
  refine ⟨n, c, m, _, h.learnNew_starts.trans learned, stands, ?_⟩
  have begun : (s.learnStarted (s.relearn r.port).regs r).regs = (s.relearn r.port).regs := rfl
  rw [← State.get_eq, State.portOver_learned, State.get_congr begun]
  exact State.relearn_learned h.below

/-- The engine takes a learn request in its turn and adds its entry. -/
theorem State.LearnsAt.learnAccept (h : s.LearnsAt r d u pos) {p : Nat} {rest : List LearnReq}
    (queue : s.learnQueue p = r :: rest) (learn : r.move = false) (turn : s.learnTurn = true) :
    (s.learnAccept p).learnQueue p = rest ∧
      (∀ q ∈ unitPipes u, (s.learnAccept p).entryAt q d.id pos = some (s.learnedEntry r)) ∧
      (s.learnAccept p).get (LRN_PORT.learned r.port) = s.get (LRN_PORT.learned r.port) + 1 ∧
      (s.learnAccept p).tbl.jobs = [] ∧ s.Same [.tbl, .img] (s.learnAccept p) := by
  obtain ⟨n, c, m, g, learned, stands, counted⟩ := (h.tookRequest p rest).learnNew
  rw [State.learnAccept_taken queue h.decl learn turn h.jobs, learned]
  refine ⟨s.learnQueue_set p rest, stands, counted, rfl, fun part other => ?_⟩
  cases part with
  | tbl => exact absurd (by decide) other
  | img => exact absurd (by decide) other
  | _ => rfl

end

/-! ### Move requests (R238) -/

theorem stationMove_moves {p : Nat} {r : LearnReq} {rest : List LearnReq} {x : Nat × Entry}
    (queue : s.learnQueue p = r :: rest) (move : r.move = true) (small : r.table < 256)
    (turn : s.learnTurn = true) (idle : s.identityBusy r.table r.domain r.key = false) (found : s.station r = some x)
    (other : bitsOf x.2.data 0 10 ≠ r.port)
    (below : s.get (LRN_PORT.learned r.port) < s.get (LRN_PORT.limit r.port))
    (silent : s.get (TBL_LRN_CFG.notify r.table) = 0) :
    s.stationMove p = ((s.tookRequest p rest).mapCopies r.table x.2.seq (movedTo r.port)).countMove
      (bitsOf x.2.data 0 10) r.port :=
  (State.stationMove_taken queue move turn idle).trans
    (State.moveStation_moves (s := s.tookRequest p rest) found other small below silent)

/-- The port of an entry that has moved. -/
theorem movedTo_port {port : Nat} (h : port < 1024) (e : Entry) : bitsOf (movedTo port e).data 0 10 = port :=
  (bitsOf_setBits_same _ _ _ _).trans (Nat.mod_eq_of_lt h)

/-- The copies of a moved station stand at the new port, unhit and of age 0; its two ports' counts follow. -/
theorem State.stationMove_counts {v t : State} {tb port q old : Nat}
    (moved : t = (v.mapCopies tb q (movedTo port)).countMove old port) (other : old ≠ port) (oldPort : old < 1024)
    (newPort : port < 1024) (below : v.get (LRN_PORT.learned port) < v.get (LRN_PORT.limit port)) :
    (∀ y ∈ t.tableEntries tb, y.2.seq = q → bitsOf y.2.data 0 10 = port ∧ y.2.hit = false ∧ y.2.age = 0) ∧
      t.tbl.entries.map (·.1) = v.tbl.entries.map (·.1) ∧ t.tbl.learn = v.tbl.learn ∧
      t.get (LRN_PORT.learned port) = v.get (LRN_PORT.learned port) + 1 ∧
      t.get (LRN_PORT.learned old) = v.get (LRN_PORT.learned old) - 1 ∧
      t.get TBL_LRN_STAT.moves = min (v.get TBL_LRN_STAT.moves + 1) 65535 ∧ v.Same [.tbl] t ∧
      v.Frame noRegs [LRN_PORT.learned port, LRN_PORT.over port, LRN_PORT.learned old, LRN_PORT.over old,
        TBL_LRN_STAT.moves] t := by
  subst moved
  have only := (v.mapCopies tb q (movedTo port)).countMove_only old port
  have tables := only.tbl_eq
  refine ⟨fun y mem seq => ?_, (congrArg (fun x : TblSt => x.entries.map (·.1)) tables).trans (v.mapCopies_keys _ _ _),
    (congrArg TblSt.learn tables).trans rfl,
    State.countMove_new (s := v.mapCopies tb q (movedTo port)) other newPort below,
    State.countMove_old (s := v.mapCopies tb q (movedTo port)) other oldPort,
    State.countMove_moves (s := v.mapCopies tb q (movedTo port)) oldPort newPort, ?_, ?_⟩
  · rw [State.tableEntries_congr (congrArg TblSt.entries tables)] at mem
    obtain ⟨e, -, copy⟩ := State.mapCopies_rewritten (f := movedTo port) (fun _ => rfl) mem seq
    rw [copy]
    exact ⟨movedTo_port newPort e, rfl, rfl⟩
  · exact (State.Same.of_tbl (s := v) (t := v.mapCopies tb q (movedTo port)) rfl).trans (only.same _)
  · exact (v.mapCopies tb q (movedTo port)).countMove_frame old port

/-- Settles O47: each request is taken in its turn and its effect computed from the state it meets; every visit of the sweep
is one of three rewrites of all copies of the entry. -/
theorem entriesAreLearnedMovedAndAged : Obligations.EntriesAreLearnedMovedAndAged := by
  unfold Obligations.EntriesAreLearnedMovedAndAged
  intro s _
  refine ⟨?learn, ?move, ?unblock, ?discard, ?age⟩
  case learn =>
    intro p r rest d u pos queue _ learn _ decl turn jobs moves discards fresh below units room plan inside small silent
    have learns : s.LearnsAt r d u pos :=
      ⟨jobs, moves, discards, decl, fun x mem => (fresh x mem).2, below, units, room, plan, inside, small, silent⟩
    exact ⟨_, rfl, learns.learnAccept queue learn turn⟩
  case move =>
    intro p r rest x queue _ move port small turn idle found other below silent
    refine ⟨_, rfl, ?_⟩
    have moved := stationMove_moves queue move small turn idle found other below silent
    obtain ⟨copies, keys, queues, new, old, count, same, frame⟩ :=
      State.stationMove_counts (v := s.tookRequest p rest) moved other (bitsOf_lt _ _ 10) port below
    have taken : s.Same [.tbl] (s.tookRequest p rest) := State.Same.of_tbl rfl
    have left : (s.stationMove p).learnQueue p = rest := by
      unfold State.learnQueue
      rw [queues]
      exact s.learnQueue_set p rest
    exact ⟨left, copies, keys, new, old, count, taken.trans same, frame⟩
  case unblock =>
    intro tb running
    exact ⟨_, congrArg Host.Outcome.next (State.gatedWrite_run running _), s.unblock_blocked tb,
      (State.put_only _ _ _).same _, s.unblock_frame tb⟩
  case discard =>
    intro tb brine
    exact ⟨_, congrArg Host.Outcome.next (State.gatedWrite_discarded brine _), s.bump_brineWrites,
      (State.put_only _ _ _).same _, (State.Frame.refl _ _ s).putNamed List.mem_cons_self (by decide) _⟩
  case age =>
    intro tb p pos e stands inside on interval running ages added kept shown idle
    have meets : s.SweepMeets tb p pos e := ⟨stands, on, interval, running, ages, added, kept, shown, idle⟩
    refine ⟨congrArg Host.Outcome.next (s.ageVisit_late tb p pos), ?hit, ?young, ?old⟩
    case hit =>
      intro hit
      exact ⟨_, rfl, meets.rewritten tb.isLt inside 0 (meets.hit hit)⟩
    case young =>
      intro unhit young
      obtain ⟨place, copies, same, regs⟩ := meets.rewritten tb.isLt inside (e.age + 1) (meets.young unhit young)
      exact ⟨_, rfl, place, fun y mem seq => (copies y mem seq).2, same, regs⟩
    case old =>
      intro unhit old turn jobs silent
      refine ⟨_, congrArg Host.Outcome.next (meets.old tb.isLt unhit old turn jobs silent),
        State.entryAt_deleteEntry (s := s.tookLearnTurn) tb.isLt inside stands, fun _ => State.deleteEntry_gone, ?_⟩
      have taken : s.Same [.tbl] s.tookLearnTurn := .of_tbl rfl
      exact taken.trans ((Frees.refl tb.val s.tookLearnTurn).deleteEntry added kept).same

end Sys2Proof.Machine
end

section
/-! PROOFS. Fabric reads and writes of memories (07_placement_fabric.md R259, R266, R279): a memory after many writes, a
bit that is cleared, and what joins a port's stream. -/

-- One declaration at a time: the package is compiled as one text, and a thread for each would not fit.
set_option Elab.async false

namespace Sys2Proof.Machine

variable {s t : State}

/-! ### Many writes to a memory -/

section

variable {α : Type} [DecidableEq α] {d : Nat → α} {m : List (Nat × α)} {l : List (Nat × α)}

theorem smGet_smPutAll_other {k : Nat} (h : ∀ x ∈ l, k ≠ x.1) : smGet d (smPutAll d m l) k = smGet d m k := by
  induction l generalizing m with
  | nil => rfl
  | cons x l ih =>
    rw [smPutAll, ih (fun y hy => h y (List.mem_cons_of_mem _ hy)), smGet_smPut_other _ _ _ (h x List.mem_cons_self)]

/-- A key whose writes all agree reads what they write. -/
theorem smGet_smPutAll_of_mem {x : Nat × α} (mem : x ∈ l) (agree : ∀ y ∈ l, y.1 = x.1 → y.2 = x.2) :
    smGet d (smPutAll d m l) x.1 = x.2 := by
  induction l generalizing m with
  | nil => exact absurd mem List.not_mem_nil
  | cons y l ih =>
    by_cases later : ∃ z ∈ l, z.1 = x.1
    · obtain ⟨z, hz, key⟩ := later
      have same : z = x := Prod.ext key (agree z (List.mem_cons_of_mem _ hz) key)
      exact ih (same ▸ hz) (fun w hw => agree w (List.mem_cons_of_mem _ hw))
    · have first : x = y := (List.mem_cons.mp mem).resolve_right (fun h => later ⟨x, h, rfl⟩)
      subst first
      rw [smPutAll, smGet_smPutAll_other (fun z hz e => later ⟨z, hz, e.symm⟩), smGet_smPut_same]

/-- Writing the value of each item of a list at the item's key. -/
theorem foldl_smPut_eq_smPutAll {ι : Type} (key : ι → Nat) (val : ι → α) (l : List ι) (m : List (Nat × α)) :
    l.foldl (fun m i => smPut d m (key i) (val i)) m = smPutAll d m (l.map (fun i => (key i, val i))) := by
  induction l generalizing m with
  | nil => rfl
  | cons i l ih => exact ih _

end

theorem bitAt_setBits_cleared (v i : Nat) : bitAt (setBits v i 1 0) i = false := by
  rw [bitAt_eq_testBit, testBit_setBits, if_pos (by omega), Nat.zero_testBit]

/-! ### Conditions -/

theorem State.gated_of_running (running : s.pwrState < 2) : s.gated = false := decide_eq_false (by omega)

theorem State.flag_of_one {f : Fld} (h : s.get f = 1) : s.flag f = true := decide_eq_true h

theorem State.flag_of_zero {f : Fld} (h : s.get f = 0) : s.flag f = false := decide_eq_false (by omega)

theorem State.fabEnabled_of_running (enabled : s.get PL_FAB_STATUS.enabled = 1) (running : s.pwrState < 2) :
    s.fabEnabled = true := by
  rw [State.fabEnabled, State.flag_of_one enabled, State.gated_of_running running]
  rfl

/-! ### The stream of a Ristlink port (11_serial_lanes.md R426) -/

theorem State.sendStream_io_congr (h : t.io = s.io) (p : Nat) (frame : Bool) (b : List Byte) :
    (t.sendStream p frame b).io = (s.sendStream p frame b).io := by
  have port : t.port p = s.port p := by unfold State.port; rw [h]
  simp only [State.sendStream, State.setPort, State.send_io, h, port]

@[simp] theorem State.sendStream_regs (s : State) (p : Nat) (frame : Bool) (b : List Byte) :
    (s.sendStream p frame b).regs = s.regs := rfl

@[simp] theorem State.sendStream_pl (s : State) (p : Nat) (frame : Bool) (b : List Byte) :
    (s.sendStream p frame b).pl = s.pl := rfl

@[simp] theorem State.sendStream_item (s : State) (p : Nat) (b : List Byte) :
    (s.sendStream p false b).out = .item p b :: s.out := rfl

@[simp] theorem State.sendStream_credit (s : State) (p : Nat) (frame : Bool) (b : List Byte) (k : Nat) :
    (s.sendStream p frame b).credit k = s.credit k := rfl

theorem State.sendStream_same (s : State) (p : Nat) (frame : Bool) (b : List Byte) :
    s.Same [.out, .io] (s.sendStream p frame b) := by
  intro q m
  cases q with
  | out => exact absurd (by decide) m
  | io => exact absurd (by decide) m
  | _ => rfl

end Sys2Proof.Machine
end

section
/-! PROOFS. The snapshot that new flowlets choose by and the sweep that ends idle flowlets (07_placement_fabric.md R257,
R259, R281). -/

-- One declaration at a time: the package is compiled as one text, and a thread for each would not fit.
set_option Elab.async false

namespace Sys2Proof.Machine

variable {s : State}

/-! ### The snapshot (R259) -/

theorem execLevelSnapshot_of_running (running : s.pwrState < 2) : exec .levelSnapshot s = .next s.levelSnapshot :=
  congrArg Host.Outcome.next (if_neg (by rw [State.gated_of_running running]; decide))

theorem State.mem_slowPipes (s : State) {p : Nat} (pipe : p < 32) :
    p ∈ s.levelSnapshot.pl.slowPipes ↔ 2 ≤ s.get (PWR_PIPE_STAT.ratio p) := by
  simp only [State.levelSnapshot, List.mem_filter, List.mem_range, pipe, true_and, decide_eq_true_eq]

/-- A port of the active image's map is in the snapshot where it is up. -/
theorem State.mem_upPorts {i : Image} (active : s.img.active = some i) {r : PortRec} (mem : r ∈ i.ports) :
    r.port ∈ s.levelSnapshot.pl.upPorts ↔ s.portUp r.port = true := by
  simp only [State.levelSnapshot, active, List.mem_map, List.mem_filter]
  constructor
  · rintro ⟨q, ⟨-, up⟩, same⟩
    rwa [← same]
  · exact fun up => ⟨r, ⟨mem, up⟩, rfl⟩

/-- A port queue that holds a copy stands in the snapshot with its depth. -/
theorem State.levelSnapshot_depth {c : Copy} (mem : c ∈ s.pk.copies) (queue : isPortQueue c.queue = true) :
    s.levelSnapshot.snapDepth c.queue = s.depth c.queue := by
  have listed : c.queue ∈ ((s.pk.copies.map (·.queue)).filter isPortQueue).eraseDups := by
    rw [List.mem_eraseDups, List.mem_filter]
    exact ⟨List.mem_map_of_mem mem, queue⟩
  refine (congrArg (smGet natZero · c.queue) (foldl_smPut_eq_smPutAll (fun q => q) s.depth _ [])).trans ?_
  refine smGet_smPutAll_of_mem (x := (c.queue, s.depth c.queue)) (List.mem_map_of_mem listed) (fun y hy same => ?_)
  obtain ⟨q, -, rfl⟩ := List.mem_map.mp hy
  exact congrArg s.depth same

/-! ### The sweep (R257) -/

section

variable {p i e : Nat} (inside : i < 2 ^ 17) (entry : s.flowlet (p * 2 ^ 17 + i) = e)
include inside entry

/-- An entry of no valid group, or idle for its group's gap, ends. -/
theorem State.flowletSweep_ends (running : s.pwrState < 2) (valid : flValid e = true)
    (due : grValid (s.plGroup (flGroup e)) = false ∨ grGap (s.plGroup (flGroup e)) ≤ s.flowIdle e) :
    s.flowletSweep p i = s.setFlowlet (p * 2 ^ 17 + i) (setBits e 0 1 0) := by
  simp only [State.flowletSweep, Nat.mod_eq_of_lt inside, entry]
  exact if_pos (by simpa [valid, State.gated_of_running running] using due)

theorem State.flowletSweep_stays (group : grValid (s.plGroup (flGroup e)) = true)
    (busy : s.flowIdle e < grGap (s.plGroup (flGroup e))) : s.flowletSweep p i = s := by
  simp only [State.flowletSweep, Nat.mod_eq_of_lt inside, entry]
  exact if_neg (by simp [group, busy])

end

theorem State.flowlet_setFlowlet_same (s : State) (k v : Nat) : (s.setFlowlet k v).flowlet k = v := smGet_smPut_same _ _ _ _

theorem State.flowlet_setFlowlet_other (s : State) {k j : Nat} (h : j ≠ k) (v : Nat) :
    (s.setFlowlet k v).flowlet j = s.flowlet j := smGet_smPut_other _ _ _ h

end Sys2Proof.Machine
end

section
/-! PROOFS. Beacons sent (07_placement_fabric.md R264, R265, R285): what a link's next block leaves. -/

-- One declaration at a time: the package is compiled as one text, and a thread for each would not fit.
set_option Elab.async false

namespace Sys2Proof.Machine

variable {s : State} {f : Nat}

/-- The sweep numbers once link `f` sends its next block: its own steps at block 0 (notes/assumptions/84.md). -/
def State.nextSweep (s : State) (f : Nat) : List (Nat × Nat) :=
  if smGet natZero s.pl.block f = 0 then smPut natZero s.pl.sweep f ((smGet natZero s.pl.sweep f + 1) % 256) else s.pl.sweep

theorem State.nextSweep_within (later : smGet natZero s.pl.block f ≠ 0) : s.nextSweep f = s.pl.sweep := if_neg later

theorem State.nextSweep_first (first : smGet natZero s.pl.block f = 0) :
    smGet natZero (s.nextSweep f) f = (smGet natZero s.pl.sweep f + 1) % 256 :=
  (congrArg (smGet natZero · f) (if_pos first)).trans (smGet_smPut_same _ _ _ _)

/-- The block that link `f` sends. -/
def State.nextBeacon (s : State) (f : Nat) : List Byte :=
  State.beacon { s with pl := { s.pl with sweep := s.nextSweep f } } f

/-- Link `f` has sent its next block, and the block after it is due an interval later. -/
def State.beaconSent (s : State) (f : Nat) : State :=
  let u := s.sendStream (s.get (PL_LINK.port f)) false (s.nextBeacon f)
  { u with pl := { s.pl with
    block := smPut natZero s.pl.block f ((smGet natZero s.pl.block f + 1) % 16)
    sweep := s.nextSweep f
    sent := smPut natZero s.pl.sent f (s.clk + clkOfNs (s.get PL_BEACON_CFG.interval_ns)) } }

/-- The last block of a sweep is counted. -/
def State.countSweep (s : State) (block : Nat) : State := if block = 15 then s.bumpWrap PL_FAB_STATUS.sweeps 1 else s

theorem State.sendBlock_eq (s : State) (f : Nat) :
    State.sendBlock { s with pl := { s.pl with
      sent := smPut natZero s.pl.sent f (s.clk + clkOfNs (s.get PL_BEACON_CFG.interval_ns)) } } f =
    (s.beaconSent f).countSweep (smGet natZero s.pl.block f) := by
  by_cases first : smGet natZero s.pl.block f = 0
  · simp only [State.sendBlock, State.beaconSent, State.nextBeacon, State.nextSweep, first, if_true]
    rfl
  · simp only [State.sendBlock, State.beaconSent, State.nextBeacon, State.nextSweep, first, if_false]
    rfl

theorem State.beaconSend_due (enabled : s.get PL_FAB_STATUS.enabled = 1) (running : s.pwrState < 2)
    (valid : s.get (PL_LINK.valid f) = 1) (up : s.portUp (s.get (PL_LINK.port f)) = true)
    (due : smGet natZero s.pl.sent f ≤ s.clk) :
    s.beaconSend f = (s.beaconSent f).countSweep (smGet natZero s.pl.block f) := by
  rw [← State.sendBlock_eq]
  exact if_pos (by simp [State.fabEnabled_of_running enabled running, State.flag_of_one valid, up, due])

theorem State.countSweep_only (s : State) (block : Nat) : OnlyRegs s (s.countSweep block) :=
  OnlyRegs.ite ((OnlyRegs.refl s).bumpWrap _ _) (.refl s)

theorem State.countSweep_pl (s : State) (block : Nat) : (s.countSweep block).pl = s.pl := (s.countSweep_only block).agrees .pl

theorem State.countSweep_out (s : State) (block : Nat) : (s.countSweep block).out = s.out :=
  (s.countSweep_only block).agrees .out

theorem State.countSweep_io (s : State) (block : Nat) : (s.countSweep block).io = s.io := (s.countSweep_only block).agrees .io

theorem State.countSweep_sweeps (s : State) (block : Nat) : (s.countSweep block).get PL_FAB_STATUS.sweeps =
    (s.get PL_FAB_STATUS.sweeps + if block = 15 then 1 else 0) % 2 ^ 32 := by
  unfold State.countSweep
  split
  · exact s.get_put_self (f := PL_FAB_STATUS.sweeps) (by decide) _
  · exact (Nat.mod_eq_of_lt (s.get_lt (f := PL_FAB_STATUS.sweeps))).symm

theorem State.countSweep_frame (s : State) (block : Nat) : s.Frame noRegs [PL_FAB_STATUS.sweeps] (s.countSweep block) := by
  unfold State.countSweep
  split
  · exact (State.Frame.refl _ _ s).putNamed List.mem_cons_self (by decide) _
  · exact .refl _ _ s

theorem State.beaconSent_same (s : State) (f : Nat) : s.Same [.pl, .out, .io] (s.beaconSent f) :=
  ((s.sendStream_same _ _ _).mono (by simp)).trans ((State.Same.of_pl _ _).mono (by simp))

end Sys2Proof.Machine
end

section
/-! PROOFS. Beacons received and neighbours that fall silent (07_placement_fabric.md R266, R267, R276, R281). -/

-- One declaration at a time: the package is compiled as one text, and a thread for each would not fit.
set_option Elab.async false

namespace Sys2Proof.Machine

variable {s t : State} {f port : Nat} {b : List Byte}

/-! ### A neighbour that becomes live or stops being live (R267) -/

/-- What a neighbour's state shows in registers. -/
def liveFields (f : Nat) : List Fld := [PL_LINK.neighbor_live f, PL_FAB_STATUS.links_live]

theorem link_ne_fabStatus (f : Nat) : PL_LINK.regOff f ≠ PL_FAB_STATUS.regOff := by
  unfold PL_LINK.regOff PL_FAB_STATUS.regOff
  omega

/-- The registers of `setLive`, with the map left as it is. -/
def State.showLive (s : State) (f : Nat) (b : Bool) : State :=
  (s.putFlag (PL_LINK.neighbor_live f) b).put PL_FAB_STATUS.links_live
    (if b && !s.flag (PL_LINK.neighbor_live f) then s.get PL_FAB_STATUS.links_live + 1
    else if !b && s.flag (PL_LINK.neighbor_live f) then s.get PL_FAB_STATUS.links_live - 1
    else s.get PL_FAB_STATUS.links_live)

/-- The map once link `f` reaches nothing. -/
def clearReach (f : Nat) (m : List (Nat × Nat)) : List (Nat × Nat) :=
  m.filterMap (fun x =>
    if x.1 % 128 = f then (if setBits x.2 6 1 0 = 0 then none else some (x.1, setBits x.2 6 1 0)) else some x)

theorem State.showLive_only (s : State) (f : Nat) (b : Bool) : OnlyRegs s (s.showLive f b) :=
  ((OnlyRegs.refl s).putFlag _ _).put _ _

theorem State.setLive_true (s : State) (f : Nat) : s.setLive f true = s.showLive f true := rfl

theorem State.setLive_false_pl (s : State) (f : Nat) :
    (s.setLive f false).pl = { s.pl with map := clearReach f s.pl.map } := by
  have shown : (s.showLive f false).pl = s.pl := (s.showLive_only f false).agrees .pl
  show ({ (s.showLive f false).pl with map := clearReach f (s.showLive f false).pl.map } : PlSt) = _
  rw [shown]

theorem clearReach_unreachable {m : List (Nat × Nat)} {x : Nat × Nat} (mem : x ∈ clearReach f m) (link : x.1 % 128 = f) :
    mapReach x.2 = false := by
  obtain ⟨y, -, kept⟩ := List.mem_filterMap.mp mem
  split at kept
  · split at kept
    · exact absurd kept (by simp)
    · rw [← Option.some.inj kept]
      exact bitAt_setBits_cleared y.2 6
  · next other =>
    rw [Option.some.inj kept] at other
    exact absurd link other

theorem State.setLive_regs (s : State) (f : Nat) (b : Bool) : (s.setLive f b).regs = (s.showLive f b).regs := by
  cases b <;> rfl

theorem State.setLive_same (s : State) (f : Nat) (b : Bool) : s.Same [.pl] (s.setLive f b) := by
  cases b with
  | true => exact (s.showLive_only f true).same _
  | false => exact ((s.showLive_only f false).same _).trans (.of_pl _ _)

theorem State.setLive_frame (s : State) (f : Nat) (b : Bool) : s.Frame noRegs (liveFields f) (s.setLive f b) :=
  State.Frame.same (((State.Frame.refl _ _ s).putNamed (f := PL_LINK.neighbor_live f) (by simp [liveFields])
    (Nat.le_of_ble_eq_true rfl) _).putNamed (by simp [liveFields]) (by decide) _) (s.setLive_regs f b)

theorem State.setLive_live (s : State) (f : Nat) (b : Bool) : (s.setLive f b).get (PL_LINK.neighbor_live f) = b2n b := by
  rw [State.get_congr (s.setLive_regs f b), State.showLive, State.get_put_far _ (link_ne_fabStatus f), State.putFlag,
    State.get_put_self _ (Nat.le_of_ble_eq_true rfl)]
  cases b <;> rfl

/-- Every other field of the link's register stays. -/
theorem State.setLive_link (s : State) {g : Fld} (link : g.off = PL_LINK.regOff f)
    (apart : g.Apart (PL_LINK.neighbor_live f)) (b : Bool) : (s.setLive f b).get g = s.get g := by
  refine s.setLive_frame f b g id (fun x m => ?_)
  simp only [liveFields, List.mem_cons, List.not_mem_nil, or_false] at m
  rcases m with rfl | rfl
  · exact apart
  · exact Or.inl (by rw [link]; exact link_ne_fabStatus f)

theorem State.neighborTimeout_silent (live : s.get (PL_LINK.neighbor_live f) = 1)
    (silent : smGet natZero s.pl.heard f +
      clkOfNs (s.get PL_BEACON_CFG.timeout * s.get PL_BEACON_CFG.interval_ns) ≤ s.clk) :
    s.neighborTimeout f = s.setLive f false :=
  if_pos (by simp [State.flag_of_one live, silent])

/-! ### The block of a beacon is written to the map (R266) -/

/-- Entries of block `k` of link `f` as a beacon gives them, all but the device's own. -/
def blockEntries (own f k : Nat) (b : List Byte) : List (Nat × Nat) :=
  ((List.range 64).filter (fun j => 64 * k + j ≠ own)).map
    (fun j => ((64 * k + j) * 128 + f, (b.getD (16 + j) 0).toNat % 128))

theorem State.writeBlock_eq (s : State) (f k : Nat) (b : List Byte) : s.writeBlock f k b =
    { s with pl := { s.pl with map := smPutAll natZero s.pl.map (blockEntries s.ownChip f k b) } } := by
  unfold State.writeBlock blockEntries
  generalize List.range 64 = l
  induction l generalizing s with
  | nil => rfl
  | cons j l ih =>
    rw [List.foldl_cons, ih, List.filter_cons]
    by_cases own : 64 * k + j = s.ownChip
    · simp [own]
    · simp only [own, if_false, ne_eq, not_false_eq_true, decide_true, if_true, List.map_cons, smPutAll]
      rfl

theorem mem_blockEntries {own k : Nat} {x : Nat × Nat} (mem : x ∈ blockEntries own f k b) :
    ∃ j < 64, x = ((64 * k + j) * 128 + f, (b.getD (16 + j) 0).toNat % 128) := by
  obtain ⟨j, listed, rfl⟩ := List.mem_map.mp mem
  exact ⟨j, List.mem_range.mp (List.mem_filter.mp listed).1, rfl⟩

theorem State.mapByte_congr (h : t.pl = s.pl) (d f : Nat) : t.mapByte d f = s.mapByte d f := by
  unfold State.mapByte
  rw [h]

theorem State.mapByte_writeBlock_in (s : State) {k j : Nat} (inside : j < 64) (other : 64 * k + j ≠ s.ownChip) :
    (s.writeBlock f k b).mapByte (64 * k + j) f = (b.getD (16 + j) 0).toNat % 128 := by
  rw [State.writeBlock_eq]
  refine smGet_smPutAll_of_mem (x := ((64 * k + j) * 128 + f, (b.getD (16 + j) 0).toNat % 128)) ?_ (fun y mem key => ?_)
  · exact List.mem_map.mpr ⟨j, List.mem_filter.mpr ⟨List.mem_range.mpr inside, decide_eq_true other⟩, rfl⟩
  · obtain ⟨i, -, rfl⟩ := mem_blockEntries mem
    have same : i = j := by simp only at key; omega
    rw [same]

theorem State.mapByte_writeBlock_out (s : State) {k d : Nat} (outside : d / 64 ≠ k) :
    (s.writeBlock f k b).mapByte d f = s.mapByte d f := by
  rw [State.writeBlock_eq]
  refine smGet_smPutAll_other (fun x mem => ?_)
  obtain ⟨i, inside, rfl⟩ := mem_blockEntries mem
  simp only
  omega

/-! ### The link of a port -/

theorem State.linkOfPort_lt (h : s.linkOfPort port = some f) : f < 128 :=
  List.mem_range.mp (List.mem_of_find?_eq_some h)

/-- What placement reads after an item was counted in the performance counters of its port's lanes. -/
theorem Tally.get_fabric {a : Nat} (h : Tally (perfRegs (lmBase a)) [] s t) {g : Fld} (low : g.off < 0x832000) :
    t.get g = s.get g :=
  h.get (firstDie_not_perfRegs (Or.inl low)) (fun _ m => nomatch m)

theorem Tally.get_link {a n : Nat} (h : Tally (perfRegs (lmBase a)) [] s t) (small : n < 128) {g : Fld}
    (link : g.off = PL_LINK.regOff n) : t.get g = s.get g :=
  h.get_fabric (by rw [link]; unfold PL_LINK.regOff; omega)

theorem Tally.linkOfPort {a : Nat} (h : Tally (perfRegs (lmBase a)) [] s t) (p : Nat) : t.linkOfPort p = s.linkOfPort p := by
  unfold State.linkOfPort State.flag
  refine List.find?_congr (fun n mem => ?_)
  rw [h.get_link (List.mem_range.mp mem) (g := PL_LINK.valid n) rfl,
    h.get_link (List.mem_range.mp mem) (g := PL_LINK.port n) rfl]

theorem Tally.fabEnabled {a : Nat} (h : Tally (perfRegs (lmBase a)) [] s t) (enabled : s.get PL_FAB_STATUS.enabled = 1)
    (running : s.pwrState < 2) : t.fabEnabled = true := by
  have power : t.pwrState = s.pwrState := h.get (firstDie_not_perfRegs (by decide)) (fun _ m => nomatch m)
  refine State.fabEnabled_of_running ?_ (by rw [power]; exact running)
  rw [h.get_fabric (by decide), enabled]

theorem Tally.ownChip {a : Nat} (h : Tally (perfRegs (lmBase a)) [] s t) : t.ownChip = s.ownChip := h.get_fabric (by decide)

theorem Tally.pl {R : Region} {l : List Fld} (h : Tally R l s t) : t.pl = s.pl := by rw [h.rest]

/-- The parts that a tally leaves alone. -/
theorem Tally.same {R : Region} {l : List Fld} (h : Tally R l s t) : s.Same [.hif] t := by
  intro p m
  rw [h.rest]
  cases p with
  | hif => exact absurd (by decide) m
  | _ => rfl

/-! ### A beacon arrives (R266, R281) -/

/-- The chip that a beacon comes from. -/
def beaconSource (b : List Byte) : Nat := bitsOf (beAt b 0 16) 86 10

/-- The block of the map that a beacon gives. -/
def beaconBlock (b : List Byte) : Nat := bitsOf (beAt b 0 16) 80 4

/-- The fields that show a neighbour's chip, throttle level and reasons. -/
def State.showNeighbor (s : State) (f : Nat) (b : List Byte) : State :=
  s.puts [(PL_LINK.neighbor_chip f, beaconSource b), (PL_LINK.neighbor_throttle f, bitsOf (beAt b 0 16) 84 2),
    (PL_LINK.neighbor_reasons f, bitsOf (beAt b 0 16) 60 4)]

/-- Link `f` was heard now. -/
def State.markHeard (s : State) (f : Nat) : State :=
  { s with pl := { s.pl with heard := smPut natZero s.pl.heard f s.clk } }

theorem State.markHeard_ownChip (s : State) (f : Nat) : (s.markHeard f).ownChip = s.ownChip :=
  State.get_congr rfl PL_FAB_CFG.chip_id

/-- A neighbour's beacon is accepted on link `f`, before its link becomes live. -/
def State.learnBlock (s : State) (f : Nat) (b : List Byte) : State :=
  ((s.showNeighbor f b).markHeard f).writeBlock f (beaconBlock b) b

/-- The fields of `State.showNeighbor`. -/
def neighborFields (f : Nat) : List Fld :=
  [PL_LINK.neighbor_chip f, PL_LINK.neighbor_throttle f, PL_LINK.neighbor_reasons f]

theorem State.showNeighbor_only (s : State) (f : Nat) (b : List Byte) : OnlyRegs s (s.showNeighbor f b) :=
  (OnlyRegs.refl s).puts _

theorem State.showNeighbor_frame (s : State) (f : Nat) (b : List Byte) :
    s.Frame noRegs (neighborFields f) (s.showNeighbor f b) :=
  (((State.Frame.refl _ _ s).putNamed (f := PL_LINK.neighbor_chip f) (by simp [neighborFields])
    (Nat.le_of_ble_eq_true rfl) _).putNamed (f := PL_LINK.neighbor_throttle f) (by simp [neighborFields])
    (Nat.le_of_ble_eq_true rfl) _).putNamed (f := PL_LINK.neighbor_reasons f) (by simp [neighborFields])
    (Nat.le_of_ble_eq_true rfl) _

/-- The three fields share no bit, and each reads what the beacon's header gives. -/
theorem State.showNeighbor_gets (s : State) (f : Nat) (b : List Byte) :
    (s.showNeighbor f b).get (PL_LINK.neighbor_chip f) = beaconSource b ∧
    (s.showNeighbor f b).get (PL_LINK.neighbor_throttle f) = bitsOf (beAt b 0 16) 84 2 ∧
    (s.showNeighbor f b).get (PL_LINK.neighbor_reasons f) = bitsOf (beAt b 0 16) 60 4 := by
  have fits : ∀ lo w, bitsOf (beAt b 0 16) lo w % 2 ^ w = bitsOf (beAt b 0 16) lo w :=
    fun lo w => Nat.mod_eq_of_lt (bitsOf_lt _ lo w)
  unfold State.showNeighbor
  simp only [State.puts]
  refine ⟨?_, ?_, ?_⟩
  · rw [State.get_put_disjoint _ _ ⟨Nat.le_of_ble_eq_true rfl, .inl (Nat.le_of_ble_eq_true rfl)⟩,
      State.get_put_disjoint _ _ ⟨Nat.le_of_ble_eq_true rfl, .inl (Nat.le_of_ble_eq_true rfl)⟩,
      State.get_put_self _ (Nat.le_of_ble_eq_true rfl)]
    exact fits 86 10
  · rw [State.get_put_disjoint _ _ ⟨Nat.le_of_ble_eq_true rfl, .inl (Nat.le_of_ble_eq_true rfl)⟩,
      State.get_put_self _ (Nat.le_of_ble_eq_true rfl)]
    exact fits 84 2
  · rw [State.get_put_self _ (Nat.le_of_ble_eq_true rfl)]
    exact fits 60 4

theorem State.showNeighbor_pl (s : State) (f : Nat) (b : List Byte) : (s.showNeighbor f b).pl = s.pl :=
  (s.showNeighbor_only f b).agrees .pl

theorem State.showNeighbor_ownChip (s : State) (f : Nat) (b : List Byte) : (s.showNeighbor f b).ownChip = s.ownChip := by
  refine s.showNeighbor_frame f b PL_FAB_CFG.chip_id id (fun g m => Or.inl ?_)
  have link : g.off = PL_LINK.regOff f := by
    simp only [neighborFields, List.mem_cons, List.not_mem_nil, or_false] at m
    rcases m with rfl | rfl | rfl <;> rfl
  rw [link]
  show 0x810010 ≠ 0x811000 + 0x8 * f
  omega

theorem State.learnBlock_regs (s : State) (f : Nat) (b : List Byte) :
    (s.learnBlock f b).regs = (s.showNeighbor f b).regs := by
  rw [State.learnBlock, State.writeBlock_eq]
  rfl

theorem State.learnBlock_same (s : State) (f : Nat) (b : List Byte) : s.Same [.pl] (s.learnBlock f b) := by
  rw [State.learnBlock, State.writeBlock_eq]
  exact (((s.showNeighbor_only f b).same _).trans (.of_pl _ _)).trans (.of_pl _ _)

theorem State.learnBlock_pl (s : State) (f : Nat) (b : List Byte) : (s.learnBlock f b).pl =
    { s.pl with map := (s.learnBlock f b).pl.map, heard := (s.learnBlock f b).pl.heard } := by
  rw [State.learnBlock, State.writeBlock_eq, State.markHeard, State.showNeighbor_pl]

theorem State.learnBlock_mapByte_in (s : State) {j : Nat} (inside : j < 64) (other : 64 * beaconBlock b + j ≠ s.ownChip) :
    (s.learnBlock f b).mapByte (64 * beaconBlock b + j) f = (b.getD (16 + j) 0).toNat % 128 := by
  have own : ((s.showNeighbor f b).markHeard f).ownChip = s.ownChip :=
    ((s.showNeighbor f b).markHeard_ownChip f).trans (s.showNeighbor_ownChip f b)
  rw [State.learnBlock, State.mapByte_writeBlock_in _ inside (by rwa [own])]

theorem State.learnBlock_mapByte_out (s : State) {d : Nat} (outside : d / 64 ≠ beaconBlock b) :
    (s.learnBlock f b).mapByte d f = s.mapByte d f := by
  rw [State.learnBlock, State.mapByte_writeBlock_out _ outside]
  unfold State.mapByte State.markHeard
  rw [State.showNeighbor_pl]

/-- A duplicate of the device's own number: the link stops being live, and a fault is raised. -/
def State.hearOwn (s : State) (port f : Nat) (b : List Byte) : State :=
  ((s.put (PL_LINK.dup_chip f) 1).setLive f false).raise (1536 + f) 2 (port + beaconSource b * 2 ^ 10)

/-- The beacon of another chip: its link becomes live unless it stands as a duplicate. -/
def State.hearOther (s : State) (f : Nat) (b : List Byte) : State :=
  if (s.learnBlock f b).flag (PL_LINK.dup_chip f) then s.learnBlock f b else (s.learnBlock f b).setLive f true

/-- The state once an item is counted at its port's lanes. -/
def State.countItem (s : State) (port : Nat) : State := s.lanePerf port 0x4A 1

theorem State.countItem_tally (s : State) (port : Nat) :
    Tally (perfRegs (lmBase (s.laneOf port))) [] s (s.countItem port) :=
  (Tally.refl _ _ s).lanePerf 0x4A 1

/-- A beacon on a Ristlink port that is link `f`'s. -/
theorem State.beaconReceive_eq (ristlink : s.isRistlink port = true) (up : s.portUp port = true)
    (link : (s.countItem port).linkOfPort port = some f) : s.beaconReceive port b =
      if !(s.countItem port).fabEnabled then s.countItem port
      else if beAt b 2 2 ≠ (s.countItem port).get PL_FAB_CFG.domain_id then (s.countItem port).badItem port
      else if beaconSource b = (s.countItem port).ownChip then (s.countItem port).hearOwn port f b
      else (s.countItem port).hearOther f b := by
  unfold State.beaconReceive
  rw [if_neg (by simp [ristlink, up])]
  show (match (s.countItem port).linkOfPort port with | none => _ | some f => _) = _
  rw [link]
  rfl

/-- A beacon of its own fabric domain arrives on link `f`, while placement runs. -/
structure State.HearsBeacon (s : State) (port f : Nat) (b : List Byte) : Prop where
  ristlink : s.isRistlink port = true
  up : s.portUp port = true
  link : s.linkOfPort port = some f
  enabled : s.get PL_FAB_STATUS.enabled = 1
  running : s.pwrState < 2
  domain : beAt b 2 2 = s.get PL_FAB_CFG.domain_id

theorem State.HearsBeacon.beaconReceive (h : s.HearsBeacon port f b) : s.beaconReceive port b =
    if beaconSource b = s.ownChip then (s.countItem port).hearOwn port f b else (s.countItem port).hearOther f b := by
  have counted := s.countItem_tally port
  have domain : beAt b 2 2 = (s.countItem port).get PL_FAB_CFG.domain_id :=
    h.domain.trans (counted.get_fabric (by decide)).symm
  rw [State.beaconReceive_eq h.ristlink h.up ((counted.linkOfPort port).trans h.link),
    counted.fabEnabled h.enabled h.running, counted.ownChip, if_neg (by decide), if_neg (not_not.mpr domain)]

/-! ### The beacon of another chip -/

/-- The fields of the link that a neighbour's beacon leaves alone. -/
theorem State.learnBlock_get (s : State) (f : Nat) (b : List Byte) {g : Fld}
    (apart : ∀ x ∈ neighborFields f, g.Apart x) : (s.learnBlock f b).get g = s.get g :=
  (State.get_congr (s.learnBlock_regs f b) g).trans (s.showNeighbor_frame f b g id apart)

theorem apart_neighborFields {g : Fld} (above : 32 ≤ g.lo) : ∀ x ∈ neighborFields f, g.Apart x := by
  intro x m
  have top : x.lo + x.w ≤ 32 := by
    simp only [neighborFields, List.mem_cons, List.not_mem_nil, or_false] at m
    rcases m with rfl | rfl | rfl <;> exact Nat.le_of_ble_eq_true rfl
  exact Or.inr (Or.inr (top.trans above))

section

variable (unique : s.get (PL_LINK.dup_chip f) = 0)
include unique

theorem State.hearOther_eq : s.hearOther f b = (s.learnBlock f b).setLive f true := by
  have stays : (s.learnBlock f b).get (PL_LINK.dup_chip f) = 0 :=
    (s.learnBlock_get f b (apart_neighborFields (Nat.le_of_ble_eq_true rfl))).trans unique
  exact if_neg (by rw [State.flag_of_zero stays]; decide)

theorem State.hearOther_pl : (s.hearOther f b).pl = (s.learnBlock f b).pl := by
  rw [State.hearOther_eq unique, State.setLive_true]
  exact (State.showLive_only _ f true).agrees .pl

theorem State.hearOther_same : s.Same [.pl] (s.hearOther f b) := by
  rw [State.hearOther_eq unique]
  exact (s.learnBlock_same f b).trans (State.setLive_same _ f true)

theorem State.hearOther_frame : s.Frame noRegs (neighborFields f ++ liveFields f) (s.hearOther f b) := by
  rw [State.hearOther_eq unique]
  have block : s.Frame noRegs (neighborFields f) (s.learnBlock f b) :=
    (s.showNeighbor_frame f b).same (s.learnBlock_regs f b)
  exact (block.mono (fun _ => id) (fun _ => List.mem_append_left _)).trans
    ((State.setLive_frame _ f true).mono (fun _ => id) (fun _ => List.mem_append_right _))

theorem State.hearOther_live : (s.hearOther f b).get (PL_LINK.neighbor_live f) = 1 := by
  rw [State.hearOther_eq unique]
  exact State.setLive_live _ f true

/-- The fields that the beacon's header gives. -/
theorem State.hearOther_header : (s.hearOther f b).get (PL_LINK.neighbor_chip f) = beaconSource b ∧
    (s.hearOther f b).get (PL_LINK.neighbor_throttle f) = bitsOf (beAt b 0 16) 84 2 ∧
    (s.hearOther f b).get (PL_LINK.neighbor_reasons f) = bitsOf (beAt b 0 16) 60 4 := by
  have shown : ∀ g : Fld, g.off = PL_LINK.regOff f → g.lo + g.w ≤ 32 →
      (s.hearOther f b).get g = (s.showNeighbor f b).get g := by
    intro g link below
    rw [State.hearOther_eq unique, State.setLive_link _ link (Or.inr (Or.inl below))]
    exact State.get_congr (s.learnBlock_regs f b) g
  obtain ⟨chip, throttle, reasons⟩ := s.showNeighbor_gets f b
  exact ⟨(shown _ rfl (Nat.le_of_ble_eq_true rfl)).trans chip, (shown _ rfl (Nat.le_of_ble_eq_true rfl)).trans throttle,
    (shown _ rfl (Nat.le_of_ble_eq_true rfl)).trans reasons⟩

end

/-! ### A duplicate of the device's own number (R281) -/

theorem link_not_faultRegs (small : f < 128) : ¬faultRegs (PL_LINK.regOff f) := by
  unfold faultRegs hostRegs perfRegs eventRegs hifBlock perfBlock PL_LINK.regOff FLT_CFG.regOff FLT_SRC.regOff
    HIF_STAT.regOff PERF_CNT.regOff RING_STAT.regOff
  omega

theorem State.hearOwn_spec (inv : s.Inv) (small : f < 128) (b : List Byte) :
    (s.hearOwn port f b).get (PL_LINK.dup_chip f) = 1 ∧ (s.hearOwn port f b).get (PL_LINK.neighbor_live f) = 0 ∧
    (s.hearOwn port f b).get (FLT_SRC.cont_pend (1536 + f)) = 1 ∧ s.Same [.pl, .out, .hif, .flt] (s.hearOwn port f b) := by
  unfold State.hearOwn
  generalize hv : (s.put (PL_LINK.dup_chip f) 1).setLive f false = v
  have listed : sourceListed (1536 + f) = true := by
    unfold sourceListed
    rw [if_neg (by omega)]
    exact decide_eq_true (by omega)
  have raised := State.raise_calm (s := v) (1536 + f) 2 (port + beaconSource b * 2 ^ 10)
  have stays : ∀ g : Fld, g.off = PL_LINK.regOff f →
      (v.raise (1536 + f) 2 (port + beaconSource b * 2 ^ 10)).get g = v.get g :=
    fun g link => raised.frame g (by rw [link]; exact link_not_faultRegs small) (fun _ m => nomatch m)
  have held : v.Inv := hv ▸ (State.setLive_keep (State.put_keep (Keep.refl s))).inv inv
  have pending := State.raiseWith_sets (cls := 2) held listed (port + beaconSource b * 2 ^ 10) false
  refine ⟨?dup, ?live, pending.1, ?same⟩
  case dup =>
    rw [stays _ rfl, ← hv, State.setLive_link _ rfl (Or.inr (Or.inr (Nat.le_of_ble_eq_true rfl))),
      State.get_put_self _ (Nat.le_of_ble_eq_true rfl)]
    rfl
  case live =>
    rw [stays _ rfl, ← hv]
    exact State.setLive_live _ f false
  case same =>
    have before : s.Same [.pl] v := hv ▸ ((State.put_only _ _ _).same _).trans (State.setLive_same _ f false)
    exact (before.mono (by simp)).trans (raised.parts.mono (by simp))

end Sys2Proof.Machine
end

section
/-! PROOFS. Credits received and returned (07_placement_fabric.md R278, R279). -/

-- One declaration at a time: the package is compiled as one text, and a thread for each would not fit.
set_option Elab.async false

namespace Sys2Proof.Machine

variable {s : State} {port : Nat}

/-! ### The credits of a port's classes -/

/-- The credits of the classes of `l` at a port, each replaced by what `g` makes of it. -/
def State.mapCredits (s : State) (port : Nat) (g : Nat → Credit → Credit) (l : List Nat) : State :=
  l.foldl (fun s c => s.setCredit (port * 4 + c) (g c (s.credit (port * 4 + c)))) s

theorem State.credit_setCredit_same (s : State) (k : Nat) (x : Credit) : (s.setCredit k x).credit k = x :=
  smGet_smPut_same _ _ _ _

theorem State.credit_setCredit_other (s : State) {k j : Nat} (h : j ≠ k) (x : Credit) :
    (s.setCredit k x).credit j = s.credit j :=
  smGet_smPut_other _ _ _ h

theorem State.mapCredits_eq (s : State) (port : Nat) (g : Nat → Credit → Credit) (l : List Nat) :
    ∃ m, s.mapCredits port g l = { s with pl := { s.pl with credits := m } } := by
  induction l generalizing s with
  | nil => exact ⟨s.pl.credits, rfl⟩
  | cons c l ih =>
    obtain ⟨m, rest⟩ := ih (s.setCredit (port * 4 + c) (g c (s.credit (port * 4 + c))))
    exact ⟨m, rest⟩

theorem State.credit_mapCredits_other (s : State) (g : Nat → Credit → Credit) {l : List Nat} {k : Nat}
    (h : ∀ c ∈ l, k ≠ port * 4 + c) : (s.mapCredits port g l).credit k = s.credit k := by
  induction l generalizing s with
  | nil => rfl
  | cons c l ih =>
    have step := ih (s.setCredit (port * 4 + c) (g c (s.credit (port * 4 + c)))) (fun x m => h x (List.mem_cons_of_mem _ m))
    exact step.trans (s.credit_setCredit_other (h c List.mem_cons_self) _)

theorem State.credit_mapCredits_same (s : State) (g : Nat → Credit → Credit) {l : List Nat} (once : l.Nodup) {c : Nat}
    (mem : c ∈ l) : (s.mapCredits port g l).credit (port * 4 + c) = g c (s.credit (port * 4 + c)) := by
  induction l generalizing s with
  | nil => exact absurd mem List.not_mem_nil
  | cons a l ih =>
    obtain ⟨new, once⟩ := List.nodup_cons.mp once
    rcases List.mem_cons.mp mem with rfl | later
    · have untouched : ∀ x ∈ l, port * 4 + c ≠ port * 4 + x := fun x m same => new (by rwa [show c = x by omega])
      have step := (s.setCredit (port * 4 + c) (g c (s.credit (port * 4 + c)))).credit_mapCredits_other g untouched
      exact step.trans (s.credit_setCredit_same _ _)
    · have apart : c ≠ a := fun e => new (e ▸ later)
      have step := ih (s.setCredit (port * 4 + a) (g a (s.credit (port * 4 + a)))) once later
      rw [s.credit_setCredit_other (by omega)] at step
      exact step

theorem State.mapCredits_same (s : State) (port : Nat) (g : Nat → Credit → Credit) (l : List Nat) :
    s.Same [.pl] (s.mapCredits port g l) := by
  obtain ⟨m, e⟩ := s.mapCredits_eq port g l
  rw [e]
  exact .of_pl _ _

theorem State.mapCredits_pl (s : State) (port : Nat) (g : Nat → Credit → Credit) (l : List Nat) :
    (s.mapCredits port g l).pl = { s.pl with credits := (s.mapCredits port g l).pl.credits } := by
  obtain ⟨m, e⟩ := s.mapCredits_eq port g l
  rw [e]

theorem State.mapCredits_regs (s : State) (port : Nat) (g : Nat → Credit → Credit) (l : List Nat) :
    (s.mapCredits port g l).regs = s.regs := by
  obtain ⟨m, e⟩ := s.mapCredits_eq port g l
  rw [e]

theorem State.mapCredits_out (s : State) (port : Nat) (g : Nat → Credit → Credit) (l : List Nat) :
    (s.mapCredits port g l).out = s.out := s.mapCredits_same port g l .out (by decide)

theorem State.mapCredits_io (s : State) (port : Nat) (g : Nat → Credit → Credit) (l : List Nat) :
    (s.mapCredits port g l).io = s.io := s.mapCredits_same port g l .io (by decide)

/-! ### A CREDIT item arrives -/

/-- A class's credit after the item `b`: its absolute count, or a return that is added (R279). -/
def creditAfter (b : List Byte) (c : Nat) (x : Credit) : Credit :=
  if bitAt (beAt b 2 1) 0 then { x with avail := beAt b (4 + 2 * c) 2, init := beAt b (4 + 2 * c) 2, heard := true }
  else { x with avail := min 65535 (x.avail + beAt b (4 + 2 * c) 2) }

theorem State.creditReceive_eq (ristlink : s.isRistlink port = true) (up : s.portUp port = true) (b : List Byte) :
    s.creditReceive port b = (s.countItem port).mapCredits port (creditAfter b) (List.range 4) :=
  if_neg (by simp [ristlink, up])

theorem State.countItem_credit (s : State) (port k : Nat) : (s.countItem port).credit k = s.credit k := by
  rw [(s.countItem_tally port).rest]
  rfl

/-! ### What a port owes -/

/-- The counts of the init item that a link-up owes. -/
def State.initCounts (s : State) (port : Nat) : List Nat :=
  (List.range 4).map fun c => if s.isLossless port c then (s.headroom port c).cells else 0

/-- The counts of the returns that are owed, as far as one item carries them. -/
def State.owedCounts (s : State) (port : Nat) : List Nat :=
  (List.range 4).map fun c => min 65535 (s.credit (port * 4 + c)).owed

/-- A class's credit once the item with `counts` returned what it carries. -/
def creditReturned (counts : List Nat) (c : Nat) (x : Credit) : Credit := { x with owed := x.owed - nth counts c }

theorem nth_owedCounts (s : State) (port : Nat) {c : Nat} (small : c < 4) :
    nth (s.owedCounts port) c = min 65535 (s.credit (port * 4 + c)).owed := by
  simp [nth, State.owedCounts, small]

/-- The port's link-up no longer owes its init item. -/
def State.initPaid (s : State) (port : Nat) : State :=
  { s with pl := { s.pl with initOwed := s.pl.initOwed.filter (fun p => p ≠ port) } }

section

variable (enabled : s.get PL_FAB_STATUS.enabled = 1) (running : s.pwrState < 2) (ristlink : s.isRistlink port = true)
  (up : s.portUp port = true)
include enabled running ristlink up

theorem State.creditSend_init (owed : port ∈ s.pl.initOwed) :
    s.creditSend port = (s.initPaid port).sendStream port false (creditItem true (s.initCounts port)) := by
  unfold State.creditSend
  rw [if_neg (by simp [State.fabEnabled_of_running enabled running, ristlink, up]), if_pos (List.contains_iff_mem.mpr owed)]
  rfl

theorem State.creditSend_returns (paid : port ∉ s.pl.initOwed) (owed : ∃ c < 4, (s.credit (port * 4 + c)).owed ≠ 0)
    (fill : s.fifoFill (s.pipeOf port) ≤ 98304) :
    s.creditSend port = (s.mapCredits port (creditReturned (s.owedCounts port)) (List.range 4)).sendStream port false
      (creditItem false (s.owedCounts port)) := by
  have something : (s.owedCounts port).all (fun n => n = 0) = false := by
    obtain ⟨c, small, some⟩ := owed
    refine List.all_eq_false.mpr ⟨_, List.mem_map.mpr ⟨c, List.mem_range.mpr small, rfl⟩, ?_⟩
    simpa using some
  unfold State.creditSend
  rw [if_neg (by simp [State.fabEnabled_of_running enabled running, ristlink, up]),
    if_neg (by simpa [List.contains_iff_mem] using paid)]
  refine (if_neg ?_).trans rfl
  rw [Bool.or_eq_true, not_or]
  exact ⟨fun none => Bool.false_ne_true (something.symm.trans none), by simpa using fill⟩

end

end Sys2Proof.Machine
end

section
/-! PROOFS. Fabric snapshots, beacons and credits (07_placement_fabric.md R257-R281), O50. -/

-- One declaration at a time: the package is compiled as one text, and a thread for each would not fit.
set_option Elab.async false

namespace Sys2Proof.Machine

/-- Settles O50: each event's meaning is rewritten to the few writes it makes, and what each write leaves is read off. -/
theorem fabricSnapshotsBeaconsAndCredits : Obligations.FabricSnapshotsBeaconsAndCredits := by
  unfold Obligations.FabricSnapshotsBeaconsAndCredits
  intro s inv
  refine ⟨?snapshot, ?sweep, ?send, ?receive, ?silent, ?credits, ?returns⟩
  case snapshot =>
    intro running
    exact ⟨_, execLevelSnapshot_of_running running, fun _ => s.mem_slowPipes, fun _ active _ => State.mem_upPorts active,
      fun _ => State.levelSnapshot_depth, rfl, .of_pl _ _, rfl⟩
  case sweep =>
    intro p i inside running valid _
    refine ⟨fun due => ⟨_, congrArg Host.Outcome.next (State.flowletSweep_ends inside rfl running valid due), ?_,
      fun k other => s.flowlet_setFlowlet_other other _, rfl, .of_pl _ _, rfl⟩,
      fun group busy => congrArg Host.Outcome.next (State.flowletSweep_stays inside rfl group busy)⟩
    rw [State.flowlet_setFlowlet_same]
    exact bitAt_setBits_cleared _ 0
  case send =>
    intro f enabled running valid up due _
    refine ⟨_, congrArg Host.Outcome.next (State.beaconSend_due enabled running valid up due), ?_⟩
    rw [State.countSweep_pl, State.countSweep_out, State.countSweep_io, State.countSweep_sweeps]
    exact ⟨rfl, fun _ => smGet_smPut_same _ _ _ _, State.nextSweep_within, fun first _ => State.nextSweep_first first,
      smGet_smPut_same _ _ _ _, rfl, rfl, rfl, (s.beaconSent_same f).trans ((State.countSweep_only _ _).same _),
      (s.beaconSent f).countSweep_frame _⟩
  case receive =>
    intro port f b ristlink up link enabled running domain
    have hears : s.HearsBeacon port f b := ⟨ristlink, up, link, enabled, running, domain⟩
    have small := State.linkOfPort_lt link
    have counted := s.countItem_tally port
    refine ⟨fun other unique => ⟨_, congrArg Host.Outcome.next (hears.beaconReceive.trans (if_neg other)), ?_⟩,
      fun own => ⟨_, congrArg Host.Outcome.next (hears.beaconReceive.trans (if_pos own)), ?_⟩⟩
    · have single : (s.countItem port).get (PL_LINK.dup_chip f) = 0 := (counted.get_link small rfl).trans unique
      obtain ⟨chip, throttle, reasons⟩ := State.hearOther_header (b := b) single
      refine ⟨chip, throttle, reasons, State.hearOther_live single, ?inside, ?outside, ?pl,
        counted.sameCounting_then (State.hearOther_same single),
        (counted.frame.mono (fun _ => id) (fun _ m => nomatch m)).trans
          ((State.hearOther_frame single).mono (fun _ => False.elim) (fun _ => id))⟩
      case pl =>
        rw [State.hearOther_pl single, State.learnBlock_pl, counted.pl]
      case inside =>
        intro j inside foreign _
        rw [State.mapByte_congr (State.hearOther_pl single)]
        exact State.learnBlock_mapByte_in _ inside (by rwa [counted.ownChip])
      case outside =>
        intro d outside
        rw [State.mapByte_congr (State.hearOther_pl single), State.learnBlock_mapByte_out _ outside]
        exact State.mapByte_congr counted.pl d f
    · obtain ⟨dup, live, pending, same⟩ := State.hearOwn_spec (port := port)
        ((State.lanePerf_keep (Keep.refl s)).inv inv : (s.countItem port).Inv) small b
      exact ⟨dup, live, pending, (counted.same.mono (by simp)).trans same⟩
  case silent =>
    intro f live silent
    refine ⟨_, congrArg Host.Outcome.next (State.neighborTimeout_silent live silent), s.setLive_live f false, ?_, ?_,
      s.setLive_same f false, s.setLive_frame f false⟩
    · rw [State.setLive_false_pl]
      exact fun x mem link => clearReach_unreachable mem link
    · rw [State.setLive_false_pl]
  case credits =>
    intro port b ristlink up _
    have counted := s.countItem_tally port
    refine ⟨_, congrArg Host.Outcome.next (State.creditReceive_eq ristlink up b), fun c small => ?_, fun k other => ?_, ?_,
      counted.sameCounting_then (State.mapCredits_same _ _ _ _), counted.frame.same (State.mapCredits_regs _ _ _ _)⟩
    · rw [State.credit_mapCredits_same _ _ List.nodup_range (List.mem_range.mpr small), State.countItem_credit]
      rfl
    · rw [State.credit_mapCredits_other _ _ (fun c mem => by have := List.mem_range.mp mem; omega), State.countItem_credit]
    · rw [State.mapCredits_pl, counted.pl]
  case returns =>
    intro port enabled running ristlink up
    refine ⟨fun owed => ?_, fun paid owed fill => ?_⟩
    · refine ⟨_, congrArg Host.Outcome.next (State.creditSend_init enabled running ristlink up owed), rfl,
        State.sendStream_io_congr rfl _ _ _, rfl, ?_, rfl⟩
      exact ((State.Same.of_pl s _).mono (by simp)).trans ((State.sendStream_same _ _ _ _).mono (by simp))
    · refine ⟨_, congrArg Host.Outcome.next (State.creditSend_returns enabled running ristlink up paid owed fill), ?out, ?owed,
        ?io, ?pl, ?same, ?regs⟩
      case out =>
        rw [State.sendStream_item, State.mapCredits_out]
        rfl
      case owed =>
        intro c small _
        rw [State.sendStream_credit, State.credit_mapCredits_same s _ List.nodup_range (List.mem_range.mpr small),
          creditReturned, nth_owedCounts s port small]
      case io => exact State.sendStream_io_congr (State.mapCredits_io _ _ _ _) _ _ _
      case pl =>
        rw [State.sendStream_pl]
        exact State.mapCredits_pl _ _ _ _
      case same =>
        exact ((State.mapCredits_same s _ _ _).mono (by simp)).trans ((State.sendStream_same _ _ _ _).mono (by simp))
      case regs => exact (State.sendStream_regs _ _ _ _).trans (State.mapCredits_regs _ _ _ _)

end Sys2Proof.Machine
end

section
/-! PROOFS. Stops of ports (08_shared_buffer.md R324, R325): the flush of a port that stops at once discards a copy that
carries a performance event of a block that is none of the device's. -/

-- One declaration at a time: the package is compiled as one text, and a thread for each would not fit.
set_option Elab.async false

namespace Sys2Proof.Machine

/-- A block whose first counter would be BUF_PORT_CFG of port 15, its event selection that of port 7 and its filter that
of port 11. `State.Inv` does not bound the block of a note. -/
def stopBlock : Nat := BUF_PORT_CFG.regOff 15 - 0xFC0

/-- A copy that waits in a queue of port 15 and has met one event of code 1 in `stopBlock`. -/
def stopCopy : Copy :=
  { strayCopy with
    queue := queueOf 15 0, at' := .queued, w := { strayCopy.w with port := 15, notes := [⟨stopBlock, 1, {}, 1⟩] } }

/-- Port 15 drains for no time, and port 7 is stopped, which selects code 1 in `stopBlock`. -/
def stopState : State :=
  let s := State.reset.puts [(BUF_PORT_CFG2.drain_us 15, 0), (BUF_PORT_CFG.stop 7, 1)]
  { s with pk := { s.pk with copies := [stopCopy] } }

theorem stopState_inv : stopState.Inv :=
  (Keep.plain (State.puts_keep (Keep.refl State.reset))).inv resetMeetsTheInvariant

/-- The copy that the stop flushes counts its event in BUF_PORT_CFG of port 15, where stop was 1 and the count makes it
2: bit 0 reads 0 again. -/
theorem stopState_runs_again : (stopState.gatedWrite (fun s => s.portStop 15)).get (BUF_PORT_CFG.stop 15) = 0 := by
  decide +kernel

/-- Refutes O55: the invariant lets a copy carry events of any block, so what a stopping port flushes can count in the
register that holds its stop bit. After the stop in `stopState` BUF_PORT_CFG shows port 15 running. -/
theorem not_portsPauseStopAndDrain : ¬ Obligations.PortsPauseStopAndDrain := by
  unfold Obligations.PortsPauseStopAndDrain
  intro h
  obtain ⟨-, -, -, stops, -⟩ := h stopState 15 stopState_inv
  obtain ⟨-, atOnce, -⟩ := stops (by decide +kernel)
  obtain ⟨t, e, stopped, -⟩ := atOnce (by decide +kernel)
  have stop : stopState.gatedWrite (fun s => s.portStop 15) = t := Host.Outcome.next.inj e
  have running : t.get (BUF_PORT_CFG.stop 15) = 0 := stop ▸ stopState_runs_again
  exact absurd (running.symm.trans stopped) (by decide)

end Sys2Proof.Machine
end

section
/-! PROOFS. What a change of charges leaves alone (08_shared_buffer.md R312, R315, R320): it moves the charges and the
XOFF states with their registers, and a trim besides what its packet has charged. -/

-- One declaration at a time: the package is compiled as one text, and a thread for each would not fit.
set_option Elab.async false

namespace Sys2Proof.Machine

variable {s t u : State}

/-! ### Composing what stays -/

theorem State.SameCounting.trans {l : List Part} (h : s.SameCounting l t) (g : t.SameCounting l u) :
    s.SameCounting l u := by
  intro p m
  have first := h p m
  have second := g p m
  split at first
  · next e => subst e; exact State.SameHost.trans first second
  · next e => rw [if_neg e] at second ⊢; exact first.trans second

theorem State.Same.counting {l : List Part} (h : s.Same l t) : s.SameCounting l t :=
  (Tally.refl noRegs [] s).sameCounting_then h

theorem State.Same.of_pk (s : State) (x : PktSt) : s.Same [.pk] { s with pk := x } := by
  intro p m
  cases p with
  | pk => exact absurd (by decide) m
  | _ => rfl

/-! ### Charges and XOFF states -/

/-- The registers that show charges and XOFF states: BUF_POOL_STAT and BUF_PORT_CFG2. -/
def chargeRegs : Region := fun k =>
  (BUF_POOL_STAT.regOff 0 ≤ k ∧ k < BUF_POOL_STAT.regOff 8) ∨
    (BUF_PORT_CFG2.regOff 0 ≤ k ∧ k < BUF_PORT_CFG2.regOff 1024)

theorem chargeRegs_pool {k : Nat} (h : k < 8) : chargeRegs (BUF_POOL_STAT.regOff k) := by
  refine Or.inl ?_
  unfold BUF_POOL_STAT.regOff
  omega

theorem chargeRegs_port {p : Nat} (h : p < 1024) : chargeRegs (BUF_PORT_CFG2.regOff p) := by
  refine Or.inr ?_
  unfold BUF_PORT_CFG2.regOff
  omega

/-- `t` differs from `s` in charges and XOFF states and the registers that show them alone. -/
structure ChargesMoved (s t : State) : Prop where
  rest : t = { s with
    regs := t.regs
    buf := { s.buf with quotaUsed := t.buf.quotaUsed, headUsed := t.buf.headUsed, xoff := t.buf.xoff
                        pfcClear := t.buf.pfcClear } }
  frame : s.Frame chargeRegs [] t

theorem ChargesMoved.refl (s : State) : ChargesMoved s s := ⟨rfl, .refl _ _ _⟩

theorem ChargesMoved.trans (h : ChargesMoved s t) (g : ChargesMoved t u) : ChargesMoved s u where
  rest := by rw [g.rest, h.rest]
  frame := h.frame.trans g.frame

theorem ChargesMoved.same (h : ChargesMoved s t) : s.Same [.buf] t := by
  intro p m
  rw [h.rest]
  cases p with
  | buf => exact absurd (by decide) m
  | _ => rfl

theorem ChargesMoved.pk (h : ChargesMoved s t) : t.pk = s.pk := h.same .pk (by decide)

theorem ChargesMoved.cells (h : ChargesMoved s t) : t.buf.cellState = s.buf.cellState := by rw [h.rest]

theorem ChargesMoved.cache (h : ChargesMoved s t) : t.buf.cache = s.buf.cache := by rw [h.rest]

theorem ChargesMoved.subring (h : ChargesMoved s t) : t.buf.subring = s.buf.subring := by rw [h.rest]

theorem ChargesMoved.bad (h : ChargesMoved s t) : t.buf.bad = s.buf.bad := by rw [h.rest]

/-- A put into a register of charges. -/
theorem ChargesMoved.put (h : ChargesMoved s t) {f : Fld} (m : chargeRegs f.off) (v : Nat) :
    ChargesMoved s (t.put f v) where
  rest := by rw [h.rest]; rfl
  frame := h.frame.putIn m v

/-- A change of charges and XOFF states themselves. -/
theorem ChargesMoved.buf (h : ChargesMoved s t) (quota head xoff clear : List (Nat × Nat)) :
    ChargesMoved s { t with
      buf := { t.buf with quotaUsed := quota, headUsed := head, xoff := xoff, pfcClear := clear } } where
  rest := by rw [h.rest]
  frame := h.frame.same rfl

theorem State.setXoff_moved (s : State) (k v : Nat) : ChargesMoved s (s.setXoff k v) := by
  unfold State.setXoff
  exact ((ChargesMoved.refl s).buf _ _ _ _).put (chargeRegs_port (Nat.mod_lt _ (by decide))) _

theorem State.xoffTry_moved (s : State) (k : Nat) : ChargesMoved s (s.xoffTry k) := by
  unfold State.xoffTry
  dsimp only
  split
  · exact (s.setXoff_moved k 0).buf _ _ _ _
  · exact .refl s

theorem State.xoffSweep_moved (s : State) (sec : Nat) : ChargesMoved s (s.xoffSweep sec) :=
  List.foldlRecOn (motive := ChargesMoved s) _ _ (.refl s) (fun t h k _ => h.trans (t.xoffTry_moved k))

theorem State.unchargeCells_moved (s : State) (c : Charge) (n : Nat) : ChargesMoved s (s.unchargeCells c n) := by
  cases c with
  | none => exact .refl s
  | quota k => exact (ChargesMoved.refl s).buf _ _ _ _
  | pool p => exact (ChargesMoved.refl s).put (chargeRegs_pool (Nat.mod_lt _ (by decide))) _
  | headroom k => exact ((ChargesMoved.refl s).buf _ _ _ _).trans (State.xoffTry_moved _ k)

/-! ### A packet's charge -/

/-- The packet once it gave back `n` of its charged cells, or as many as it has. -/
def trimmed (p : Pkt) (n : Nat) : Pkt := { p with charged := p.charged - min n p.charged }

theorem State.trimCharge_moved (s : State) (p : Pkt) (n : Nat) :
    ChargesMoved (s.setPkt (trimmed p n)) (s.trimCharge p n) := State.unchargeCells_moved _ _ _

theorem State.trimCharge_same (s : State) (p : Pkt) (n : Nat) : s.Same [.pk, .buf] (s.trimCharge p n) :=
  ((s.setPkt_same _).mono (by decide)).trans ((s.trimCharge_moved p n).same.mono (by decide))

theorem State.pkt_trimCharge_same {p q : Pkt} (h : s.pkt p.id = some q) (n : Nat) :
    (s.trimCharge p n).pkt p.id = some (trimmed p n) :=
  (State.pkt_congr (congrArg PktSt.pkts (s.trimCharge_moved p n).pk) _).trans
    (State.pkt_setPkt_same (p := trimmed p n) h)

theorem State.trimCharge_copies (s : State) (p : Pkt) (n : Nat) : (s.trimCharge p n).pk.copies = s.pk.copies :=
  (congrArg PktSt.copies (s.trimCharge_moved p n).pk).trans rfl

end Sys2Proof.Machine
end

section
/-! PROOFS. The group of a pipe's next cell (08_shared_buffer.md R292): one with a pointer, not the previous cell's,
whose bank set the fewest accesses wait for. -/

-- One declaration at a time: the package is compiled as one text, and a thread for each would not fit.
set_option Elab.async false

namespace Sys2Proof.Machine

variable {s : State} {pipe : Nat} {prev : Option Nat} {waiting : List Nat}

/-- The groups that a pipe's next cell can lie in, in the order of R292. -/
def State.openGroups (s : State) (pipe : Nat) (prev : Option Nat) : List Nat :=
  ((List.range 32).map (fun i => (pipe + s.packetCount pipe + i) % 32)).filter
    (fun g => !(s.ptrs pipe g).isEmpty && prev ≠ some g)

/-- The accesses that wait for the bank set of the next pointer of group `g`. -/
def State.groupLoad (s : State) (pipe : Nat) (waiting : List Nat) (g : Nat) : Nat :=
  nth waiting (8 * g + cellBankSet (ptrCell ((s.ptrs pipe g).headD 0)))

/-- The first of the lightest numbers of `g` and `l`. -/
def lightest (load : Nat → Nat) (g : Nat) (l : List Nat) : Nat :=
  l.foldl (fun b h => if load h < load b then h else b) g

theorem State.chooseGroup_eq (s : State) (pipe : Nat) (prev : Option Nat) (waiting : List Nat) :
    s.chooseGroup pipe prev waiting = match s.openGroups pipe prev with
      | [] => none
      | g :: t => some (lightest (s.groupLoad pipe waiting) g t) := rfl

theorem lightest_spec (load : Nat → Nat) (g : Nat) (l : List Nat) :
    lightest load g l ∈ g :: l ∧ ∀ h ∈ g :: l, load (lightest load g l) ≤ load h := by
  induction l generalizing g with
  | nil => simp [lightest]
  | cons a l ih =>
    obtain ⟨mem, least⟩ := ih (if load a < load g then a else g)
    have picked : lightest load g (a :: l) = lightest load (if load a < load g then a else g) l := rfl
    have first := least _ List.mem_cons_self
    have atMost : load (if load a < load g then a else g) ≤ load g ∧
        load (if load a < load g then a else g) ≤ load a := by
      split <;> omega
    rw [picked]
    refine ⟨?_, fun h m => ?_⟩
    · rcases List.mem_cons.mp mem with e | later
      · rw [e]; split <;> simp
      · exact List.mem_cons_of_mem _ (List.mem_cons_of_mem _ later)
    · rcases List.mem_cons.mp m with rfl | m
      · exact first.trans atMost.1
      · rcases List.mem_cons.mp m with rfl | later
        · exact first.trans atMost.2
        · exact least h (List.mem_cons_of_mem _ later)

theorem State.mem_openGroups {g : Nat} :
    g ∈ s.openGroups pipe prev ↔ g < 32 ∧ s.ptrs pipe g ≠ [] ∧ prev ≠ some g := by
  have all : (∃ i < 32, (pipe + s.packetCount pipe + i) % 32 = g) ↔ g < 32 := by
    refine ⟨fun ⟨i, _, e⟩ => by omega, fun h => ⟨(g + 32 - (pipe + s.packetCount pipe) % 32) % 32, by omega, by omega⟩⟩
  simp [State.openGroups, all]

theorem State.chooseGroup_some {g : Nat} (h : s.chooseGroup pipe prev waiting = some g) :
    g ∈ s.openGroups pipe prev ∧
      ∀ o ∈ s.openGroups pipe prev, s.groupLoad pipe waiting g ≤ s.groupLoad pipe waiting o := by
  rw [State.chooseGroup_eq] at h
  split at h
  · cases h
  · next o l e => rw [e, ← Option.some.inj h]; exact lightest_spec _ o l

theorem State.chooseGroup_none (h : s.chooseGroup pipe prev waiting = none) : s.openGroups pipe prev = [] := by
  rw [State.chooseGroup_eq] at h
  split at h
  · assumption
  · cases h

end Sys2Proof.Machine
end

section
/-! PROOFS. The next cell of an admitted packet (08_shared_buffer.md R292-R294, R312): its state word, the chain from
the packet's previous cell, and what the packet has charged once its last cell is written. -/

-- One declaration at a time: the package is compiled as one text, and a thread for each would not fit.
set_option Elab.async false

namespace Sys2Proof.Machine

variable {s t u : State} {p : Pkt} {ptr n g : Nat} {last : Bool} {waiting : List Nat} {free : List Nat}

/-! ### State words (R293, R294) -/

theorem State.cell_setCell_same (s : State) (ptr v : Nat) : (s.setCell ptr v).cell ptr = v :=
  smGet_smPut_same _ _ _ _

theorem State.cell_setCell_other (s : State) {ptr a : Nat} (h : a ≠ ptr) (v : Nat) :
    (s.setCell ptr v).cell a = s.cell a :=
  smGet_smPut_other _ _ _ h

theorem State.cell_congr (h : t.buf.cellState = s.buf.cellState) (a : Nat) : t.cell a = s.cell a := by
  unfold State.cell; rw [h]

theorem cellWord_fields {refs owner epoch : Nat} (r : refs < 2 ^ 11) (o : owner < 2 ^ 5) (e : epoch < 2 ^ 4) (n : Nat)
    (last : Bool) :
    cellRefs (cellWord refs owner epoch n last) = refs ∧ cellOwner (cellWord refs owner epoch n last) = owner ∧
    cellEpoch (cellWord refs owner epoch n last) = epoch ∧ bitAt (cellWord refs owner epoch n last) 20 = last ∧
    bitsOf (cellWord refs owner epoch n last) 46 8 = (n - 1) % 256 := by
  unfold cellRefs cellOwner cellEpoch bitAt bitsOf cellWord
  have bit := b2n_lt last
  refine ⟨by omega, by omega, by omega, ?_, by omega⟩
  have ends : (refs + owner * 2 ^ 11 + epoch * 2 ^ 16 + b2n last * 2 ^ 20 + (n - 1) * 2 ^ 46) / 2 ^ 20 % 2 =
      b2n last := by omega
  rw [ends]
  cases last <;> rfl

/-- The state word `w` of a cell that names pointer `ptr` and its epoch as the next of its packet. -/
def chained (w ptr epoch : Nat) : Nat := setBits (setBits w 21 21 ptr) 42 4 epoch

theorem chained_fields {w ptr : Nat} (h : ptr < 2 ^ 21) (epoch : Nat) :
    bitsOf (chained w ptr epoch) 21 21 = ptr ∧ cellRefs (chained w ptr epoch) = cellRefs w := by
  unfold chained cellRefs
  refine ⟨?_, ?_⟩
  · rw [bitsOf_setBits_other _ _ _ _ (by decide), bitsOf_setBits_same, Nat.mod_eq_of_lt h]
  · rw [bitsOf_setBits_other _ _ _ _ (by decide), bitsOf_setBits_other _ _ _ _ (by decide)]

/-- The epoch of a pointer's next cell. -/
def State.nextEpoch (s : State) (ptr : Nat) : Nat := (cellEpoch (s.cell ptr) + 1) % 16

/-- The cell's state word is written, and the packet's previous cell names it. -/
def State.storeCell (s : State) (p : Pkt) (ptr n : Nat) (last : Bool) : State :=
  (s.setCell ptr (cellWord p.copies p.w.pipe (s.nextEpoch ptr) n last)).chainCell p.cells.getLast? ptr (s.nextEpoch ptr)

/-- `t` differs from `s` in state words alone. -/
def OnlyCells (s t : State) : Prop := t = { s with buf := { s.buf with cellState := t.buf.cellState } }

theorem OnlyCells.trans (h : OnlyCells s t) (g : OnlyCells t u) : OnlyCells s u := by
  unfold OnlyCells at *
  rw [g, h]

theorem OnlyCells.same (h : OnlyCells s t) : s.Same [.buf] t := by
  rw [h]
  exact .of_buf s _

theorem State.setCell_only (s : State) (ptr v : Nat) : OnlyCells s (s.setCell ptr v) := rfl

theorem State.chainCell_only (s : State) (prev : Option (Nat × Nat)) (ptr epoch : Nat) :
    OnlyCells s (s.chainCell prev ptr epoch) := by
  unfold State.chainCell
  split
  · exact s.setCell_only _ _
  · rfl

theorem State.storeCell_only (s : State) (p : Pkt) (ptr n : Nat) (last : Bool) :
    OnlyCells s (s.storeCell p ptr n last) := (s.setCell_only _ _).trans (State.chainCell_only _ _ _ _)

/-- The words after a cell is stored: its own, its predecessor's, and every other. -/
theorem State.storeCell_cells (apart : ∀ x, p.cells.getLast? = some x → x.1 ≠ ptr) :
    (s.storeCell p ptr n last).cell ptr = cellWord p.copies p.w.pipe (s.nextEpoch ptr) n last ∧
    (∀ x, p.cells.getLast? = some x →
      (s.storeCell p ptr n last).cell x.1 = chained (s.cell x.1) ptr (s.nextEpoch ptr)) ∧
    (∀ a, a ≠ ptr → (∀ x, p.cells.getLast? = some x → a ≠ x.1) →
      (s.storeCell p ptr n last).cell a = s.cell a) := by
  generalize word : cellWord p.copies p.w.pipe (s.nextEpoch ptr) n last = w
  unfold State.storeCell
  rw [word]
  cases prev : p.cells.getLast? with
  | none =>
    exact ⟨s.cell_setCell_same ptr w, by simp, fun a ne _ => s.cell_setCell_other ne w⟩
  | some x =>
    have ne := apart x prev
    have old := s.cell_setCell_other ne w
    refine ⟨?_, fun y e => ?_, fun a first second => ?_⟩
    · exact (State.cell_setCell_other _ ne.symm _).trans (s.cell_setCell_same ptr w)
    · rw [← Option.some.inj e, ← old]
      exact State.cell_setCell_same _ _ _
    · exact (State.cell_setCell_other _ (second x rfl) _).trans (s.cell_setCell_other first w)

/-! ### Lists of pointers -/

theorem State.ptrs_congr (h : t.buf.cache = s.buf.cache) (q g : Nat) : t.ptrs q g = s.ptrs q g := by
  unfold State.ptrs; rw [h]

theorem State.ptrs_setPtrs_same (s : State) (q g : Nat) (l : List Nat) : (s.setPtrs q g l).ptrs q g = l :=
  smGet_smPut_same _ _ _ _

theorem State.ptrs_setPtrs_other (s : State) {q g i j : Nat} (h : i * 32 + j ≠ q * 32 + g) (l : List Nat) :
    (s.setPtrs q g l).ptrs i j = s.ptrs i j :=
  smGet_smPut_other _ _ _ h

/-! ### What follows the state word -/

/-- From `s` to `t` packets, charges, counts and channels changed, but no cell and no list of pointers. -/
structure CellsKept (s t : State) : Prop where
  cells : t.buf.cellState = s.buf.cellState
  cache : t.buf.cache = s.buf.cache
  same : s.SameCounting [.pk, .buf, .flt] t

theorem CellsKept.refl (s : State) : CellsKept s s := ⟨rfl, rfl, (State.Same.refl _ s).counting⟩

theorem CellsKept.trans (h : CellsKept s t) (g : CellsKept t u) : CellsKept s u :=
  ⟨g.cells.trans h.cells, g.cache.trans h.cache, h.same.trans g.same⟩

/-- Where the buffer is left alone. -/
theorem CellsKept.of_same (h : s.Same [.pk, .flt] t) : CellsKept s t := by
  have buf : t.buf = s.buf := h .buf (by decide)
  exact ⟨by rw [buf], by rw [buf], (h.mono (by decide)).counting⟩

theorem ChargesMoved.cellsKept (h : ChargesMoved s t) : CellsKept s t :=
  ⟨h.cells, h.cache, (h.same.mono (by decide)).counting⟩

theorem Tally.cellsKept {R : Region} {l : List Fld} (h : Tally R l s t) : CellsKept s t := by
  have buf : t.buf = s.buf := by rw [h.rest]
  exact ⟨by rw [buf], by rw [buf], h.sameCounting _⟩

theorem State.trimCharge_cellsKept (s : State) (p : Pkt) (n : Nat) : CellsKept s (s.trimCharge p n) :=
  (CellsKept.of_same ((s.setPkt_same _).mono (by decide))).trans (s.trimCharge_moved p n).cellsKept

/-- The cell counts, unless the packet's pass recirculates (R372). -/
def State.countCell (s : State) (p : Pkt) : State :=
  if mdRecirc p.w.md then s else s.perf (perfBlock p.w.pipe 36) 0x0C p.w.attr 1

theorem State.countCell_tally (s : State) (p : Pkt) :
    Tally (perfRegs (perfBlock p.w.pipe 36)) [] s (s.countCell p) := by
  unfold State.countCell
  split
  · exact .refl _ _ s
  · exact (Tally.refl _ _ s).perf _ _ _

/-- The packet's last cell gives back what stays unused of its reservation (R312). -/
def State.trimLast (s : State) (p : Pkt) (last : Bool) : State :=
  if last then s.trimCharge p (p.reserved - p.cells.length) else s

/-- The packet's first cell decides which copies depart in cut-through (R43). -/
def State.markFirst (s : State) (p : Pkt) : State := if p.cells.length = 1 then s.markCut p else s

theorem State.markFirst_same (s : State) (p : Pkt) : s.Same [.pk] (s.markFirst p) := by
  unfold State.markFirst
  split
  · exact .of_pk s _
  · exact .refl _ s

theorem State.markFirst_pkt (s : State) (p : Pkt) (i : Nat) : (s.markFirst p).pkt i = s.pkt i := by
  unfold State.markFirst
  split <;> rfl

/-- What an unused reservation comes to when `last` ends the packet. -/
def unusedOf (p : Pkt) (last : Bool) : Nat := if last then p.reserved - p.cells.length else 0

theorem State.trimLast_pkt {q : Pkt} (h : s.pkt p.id = some p) (last : Bool) (e : q = trimmed p (unusedOf p last)) :
    (s.trimLast p last).pkt p.id = some q := by
  subst e
  unfold State.trimLast unusedOf
  split
  · exact State.pkt_trimCharge_same h _
  · rw [h]
    simp [trimmed]

theorem State.trimLast_cellsKept (s : State) (p : Pkt) (last : Bool) : CellsKept s (s.trimLast p last) := by
  unfold State.trimLast
  split
  · exact s.trimCharge_cellsKept p _
  · exact .refl s

/-- The packet with one cell more. -/
def grownPkt (p : Pkt) (ptr epoch : Nat) (last : Bool) : Pkt :=
  { p with cells := p.cells ++ [(ptr, epoch)], last := last
           crossed := max p.crossed (min p.bytes.length (256 * (p.cells.length + 1))) }

/-- What the pipe does besides, once the state word is written. -/
def State.tookCell (s : State) (p : Pkt) (last : Bool) : State :=
  (((s.setPkt p).countCell p).trimLast p last).markFirst p

theorem State.tookCell_cellsKept (s : State) (p : Pkt) (last : Bool) : CellsKept s (s.tookCell p last) :=
  (((CellsKept.of_same ((s.setPkt_same p).mono (by decide))).trans (State.countCell_tally _ p).cellsKept).trans
    (State.trimLast_cellsKept _ p last)).trans (.of_same ((State.markFirst_same _ p).mono (by decide)))

theorem State.tookCell_pkt {q : Pkt} (here : s.pkt p.id = some q) (last : Bool) :
    (s.tookCell p last).pkt p.id = some (trimmed p (unusedOf p last)) := by
  have counted : ((s.setPkt p).countCell p).pkt p.id = some p :=
    (State.pkt_congr (congrArg PktSt.pkts (State.countCell_tally _ p).pk) _).trans (State.pkt_setPkt_same here)
  exact (State.markFirst_pkt _ p _).trans (State.trimLast_pkt counted last rfl)

/-- A cell within the reservation, of a packet that has lost no copy yet. -/
theorem State.putCell_eq (gone : p.gone = []) (room : p.cells.length < p.reserved) :
    s.putCell p ptr n last =
      (s.storeCell p ptr n last).tookCell (grownPkt p ptr (s.nextEpoch ptr) last) last := by
  have within : decide (p.reserved ≤ p.cells.length) = false := decide_eq_false (by omega)
  have none (u : State) (f : State → Nat → State) : p.gone.foldl f u = u := by rw [gone]; rfl
  unfold State.putCell
  rw [within]
  exact none _ _

/-! ### The whole write -/

theorem State.crossCell_only (s : State) (p : Pkt) : OnlyChannels s (s.crossCell p) := by
  unfold State.crossCell
  split
  · exact State.chCross_only _ _ _ _ _ _
  · rfl

/-- The state once the cell's bytes have crossed and its pointer has left the pipe's list. -/
def State.drewPtr (s : State) (p : Pkt) (g : Nat) (free : List Nat) : State :=
  (s.crossCell p).setPtrs p.w.pipe g free

section

variable (here : s.pkt p.id = some p) (next : nextCell p = some (n, last)) (may : s.mayWrite p = true)
  (chosen : s.chooseGroup p.w.pipe (p.cells.getLast?.map (fun x => ptrGroup x.1)) waiting = some g)
  (list : s.ptrs p.w.pipe g = ptr :: free) (gone : p.gone = []) (room : p.cells.length < p.reserved)
include here next may chosen list gone room

theorem State.cellWrite_eq : s.cellWrite p.id waiting =
    (((s.drewPtr p g free).storeCell p ptr n last).tookCell
      (grownPkt p ptr ((s.drewPtr p g free).nextEpoch ptr) last) last).xoffSweep p.w.pipe := by
  unfold State.cellWrite
  simp only [here, next, chosen, may, if_true, list, List.drop_one, List.tail_cons, List.headD_cons]
  exact congrArg (fun t => State.xoffSweep t p.w.pipe) (State.putCell_eq gone room)

/-- What a cell write leaves: the packet with its new cell, the words of that cell and of the one before it, and the
pipe's list without the pointer. -/
theorem State.cellWrite_spec (apart : ∀ x, p.cells.getLast? = some x → x.1 ≠ ptr) :
    (s.cellWrite p.id waiting).pkt p.id = some
      (trimmed (grownPkt p ptr (s.nextEpoch ptr) last) (unusedOf (grownPkt p ptr (s.nextEpoch ptr) last) last)) ∧
    (s.cellWrite p.id waiting).cell ptr = cellWord p.copies p.w.pipe (s.nextEpoch ptr) n last ∧
    (∀ x, p.cells.getLast? = some x →
      (s.cellWrite p.id waiting).cell x.1 = chained (s.cell x.1) ptr (s.nextEpoch ptr)) ∧
    (∀ a, a ≠ ptr → (∀ x, p.cells.getLast? = some x → a ≠ x.1) → (s.cellWrite p.id waiting).cell a = s.cell a) ∧
    (∀ q r, (s.cellWrite p.id waiting).ptrs q r = (s.setPtrs p.w.pipe g free).ptrs q r) ∧
    s.SameCounting [.pk, .buf, .flt] (s.cellWrite p.id waiting) := by
  rw [State.cellWrite_eq here next may chosen list gone room]
  have crossed := s.crossCell_only p
  have buf : (s.crossCell p).buf = s.buf := by rw [crossed]
  generalize drew : s.drewPtr p g free = d
  have cells (a : Nat) : d.cell a = s.cell a := State.cell_congr (by rw [← drew, State.drewPtr, ← buf]; rfl) a
  have epoch : d.nextEpoch ptr = s.nextEpoch ptr := by unfold State.nextEpoch; rw [cells]
  have found : d.pkt p.id = some p := by
    rw [← here, ← drew]
    exact State.pkt_congr (by rw [State.drewPtr, crossed]; rfl) _
  have same : s.Same [.buf, .flt] d := by
    rw [← drew]
    exact (crossed.same.mono (by decide)).trans ((State.Same.of_buf _ _).mono (by decide))
  have cache : d.buf.cache = (s.setPtrs p.w.pipe g free).buf.cache := by
    rw [← drew]
    show smPut _ (s.crossCell p).buf.cache _ _ = _
    rw [buf]
    rfl
  obtain ⟨own, before, others⟩ := State.storeCell_cells (s := d) (n := n) (last := last) apart
  have stored := d.storeCell_only p ptr n last
  rw [epoch] at own before ⊢
  generalize d.storeCell p ptr n last = e at own before others stored ⊢
  have storedPkt : e.pkt p.id = some p := by rw [stored]; exact found
  have took := e.tookCell_cellsKept (grownPkt p ptr (s.nextEpoch ptr) last) last
  have tookPkt := State.tookCell_pkt (p := grownPkt p ptr (s.nextEpoch ptr) last) storedPkt last
  generalize e.tookCell (grownPkt p ptr (s.nextEpoch ptr) last) last = f at took tookPkt ⊢
  have swept := f.xoffSweep_moved p.w.pipe
  generalize f.xoffSweep p.w.pipe = v at swept ⊢
  have kept := took.trans swept.cellsKept
  have words (a : Nat) : v.cell a = e.cell a := State.cell_congr kept.cells a
  have storedCache : e.buf.cache = d.buf.cache := by rw [stored]
  refine ⟨?_, (words ptr).trans own, fun x h => ?_, fun a first second => ?_, fun q r => ?_, ?_⟩
  · exact (State.pkt_congr (congrArg PktSt.pkts swept.pk) _).trans tookPkt
  · rw [words, before x h, cells]
  · rw [words, others a first second, cells]
  · exact State.ptrs_congr (kept.cache.trans (storedCache.trans cache)) q r
  · exact ((same.mono (by decide)).trans (stored.same.mono (by decide))).counting.trans kept.same

end

end Sys2Proof.Machine
end

section
/-! PROOFS. A write stall (08_shared_buffer.md R302): the packet that its pipe cannot write on ends as an errored
one. -/

-- One declaration at a time: the package is compiled as one text, and a thread for each would not fit.
set_option Elab.async false

namespace Sys2Proof.Machine

variable {s : State} {p : Pkt} {pipe : Nat}

/-- The packet ended before its last cell. -/
def stalledPkt (p : Pkt) : Pkt := { p with ended := true, err := true, fromFifo := false }

/-- A packet none of whose copies is on the wire has none to stomp. -/
theorem State.stompPkt_of_unsent {id : Nat} (h : ∀ c ∈ s.pk.copies, c.pkt = id → c.wire = none) :
    s.stompPkt id = s := by
  have none : s.pk.copies.filter (fun c => c.pkt = id && c.wire.isSome) = [] :=
    List.filter_eq_nil_iff.mpr (fun c m => by
      simp only [Bool.and_eq_true, decide_eq_true_eq, not_and]
      intro own
      rw [h c m own]
      decide)
  unfold State.stompPkt
  rw [none]
  rfl

/-- The packet is marked, its end counted, and what stays unused of its reservation given back. -/
def State.endStalled (s : State) (pipe : Nat) (p : Pkt) : State :=
  ((s.setPkt (stalledPkt p)).bump (BUF_PIPE_STAT4.stall_ends pipe) 1).trimCharge (stalledPkt p)
    (p.reserved - p.cells.length)

theorem State.endStalled_copies (s : State) (pipe : Nat) (p : Pkt) :
    (s.endStalled pipe p).pk.copies = s.pk.copies := by
  unfold State.endStalled
  rw [State.trimCharge_copies, State.bump_pk]
  rfl

theorem State.stallEnd_eq
    (found : s.pk.pkts.find? (fun p => decide (p.w.pipe = pipe) && p.admitted && !p.last && !p.ended &&
      (nextCell p).isSome) = some p)
    (dry : s.noPointers = true) (unsent : ∀ c ∈ s.pk.copies, c.pkt = p.id → c.wire = none) :
    s.stallEnd pipe = (s.endStalled pipe p).xoffSweep pipe := by
  unfold State.stallEnd
  rw [found]
  dsimp only
  rw [if_pos dry]
  have same : (s.endStalled pipe p).stompPkt p.id = s.endStalled pipe p :=
    State.stompPkt_of_unsent (by rw [State.endStalled_copies]; exact unsent)
  exact congrArg (fun t => State.xoffSweep t pipe) same

theorem pipeStat_not_chargeRegs {pipe : Nat} (h : pipe < 32) : ¬chargeRegs (BUF_PIPE_STAT4.regOff pipe) := by
  unfold chargeRegs BUF_PIPE_STAT4.regOff BUF_POOL_STAT.regOff BUF_PORT_CFG2.regOff
  omega

/-- What the end of a stalled packet leaves. -/
theorem State.endStalled_spec (w : RegsWf s.regs) (small : pipe < 32) {q : Pkt} (here : s.pkt p.id = some q) :
    ((s.endStalled pipe p).xoffSweep pipe).pkt p.id =
      some (trimmed (stalledPkt p) (p.reserved - p.cells.length)) ∧
    ((s.endStalled pipe p).xoffSweep pipe).pk.copies = s.pk.copies ∧
    ((s.endStalled pipe p).xoffSweep pipe).get (BUF_PIPE_STAT4.stall_ends pipe) =
      satAdd 16 (s.get (BUF_PIPE_STAT4.stall_ends pipe)) 1 ∧
    (∀ a, ((s.endStalled pipe p).xoffSweep pipe).cell a = s.cell a) ∧
    s.Same [.pk, .buf] ((s.endStalled pipe p).xoffSweep pipe) := by
  have swept := (s.endStalled pipe p).xoffSweep_moved pipe
  have copies := (congrArg PktSt.copies swept.pk).trans (s.endStalled_copies pipe p)
  generalize (s.endStalled pipe p).xoffSweep pipe = v at swept copies ⊢
  have marked : (s.setPkt (stalledPkt p)).pkt p.id = some (stalledPkt p) :=
    State.pkt_setPkt_same (p := stalledPkt p) here
  obtain ⟨count, -, -⟩ := State.bump_alone (s := s.setPkt (stalledPkt p)) w (f := BUF_PIPE_STAT4.stall_ends pipe)
    (Nat.le_of_ble_eq_true rfl) 1
  rw [State.get_congr (s := s) State.setPkt_regs] at count
  have only : OnlyRegs (s.setPkt (stalledPkt p)) ((s.setPkt (stalledPkt p)).bump (BUF_PIPE_STAT4.stall_ends pipe) 1) :=
    State.put_only _ _ _
  unfold State.endStalled at swept
  generalize (s.setPkt (stalledPkt p)).bump (BUF_PIPE_STAT4.stall_ends pipe) 1 = u at count only swept
  have moved := (u.trimCharge_moved (stalledPkt p) (p.reserved - p.cells.length)).trans swept
  have found : u.pkt p.id = some (stalledPkt p) :=
    (State.pkt_congr (congrArg PktSt.pkts (only.agrees .pk)) _).trans marked
  have buf : u.buf = s.buf := only.agrees .buf
  refine ⟨?_, copies, ?_, fun a => State.cell_congr (moved.cells.trans (congrArg BufSt.cellState buf)) a, ?_⟩
  · exact (State.pkt_congr (congrArg PktSt.pkts swept.pk) _).trans
      (State.pkt_trimCharge_same (p := stalledPkt p) found _)
  · exact ((moved.frame _ (pipeStat_not_chargeRegs small) (fun _ m => nomatch m)).trans
      (State.get_congr State.setPkt_regs _)).trans count
  · exact (((s.setPkt_same _).mono (by decide)).trans ((only.same _).trans ((u.setPkt_same _).mono (by decide)))).trans
      (moved.same.mono (by decide))

end Sys2Proof.Machine
end

section
/-! PROOFS. References that copies present (08_shared_buffer.md R295, R299, R315): one that is not the cell's last, the
last one, and one for a cell that holds none. -/

-- One declaration at a time: the package is compiled as one text, and a thread for each would not fit.
set_option Elab.async false

namespace Sys2Proof.Machine

variable {s t u : State} {ptr owner epoch pipe : Nat}

section

variable (valid : ptrInvalid ptr = false)
include valid

theorem State.freeRef_of_shared (own : cellOwner (s.cell ptr) = owner) (age : cellEpoch (s.cell ptr) = epoch)
    (many : 2 ≤ cellRefs (s.cell ptr)) : s.freeRef ptr owner epoch pipe = s.setCell ptr (s.cell ptr - 1) := by
  unfold State.freeRef
  rw [valid]
  simp [own, age, show cellRefs (s.cell ptr) ≠ 0 by omega, show cellRefs (s.cell ptr) ≠ 1 by omega]

theorem State.freeRef_of_last (own : cellOwner (s.cell ptr) = owner) (age : cellEpoch (s.cell ptr) = epoch)
    (one : cellRefs (s.cell ptr) = 1) :
    s.freeRef ptr owner epoch pipe = (s.setCell ptr (s.cell ptr - 1)).freeCell ptr epoch pipe := by
  unfold State.freeRef
  rw [valid]
  simp [own, age, one]

theorem State.freeRef_of_none (zero : cellRefs (s.cell ptr) = 0) :
    s.freeRef ptr owner epoch pipe = s.refuseRef 1 ptr owner epoch pipe := by
  unfold State.freeRef
  rw [valid]
  simp [zero]

end

/-! ### The last reference (R295, R299, R315) -/

/-- From `s` to `t` packets, charges and credits changed, but no cell, no pointer of any list and no copy. -/
structure PointersKept (s t : State) : Prop where
  cells : t.buf.cellState = s.buf.cellState
  cache : t.buf.cache = s.buf.cache
  subring : t.buf.subring = s.buf.subring
  bad : t.buf.bad = s.buf.bad
  copies : t.pk.copies = s.pk.copies
  same : s.Same [.pk, .buf, .pl] t

theorem PointersKept.refl (s : State) : PointersKept s s := ⟨rfl, rfl, rfl, rfl, rfl, .refl _ s⟩

theorem PointersKept.trans (h : PointersKept s t) (g : PointersKept t u) : PointersKept s u :=
  ⟨g.cells.trans h.cells, g.cache.trans h.cache, g.subring.trans h.subring, g.bad.trans h.bad, g.copies.trans h.copies,
    h.same.trans g.same⟩

theorem PointersKept.of_pl (s : State) (x : PlSt) : PointersKept s { s with pl := x } :=
  ⟨rfl, rfl, rfl, rfl, rfl, (State.Same.of_pl s x).mono (by decide)⟩

theorem State.trimCharge_pointersKept (s : State) (p : Pkt) (n : Nat) : PointersKept s (s.trimCharge p n) := by
  have moved := s.trimCharge_moved p n
  exact ⟨moved.cells, moved.cache, moved.subring, moved.bad, s.trimCharge_copies p n,
    (s.trimCharge_same p n).mono (by decide)⟩

theorem State.oweCredit_pointersKept (s : State) (p : Pkt) : PointersKept s (s.oweCredit p) := by
  unfold State.oweCredit
  dsimp only
  split
  · exact .of_pl s _
  · exact .refl s

/-- The packet that holds the freed cell gives back its charge, and a credit is owed for it. -/
def State.payBack (s : State) (ptr epoch : Nat) : State :=
  match s.pk.pkts.find? (fun p => p.cells.contains (ptr, epoch)) with
  | some p => (s.trimCharge p 1).oweCredit p
  | none => s

theorem State.payBack_pointersKept (s : State) (ptr epoch : Nat) : PointersKept s (s.payBack ptr epoch) := by
  unfold State.payBack
  split
  · exact (s.trimCharge_pointersKept _ 1).trans (State.oweCredit_pointersKept _ _)
  · exact .refl s

theorem State.freeCell_eq (s : State) (ptr epoch pipe : Nat) : s.freeCell ptr epoch pipe =
    if (s.payBack ptr epoch).buf.bad.contains ptr then s.payBack ptr epoch
    else (s.payBack ptr epoch).returnPtr pipe ptr := rfl

theorem State.returnPtr_same (s : State) (pipe ptr : Nat) : s.Same [.buf] (s.returnPtr pipe ptr) := by
  unfold State.returnPtr
  dsimp only
  split
  · exact .of_buf s _
  · exact .of_buf s _

theorem State.cached_congr (h : t.buf.cache = s.buf.cache) (q g : Nat) : t.cached q g = s.cached q g :=
  congrArg List.length (State.ptrs_congr h q g)

/-- A list with room takes the freed pointer. -/
theorem State.returnPtr_of_room (room : s.cached pipe (ptrGroup ptr) < 64) :
    s.returnPtr pipe ptr = s.setPtrs pipe (ptrGroup ptr) (s.ptrs pipe (ptrGroup ptr) ++ [ptr]) := if_pos room

/-- A freed cell's pointer joins the presenting pipe's list while that has room. -/
theorem State.freeCell_spec (good : ptr ∉ s.buf.bad) (room : s.cached pipe (ptrGroup ptr) < 64) :
    (s.freeCell ptr epoch pipe).buf.cellState = s.buf.cellState ∧
    (s.freeCell ptr epoch pipe).cached pipe (ptrGroup ptr) = s.cached pipe (ptrGroup ptr) + 1 ∧
    (s.freeCell ptr epoch pipe).buf.subring = s.buf.subring ∧
    (s.freeCell ptr epoch pipe).pk.copies = s.pk.copies ∧
    s.Same [.pk, .buf, .pl] (s.freeCell ptr epoch pipe) := by
  have kept := s.payBack_pointersKept ptr epoch
  rw [State.freeCell_eq]
  generalize s.payBack ptr epoch = u at kept ⊢
  have length := State.cached_congr kept.cache pipe (ptrGroup ptr)
  rw [if_neg (by rw [kept.bad]; simpa using good), State.returnPtr_of_room (length.trans_lt room)]
  refine ⟨kept.cells, ?_, kept.subring, kept.copies, kept.same.trans ((State.Same.of_buf u _).mono (by decide))⟩
  rw [← length, State.cached, State.ptrs_setPtrs_same, List.length_append]
  rfl

/-! ### A refused reference (R295) -/

/-- The fields of BUF_FAULT_LAST as the reference of a cell without one is refused. -/
def zeroFields (s : State) (ptr owner epoch pipe : Nat) : List (Fld × Nat) :=
  [(BUF_FAULT_LAST.ptr, ptr), (BUF_FAULT_LAST.kind, 1), (BUF_FAULT_LAST.pres_pipe, owner),
    (BUF_FAULT_LAST.pres_epoch, epoch), (BUF_FAULT_LAST.owner_pipe, cellOwner (s.cell ptr)),
    (BUF_FAULT_LAST.epoch, cellEpoch (s.cell ptr)), (BUF_FAULT_LAST.presenter, pipe)]

/-- The registers as such a reference is refused, before the fault is raised. -/
def State.noteZero (s : State) (ptr owner epoch pipe : Nat) : State :=
  (s.bump BUF_FAULT_CNT.count_zero 1).puts (zeroFields s ptr owner epoch pipe)

theorem State.refuseRef_zero (s : State) (ptr owner epoch pipe : Nat) : s.refuseRef 1 ptr owner epoch pipe =
    (s.noteZero ptr owner epoch pipe).raise (48 * pipe + 33) 2
      ((s.noteZero ptr owner epoch pipe).raw BUF_FAULT_LAST.regOff).toNat := rfl

theorem State.noteZero_only (s : State) (ptr owner epoch pipe : Nat) : OnlyRegs s (s.noteZero ptr owner epoch pipe) :=
  ((OnlyRegs.refl s).bump _ _).puts _

theorem State.noteZero_count (w : RegsWf s.regs) (ptr owner epoch pipe : Nat) :
    (s.noteZero ptr owner epoch pipe).get BUF_FAULT_CNT.count_zero =
      satAdd 32 (s.get BUF_FAULT_CNT.count_zero) 1 := by
  refine (State.get_puts_far (fun x m => ?_)).trans (State.bump_alone w (by decide) 1).1
  simp only [zeroFields, List.mem_cons, List.not_mem_nil, or_false] at m
  have apart : BUF_FAULT_CNT.regOff ≠ BUF_FAULT_LAST.regOff := by decide
  rcases m with rfl | rfl | rfl | rfl | rfl | rfl | rfl <;> exact apart

theorem State.noteZero_kind (s : State) (ptr owner epoch pipe : Nat) :
    (s.noteZero ptr owner epoch pipe).get BUF_FAULT_LAST.kind = 1 := by
  unfold State.noteZero zeroFields
  simp only [State.puts]
  rw [State.get_put_disjoint _ _ (by decide), State.get_put_disjoint _ _ (by decide),
    State.get_put_disjoint _ _ (by decide), State.get_put_disjoint _ _ (by decide),
    State.get_put_disjoint _ _ (by decide), State.get_put_self _ (by decide)]
  rfl

theorem bufFault_not_faultRegs {k : Nat} (h : k = BUF_FAULT_CNT.regOff ∨ k = BUF_FAULT_LAST.regOff) :
    ¬faultRegs k := by
  unfold faultRegs hostRegs perfRegs eventRegs
  rcases h with rfl | rfl <;> decide

/-- A reference for a cell that holds none is counted and shown as the latest, and its fault raised. -/
theorem State.refuseRef_zero_spec (w : RegsWf s.regs) (ptr owner epoch pipe : Nat) :
    (s.refuseRef 1 ptr owner epoch pipe).get BUF_FAULT_CNT.count_zero =
      satAdd 32 (s.get BUF_FAULT_CNT.count_zero) 1 ∧
    (s.refuseRef 1 ptr owner epoch pipe).get BUF_FAULT_LAST.kind = 1 ∧
    s.Same [.out, .hif, .flt] (s.refuseRef 1 ptr owner epoch pipe) := by
  have only := s.noteZero_only ptr owner epoch pipe
  have count := State.noteZero_count w ptr owner epoch pipe
  have kind := s.noteZero_kind ptr owner epoch pipe
  rw [State.refuseRef_zero]
  generalize s.noteZero ptr owner epoch pipe = u at only count kind ⊢
  have calm := State.raise_calm (s := u) (48 * pipe + 33) 2 (u.raw BUF_FAULT_LAST.regOff).toNat
  exact ⟨(calm.frame _ (bufFault_not_faultRegs (Or.inl rfl)) (fun _ m => nomatch m)).trans count,
    (calm.frame _ (bufFault_not_faultRegs (Or.inr rfl)) (fun _ m => nomatch m)).trans kind,
    (only.same _).trans calm.parts⟩

/-! ### Copies -/

theorem Calm.pk {R : Region} (h : Calm R s t) : t.pk = s.pk := h.parts .pk (by decide)

/-- No reference presented changes what copies there are. -/
theorem State.freeRef_copies (s : State) (ptr owner epoch pipe : Nat) :
    (s.freeRef ptr owner epoch pipe).pk.copies = s.pk.copies := by
  have refused (t : State) (kind : Nat) : (t.refuseRef kind ptr owner epoch pipe).pk = t.pk := by
    unfold State.refuseRef
    dsimp only
    rw [(State.raise_calm _ _ _).pk, State.puts_pk]
    split
    · exact State.bump_pk
    · split <;> exact State.bump_pk
  have freed (t : State) : (t.freeCell ptr epoch pipe).pk.copies = t.pk.copies := by
    have kept := (t.payBack_pointersKept ptr epoch).copies
    rw [State.freeCell_eq]
    split
    · exact kept
    · exact (congrArg PktSt.copies (State.returnPtr_same _ _ _ .pk (by decide))).trans kept
  unfold State.freeRef
  dsimp only
  split
  · exact congrArg PktSt.copies (refused s 0)
  · split
    · exact congrArg PktSt.copies (refused s 1)
    · split
      · exact congrArg PktSt.copies (refused s 2)
      · split
        · exact (freed _).trans (congrArg PktSt.copies State.setCell_pk)
        · exact congrArg PktSt.copies State.setCell_pk

theorem State.presentRest_copies (s : State) (c : Copy) : (s.presentRest c).pk.copies = s.pk.copies := by
  unfold State.presentRest
  split
  · next p _ =>
    dsimp only
    refine (List.foldlRecOn (motive := fun t : State => t.pk.copies = s.pk.copies) _ _ ?_
      (fun t h x _ => (t.freeRef_copies _ _ _ _).trans h))
    split <;> rfl
  · rfl

theorem State.releaseVersion_copies (s : State) (p : Pkt) : (s.releaseVersion p).pk.copies = s.pk.copies := by
  unfold State.releaseVersion
  split <;> rfl

/-- What is left of packet `id` counts for its section's FIFO no more. -/
def State.leaveFifo (s : State) (id : Nat) : State :=
  match s.pkt id with | some q => s.setPkt { q with fromFifo := false } | none => s

/-- Packet `id` gives back its version. -/
def State.freeVersion (s : State) (id : Nat) : State :=
  match s.pkt id with | some q => s.releaseVersion q | none => s

/-- A whole packet without a cell is forgotten. -/
def State.forget (s : State) (p : Pkt) (id : Nat) : State :=
  if s.outstanding p = 0 && p.whole then s.dropPkt id else s

theorem State.settle_eq {p : Pkt} {id : Nat} (h : s.pkt id = some p) : s.settle id =
    if !p.admitted || s.pk.copies.any (fun c => c.pkt = id) then s
    else ((((s.trimCharge p (p.charged - s.outstanding p)).leaveFifo id).freeVersion id).forget p id).xoffSweep
      p.w.pipe := by
  unfold State.settle
  rw [h]
  rfl

/-- A packet that settles keeps every copy. -/
theorem State.settle_copies (s : State) (id : Nat) : (s.settle id).pk.copies = s.pk.copies := by
  have leaves (t : State) : (t.leaveFifo id).pk.copies = t.pk.copies := by
    unfold State.leaveFifo
    split <;> rfl
  have frees (t : State) : (t.freeVersion id).pk.copies = t.pk.copies := by
    unfold State.freeVersion
    split
    · exact State.releaseVersion_copies _ _
    · rfl
  have forgets (t : State) (p : Pkt) : (t.forget p id).pk.copies = t.pk.copies := by
    unfold State.forget
    split <;> rfl
  cases h : s.pkt id with
  | none => unfold State.settle; rw [h]
  | some p =>
    rw [State.settle_eq h]
    split
    · rfl
    · rw [(State.xoffSweep_moved _ _).pk, forgets, frees, leaves, State.trimCharge_copies]

theorem State.countNotes_pk (s : State) (l : List PerfNote) : (s.countNotes l).pk = s.pk :=
  List.foldlRecOn (motive := fun t : State => t.pk = s.pk) _ _ rfl
    (fun _ h _ _ => (State.perf_calm _ _ _).pk.trans h)

theorem State.meterRemoved_copies (s : State) (p : Pkt) : (s.meterRemoved p).pk.copies = s.pk.copies := by
  unfold State.meterRemoved
  dsimp only
  split <;> rfl

/-- A copy that waits in no queue is gone once it is discarded, and every other stays. -/
theorem State.discardCopy_copies {c : Copy} (left : c.at' ≠ .queued) :
    (s.discardCopy c).pk.copies = s.pk.copies.filter (fun d => d.id ≠ c.id) := by
  have removed (t : State) : (t.removeCopy c).pk.copies = t.pk.copies.filter (fun d => d.id ≠ c.id) := by
    unfold State.removeCopy
    dsimp only
    rw [if_neg left, State.settle_copies]
    exact congrArg _ (t.presentRest_copies c)
  have counted := congrArg PktSt.copies (s.countNotes_pk c.w.notes)
  unfold State.discardCopy
  dsimp only
  split
  · rw [removed, State.meterRemoved_copies, counted]
  · rw [removed, counted]

end Sys2Proof.Machine
end

section
/-! PROOFS. A cell read by a copy that its egress pipe has chosen (08_shared_buffer.md R295, R297, R299;
01_architecture.md R55): its bytes cross the channel and its reference is presented. -/

-- One declaration at a time: the package is compiled as one text, and a thread for each would not fit.
set_option Elab.async false

namespace Sys2Proof.Machine

variable {s t : State} {c : Copy} {p : Pkt} {ptr e : Nat}

/-! ### Copies by number -/

theorem State.copy_congr (h : t.pk.copies = s.pk.copies) (i : Nat) : t.copy i = s.copy i := by
  unfold State.copy; rw [h]

/-- A copy replaced is found by its number, and every other as before. -/
theorem State.copy_setCopy (s : State) (c : Copy) :
    ((s.copy c.id).isSome → (s.setCopy c).copy c.id = some c) ∧
      ∀ i, i ≠ c.id → (s.setCopy c).copy i = s.copy i := by
  have lists (l : List Copy) :
      ((l.find? (fun d => d.id = c.id)).isSome →
        (l.map (fun d => if d.id = c.id then c else d)).find? (fun d => d.id = c.id) = some c) ∧
      ∀ i, i ≠ c.id → (l.map (fun d => if d.id = c.id then c else d)).find? (fun d => d.id = i) =
        l.find? (fun d => d.id = i) := by
    induction l with
    | nil => simp
    | cons d l ih =>
      by_cases own : d.id = c.id
      · refine ⟨fun _ => by simp [own], fun i ne => ?_⟩
        simpa [own, ne.symm] using ih.2 i ne
      · refine ⟨fun found => ?_, fun i ne => ?_⟩
        · simp only [List.find?_cons, own, decide_false] at found
          simpa [own] using ih.1 found
        · rw [List.map_cons, if_neg own, List.find?_cons, List.find?_cons, ih.2 i ne]
  exact lists s.pk.copies

/-- A copy that is not on the wire has no frame to end. -/
theorem State.tryFinish_of_unsent {id : Nat} (here : s.copy id = some c) (unsent : c.wire = none) :
    s.tryFinish id = s := by
  unfold State.tryFinish
  rw [here]
  dsimp only
  rw [unsent]
  cases s.pkt c.pkt <;> rfl

/-! ### The read -/

/-- The state once the copy's next cell has crossed to the I/O die. -/
def State.readOn (s : State) (c : Copy) : State :=
  (s.chCross c.w.pipe true (chData (s.isLossless (c.queue / 16) (mdClass c.w.md)))
    (.cell (c.queue / 16) (s.isLossless (c.queue / 16) (mdClass c.w.md))) 1).setCopy { c with read := c.read + 1 }

theorem State.readOn_eq (s : State) (c : Copy) : s.readOn c =
    { s with flt := (s.readOn c).flt, pk := { s.pk with copies := (s.readOn c).pk.copies } } := by
  unfold State.readOn
  rw [State.chCross_only s]
  rfl

theorem State.readOn_same (s : State) (c : Copy) : s.Same [.pk, .flt] (s.readOn c) := by
  intro q m
  rw [s.readOn_eq c]
  cases q with
  | pk => exact absurd (by decide) m
  | flt => exact absurd (by decide) m
  | _ => rfl

theorem State.readOn_regs (s : State) (c : Copy) : (s.readOn c).regs = s.regs := by rw [s.readOn_eq c]

theorem State.readOn_buf (s : State) (c : Copy) : (s.readOn c).buf = s.buf := s.readOn_same c .buf (by decide)

theorem State.readOn_copy (here : s.copy c.id = some c) :
    (s.readOn c).copy c.id = some { c with read := c.read + 1 } ∧
      ∀ i, i ≠ c.id → (s.readOn c).copy i = s.copy i := by
  unfold State.readOn
  have crossed := s.chCross_only c.w.pipe true (chData (s.isLossless (c.queue / 16) (mdClass c.w.md)))
    (.cell (c.queue / 16) (s.isLossless (c.queue / 16) (mdClass c.w.md))) 1
  generalize s.chCross _ _ _ _ _ = u at crossed ⊢
  have copies (i : Nat) : u.copy i = s.copy i := State.copy_congr (by rw [crossed]) i
  obtain ⟨own, others⟩ := u.copy_setCopy { c with read := c.read + 1 }
  exact ⟨own (by rw [copies, here]; rfl), fun i ne => (others i ne).trans (copies i)⟩

theorem State.copyPipe_readOn (s : State) (c d : Copy) : (s.readOn c).copyPipe d = s.copyPipe d := by
  rw [s.readOn_eq c]
  rfl

section

variable (here : s.copy c.id = some c) (pkt : s.pkt c.pkt = some p) (cell : p.cells[c.read]? = some (ptr, e))
  (left : c.at' ≠ .queued) (port : isPortQueue c.queue = true) (runs : s.slotsRun c.w.pipe = true)
  (unsent : c.wire = none)
  (ready : s.chReady c.w.pipe true (chData (s.isLossless (c.queue / 16) (mdClass c.w.md))) = true)
include here pkt cell left port runs unsent ready

/-- A copy that reaches a quarantined cell is discarded (R297). -/
theorem State.cellRead_of_bad (bad : ptr ∈ s.buf.bad) : s.cellRead c.id none 0 = s.discardCopy c := by
  unfold State.cellRead
  simp only [here, pkt, cell]
  rw [if_neg (by simp [left, port, runs, ready]), if_pos (by simp [bad])]
  simp [unsent]

/-- Any other read presents the copy's reference, and ends no frame. -/
theorem State.cellRead_of_good (good : ptr ∉ s.buf.bad) :
    s.cellRead c.id none 0 = (s.readOn c).freeRef ptr p.w.pipe e (s.copyPipe c) := by
  have presents : s.cellRead c.id none 0 =
      ((s.readOn c).freeRef ptr p.w.pipe e ((s.readOn c).copyPipe c)).tryFinish c.id := by
    unfold State.cellRead
    simp only [here, pkt, cell]
    rw [if_neg (by simp [left, port, runs, ready]), if_neg (by simp [good])]
    rfl
  rw [presents, State.copyPipe_readOn]
  exact State.tryFinish_of_unsent ((State.copy_congr (State.freeRef_copies _ _ _ _ _) _).trans
    (State.readOn_copy here).1) unsent

theorem cellRead_quarantined (bad : ptr ∈ s.buf.bad) :
    ∃ t, exec (.cellRead c.id none 0) s = .next t ∧ ∀ d ∈ t.pk.copies, d.id ≠ c.id := by
  refine ⟨_, congrArg Host.Outcome.next (State.cellRead_of_bad here pkt cell left port runs unsent ready bad), ?_⟩
  rw [State.discardCopy_copies left]
  intro d m
  simpa using (List.mem_filter.mp m).2

variable (good : ptr ∉ s.buf.bad) (valid : ptrInvalid ptr = false)
include good valid

theorem cellRead_shared (own : cellOwner (s.cell ptr) = p.w.pipe) (age : cellEpoch (s.cell ptr) = e)
    (many : 2 ≤ cellRefs (s.cell ptr)) :
    ∃ t, exec (.cellRead c.id none 0) s = .next t ∧ t.cell ptr = s.cell ptr - 1 ∧
      t.copy c.id = some { c with read := c.read + 1 } ∧ (∀ i, i ≠ c.id → t.copy i = s.copy i) ∧
      (∀ a, a ≠ ptr → t.cell a = s.cell a) ∧ t.buf = { s.buf with cellState := t.buf.cellState } ∧
      t.pk = { s.pk with copies := t.pk.copies } ∧ s.Same [.pk, .buf, .flt] t ∧ t.regs = s.regs := by
  have cells (a : Nat) : (s.readOn c).cell a = s.cell a := State.cell_congr (by rw [State.readOn_buf]) a
  have step : s.cellRead c.id none 0 = (s.readOn c).setCell ptr (s.cell ptr - 1) := by
    rw [State.cellRead_of_good here pkt cell left port runs unsent ready good,
      State.freeRef_of_shared valid (by rw [cells, own]) (by rw [cells, age]) (by rwa [cells]), cells]
  obtain ⟨copy, others⟩ := State.readOn_copy here
  have buf := s.readOn_buf c
  have pk : (s.readOn c).pk = { s.pk with copies := (s.readOn c).pk.copies } := congrArg State.pk (s.readOn_eq c)
  have regs := s.readOn_regs c
  have same := s.readOn_same c
  refine ⟨_, congrArg Host.Outcome.next step, ?_⟩
  generalize s.readOn c = u at cells copy others buf pk regs same ⊢
  refine ⟨u.cell_setCell_same ptr _, copy, others, fun a ne => (u.cell_setCell_other ne _).trans (cells a), ?_, pk,
    (same.mono (by decide)).trans ((u.setCell_only ptr _).same.mono (by decide)), regs⟩
  rw [u.setCell_only ptr _, buf]

theorem cellRead_last (own : cellOwner (s.cell ptr) = p.w.pipe) (age : cellEpoch (s.cell ptr) = e)
    (one : cellRefs (s.cell ptr) = 1) (room : s.cached (s.copyPipe c) (ptrGroup ptr) < 64) :
    ∃ t, exec (.cellRead c.id none 0) s = .next t ∧ t.cell ptr = s.cell ptr - 1 ∧
      t.copy c.id = some { c with read := c.read + 1 } ∧ (∀ a, a ≠ ptr → t.cell a = s.cell a) ∧
      t.cached (s.copyPipe c) (ptrGroup ptr) = s.cached (s.copyPipe c) (ptrGroup ptr) + 1 ∧
      t.buf.subring = s.buf.subring ∧ s.Same [.pk, .buf, .pl, .flt] t := by
  have cells (a : Nat) : (s.readOn c).cell a = s.cell a := State.cell_congr (by rw [State.readOn_buf]) a
  have step : s.cellRead c.id none 0 = ((s.readOn c).setCell ptr (s.cell ptr - 1)).freeCell ptr e (s.copyPipe c) := by
    rw [State.cellRead_of_good here pkt cell left port runs unsent ready good,
      State.freeRef_of_last valid (by rw [cells, own]) (by rw [cells, age]) (by rw [cells, one]), cells]
  obtain ⟨copy, -⟩ := State.readOn_copy here
  have buf := s.readOn_buf c
  have same := s.readOn_same c
  refine ⟨_, congrArg Host.Outcome.next step, ?_⟩
  generalize s.readOn c = u at cells copy buf same ⊢
  have only := u.setCell_only ptr (s.cell ptr - 1)
  have stored := u.cell_setCell_same ptr (s.cell ptr - 1)
  have others (a : Nat) (ne : a ≠ ptr) := u.cell_setCell_other ne (s.cell ptr - 1)
  generalize u.setCell ptr (s.cell ptr - 1) = v at only stored others ⊢
  have cache : v.buf.cache = s.buf.cache := by rw [only, buf]
  have length := State.cached_congr cache (s.copyPipe c) (ptrGroup ptr)
  obtain ⟨word, list, ring, copies, freed⟩ := State.freeCell_spec (s := v) (epoch := e) (ptr := ptr)
    (by rw [only, buf]; exact good) (length.trans_lt room)
  refine ⟨(State.cell_congr word ptr).trans stored, ?_, fun a ne => ?_, ?_, ?_, ?_⟩
  · exact (State.copy_congr copies _).trans ((State.copy_congr (by rw [only]) _).trans copy)
  · exact (State.cell_congr word a).trans ((others a ne).trans (cells a))
  · rw [list, length]
  · rw [ring, only, buf]
  · exact (same.mono (by decide)).trans ((only.same.mono (by decide)).trans (freed.mono (by decide)))

theorem cellRead_unheld (w : RegsWf s.regs) (zero : cellRefs (s.cell ptr) = 0) :
    ∃ t, exec (.cellRead c.id none 0) s = .next t ∧ (∀ a, t.cell a = s.cell a) ∧
      t.copy c.id = some { c with read := c.read + 1 } ∧
      t.get BUF_FAULT_CNT.count_zero = satAdd 32 (s.get BUF_FAULT_CNT.count_zero) 1 ∧
      t.get BUF_FAULT_LAST.kind = 1 ∧ t.buf = s.buf ∧ s.Same [.pk, .out, .hif, .flt] t := by
  have cells : (s.readOn c).cell ptr = s.cell ptr := State.cell_congr (by rw [State.readOn_buf]) ptr
  have step : s.cellRead c.id none 0 = (s.readOn c).refuseRef 1 ptr p.w.pipe e (s.copyPipe c) := by
    rw [State.cellRead_of_good here pkt cell left port runs unsent ready good,
      State.freeRef_of_none valid (by rw [cells, zero])]
  obtain ⟨copy, -⟩ := State.readOn_copy here
  have regs := s.readOn_regs c
  obtain ⟨count, kind, refused⟩ := State.refuseRef_zero_spec (s := s.readOn c) (by rw [regs]; exact w) ptr p.w.pipe e
    (s.copyPipe c)
  have buf : ((s.readOn c).refuseRef 1 ptr p.w.pipe e (s.copyPipe c)).buf = s.buf :=
    Eq.trans (refused .buf (by decide)) (s.readOn_buf c)
  rw [State.get_congr regs] at count
  refine ⟨_, congrArg Host.Outcome.next step, fun a => State.cell_congr (congrArg BufSt.cellState buf) a, ?_, count,
    kind, buf, ((s.readOn_same c).mono (by decide)).trans (refused.mono (by decide))⟩
  exact (State.copy_congr (congrArg PktSt.copies (refused .pk (by decide))) _).trans copy

end

end Sys2Proof.Machine
end

section
/-! PROOFS. The Rake (08_shared_buffer.md R298-R302): refills and trims of a pipe's list against its sub-ring, and the
rebalance of a stalled pipe. -/

-- One declaration at a time: the package is compiled as one text, and a thread for each would not fit.
set_option Elab.async false

namespace Sys2Proof.Machine

variable {s t : State} {g p k n : Nat}

/-! ### Runs of pointers (R298) -/

/-- Pointers in runs. -/
def runLength (l : List (Nat × Nat)) : Nat := sumNat (l.map (·.2))

theorem runLength_cons (x : Nat × Nat) (l : List (Nat × Nat)) : runLength (x :: l) = x.2 + runLength l := by
  simp [runLength, sumNat_eq_sum]

/-- Pointers taken from runs that hold as many are those, and the runs are so many shorter. -/
theorem takeRuns_length {l : List (Nat × Nat)} (h : n ≤ runLength l) :
    (takeRuns n l).1.length = n ∧ runLength (takeRuns n l).2 = runLength l - n := by
  induction l generalizing n with
  | nil =>
    have none : n = 0 := Nat.le_zero.mp h
    subst none
    exact ⟨rfl, rfl⟩
  | cons x l ih =>
    obtain ⟨a, m⟩ := x
    rw [runLength_cons] at h ⊢
    dsimp only at h ⊢
    by_cases short : n < m
    · rw [takeRuns, if_pos short, runLength_cons]
      exact ⟨by simp, by dsimp only; omega⟩
    · obtain ⟨taken, left⟩ := ih (n := n - m) (by omega)
      rw [takeRuns, if_neg short]
      refine ⟨?_, left.trans (by omega)⟩
      rw [List.length_append, List.length_map, List.length_range, taken]
      omega

theorem runLength_putRuns (l : List (Nat × Nat)) (ptrs : List Nat) :
    runLength (putRuns l ptrs) = runLength l + ptrs.length := by
  have ones : (ptrs.map (fun p => (p, 1))).map (·.2) = List.replicate ptrs.length 1 := by
    simp [Function.comp_def]
  rw [runLength, runLength, putRuns, List.map_append, ones]
  simp [sumNat_eq_sum]

theorem State.subring_setRuns_same (s : State) (g : Nat) (l : List (Nat × Nat)) :
    (s.setRuns g l).subring g = runLength l :=
  congrArg runLength (smGet_smPut_same _ _ _ _)

theorem State.subring_setRuns_other (s : State) {g r : Nat} (h : r ≠ g) (l : List (Nat × Nat)) :
    (s.setRuns g l).subring r = s.subring r :=
  congrArg runLength (smGet_smPut_other _ _ _ h)

theorem State.subring_congr (h : t.buf.subring = s.buf.subring) (g : Nat) : t.subring g = s.subring g := by
  unfold State.subring State.runs; rw [h]

theorem State.cached_setPtrs_same (s : State) (p g : Nat) (l : List Nat) :
    (s.setPtrs p g l).cached p g = l.length :=
  congrArg List.length (s.ptrs_setPtrs_same p g l)

theorem State.cached_setPtrs_other (s : State) {p g q r : Nat} (h : q * 32 + r ≠ p * 32 + g) (l : List Nat) :
    (s.setPtrs p g l).cached q r = s.cached q r :=
  congrArg List.length (s.ptrs_setPtrs_other h l)

/-- Two lists of different pipes or groups have different keys. -/
theorem listKey_ne {p g q r : Fin 32} (h : q ≠ p ∨ r ≠ g) : q.val * 32 + r.val ≠ p.val * 32 + g.val := by
  omega

/-! ### What the Rake counts -/

theorem State.rakeMoved_tally (s : State) (p n : Nat) : Tally (perfRegs rakeBlock) [] s (s.rakeMoved p n) :=
  (Tally.refl _ _ s).perf _ _ _

theorem Tally.buf {R : Region} {l : List Fld} (h : Tally R l s t) : t.buf = s.buf := by rw [h.rest]

/-- A change of the buffer that the Rake counts, and nothing else. -/
theorem State.rakeMoved_counts (s : State) (x : BufSt) (p n : Nat) :
    (({ s with buf := x } : State).rakeMoved p n).buf = x ∧
    s.SameCounting [.buf] (({ s with buf := x } : State).rakeMoved p n) ∧
    s.Frame (perfRegs rakeBlock) [] (({ s with buf := x } : State).rakeMoved p n) := by
  have counted := ({ s with buf := x } : State).rakeMoved_tally p n
  exact ⟨counted.buf, (State.Same.of_buf s x).counting.trans (counted.sameCounting _),
    (State.Frame.same (.refl _ _ s) rfl).trans counted.frame⟩

/-! ### One request (R299, R301) -/

theorem filter_contains_singleton {l : List Nat} (once : l.Nodup) (mem : p ∈ l) :
    l.filter [p].contains = [p] := by
  have same : l.filter [p].contains = l.filter (fun x => x == p) :=
    List.filter_congr (fun x _ => by rw [List.contains_cons, List.contains_nil, Bool.or_false])
  rw [same, List.filter_beq, List.count_eq_one_of_mem once mem]
  rfl

/-- The order in which a sub-ring grants names every pipe once. -/
theorem grantOrder_spec (a : Nat) :
    ((List.range 32).map (fun i => (a + i) % 32)).Nodup ∧
      ∀ p < 32, p ∈ (List.range 32).map (fun i => (a + i) % 32) := by
  refine ⟨List.Nodup.map_on (fun i hi j hj e => ?_) List.nodup_range, fun p small => ?_⟩
  · have := List.mem_range.mp hi
    have := List.mem_range.mp hj
    omega
  · exact List.mem_map.mpr ⟨(p + 32 - a % 32) % 32, List.mem_range.mpr (by omega), by omega⟩

section

variable (runs : s.seqRuns 1 = true) (init : s.buf.ringInit = true) (small : p < 32)
include runs init small

/-- With its ring filled the Rake serves one pipe's request. -/
theorem State.rakeRefill_request : s.rakeRefill g [p] [] = s.refillOne g p := by
  obtain ⟨once, all⟩ := grantOrder_spec (smGet natZero s.buf.grant g)
  have idle : s.initRing = s := if_pos init
  have none : (List.range 32).filter ([] : List Nat).contains = [] := by simp
  unfold State.rakeRefill
  rw [runs, if_neg (by decide)]
  dsimp only
  rw [idle, filter_contains_singleton once (all p small), none]
  rfl

theorem State.rakeRefill_trim : s.rakeRefill g [] [p] = s.trimOne g p := by
  have idle : s.initRing = s := if_pos init
  have none : ((List.range 32).map (fun i => (smGet natZero s.buf.grant g + i) % 32)).filter
      ([] : List Nat).contains = [] := by simp
  unfold State.rakeRefill
  rw [runs, if_neg (by decide)]
  dsimp only
  rw [idle, none, filter_contains_singleton List.nodup_range (List.mem_range.mpr small)]
  rfl

/-- A list between its limits is neither filled nor trimmed. -/
theorem State.rakeRefill_idle (low : 16 ≤ s.cached p g) (high : s.cached p g ≤ 56) : s.rakeRefill g [p] [p] = s := by
  obtain ⟨once, all⟩ := grantOrder_spec (smGet natZero s.buf.grant g)
  have idle : s.initRing = s := if_pos init
  have kept : s.refillOne g p = s := if_pos low
  unfold State.rakeRefill
  rw [runs, if_neg (by decide)]
  dsimp only
  rw [idle, filter_contains_singleton once (all p small), filter_contains_singleton List.nodup_range
    (List.mem_range.mpr small)]
  show (s.refillOne g p).trimOne g p = s
  rw [kept]
  exact if_pos high

end

/-- The buffer once list `g` of pipe `p` took `n` pointers from sub-ring `g`, which grants the next pipe first. -/
def State.refilled (s : State) (g p n : Nat) : BufSt :=
  { s.buf with
    cache := (s.setPtrs p g (s.ptrs p g ++ (takeRuns n (s.runs g)).1)).buf.cache
    subring := (s.setRuns g (takeRuns n (s.runs g)).2).buf.subring
    grant := smPut natZero s.buf.grant g ((p + 1) % 32) }

theorem State.refillOne_of_room (low : s.cached p g < 16) (room : 48 - s.cached p g < s.subring g) :
    s.refillOne g p =
      ({ s with buf := s.refilled g p (48 - s.cached p g) } : State).rakeMoved p (48 - s.cached p g) := by
  have all : min (48 - s.cached p g) (s.subring g) = 48 - s.cached p g := by omega
  unfold State.refillOne
  rw [if_neg (by omega), all]
  dsimp only
  rw [if_neg (by omega)]
  rfl

theorem State.refillOne_of_empty (low : s.cached p g < 16) (empty : s.subring g = 0) :
    s.refillOne g p = (s.bump (BUF_PIPE_STAT3.no_cell p) 1).bump BUF_RAKE_STAT.no_cell 1 := by
  unfold State.refillOne
  rw [if_neg (by omega), empty, Nat.min_zero]
  exact if_pos rfl

/-- The buffer once the list went back to 48 pointers. -/
def State.trimmedList (s : State) (g p : Nat) : BufSt :=
  { s.buf with
    cache := (s.setPtrs p g ((s.ptrs p g).take 48)).buf.cache
    subring := (s.setRuns g (putRuns (s.runs g) ((s.ptrs p g).drop 48))).buf.subring }

theorem State.trimOne_of_long (long : 56 < s.cached p g) :
    s.trimOne g p = ({ s with buf := s.trimmedList g p } : State).rakeMoved p (s.cached p g - 48) := by
  unfold State.trimOne
  rw [if_neg (by omega)]
  rfl

/-! ### Refills and trims (R299, R301) -/

section

variable {g p : Fin 32} (runs : s.seqRuns 1 = true) (init : s.buf.ringInit = true)
include runs init

theorem rakeRefill_fills (low : s.cached p g < 16) (room : 48 - s.cached p g < s.subring g) :
    ∃ t, exec (.rakeRefill g [p] []) s = .next t ∧ t.cached p g = 48 ∧
      t.ptrs p g = s.ptrs p g ++ (takeRuns (48 - s.cached p g) (s.runs g)).1 ∧
      t.subring g = s.subring g - (48 - s.cached p g) ∧
      (p.val + 1 < 32 → smGet natZero t.buf.grant g = p + 1) ∧
      (∀ q r : Fin 32, (q ≠ p ∨ r ≠ g) → t.cached q r = s.cached q r) ∧
      (∀ r, r ≠ g.val → t.subring r = s.subring r) ∧
      t.buf = { s.buf with cache := t.buf.cache, subring := t.buf.subring, grant := t.buf.grant } ∧
      s.SameCounting [.buf] t ∧ s.Frame (perfRegs rakeBlock) [] t := by
  have step : s.rakeRefill g [p.val] [] = _ :=
    (State.rakeRefill_request runs init p.isLt).trans (State.refillOne_of_room low room)
  obtain ⟨buf, same, frame⟩ := s.rakeMoved_counts (s.refilled g p (48 - s.cached p g)) p (48 - s.cached p g)
  obtain ⟨length, left⟩ := takeRuns_length (n := 48 - s.cached p g) (l := s.runs g) (le_of_lt room)
  refine ⟨_, congrArg Host.Outcome.next step, ?_⟩
  generalize ({ s with buf := s.refilled g p (48 - s.cached p g) } : State).rakeMoved p (48 - s.cached p g) = t
    at buf same frame ⊢
  have cache : t.buf.cache =
      (s.setPtrs p g (s.ptrs p g ++ (takeRuns (48 - s.cached p g) (s.runs g)).1)).buf.cache := by rw [buf]; rfl
  have ring : t.buf.subring = (s.setRuns g (takeRuns (48 - s.cached p g) (s.runs g)).2).buf.subring := by rw [buf]; rfl
  refine ⟨?_, (State.ptrs_congr cache p g).trans (s.ptrs_setPtrs_same _ _ _), ?_, fun inside => ?_, fun q r ne => ?_,
    fun r ne => ?_, by rw [buf]; rfl, same, frame⟩
  · rw [State.cached_congr cache, State.cached_setPtrs_same, List.length_append, length]
    show s.cached p g + (48 - s.cached p g) = 48
    omega
  · exact (State.subring_congr ring g).trans ((s.subring_setRuns_same g _).trans left)
  · rw [buf]
    exact (smGet_smPut_same _ _ _ _).trans (Nat.mod_eq_of_lt inside)
  · exact (State.cached_congr cache q r).trans (s.cached_setPtrs_other (listKey_ne ne) _)
  · exact (State.subring_congr ring r).trans (s.subring_setRuns_other ne _)

theorem rakeRefill_finds_none (w : RegsWf s.regs) (low : s.cached p g < 16) (empty : s.subring g = 0) :
    ∃ t, exec (.rakeRefill g [p] []) s = .next t ∧
      t.get (BUF_PIPE_STAT3.no_cell p) = satAdd 32 (s.get (BUF_PIPE_STAT3.no_cell p)) 1 ∧
      t.get BUF_RAKE_STAT.no_cell = satAdd 32 (s.get BUF_RAKE_STAT.no_cell) 1 ∧ s.Same [] t ∧
      s.Frame noRegs [BUF_PIPE_STAT3.no_cell p, BUF_RAKE_STAT.no_cell] t := by
  have step : s.rakeRefill g [p.val] [] = _ :=
    (State.rakeRefill_request runs init p.isLt).trans (State.refillOne_of_empty low empty)
  have apart : BUF_PIPE_STAT3.regOff p ≠ BUF_RAKE_STAT.regOff := by
    unfold BUF_PIPE_STAT3.regOff BUF_RAKE_STAT.regOff
    omega
  obtain ⟨first, -, -⟩ := State.bump_alone w (f := BUF_PIPE_STAT3.no_cell p) (Nat.le_of_ble_eq_true rfl) 1
  obtain ⟨second, -, -⟩ := State.bump_alone (State.bump_regsWf w (f := BUF_PIPE_STAT3.no_cell p) (n := 1))
    (f := BUF_RAKE_STAT.no_cell) (by decide) 1
  have far : (s.bump (BUF_PIPE_STAT3.no_cell p) 1).get BUF_RAKE_STAT.no_cell = s.get BUF_RAKE_STAT.no_cell :=
    State.get_put_far _ apart.symm
  rw [far] at second
  refine ⟨_, congrArg Host.Outcome.next step, (State.get_put_far _ apart).trans first, second,
    (((OnlyRegs.refl s).bump _ _).bump _ _).same _, ?_⟩
  exact ((State.Frame.refl _ _ s).putNamed (by simp) (Nat.le_of_ble_eq_true rfl) _).putNamed (by simp) (by decide) _

theorem rakeRefill_trims (long : 56 < s.cached p g) :
    ∃ t, exec (.rakeRefill g [] [p]) s = .next t ∧ t.cached p g = 48 ∧
      t.subring g = s.subring g + (s.cached p g - 48) ∧
      (∀ q r : Fin 32, (q ≠ p ∨ r ≠ g) → t.cached q r = s.cached q r) ∧
      t.buf = { s.buf with cache := t.buf.cache, subring := t.buf.subring } ∧
      s.SameCounting [.buf] t ∧ s.Frame (perfRegs rakeBlock) [] t := by
  have step : s.rakeRefill g [] [p.val] = _ :=
    (State.rakeRefill_trim runs init p.isLt).trans (State.trimOne_of_long long)
  obtain ⟨buf, same, frame⟩ := s.rakeMoved_counts (s.trimmedList g p) p (s.cached p g - 48)
  refine ⟨_, congrArg Host.Outcome.next step, ?_⟩
  generalize ({ s with buf := s.trimmedList g p } : State).rakeMoved p (s.cached p g - 48) = t at buf same frame ⊢
  have cache : t.buf.cache = (s.setPtrs p g ((s.ptrs p g).take 48)).buf.cache := by rw [buf]; rfl
  have ring : t.buf.subring = (s.setRuns g (putRuns (s.runs g) ((s.ptrs p g).drop 48))).buf.subring := by rw [buf]; rfl
  refine ⟨?_, ?_, fun q r ne => ?_, by rw [buf]; rfl, same, frame⟩
  · rw [State.cached_congr cache, State.cached_setPtrs_same, List.length_take]
    show min 48 (s.cached p g) = 48
    omega
  · rw [State.subring_congr ring, State.subring_setRuns_same, runLength_putRuns, List.length_drop]
    rfl
  · exact (State.cached_congr cache q r).trans (s.cached_setPtrs_other (listKey_ne ne) _)

end

/-! ### Rebalances (R302) -/

/-- The fuller of the list found so far and the list of key `k`. -/
def State.fuller (s : State) (b : Option (Nat × Nat)) (k : Nat) : Option (Nat × Nat) :=
  match b with
  | none => some (k, s.cached (k / 32) (k % 32))
  | some y => if y.2 < s.cached (k / 32) (k % 32) then some (k, s.cached (k / 32) (k % 32)) else some y

/-- What is found is the list of some key with its length, and no list looked at is longer. -/
theorem State.foldl_fuller {l : List Nat} {b : Option (Nat × Nat)}
    (good : ∀ y, b = some y → y.2 = s.cached (y.1 / 32) (y.1 % 32)) (h : l.foldl s.fuller b = some (k, n)) :
    (k ∈ l ∨ b = some (k, n)) ∧ n = s.cached (k / 32) (k % 32) ∧
      (∀ y, b = some y → y.2 ≤ n) ∧ ∀ j ∈ l, s.cached (j / 32) (j % 32) ≤ n := by
  induction l generalizing b with
  | nil =>
    have found : b = some (k, n) := h
    subst found
    exact ⟨Or.inr rfl, good _ rfl, fun y e => by rw [← Option.some.inj e], fun _ m => nomatch m⟩
  | cons j l ih =>
    have next : ∃ y, s.fuller b j = some y ∧ y.2 = s.cached (y.1 / 32) (y.1 % 32) ∧ (y.1 = j ∨ b = some y) ∧
        (∀ z, b = some z → z.2 ≤ y.2) ∧ s.cached (j / 32) (j % 32) ≤ y.2 := by
      unfold State.fuller
      cases b with
      | none => exact ⟨_, rfl, rfl, Or.inl rfl, by simp, le_refl _⟩
      | some y =>
        by_cases more : y.2 < s.cached (j / 32) (j % 32)
        · exact ⟨_, if_pos more, rfl, Or.inl rfl, fun z e => by rw [← Option.some.inj e]; exact le_of_lt more,
            le_refl _⟩
        · exact ⟨y, if_neg more, good y rfl, Or.inr rfl, fun z e => by rw [← Option.some.inj e], by omega⟩
    obtain ⟨y, found, length, source, atLeast, covers⟩ := next
    obtain ⟨place, counted, keeps, longest⟩ := ih (b := some y) (fun z e => by rw [← Option.some.inj e]; exact length)
      (by rw [← found]; exact h)
    have bound := keeps y rfl
    refine ⟨?_, counted, fun z e => (atLeast z e).trans bound, fun i m => ?_⟩
    · rcases place with later | own
      · exact Or.inl (List.mem_cons_of_mem _ later)
      · rcases source with first | before
        · exact Or.inl (by rw [← first, Option.some.inj own]; exact List.mem_cons_self)
        · exact Or.inr (before.trans own)
    · rcases List.mem_cons.mp m with rfl | later
      · exact covers.trans bound
      · exact longest i later

theorem State.fullest_spec (h : s.fullest p = some (k, n)) : k / 32 ≠ p ∧ n = s.cached (k / 32) (k % 32) ∧
    ∀ x ∈ s.buf.cache, x.1 / 32 ≠ p → s.cached (x.1 / 32) (x.1 % 32) ≤ n := by
  obtain ⟨place, length, -, longest⟩ := State.foldl_fuller (b := none) (fun _ e => nomatch e)
    (h : ((s.buf.cache.map (·.1)).filter (fun k => k / 32 ≠ p)).foldl s.fuller none = some (k, n))
  have mem := place.resolve_right (fun e => nomatch e)
  refine ⟨by simpa using (List.mem_filter.mp mem).2, length, fun x m other => longest x.1 ?_⟩
  exact List.mem_filter.mpr ⟨List.mem_map_of_mem m, by simpa using other⟩

/-- The state once the last half of the list of key `k`, rounded up, became pipe `p`'s list of its group. -/
def State.rebalanced (s : State) (p k n : Nat) : State :=
  (s.setPtrs (k / 32) (k % 32) ((s.ptrs (k / 32) (k % 32)).take (n - (n + 1) / 2))).setPtrs p (k % 32)
    ((s.ptrs (k / 32) (k % 32)).drop (n - (n + 1) / 2))

theorem State.rakeRebalance_eq (runs : s.seqRuns 1 = true) (empty : ∀ g < 32, s.cached p g = 0)
    (full : s.fullest p = some (k, n)) : s.rakeRebalance p =
      ((s.rebalanced p k n).bump BUF_RAKE_STAT.rebalances 1).rakeMoved p ((n + 1) / 2) := by
  have stalled : (List.range 32).any (fun g => s.cached p g ≠ 0) = false :=
    List.any_eq_false.mpr (fun g m => by simp [empty g (List.mem_range.mp m)])
  unfold State.rakeRebalance
  rw [runs, stalled, if_neg (by decide), full]
  rfl

theorem rakeStat_not_perfRegs : ¬perfRegs rakeBlock BUF_RAKE_STAT.regOff := by
  unfold perfRegs eventRegs
  decide

theorem rakeRebalance_moves {p : Fin 32} (w : RegsWf s.regs) (runs : s.seqRuns 1 = true)
    (empty : ∀ g < 32, s.cached p g = 0) (full : s.fullest p = some (k, n)) :
    ∃ t, exec (.rakeRebalance p) s = .next t ∧ k / 32 ≠ p.val ∧
      (∀ x ∈ s.buf.cache, x.1 / 32 ≠ p.val → s.cached (x.1 / 32) (x.1 % 32) ≤ n) ∧
      t.cached p (k % 32) = (n + 1) / 2 ∧ t.cached (k / 32) (k % 32) = n / 2 ∧
      (∀ q r : Fin 32, (q ≠ p ∨ r.val ≠ k % 32) → (q * 32 + r ≠ k) → t.cached q r = s.cached q r) ∧
      t.get BUF_RAKE_STAT.rebalances = satAdd 16 (s.get BUF_RAKE_STAT.rebalances) 1 ∧
      t.buf = { s.buf with cache := t.buf.cache } ∧ s.SameCounting [.buf] t ∧
      s.Frame (perfRegs rakeBlock) [BUF_RAKE_STAT.rebalances] t := by
  obtain ⟨other, length, longest⟩ := State.fullest_spec full
  have held : (s.ptrs (k / 32) (k % 32)).length = n := length.symm
  have buf : s.rebalanced p k n = { s with buf := { s.buf with cache := (s.rebalanced p k n).buf.cache } } := rfl
  have own : (s.rebalanced p k n).cached p (k % 32) = (n + 1) / 2 := by
    unfold State.rebalanced
    rw [State.cached_setPtrs_same, List.length_drop, held]
    omega
  have donor : (s.rebalanced p k n).cached (k / 32) (k % 32) = n / 2 := by
    unfold State.rebalanced
    rw [State.cached_setPtrs_other _ (by omega), State.cached_setPtrs_same, List.length_take, held]
    omega
  have rest (q r : Fin 32) (apart : q ≠ p ∨ r.val ≠ k % 32) (ne : q.val * 32 + r.val ≠ k) :
      (s.rebalanced p k n).cached q r = s.cached q r := by
    unfold State.rebalanced
    rw [State.cached_setPtrs_other _ (by omega), State.cached_setPtrs_other _ (by omega)]
  have regs : (s.rebalanced p k n).regs = s.regs := rfl
  obtain ⟨count, -, -⟩ := State.bump_alone (s := s.rebalanced p k n) w (f := BUF_RAKE_STAT.rebalances) (by decide) 1
  rw [State.get_congr regs] at count
  have counts : (s.rebalanced p k n).Frame (perfRegs rakeBlock) [BUF_RAKE_STAT.rebalances]
      ((s.rebalanced p k n).bump BUF_RAKE_STAT.rebalances 1) :=
    (State.Frame.refl _ _ _).putNamed (by simp) (by decide) _
  have only : OnlyRegs (s.rebalanced p k n) ((s.rebalanced p k n).bump BUF_RAKE_STAT.rebalances 1) :=
    State.put_only _ _ _
  refine ⟨_, congrArg Host.Outcome.next (State.rakeRebalance_eq runs empty full), other, longest, ?_⟩
  generalize s.rebalanced p k n = u at own donor rest buf count counts only ⊢
  generalize u.bump BUF_RAKE_STAT.rebalances 1 = v at count counts only ⊢
  have tally := v.rakeMoved_tally p ((n + 1) / 2)
  generalize v.rakeMoved p ((n + 1) / 2) = t at tally ⊢
  have same : t.buf = u.buf := tally.buf.trans (only.agrees .buf)
  have lists (q r : Nat) : t.cached q r = u.cached q r := State.cached_congr (congrArg BufSt.cache same) q r
  refine ⟨(lists _ _).trans own, (lists _ _).trans donor, fun q r apart ne => (lists q r).trans (rest q r apart ne),
    (tally.get rakeStat_not_perfRegs (fun _ m => nomatch m)).trans count, by rw [same, buf], ?_, ?_⟩
  · have cache : s.Same [.buf] u := by rw [buf]; exact .of_buf s _
    exact (cache.trans (only.same _)).counting.trans (tally.sameCounting _)
  · have first : s.Frame (perfRegs rakeBlock) [BUF_RAKE_STAT.rebalances] u :=
      State.Frame.same (.refl _ _ s) (by rw [buf])
    exact (first.trans counts).trans (tally.frame.mono (fun _ => id) (fun _ m => nomatch m))

end Sys2Proof.Machine
end

section
/-! PROOFS. The peaks that are sampled (10_telemetry_metering.md R373): of every pair with cells charged, and of no
other. -/

-- One declaration at a time: the package is compiled as one text, and a thread for each would not fit.
set_option Elab.async false

namespace Sys2Proof.Machine

variable {s t : State} {pair : Nat}

/-- The pair's cells are sampled. -/
def State.samplePeak (s : State) (pair : Nat) : State :=
  s.onMeter 0 pair (fun m => { m with peak := max m.peak (min (s.pairCells pair) (2 ^ 21 - 1)) })

/-- The pairs of packets that are charged. -/
def State.chargedPairs (s : State) : List Nat :=
  ((s.pk.pkts.filter (fun p => p.charge ≠ .none)).map (fun p => pairOf p.w.md)).eraseDups

theorem State.samplePeaks_eq (s : State) : s.samplePeaks = s.chargedPairs.foldl State.samplePeak s := rfl

theorem State.mem_chargedPairs :
    pair ∈ s.chargedPairs ↔ ∃ p ∈ s.pk.pkts, p.charge ≠ .none ∧ pairOf p.w.md = pair := by
  unfold State.chargedPairs
  simp [List.mem_eraseDups, and_assoc]

/-- Sampling changes meters alone. -/
theorem State.samplePeak_eq (s : State) (pair : Nat) :
    s.samplePeak pair = { s with mtr := { s.mtr with meters := (s.samplePeak pair).mtr.meters } } := rfl

theorem State.foldl_samplePeak_eq (s : State) (l : List Nat) : l.foldl State.samplePeak s =
    { s with mtr := { s.mtr with meters := (l.foldl State.samplePeak s).mtr.meters } } := by
  induction l generalizing s with
  | nil => rfl
  | cons a l ih =>
    rw [List.foldl_cons, ih, s.samplePeak_eq a]

theorem State.meter_samplePeak_same (s : State) (pair : Nat) :
    (s.samplePeak pair).meter (meterKey 0 s.mtr.bank pair) = { s.meter (meterKey 0 s.mtr.bank pair) with
      peak := max (s.meter (meterKey 0 s.mtr.bank pair)).peak (min (s.pairCells pair) (2 ^ 21 - 1)) } :=
  smGet_smPut_same _ _ _ _

theorem State.meter_samplePeak_other (s : State) {pair a : Nat} (h : a ≠ pair) :
    (s.samplePeak pair).meter (meterKey 0 s.mtr.bank a) = s.meter (meterKey 0 s.mtr.bank a) :=
  smGet_smPut_other _ _ _ (by unfold meterKey; omega)

theorem State.meter_foldl_other (s : State) {l : List Nat} (h : pair ∉ l) :
    (l.foldl State.samplePeak s).meter (meterKey 0 s.mtr.bank pair) = s.meter (meterKey 0 s.mtr.bank pair) := by
  induction l generalizing s with
  | nil => rfl
  | cons a l ih =>
    obtain ⟨ne, later⟩ := not_or.mp (fun m => h (List.mem_cons.mpr m))
    exact (ih (s.samplePeak a) later).trans (s.meter_samplePeak_other ne)

/-- However often a pair is listed, its peak is the larger of what it was and what the pair has. -/
theorem State.meter_foldl_mem (s : State) {l : List Nat} (h : pair ∈ l) :
    (l.foldl State.samplePeak s).meter (meterKey 0 s.mtr.bank pair) = { s.meter (meterKey 0 s.mtr.bank pair) with
      peak := max (s.meter (meterKey 0 s.mtr.bank pair)).peak (min (s.pairCells pair) (2 ^ 21 - 1)) } := by
  induction l generalizing s with
  | nil => exact absurd h List.not_mem_nil
  | cons a l ih =>
    by_cases own : pair = a
    · subst own
      by_cases again : pair ∈ l
      · refine (ih (s.samplePeak pair) again).trans ?_
        have first := s.meter_samplePeak_same pair
        have cells : (s.samplePeak pair).pairCells pair = s.pairCells pair := rfl
        have bank : (s.samplePeak pair).mtr.bank = s.mtr.bank := rfl
        rw [cells, bank, first]
        simp
      · exact ((s.samplePeak pair).meter_foldl_other again).trans (s.meter_samplePeak_same pair)
    · have later := (List.mem_cons.mp h).resolve_left own
      refine (ih (s.samplePeak a) later).trans ?_
      have kept := s.meter_samplePeak_other own
      have cells : (s.samplePeak a).pairCells pair = s.pairCells pair := rfl
      have bank : (s.samplePeak a).mtr.bank = s.mtr.bank := rfl
      rw [cells, bank, kept]

theorem peakSample_samples (s : State) : ∃ t, exec .peakSample s = .next t ∧
    (∀ pair < 16384, (∃ p ∈ s.pk.pkts, p.charge ≠ .none ∧ pairOf p.w.md = pair) →
      t.meter (meterKey 0 s.mtr.bank pair) = { s.meter (meterKey 0 s.mtr.bank pair) with
        peak := max (s.meter (meterKey 0 s.mtr.bank pair)).peak (min (s.pairCells pair) (2 ^ 21 - 1)) }) ∧
    (∀ pair, (∀ p ∈ s.pk.pkts, p.charge = .none ∨ pairOf p.w.md ≠ pair) →
      t.meter (meterKey 0 s.mtr.bank pair) = s.meter (meterKey 0 s.mtr.bank pair)) ∧
    t.mtr = { s.mtr with meters := t.mtr.meters } ∧ s.Same [.mtr] t ∧ t.regs = s.regs := by
  have only := s.foldl_samplePeak_eq s.chargedPairs
  refine ⟨_, congrArg Host.Outcome.next s.samplePeaks_eq, fun pair _ charged => ?_, fun pair free => ?_, ?_, ?_, ?_⟩
  · exact s.meter_foldl_mem (State.mem_chargedPairs.mpr charged)
  · refine s.meter_foldl_other (fun m => ?_)
    obtain ⟨p, mem, some, own⟩ := State.mem_chargedPairs.mp m
    exact (free p mem).elim some (fun ne => ne own)
  · rw [only]
  · rw [only]
    exact .of_mtr s _
  · rw [only]

end Sys2Proof.Machine
end

section
/-! PROOFS. Cells written, read and returned (08_shared_buffer.md R292-R295, R298-R302, R312;
10_telemetry_metering.md R373), O53. -/

-- One declaration at a time: the package is compiled as one text, and a thread for each would not fit.
set_option Elab.async false

namespace Sys2Proof.Machine

variable {s : State} {p : Pkt}

/-- A packet found by a condition is in the buffer under its number. -/
theorem State.pkt_of_find {f : Pkt → Bool} (h : s.pk.pkts.find? f = some p) : ∃ q, s.pkt p.id = some q :=
  Option.isSome_iff_exists.mp (List.find?_isSome.mpr ⟨p, List.mem_of_find?_eq_some h, by simp⟩)

/-- What a packet has charged once a cell within its reservation is written (R312). -/
theorem charged_of_grown (p : Pkt) (ptr epoch : Nat) (last : Bool) :
    (trimmed (grownPkt p ptr epoch last) (unusedOf (grownPkt p ptr epoch last) last)).charged =
      p.charged - (if last then min (p.reserved - (p.cells.length + 1)) p.charged else 0) := by
  cases last <;> simp [trimmed, unusedOf, grownPkt]

/-- A cell that can be written is written at the list's first pointer, counts every copy, and is chained. -/
theorem cellWrite_writes {writes reads : List Nat} {g ptr n : Nat} {last : Bool} {rest : List Nat}
    (here : s.pkt p.id = some p) (next : nextCell p = some (n, last)) (may : s.mayWrite p = true) (pipe : p.w.pipe < 32)
    (gone : p.gone = []) (few : p.copies < 2 ^ 11)
    (chosen : s.chooseGroup p.w.pipe (p.cells.getLast?.map (fun x => ptrGroup x.1)) (waitingAt writes reads) = some g)
    (list : s.ptrs p.w.pipe g = ptr :: rest) (room : p.cells.length < p.reserved) (inside : ptr < 2 ^ 21)
    (apart : ∀ x : Nat × Nat, p.cells.getLast? = some x → x.1 ≠ ptr) :
    ∃ (t : State) (q : Pkt), exec (.cellWrite p.id writes reads) s = .next t ∧ t.pkt p.id = some q ∧
      q.cells = p.cells ++ [(ptr, (cellEpoch (s.cell ptr) + 1) % 16)] ∧ q.last = last ∧
      q.charged = p.charged - (if last then min (p.reserved - (p.cells.length + 1)) p.charged else 0) ∧
      cellRefs (t.cell ptr) = p.copies ∧ cellOwner (t.cell ptr) = p.w.pipe ∧
      cellEpoch (t.cell ptr) = (cellEpoch (s.cell ptr) + 1) % 16 ∧
      bitAt (t.cell ptr) 20 = last ∧ bitsOf (t.cell ptr) 46 8 = (n - 1) % 256 ∧
      (∀ x : Nat × Nat, p.cells.getLast? = some x → bitsOf (t.cell x.1) 21 21 = ptr ∧
        cellRefs (t.cell x.1) = cellRefs (s.cell x.1)) ∧
      (∀ a, a ≠ ptr → (∀ x : Nat × Nat, p.cells.getLast? = some x → a ≠ x.1) → t.cell a = s.cell a) ∧
      t.ptrs p.w.pipe g = rest ∧ (∀ q r : Fin 32, (q.val ≠ p.w.pipe ∨ r.val ≠ g) → t.ptrs q r = s.ptrs q r) ∧
      s.SameCounting [.pk, .buf, .flt] t := by
  obtain ⟨found, own, before, others, lists, same⟩ :=
    State.cellWrite_spec here next may chosen list gone room apart
  have epoch : s.nextEpoch ptr < 2 ^ 4 := Nat.mod_lt _ (by decide)
  obtain ⟨refs, owner, age, ends, bytes⟩ := cellWord_fields few pipe epoch n last
  have group : g < 32 := (State.mem_openGroups.mp (State.chooseGroup_some chosen).1).1
  refine ⟨_, _, rfl, found, rfl, rfl, charged_of_grown p ptr _ last, ?_, ?_, ?_, ?_, ?_, fun x h => ?_, others,
    (lists _ _).trans (s.ptrs_setPtrs_same _ _ _), fun q r ne => (lists _ _).trans (s.ptrs_setPtrs_other (by omega) _),
    same⟩
  · rw [own, refs]
  · rw [own, owner]
  · rw [own, age]
    rfl
  · rw [own, ends]
  · rw [own, bytes]
  · rw [before x h]
    exact chained_fields inside _

/-- Settles O53: each event's meaning is rewritten to the few writes it makes, and what each write leaves is read
off. -/
theorem cellsAreWrittenReadAndReturned : Obligations.CellsAreWrittenReadAndReturned := by
  unfold Obligations.CellsAreWrittenReadAndReturned
  intro s inv
  refine ⟨?choose, ?write, ?stall, ?read, ?rake, ?rebalance, peakSample_samples s⟩
  case choose =>
    intro pipe prev waiting
    refine ⟨fun g chosen => ?_, fun none h small => ?_⟩
    · obtain ⟨mem, least⟩ := State.chooseGroup_some chosen
      obtain ⟨small, pointers, apart⟩ := State.mem_openGroups.mp mem
      exact ⟨small, pointers, apart, fun h inside some ne => least h (State.mem_openGroups.mpr ⟨inside, some, ne⟩)⟩
    · have closed : h ∉ s.openGroups pipe prev := by simp [State.chooseGroup_none none]
      rw [State.mem_openGroups] at closed
      tauto
  case write =>
    intro p writes reads g ptr n last rest here next may pipe gone few chosen list room inside apart
    exact cellWrite_writes here next may pipe gone few chosen list room inside apart
  case stall =>
    intro pipe p found dry unsent
    obtain ⟨q, here⟩ := State.pkt_of_find found
    obtain ⟨pkt, copies, count, cells, same⟩ := State.endStalled_spec inv.regsWf pipe.isLt here
    exact ⟨_, _, congrArg Host.Outcome.next (State.stallEnd_eq found dry unsent), pkt, rfl, rfl, rfl, copies, count,
      cells, same⟩
  case read =>
    intro c p ptr e here pkt cell left port runs unsent valid ready
    refine ⟨cellRead_quarantined here pkt cell left port runs unsent ready,
      fun good => ⟨fun own age => ⟨?_, ?_⟩, ?_⟩⟩
    · exact cellRead_shared here pkt cell left port runs unsent ready good valid own age
    · exact cellRead_last here pkt cell left port runs unsent ready good valid own age
    · exact cellRead_unheld here pkt cell left port runs unsent ready good valid inv.regsWf
  case rake =>
    intro g p runs init
    exact ⟨rakeRefill_fills runs init, rakeRefill_finds_none runs init inv.regsWf,
      fun low high => congrArg Host.Outcome.next (State.rakeRefill_idle runs init p.isLt low high),
      rakeRefill_trims runs init⟩
  case rebalance =>
    intro p k n runs empty full _ _
    exact rakeRebalance_moves inv.regsWf runs empty full

end Sys2Proof.Machine
end

section
/-! PROOFS. Departures (09_scheduling_shaping.md R353, 11_serial_lanes.md R412): the discard of an errored frame at its
start ends the copy's pass, whose performance events can be of a block that is none of the device's. -/

-- One declaration at a time: the package is compiled as one text, and a thread for each would not fit.
set_option Elab.async false

namespace Sys2Proof.Machine

/-- A block whose first counter would be PORT_TX2 of lane 40, and its event selection PORT_EEE of that lane. `State.Inv`
does not bound the block of a note. -/
def departBlock : Nat := PORT_TX2.regOff 40 - 0xFC0

theorem departBlock_registers :
    PERF_CNT.regOff departBlock 0 = PORT_TX2.regOff 40 ∧ PERF_SEL.regOff departBlock 0 = PORT_EEE.regOff 40 := by decide

/-- A copy that waits for its start at queue 3 of port 7 and has met one event of code 0x64 in `departBlock`. -/
def erroredCopy : Copy :=
  { strayCopy with
    queue := queueOf 7 3, at' := .held, w := { strayCopy.w with stage := 32, notes := [⟨departBlock, 0x64, {}, 1⟩] } }

/-- Its packet, all held and marked errored. -/
def erroredPkt : Pkt :=
  { id := 0, w := { strayCopy.w with notes := [] }, port := 7, bytes := List.replicate 64 0, whole := true, err := true
    rxErr := false, exported := false, fromFifo := false, crossed := 0, via := 0, bank := 0, ver := 0, force := 0, rx := 0
    policed := false, admitted := true, pd := 0, copies := 1, gone := [], charge := .none, charged := 0, reserved := 0
    cells := [], last := true, ended := false, inject := none, hdr := [], fabDst := none, pending := [] }

/-- Port 7, on lanes 40 to 43, is up and has counted all the stomped frames that its counter holds and no errored
discard; its lpi_idle_us, as after reset, selects code 0x64 in `departBlock`. -/
def erroredState : State :=
  let s := State.reset.puts [(PORT_STATUS.state 40, 4), (PORT_TX2.stomped 40, 2 ^ 32 - 1)]
  { s with
    io := { s.io with records := [(7, some strayRecord)] }
    pk := { s.pk with pkts := [erroredPkt], copies := [erroredCopy] } }

theorem erroredState_inv : erroredState.Inv :=
  (Keep.plain (State.puts_keep (Keep.refl State.reset))).inv resetMeetsTheInvariant

/-- The frame may start: its copy is the first held of its queue, and port, gate and PFC allow. -/
theorem erroredState_starts :
    erroredState.nextHeld (queueOf 7 3) = some erroredCopy ∧ erroredState.pkt erroredCopy.pkt = some erroredPkt ∧
      erroredState.pwrState < 2 ∧ erroredState.pin.stopped = false ∧
      erroredState.channelRuns (erroredState.pipeOf 7) = true ∧ erroredState.portUp 7 = true ∧
      erroredState.txFree 7 = true ∧ erroredState.overtakes erroredCopy = false ∧
      erroredState.isRistlink 7 = false ∧ erroredState.pfcFirst 7 = false ∧
      erroredState.gateOpen 7 3 erroredState.wrapNow = true ∧ erroredState.pfcHeld 7 3 = false := by
  decide +kernel

/-- No errored discard has been counted, so that the statement asks for one. -/
theorem erroredState_discards_none : erroredState.get (PORT_TX2.errored_discards (erroredState.laneOf 7)) = 0 := by
  decide +kernel

/-- The discard counts one, and the copy's event, which counts at bit 0 of PORT_TX2, carries out of the full count of
stomped frames into a second. -/
theorem erroredState_discards_twice :
    (erroredState.txStart 7 3).get (PORT_TX2.errored_discards (erroredState.laneOf 7)) = 2 := by
  decide +kernel

/-- Refutes O54: the invariant lets a copy carry events of any block, so what a frame discarded at its start has met can
count in the register that counts the discard. In `erroredState` the one discard makes errored_discards 2. -/
theorem not_departuresAreChosenStartedAndGated : ¬ Obligations.DeparturesAreChosenStartedAndGated := by
  unfold Obligations.DeparturesAreChosenStartedAndGated
  intro h
  obtain ⟨-, departs, -⟩ := h erroredState erroredState_inv
  obtain ⟨held, pkt, runs, clocked, channel, up, free, order, link, pfc, gate, paused⟩ := erroredState_starts
  obtain ⟨-, starts⟩ := departs 7 3 erroredCopy erroredPkt held pkt runs clocked channel up free order link pfc
  obtain ⟨discards, -⟩ := starts gate paused
  obtain ⟨t, e, -, once⟩ := discards rfl
  have start : erroredState.txStart 7 3 = t := Host.Outcome.next.inj e
  have asked : t.get (PORT_TX2.errored_discards (erroredState.laneOf 7)) = satAdd 32 0 1 :=
    once.trans (congrArg (satAdd 32 · 1) erroredState_discards_none)
  have twice : t.get (PORT_TX2.errored_discards (erroredState.laneOf 7)) = 2 := start ▸ erroredState_discards_twice
  exact absurd (twice.symm.trans asked) (by decide)

end Sys2Proof.Machine
end

section
/-! PROOFS. Performance counters (10_telemetry_metering.md R376-R378, R392): the statement's blocks reach over the
registers of the rings, where a counter's own overflow counts as a lost record. -/

-- One declaration at a time: the package is compiled as one text, and a thread for each would not fit.
set_option Elab.async false

namespace Sys2Proof.Machine

/-- The block that would hold the statistics of rings 0 to 511, were it one with performance counters: block 50 of the
shared unit. -/
def ringStatBlock : Nat := perfBlock 32 50

theorem ringStatBlock_counter : PERF_CNT.regOff ringStatBlock 0 = RING_STAT.regOff 504 := by decide

/-- Its counter 0 selects code 2, holds the largest count and asks for a record, in ring 504, which is not enabled. -/
def fullCounterState : State :=
  State.reset.puts [(PERF_SEL.event ringStatBlock 0, 2), (PERF_SEL.ov_event ringStatBlock 0, 1),
    (PERF_CNT.value ringStatBlock 0, 2 ^ 48 - 1), (MTR_CFG2.event_en, 1), (MTR_CFG2.event_ring, 504)]

theorem fullCounterState_inv : fullCounterState.Inv :=
  (State.puts_keep (Keep.refl State.reset)).inv resetMeetsTheInvariant

/-- The counter counts the event, and one more makes its count wrap to 0. -/
theorem fullCounterState_counts :
    fullCounterState.get (PERF_SEL.event ringStatBlock 0) = 2 ∧ fullCounterState.perfPass ringStatBlock 0 {} = true ∧
      (fullCounterState.get (PERF_CNT.value ringStatBlock 0) + 1) % 2 ^ 48 = 0 := by
  decide +kernel

/-- The record of the wrap is lost, and RING_STAT.lost of ring 504 counts it at bit 32 of the counter. -/
theorem fullCounterState_counts_loss :
    (fullCounterState.perf ringStatBlock 2 {} 1).get (PERF_CNT.value ringStatBlock 0) = 2 ^ 32 := by
  decide +kernel

/-- Refutes O59: the statement takes every block of every unit, also those whose registers at the counters' offsets are
others. In `fullCounterState` the counter of block 50 wraps to 0, its record is lost, and the count of the loss stands in
the same register, so that the counter reads 2^32. -/
theorem not_performanceCountersAddWrapAndReport : ¬ Obligations.PerformanceCountersAddWrapAndReport := by
  unfold Obligations.PerformanceCountersAddWrapAndReport
  intro h
  obtain ⟨selects, passes, wraps⟩ := fullCounterState_counts
  obtain ⟨counters, -⟩ := h fullCounterState _ 32 50 2 1 {} fullCounterState_inv (by decide) (by decide) (by decide) rfl
  obtain ⟨counted, -⟩ := counters 0 (by decide)
  obtain ⟨value, -⟩ := counted selects passes
  have asked : (fullCounterState.perf ringStatBlock 2 {} 1).get (PERF_CNT.value ringStatBlock 0) = 0 := value.trans wraps
  exact absurd (fullCounterState_counts_loss.symm.trans asked) (by decide)

end Sys2Proof.Machine
end

section
/-! PROOFS. Harvests and postcards (10_telemetry_metering.md R391): the summary of what a virtual function lost, for a
ring number past the last ring, whose RING_ASSIGN would be CIPHER_LOCK. -/

-- One declaration at a time: the package is compiled as one text, and a thread for each would not fit.
set_option Elab.async false

namespace Sys2Proof.Machine

/-- Where the first prefetched copy is of the ring's kind and may be taken, it is the next. -/
theorem State.headCopy_of_kind {s : State} {r : Nat} {w : List Word} {l : List (List Word)}
    (copies : (s.ring r).copies = w :: l) (kind : entryKind w = s.ringKind r) (may : s.mayTake r = true) :
    s.headCopy r = (s, some w) := by
  have kept (n : Nat) : s.refuseWrongKind r n = s := by
    cases n with
    | zero => rfl
    | succ n => simp [State.refuseWrongKind, copies, kind]
  simp [State.headCopy, kept, may, copies]

/-- A number above that of every ring: its RING_ASSIGN is CIPHER_LOCK, its function the bits that show the lock's owner.
`State.Inv` does not bound the ring of a virtual function. -/
def lockRing : Nat := 3584

theorem lockRing_assign : RING_ASSIGN.regOff lockRing = CIPHER_LOCK.regOff := by decide

/-- An entry of kind METER with a buffer of 9,000 bytes at address 64. -/
def lockRingEntry : List Word := [BitVec.ofNat 64 (2 ^ 63 + 5 * 2 ^ 59), 0, 64, 9000, 0, 0, 0, 0]

/-- Virtual function 12 has lost a batch and has `lockRing`. The harvester holds the engine, and owner 3 makes the ring
one of function 12, the only one that may send. -/
def lockRingState : State :=
  let s := State.reset.puts [(CIPHER_LOCK.owner, 3), (RING_ASSIGN.kind lockRing, 5), (RING_ASSIGN.valid lockRing, 1),
    (RING_CTL.enabled (ringSlotKey 12 0), 1), (HIF_STATUS.link_speed, 1)]
  { s with
    hif := { s.hif with fns := [(12, { busMaster := true })], rings := [(lockRing, { copies := [lockRingEntry] })] }
    cip := { s.cip with slots := [(0, { valid := true, key := List.replicate 16 7 })] }
    mtr := { s.mtr with vfs := [(12, lockRing, 0)], losses := [(12, some ⟨1, 4, 9, 9⟩)] } }

/-- The summary of the loss. -/
def lockRingBatch : Batch :=
  lockRingState.summaryBatch 12 ((smGet noLoss lockRingState.mtr.losses 12).getD ⟨0, 0, 0, 0⟩)

theorem lockRingState_inv : lockRingState.Inv :=
  (Keep.plain (State.puts_keep (Keep.refl State.reset))).inv resetMeetsTheInvariant

/-- The summary is due in that ring and has not been made, and the harvester holds the lock. -/
theorem lockRingState_due :
    lockRingState.seqRuns 2 = true ∧ lockRingState.summaryDue = some (12, lockRing) ∧
      smGet noSum lockRingState.mtr.sums 12 = none ∧ lockRingState.lockOwner = 3 := by
  decide +kernel

/-- The entry is the ring's next and can hold a batch. -/
theorem lockRingState_entry :
    lockRingState.headCopy lockRing = (lockRingState, some lockRingEntry) ∧ meterBad lockRingEntry = false :=
  ⟨State.headCopy_of_kind (l := []) (by decide +kernel) (by decide +kernel) (by decide +kernel), by decide +kernel⟩

/-- The ring's function may send, and the summary takes one request. -/
theorem lockRingState_sends :
    lockRingState.canSend (lockRingState.ringFunc lockRing) = true ∧
      requests lockRingState.payloadSize lockRingBatch.bytes.length (wordAt lockRingEntry 2)
        lockRingBatch.bytes.length = [(64, 80)] := by
  decide +kernel

/-- The release of the lock makes the ring one of function 0, whose writes are held. -/
theorem lockRingState_holds : (lockRingState.batchSend false).out = [] := by decide +kernel

/-- Refutes O58: the invariant lets a virtual function have a ring whose RING_ASSIGN is CIPHER_LOCK. In `lockRingState` the
release of the lock, as the summary is made, makes that ring another function's, and the write for function 12 is not
sent. -/
theorem not_harvestsDeliverAndPostcardsExport : ¬ Obligations.HarvestsDeliverAndPostcardsExport := by
  unfold Obligations.HarvestsDeliverAndPostcardsExport
  intro h
  obtain ⟨runs, due, unmade, owner⟩ := lockRingState_due
  obtain ⟨head, good⟩ := lockRingState_entry
  obtain ⟨may, asks⟩ := lockRingState_sends
  obtain ⟨-, summary, -⟩ := h lockRingState lockRingState_inv
  obtain ⟨⟨t, ran, -, sent⟩, -⟩ := summary 12 lockRing lockRingEntry lockRingBatch runs due head good
    (Or.inr ⟨unmade, owner, rfl⟩)
  have made : lockRingState.batchSend false = t := Host.Outcome.next.inj ran
  have write := sent may (64, 80) (asks ▸ List.mem_singleton_self _)
  rw [← made, lockRingState_holds] at write
  exact absurd write List.not_mem_nil

end Sys2Proof.Machine
end

section
/-! PROOFS. The line symbols of a codeword (11_serial_lanes.md R415, R421, R425): they give back its symbols, and stuffing
lengthens them by at most one symbol in 64. -/

-- One declaration at a time: the package is compiled as one text, and a thread for each would not fit.
set_option Elab.async false

namespace Sys2Proof.Machine

/-! ### Stuffing (R425) -/

theorem runAfter_le (last run x : Nat) : runAfter last run x ≤ run + 1 := by
  unfold runAfter
  split <;> omega

/-- Both ends count runs alike, so that what one inserts the other removes. -/
theorem destuff_stuff (nrz : Bool) (l : List Nat) (last run : Nat) :
    destuff false (stuff nrz l last run) last run = l := by
  induction l generalizing last run with
  | nil => rfl
  | cons x l ih =>
    by_cases full : runAfter last run x = 64
    · simp [stuff, destuff, full, ih]
    · simp [stuff, destuff, full, ih]

/-- A stuff symbol starts the count anew, so that each one has its own 64 symbols before it. -/
theorem length_stuff_le (nrz : Bool) (l : List Nat) (last : Nat) {run : Nat} (h : run < 64) :
    64 * (stuff nrz l last run).length ≤ 65 * l.length + run := by
  induction l generalizing last run with
  | nil => simp [stuff]
  | cons x l ih =>
    have grows := runAfter_le last run x
    by_cases full : runAfter last run x = 64
    · have rest := ih x (run := 0) (by decide)
      simp only [stuff, full, if_true, List.length_cons]
      omega
    · have rest := ih x (run := runAfter last run x) (by omega)
      simp only [stuff, full, if_false, List.length_cons]
      omega

/-! ### Symbols and levels (R415, R421) -/

/-- The `k` last digits of a number in base `b`, highest first, give it back. -/
theorem foldl_digits (b k c : Nat) :
    ((List.range k).map (fun i => c / b ^ (k - 1 - i) % b)).foldl (fun a x => a * b + x) 0 = c % b ^ k := by
  induction k generalizing c with
  | zero => simp [Nat.mod_one]
  | succ k ih =>
    have upper : (List.range k).map (fun i => c / b ^ (k + 1 - 1 - i) % b) =
        (List.range k).map (fun i => c / b / b ^ (k - 1 - i) % b) := by
      refine List.map_congr_left (fun i hi => ?_)
      have place : k + 1 - 1 - i = 1 + (k - 1 - i) := by have := List.mem_range.mp hi; omega
      rw [place, pow_add, pow_one, Nat.div_div_eq_div_mul]
    rw [List.range_succ, List.map_append, List.foldl_append, upper, ih]
    simp only [List.map_cons, List.map_nil, List.foldl_cons, List.foldl_nil, Nat.add_sub_cancel, Nat.sub_self, pow_zero,
      Nat.div_one]
    rw [pow_succ', Nat.mod_mul, Nat.add_comm, Nat.mul_comm]

theorem grayCode_grayCode {x : Nat} (h : x < 4) : grayCode (grayCode x % 4) = x := by
  interval_cases x <;> rfl

theorem length_symbolLevels (nrz : Bool) (c : Nat) : (symbolLevels nrz c).length = if nrz then 10 else 5 := by
  cases nrz <;> simp [symbolLevels]

theorem levelsSymbol_symbolLevels (nrz : Bool) {c : Nat} (h : c < 1024) : levelsSymbol nrz (symbolLevels nrz c) = c := by
  cases nrz with
  | true =>
    have digits := foldl_digits 2 10 c
    rw [List.foldl_map] at digits
    unfold levelsSymbol symbolLevels
    simp only [if_true, List.foldl_map, Nat.mod_mod, Nat.mul_comm 2]
    exact digits.trans (Nat.mod_eq_of_lt h)
  | false =>
    have digits := foldl_digits 4 5 c
    rw [List.foldl_map] at digits
    unfold levelsSymbol symbolLevels
    simp only [Bool.false_eq_true, if_false, List.foldl_map, grayCode_grayCode (Nat.mod_lt _ (by decide : 0 < 4)),
      Nat.mul_comm 4]
    exact digits.trans (Nat.mod_eq_of_lt h)

theorem pieces_flatMap {k : Nat} {f : Nat → List Nat} (h : ∀ x, (f x).length = k) (l : List Nat) :
    pieces k l.length (l.flatMap f) = l.map f := by
  induction l with
  | nil => rfl
  | cons x l ih =>
    have width := h x
    rw [List.length_cons, List.flatMap_cons, List.map_cons, pieces, List.append_assoc, List.take_left' width,
      List.drop_left' width, ih]

/-! ### A codeword's line symbols -/

theorem lineCodeword_codewordLine (nrz : Bool) {w : List Nat} (length : w.length = 544) (small : ∀ x ∈ w, x < 1024) :
    lineCodeword nrz (codewordLine nrz w) = w := by
  unfold lineCodeword codewordLine
  rw [destuff_stuff, ← length, pieces_flatMap (length_symbolLevels nrz), List.map_map]
  exact (List.map_congr_left (fun x m => levelsSymbol_symbolLevels nrz (small x m))).trans (List.map_id w)

theorem length_flatMap_symbolLevels (nrz : Bool) (w : List Nat) :
    (w.flatMap (symbolLevels nrz)).length = w.length * (if nrz then 10 else 5) := by
  simp [List.length_flatMap, length_symbolLevels]

theorem length_codewordLine_le (nrz : Bool) {w : List Nat} (length : w.length = 544) :
    (codewordLine nrz w).length ≤ (if nrz then 5440 else 2720) + (if nrz then 85 else 42) := by
  have stuffed := length_stuff_le nrz (w.flatMap (symbolLevels nrz)) 0 (run := 0) (by decide)
  rw [length_flatMap_symbolLevels, length] at stuffed
  unfold codewordLine
  cases nrz with
  | true =>
    simp only [if_true] at stuffed ⊢
    omega
  | false =>
    simp only [Bool.false_eq_true, if_false] at stuffed ⊢
    omega

end Sys2Proof.Machine
end

section
/-! PROOFS. Numbers side by side in one: what their bits and fields read. -/

-- One declaration at a time: the package is compiled as one text, and a thread for each would not fit.
set_option Elab.async false

namespace Sys2Proof.Machine

/-- `a`, of `m` bits, above the `n` bits of `b`. -/
theorem mul_two_pow_add_lt {a b m n : Nat} (ha : a < 2 ^ m) (hb : b < 2 ^ n) : a * 2 ^ n + b < 2 ^ (m + n) := by
  have room : (a + 1) * 2 ^ n ≤ 2 ^ m * 2 ^ n := Nat.mul_le_mul_right _ ha
  rw [Nat.succ_mul, ← pow_add] at room
  omega

theorem testBit_of_lt_of_le {a n i : Nat} (ha : a < 2 ^ n) (h : n ≤ i) : a.testBit i = false :=
  Nat.testBit_lt_two_pow (ha.trans_le (Nat.pow_le_pow_right (by decide) h))

theorem mul_two_pow_add_div (a : Nat) {b n : Nat} (hb : b < 2 ^ n) : (a * 2 ^ n + b) / 2 ^ n = a := by
  rw [Nat.mul_comm, Nat.mul_add_div (Nat.two_pow_pos n), Nat.div_eq_of_lt hb, Nat.add_zero]

theorem mul_two_pow_add_mod (a : Nat) {b n : Nat} (hb : b < 2 ^ n) : (a * 2 ^ n + b) % 2 ^ n = b := by
  rw [Nat.mul_comm, Nat.mul_add_mod, Nat.mod_eq_of_lt hb]

theorem testBit_mul_two_pow_add (a : Nat) {b n : Nat} (hb : b < 2 ^ n) (i : Nat) :
    (a * 2 ^ n + b).testBit i = if i < n then b.testBit i else a.testBit (i - n) := by
  rw [Nat.mul_comm, Nat.testBit_two_pow_mul_add _ hb]

theorem bitsOf_mul_two_pow_add_of_le (a : Nat) {b n lo : Nat} (hb : b < 2 ^ n) (h : n ≤ lo) (w : Nat) :
    bitsOf (a * 2 ^ n + b) lo w = bitsOf a (lo - n) w := by
  unfold bitsOf
  rw [← Nat.add_sub_of_le h, pow_add, ← Nat.div_div_eq_div_mul, mul_two_pow_add_div a hb, Nat.add_sub_cancel_left]

theorem bitsOf_mul_two_pow_add_of_add_le (a b : Nat) {n lo w : Nat} (h : lo + w ≤ n) :
    bitsOf (a * 2 ^ n + b) lo w = bitsOf b lo w := by
  obtain ⟨k, rfl⟩ := Nat.exists_eq_add_of_le h
  have split : a * 2 ^ (lo + w + k) + b = 2 ^ lo * (2 ^ w * (a * 2 ^ k)) + b := by rw [pow_add, pow_add]; ring
  unfold bitsOf
  rw [split, Nat.mul_add_div (Nat.two_pow_pos lo), Nat.mul_add_mod]

end Sys2Proof.Machine
end

section
/-! PROOFS. Parity of a codeword (11_serial_lanes.md R424): 16 symbols of ten bits. -/

-- One declaration at a time: the package is compiled as one text, and a thread for each would not fit.
set_option Elab.async false

namespace Sys2Proof.Machine

theorem xor_fieldPolynomial_lt {x : Nat} (lo : 1024 ≤ x) (hi : x < 2048) : x ^^^ 0x409 < 1024 := by
  have top : (x ^^^ 0x409) / 2 ^ 10 = 0 := by
    have one : x / 2 ^ 10 = 1 := by omega
    rw [Nat.xor_div_two_pow, one]
    rfl
  omega

theorem gfLoop_lt {a : Nat} (ha : a < 1024) (b i : Nat) {acc : Nat} (h : acc < 1024) : gfLoop a b i acc < 1024 := by
  induction i generalizing acc with
  | zero => exact h
  | succ i ih =>
    unfold gfLoop
    have reduced : (if 1024 ≤ acc * 2 then acc * 2 ^^^ 0x409 else acc * 2) < 1024 := by
      split
      next high => exact xor_fieldPolynomial_lt high (by omega)
      next low => exact not_le.mp low
    apply ih
    split
    · exact Nat.xor_lt_two_pow (n := 10) reduced ha
    · exact reduced

theorem gfMul_lt {a : Nat} (ha : a < 1024) (b : Nat) : gfMul a b < 1024 := gfLoop_lt ha b 10 (by decide)

/-- 16 ten-bit symbols. -/
def SixteenSymbols (l : List Nat) : Prop := l.length = 16 ∧ ∀ x ∈ l, x < 1024

theorem SixteenSymbols.rsStep {g rem : List Nat} {c : Nat} (h : SixteenSymbols rem) (length : g.length = 16)
    (hc : c < 1024) : SixteenSymbols (rsStep g rem c) := by
  obtain ⟨count, small⟩ := h
  have factor : c ^^^ rem.headD 0 < 1024 := by
    refine Nat.xor_lt_two_pow (n := 10) hc ?_
    cases rem with
    | nil => decide
    | cons x _ => exact small x List.mem_cons_self
  have shifted : ∀ x ∈ rem.drop 1 ++ [0], x < 1024 := fun x m => by
    rcases List.mem_append.mp m with old | new
    · exact small x (List.mem_of_mem_drop old)
    · rw [List.mem_singleton.mp new]; decide
  unfold Machine.rsStep
  refine ⟨by simp [count, length], fun x m => ?_⟩
  obtain ⟨i, hi, rfl⟩ := List.mem_iff_getElem.mp m
  rw [List.getElem_zipWith]
  exact Nat.xor_lt_two_pow (n := 10) (shifted _ (List.getElem_mem _)) (gfMul_lt factor _)

theorem length_rsGenerator : (rsGenerator.drop 1).length = 16 := by decide +kernel

theorem SixteenSymbols.foldl_rsStep {g m rem : List Nat} (h : SixteenSymbols rem) (length : g.length = 16)
    (small : ∀ x ∈ m, x < 1024) : SixteenSymbols (m.foldl (Machine.rsStep g) rem) := by
  induction m generalizing rem with
  | nil => exact h
  | cons x m ih =>
    exact ih (h.rsStep length (small x List.mem_cons_self)) (fun y mem => small y (List.mem_cons_of_mem _ mem))

theorem sixteenSymbols_zeros : SixteenSymbols (List.replicate 16 0) :=
  ⟨List.length_replicate, fun x m => by rw [List.eq_of_mem_replicate m]; decide⟩

theorem sixteenSymbols_rsParity {m : List Nat} (small : ∀ x ∈ m, x < 1024) : SixteenSymbols (rsParity m) :=
  sixteenSymbols_zeros.foldl_rsStep length_rsGenerator small

end Sys2Proof.Machine
end

section
/-! PROOFS. The scrambler of a Ristlink lane (11_serial_lanes.md R423): a scrambled bit is the bit sent with the scrambled
bits 39 and 58 places before it, which is what the receiver undoes. -/

-- One declaration at a time: the package is compiled as one text, and a thread for each would not fit.
set_option Elab.async false

namespace Sys2Proof.Machine

/-- The 28 bits that the scrambler sends for group `n` of `x`, counted from the last one, after the 58 bits `hist`. -/
def scrambleGroup (x n hist : Nat) : Nat :=
  (x / 2 ^ (28 * n) % 2 ^ 28) ^^^ (hist / 2 ^ 11 % 2 ^ 28) ^^^ (hist / 2 ^ 30 % 2 ^ 28)

theorem scrambleGroup_lt (x n hist : Nat) : scrambleGroup x n hist < 2 ^ 28 :=
  Nat.xor_lt_two_pow (Nat.xor_lt_two_pow (Nat.mod_lt _ (by decide)) (Nat.mod_lt _ (by decide))) (Nat.mod_lt _ (by decide))

theorem testBit_scrambleGroup (x n hist : Nat) {i : Nat} (h : i < 28) : (scrambleGroup x n hist).testBit i =
    (x.testBit (28 * n + i) ^^ hist.testBit (i + 11) ^^ hist.testBit (i + 30)) := by
  unfold scrambleGroup
  simp only [Nat.testBit_xor, Nat.testBit_mod_two_pow, Nat.testBit_div_two_pow, h, decide_true, Bool.true_and]
  rw [Nat.add_comm i (28 * n)]

theorem scrambleLoop_succ (x n hist acc : Nat) : scrambleLoop x (n + 1) hist acc =
    scrambleLoop x n ((hist * 2 ^ 28 + scrambleGroup x n hist) % 2 ^ 58) (acc * 2 ^ 28 + scrambleGroup x n hist) := rfl

theorem scrambleLoop_eq (x n hist acc : Nat) :
    scrambleLoop x n hist acc = acc * 2 ^ (28 * n) + scrambleLoop x n hist 0 := by
  induction n generalizing hist acc with
  | zero => simp [scrambleLoop]
  | succ n ih =>
    rw [scrambleLoop_succ, scrambleLoop_succ, ih, ih _ (0 * 2 ^ 28 + _), Nat.mul_succ, pow_add]
    ring

theorem scrambleLoop_succ_zero (x n hist : Nat) : scrambleLoop x (n + 1) hist 0 = scrambleGroup x n hist * 2 ^ (28 * n) +
    scrambleLoop x n ((hist * 2 ^ 28 + scrambleGroup x n hist) % 2 ^ 58) 0 := by
  rw [scrambleLoop_succ, scrambleLoop_eq, Nat.zero_mul, Nat.zero_add]

theorem scrambleLoop_lt (x n hist : Nat) : scrambleLoop x n hist 0 < 2 ^ (28 * n) := by
  induction n generalizing hist with
  | zero => simp [scrambleLoop]
  | succ n ih =>
    rw [scrambleLoop_succ_zero, Nat.mul_succ, Nat.add_comm (28 * n)]
    exact mul_two_pow_add_lt (scrambleGroup_lt x n hist) (ih _)

/-- The bits `hist` and, after them, the scrambled bits of `n` groups of `x`. -/
def sentBits (x n hist : Nat) : Nat := hist * 2 ^ (28 * n) + scrambleLoop x n hist 0

/-- The groups after the first one see the bits up to 58 before them as the first group left them. -/
theorem testBit_sentBits_succ (x n hist : Nat) {i : Nat} (h : i < 28 * n + 58) : (sentBits x (n + 1) hist).testBit i =
    (sentBits x n ((hist * 2 ^ 28 + scrambleGroup x n hist) % 2 ^ 58)).testBit i := by
  have rest := scrambleLoop_lt x n ((hist * 2 ^ 28 + scrambleGroup x n hist) % 2 ^ 58)
  have regroup : sentBits x (n + 1) hist = (hist * 2 ^ 28 + scrambleGroup x n hist) * 2 ^ (28 * n) +
      scrambleLoop x n ((hist * 2 ^ 28 + scrambleGroup x n hist) % 2 ^ 58) 0 := by
    rw [sentBits, scrambleLoop_succ_zero, Nat.mul_succ, pow_add]
    ring
  rw [regroup, sentBits, testBit_mul_two_pow_add _ rest, testBit_mul_two_pow_add _ rest, Nat.testBit_mod_two_pow]
  simp [show i - 28 * n < 58 by omega]

/-- Each scrambled bit is the bit of `x` with the scrambled bits 39 and 58 places before it (R423). -/
theorem testBit_scrambleLoop (x n hist : Nat) {i : Nat} (h : i < 28 * n) : (scrambleLoop x n hist 0).testBit i =
    (x.testBit i ^^ (sentBits x n hist).testBit (i + 39) ^^ (sentBits x n hist).testBit (i + 58)) := by
  induction n generalizing hist with
  | zero => omega
  | succ n ih =>
    have rest := scrambleLoop_lt x n ((hist * 2 ^ 28 + scrambleGroup x n hist) % 2 ^ 58)
    by_cases later : i < 28 * n
    · rw [testBit_sentBits_succ x n hist (by omega), testBit_sentBits_succ x n hist (by omega), ← ih _ later,
        scrambleLoop_succ_zero, testBit_mul_two_pow_add _ rest, if_pos later]
    · have sent := scrambleLoop_lt x (n + 1) hist
      rw [sentBits, testBit_mul_two_pow_add _ sent, testBit_mul_two_pow_add _ sent, if_neg (by omega),
        if_neg (by omega), scrambleLoop_succ_zero, testBit_mul_two_pow_add _ rest, if_neg later,
        testBit_scrambleGroup _ _ _ (by omega), show 28 * n + (i - 28 * n) = i by omega,
        show i + 39 - 28 * (n + 1) = i - 28 * n + 11 by omega, show i + 58 - 28 * (n + 1) = i - 28 * n + 30 by omega]

theorem scramble_lt (hist x : Nat) : scramble hist x < 2 ^ 5264 := by
  simpa only [scramble, Nat.reduceMul] using scrambleLoop_lt x 188 (hist % 2 ^ 58)

theorem testBit_scramble (hist x : Nat) {i : Nat} (h : i < 5264) : (scramble hist x).testBit i = (x.testBit i ^^
    (hist % 2 ^ 58 * 2 ^ 5264 + scramble hist x).testBit (i + 39) ^^
      (hist % 2 ^ 58 * 2 ^ 5264 + scramble hist x).testBit (i + 58)) := by
  simpa only [scramble, sentBits, Nat.reduceMul] using testBit_scrambleLoop x 188 (hist % 2 ^ 58) h

theorem xor_xor_cancel : ∀ p q r : Bool, (p ^^ q ^^ r ^^ q ^^ r) = p := by decide

/-- What stands above the scrambled bits, the sync field, does not matter. -/
theorem descramble_scramble (hist a : Nat) {x : Nat} (hx : x < 2 ^ 5264) :
    descramble hist (a * 2 ^ 5264 + scramble hist x) = x := by
  unfold descramble
  rw [mul_two_pow_add_mod a (scramble_lt hist x)]
  refine Nat.eq_of_testBit_eq (fun i => ?_)
  simp only [Nat.testBit_xor, Nat.testBit_mod_two_pow, Nat.testBit_div_two_pow]
  by_cases inside : i < 5264
  · simp only [inside, decide_true, Bool.true_and, testBit_scramble hist x inside, xor_xor_cancel]
  · simp only [inside, decide_false, Bool.false_and, testBit_of_lt_of_le hx (not_lt.mp inside),
      testBit_of_lt_of_le (scramble_lt hist x) (not_lt.mp inside), Bool.xor_false]

end Sys2Proof.Machine
end

section
/-! PROOFS. The header and chunk of a codeword (11_serial_lanes.md R422): the receiver reads the fields that were sent. -/

-- One declaration at a time: the package is compiled as one text, and a thread for each would not fit.
set_option Elab.async false

namespace Sys2Proof.Machine

/-! ### Bytes in network order -/

theorem ofBe_append_singleton (l : List Byte) (b : Byte) : ofBe (l ++ [b]) = ofBe l * 256 + b.toNat := by
  simp [ofBe]

theorem ofBe_lt (l : List Byte) : ofBe l < 2 ^ (8 * l.length) := by
  induction l using List.reverseRecOn with
  | nil => decide
  | append_singleton l b ih =>
    rw [ofBe_append_singleton, List.length_append, List.length_singleton, Nat.mul_succ]
    exact mul_two_pow_add_lt ih b.isLt

theorem beBytes_ofBe (l : List Byte) : beBytes l.length (ofBe l) = l := by
  induction l using List.reverseRecOn with
  | nil => rfl
  | append_singleton l b ih =>
    have byte := b.isLt
    have last : BitVec.ofNat 8 (ofBe l * 256 + b.toNat) = b := BitVec.eq_of_toNat_eq (by rw [BitVec.toNat_ofNat]; omega)
    have before : (ofBe l * 256 + b.toNat) / 256 = ofBe l := by omega
    rw [ofBe_append_singleton, List.length_append, List.length_singleton, beBytes, leBytes, List.reverse_cons, last, before]
    exact congrArg (· ++ [b]) ih

theorem beAt_whole {l : List Byte} {n : Nat} (length : l.length = n) : beAt l 0 n = ofBe l := by
  subst length
  simp [beAt, slice]

theorem beAt_chunk_lt {chunk : List Byte} (length : chunk.length = 644) : beAt chunk 0 644 < 2 ^ 5152 := by
  simpa only [beAt_whole length, length, Nat.reduceMul] using ofBe_lt chunk

/-! ### Ends of frames -/

/-- The ends of frames as the header holds them below bit `top`, ten bits each, the first one highest (R422). -/
def packEnds : Nat → List Nat → Nat
  | _, [] => 0
  | top, e :: ends => e * 2 ^ (top - 10) + packEnds (top - 10) ends

theorem sum_eq_packEnds (top : Nat) (ends : List Nat) :
    ((List.range ends.length).map (fun i => nth ends i * 2 ^ (top - 10 * (i + 1)))).sum = packEnds top ends := by
  induction ends generalizing top with
  | nil => rfl
  | cons e ends ih =>
    have later : (List.range ends.length).map (fun i => nth (e :: ends) (i + 1) * 2 ^ (top - 10 * (i + 1 + 1))) =
        (List.range ends.length).map (fun i => nth ends i * 2 ^ (top - 10 - 10 * (i + 1))) :=
      List.map_congr_left (fun i _ => by
        rw [show top - 10 * (i + 1 + 1) = top - 10 - 10 * (i + 1) by omega]
        rfl)
    rw [List.length_cons, List.range_succ_eq_map, List.map_cons, List.map_map, List.sum_cons, packEnds, ← ih, ← later]
    rfl

theorem packEnds_lt {top : Nat} {ends : List Nat} (room : 10 * ends.length ≤ top) (small : ∀ e ∈ ends, e < 1024) :
    packEnds top ends < 2 ^ top := by
  induction ends generalizing top with
  | nil => exact Nat.two_pow_pos top
  | cons e ends ih =>
    rw [List.length_cons] at room
    have rest := ih (top := top - 10) (by omega) (fun x m => small x (List.mem_cons_of_mem _ m))
    have all := mul_two_pow_add_lt (m := 10) (small e List.mem_cons_self) rest
    rwa [Nat.add_sub_cancel' (by omega)] at all

theorem bitsOf_packEnds {top : Nat} {ends : List Nat} (room : 10 * ends.length ≤ top) (small : ∀ e ∈ ends, e < 1024)
    {i : Nat} (h : i < ends.length) : bitsOf (packEnds top ends) (top - 10 * (i + 1)) 10 = ends[i] := by
  induction ends generalizing top i with
  | nil => exact absurd h (Nat.not_lt_zero i)
  | cons e ends ih =>
    rw [List.length_cons] at room h
    have others : ∀ x ∈ ends, x < 1024 := fun x m => small x (List.mem_cons_of_mem _ m)
    cases i with
    | zero =>
      have rest := packEnds_lt (top := top - 10) (by omega) others
      rw [packEnds, Nat.zero_add, Nat.mul_one, bitsOf_mul_two_pow_add_of_le _ rest le_rfl, Nat.sub_self]
      simpa [bitsOf] using Nat.mod_eq_of_lt (small e List.mem_cons_self)
    | succ i =>
      rw [packEnds, bitsOf_mul_two_pow_add_of_add_le _ _ (by omega),
        show top - 10 * (i + 1 + 1) = top - 10 - 10 * (i + 1) by omega]
      exact ih (by omega) others (by omega)

/-! ### The header -/

/-- The fields above the ends' 85 bits, as one number. -/
theorem rlHeader_eq (lane seq st first : Nat) (ends : List Nat) : rlHeader lane seq st first ends =
    (lane % 8 * 2 ^ 24 + seq % 256 * 2 ^ 16 + st % 4 * 2 ^ 14 + first % 1024 * 2 ^ 4 + ends.length) * 2 ^ 85 +
      packEnds 85 ends := by
  have terms : (fun i => nth ends i * 2 ^ (75 - 10 * i)) = fun i => nth ends i * 2 ^ (85 - 10 * (i + 1)) := by
    funext i
    rw [show 85 - 10 * (i + 1) = 75 - 10 * i by omega]
  unfold rlHeader
  rw [sumNat_eq_sum, terms, sum_eq_packEnds]
  ring

section
variable {lane seq st first : Nat} {ends : List Nat}

theorem rlHeader_fields (hl : lane < 8) (hq : seq < 256) (hs : st < 4) (hf : first < 1024) (few : ends.length ≤ 8)
    (small : ∀ e ∈ ends, e < 1024) :
    bitsOf (rlHeader lane seq st first ends) 109 3 = lane ∧ bitsOf (rlHeader lane seq st first ends) 101 8 = seq ∧
      bitsOf (rlHeader lane seq st first ends) 99 2 = st ∧ bitsOf (rlHeader lane seq st first ends) 89 10 = first ∧
      bitsOf (rlHeader lane seq st first ends) 85 4 = ends.length := by
  have low : packEnds 85 ends < 2 ^ 85 := packEnds_lt (by omega) small
  simp only [rlHeader_eq, bitsOf_mul_two_pow_add_of_le _ low (Nat.le_refl 85),
    bitsOf_mul_two_pow_add_of_le _ low (by decide : 85 ≤ 89), bitsOf_mul_two_pow_add_of_le _ low (by decide : 85 ≤ 99),
    bitsOf_mul_two_pow_add_of_le _ low (by decide : 85 ≤ 101), bitsOf_mul_two_pow_add_of_le _ low (by decide : 85 ≤ 109)]
  unfold bitsOf
  omega

theorem rlHeader_ends (few : ends.length ≤ 8) (small : ∀ e ∈ ends, e < 1024) :
    (List.range ends.length).map (fun i => bitsOf (rlHeader lane seq st first ends) (75 - 10 * i) 10) = ends := by
  refine List.ext_getElem (by simp) (fun i _ h => ?_)
  rw [List.getElem_map, List.getElem_range, rlHeader_eq, bitsOf_mul_two_pow_add_of_add_le _ _ (by omega),
    show 75 - 10 * i = 85 - 10 * (i + 1) by omega]
  exact bitsOf_packEnds (by omega) small h

theorem rlWord_rlHeader {chunk : List Byte} (hl : lane < 8) (hq : seq < 256) (hs : st < 4) (hf : first < 1024)
    (few : ends.length ≤ 8) (small : ∀ e ∈ ends, e < 1024) (rising : ascending ends = true)
    (length : chunk.length = 644) :
    rlWord (rlHeader lane seq st first ends * 2 ^ 5152 + beAt chunk 0 644) =
      ⟨lane, seq, st, first, ends, true, chunk⟩ := by
  obtain ⟨laneRead, seqRead, stRead, firstRead, count⟩ := rlHeader_fields hl hq hs hf few small
  have bytes := beAt_chunk_lt length
  have sent : beBytes 644 (beAt chunk 0 644) = chunk := by rw [beAt_whole length, ← length, beBytes_ofBe]
  unfold rlWord
  simp only [mul_two_pow_add_div _ bytes, mul_two_pow_add_mod _ bytes, laneRead, seqRead, stRead, firstRead, count,
    Nat.min_eq_left few, rlHeader_ends few small, rising, sent, few, decide_true, Bool.and_self]

end

end Sys2Proof.Machine
end

section
/-! PROOFS. Codewords sent and read back (11_serial_lanes.md R421-R423, R425), O60. -/

-- One declaration at a time: the package is compiled as one text, and a thread for each would not fit.
set_option Elab.async false

namespace Sys2Proof.Machine

section
variable (hist h : Nat) (chunk : List Byte)

/-- The header's lower 112 bits and the chunk as one number. -/
def rlPlain : Nat := h * 2 ^ 5152 + beAt chunk 0 644

/-- The first 528 symbols of a codeword as one number: the sync field and the scrambled bits. -/
def rlBits : Nat := 0xD2B4 * 2 ^ 5264 + scramble hist (rlPlain h chunk)

/-- The symbols of a codeword's message. -/
def rlMessage : List Nat := (List.range 528).map (fun i => rlBits hist h chunk / 1024 ^ (528 - 1 - i) % 1024)

theorem rlCodeword_eq : rlCodeword hist h chunk =
    (rlMessage hist h chunk ++ rsParity (rlMessage hist h chunk), scramble hist (rlPlain h chunk) % 2 ^ 58) := rfl

theorem length_rlMessage : (rlMessage hist h chunk).length = 528 := by simp [rlMessage]

theorem rlMessage_lt {x : Nat} (m : x ∈ rlMessage hist h chunk) : x < 1024 := by
  obtain ⟨i, -, rfl⟩ := List.mem_map.mp m
  exact Nat.mod_lt _ (by decide)

theorem rlBits_lt : rlBits hist h chunk < 1024 ^ 528 := by
  have all : rlBits hist h chunk < 2 ^ (16 + 5264) :=
    mul_two_pow_add_lt (by decide) (scramble_lt hist (rlPlain h chunk))
  rwa [show 16 + 5264 = 10 * 528 from rfl, pow_mul, show 2 ^ 10 = 1024 from rfl] at all

theorem codewordBits_rlCodeword : codewordBits (rlCodeword hist h chunk).1 = rlBits hist h chunk := by
  unfold codewordBits
  rw [rlCodeword_eq, List.take_left' (length_rlMessage hist h chunk), rlMessage, foldl_digits,
    Nat.mod_eq_of_lt (rlBits_lt hist h chunk)]

theorem length_rlCodeword : (rlCodeword hist h chunk).1.length = 544 := by
  have parity := (sixteenSymbols_rsParity (fun x => rlMessage_lt hist h chunk (x := x))).1
  rw [rlCodeword_eq, List.length_append, length_rlMessage, parity]

theorem rlCodeword_lt {x : Nat} (m : x ∈ (rlCodeword hist h chunk).1) : x < 1024 := by
  rw [rlCodeword_eq] at m
  rcases List.mem_append.mp m with message | parity
  · exact rlMessage_lt hist h chunk message
  · exact (sixteenSymbols_rsParity (fun x => rlMessage_lt hist h chunk (x := x))).2 x parity

theorem syncOf_rlBits : syncOf (rlBits hist h chunk) = 0xD2B4 := by
  rw [syncOf, rlBits, bitsOf_mul_two_pow_add_of_le _ (scramble_lt _ _) le_rfl, Nat.sub_self]
  rfl

/-- The receiver's last 58 bits are the transmitter's. -/
theorem rlBits_mod : rlBits hist h chunk % 2 ^ 58 = scramble hist (rlPlain h chunk) % 2 ^ 58 := by
  rw [rlBits, show 5264 = 58 + 5206 from rfl, pow_add, Nat.mul_left_comm, Nat.mul_add_mod]

theorem rlPlain_lt {h : Nat} {chunk : List Byte} (hh : h < 2 ^ 112) (length : chunk.length = 644) :
    rlPlain h chunk < 2 ^ 5264 := by
  simpa only [rlPlain, Nat.reduceAdd] using mul_two_pow_add_lt hh (beAt_chunk_lt length)

end

/-- Settles O60: stuffing and scrambling are undone by the same counts and taps, and the rest is digits of one number. -/
theorem codewordsReadBackFromTheLine : Obligations.CodewordsReadBackFromTheLine := by
  unfold Obligations.CodewordsReadBackFromTheLine
  refine ⟨fun nrz w => lineCodeword_codewordLine nrz, fun nrz w => length_codewordLine_le nrz, ?_, ?_⟩
  · intro hist h chunk _ header length
    rw [codewordBits_rlCodeword]
    exact ⟨length_rlCodeword hist h chunk, fun x => rlCodeword_lt hist h chunk, syncOf_rlBits hist h chunk,
      rlBits_mod hist h chunk, descramble_scramble hist _ (rlPlain_lt header length)⟩
  · intro lane seq st first ends chunk hl hq hs hf few small rising length
    exact rlWord_rlHeader hl hq hs hf few small rising length

end Sys2Proof.Machine
end

section
/-! PROOFS. Ports that go down (11_serial_lanes.md R419, R420): the flush of a link that loses signal discards a copy that
carries a performance event of a block that is none of the device's. -/

-- One declaration at a time: the package is compiled as one text, and a thread for each would not fit.
set_option Elab.async false

namespace Sys2Proof.Machine

/-- A block whose first counter would be LANE_STATUS of lane 41, and its event selection PORT_TX0 of lane 40. `State.Inv`
does not bound the block of a note. -/
def signalBlock : Nat := LANE_STATUS.regOff 41 - 0xFC0

theorem signalBlock_registers :
    PERF_CNT.regOff signalBlock 0 = LANE_STATUS.regOff 41 ∧ PERF_SEL.regOff signalBlock 0 = PORT_TX0.regOff 40 := by decide

/-- A copy on its way to port 7 that has met one event of code 2 in `signalBlock`. -/
def signalCopy : Copy := { strayCopy with w := { strayCopy.w with notes := [⟨signalBlock, 2, {}, 1⟩] } }

/-- Port 7 is up on lanes 40 to 43, lane 41 has signal, and two frames sent select code 2 in `signalBlock`. -/
def signalState : State :=
  let s := State.reset.puts [(PORT_STATUS.state 40, 4), (LANE_STATUS.signal 41, 1), (PORT_TX0.tx_frames 40, 2)]
  { s with io := { s.io with records := [(7, some strayRecord)] }, pk := { s.pk with copies := [signalCopy] } }

theorem signalState_inv : signalState.Inv :=
  (Keep.plain (State.puts_keep (Keep.refl State.reset))).inv resetMeetsTheInvariant

theorem signalState_up : signalState.enabledRec 7 = some strayRecord ∧ signalState.portAt 41 = some strayRecord ∧
    signalState.get (PORT_STATUS.state 40) = 4 := by decide +kernel

/-- The link that goes down flushes the copy, whose event then counts at bit 0 of LANE_STATUS, its signal. -/
theorem signalState_signal_again : (signalState.lossOfSignal 41).get (LANE_STATUS.signal 41) = 1 := by decide +kernel

/-- Refutes O56: the invariant lets a copy carry events of any block, so what a port that goes down flushes can count in
the register that shows a lane's signal. After lane 41 lost its signal in `signalState` LANE_STATUS shows one. -/
theorem not_portsComeUpAndGoDown : ¬ Obligations.PortsComeUpAndGoDown := by
  unfold Obligations.PortsComeUpAndGoDown
  intro h
  obtain ⟨enabled, owner, up⟩ := signalState_up
  obtain ⟨-, -, -, -, -, -, -, loss, -⟩ := h signalState 7 strayRecord signalState_inv enabled rfl (by decide)
  obtain ⟨t, e, -, -, -, dark, -⟩ := loss 41 owner up
  have lost : signalState.lossOfSignal 41 = t := Host.Outcome.next.inj e
  have lit : t.get (LANE_STATUS.signal 41) = 1 := lost ▸ signalState_signal_again
  exact absurd (lit.symm.trans dark) (by decide)

end Sys2Proof.Machine
end

section
/-! PROOFS. Codewords without a sync field (11_serial_lanes.md R428): the flush of a link that fails discards a copy that
carries performance events of a block that is none of the device's. -/

-- One declaration at a time: the package is compiled as one text, and a thread for each would not fit.
set_option Elab.async false

namespace Sys2Proof.Machine

/-- A block whose first counter would be PORT_RX3 of lane 40, and its event selection PORT_ENABLE_STATUS of that lane.
`State.Inv` does not bound the block of a note. -/
def syncBlock : Nat := PORT_RX3.regOff 40 - 0xFC0

theorem syncBlock_registers :
    PERF_CNT.regOff syncBlock 0 = PORT_RX3.regOff 40 ∧ PERF_SEL.regOff syncBlock 0 = PORT_ENABLE_STATUS.regOff 40 := by
  decide

/-- A copy on its way to port 7 that has met as many events of code 3 in `syncBlock` as make its counter wrap. -/
def syncCopy : Copy := { strayCopy with w := { strayCopy.w with notes := [⟨syncBlock, 3, {}, 2 ^ 48⟩] } }

/-- Port 7 on lanes 40 to 43, a Ristlink port. -/
def ristlinkRecord : PortRec := { strayRecord with link := 2 }

/-- Port 7 is up and has lost sync once; lane 40 has missed the sync field three times, and an enable that was refused with
reason 0x203 selects code 3 in `syncBlock`. -/
def syncState : State :=
  let s := State.reset.puts [(PORT_STATUS.state 40, 4), (PORT_ENABLE_STATUS.reason 40, 0x203), (PORT_RX3.rl_sync_loss 40, 1)]
  { s with io := { s.io with records := [(7, some ristlinkRecord)], lanes := [(40, { miss := 3 })] }
           pk := { s.pk with copies := [syncCopy] } }

/-- Line symbols of the lowest level, as many as those of 544 symbols with their stuffing. -/
def zeroLine : List (Fin 4) := List.replicate 2762 0

theorem syncState_inv : syncState.Inv :=
  (Keep.plain (State.puts_keep (Keep.refl State.reset))).inv resetMeetsTheInvariant

theorem syncState_up : syncState.portAt 40 = some ristlinkRecord ∧ syncState.get (PORT_STATUS.state 40) = 4 ∧
    3 ≤ (syncState.lane 40).miss ∧ syncState.get (PORT_RX3.rl_sync_loss 40) = 1 := by decide +kernel

theorem zeroLine_no_sync : syncOf (codewordBits (lineCodeword (syncState.nrz ristlinkRecord)
    (polar (syncState.get (LANE_CFG.rx_invert 40) = 1) (syncState.nrz ristlinkRecord)
      (zeroLine.map (·.val))))) ≠ 0xD2B4 := by
  decide +kernel

/-- The link that fails flushes the copy, whose events make the counter wrap: its overflow bit is bit 0 of rl_sync_loss,
which was 2. -/
theorem syncState_sync_loss_three :
    (syncState.codewordIn 40 (zeroLine.map (·.val))).get (PORT_RX3.rl_sync_loss 40) = 3 := by
  decide +kernel

/-- Refutes O57: the invariant lets a copy carry events of any block, so what a link that fails flushes can count in the
register that counts the loss of sync. In `syncState` the fourth miss makes rl_sync_loss 3. -/
theorem not_lanesTrainAdaptReceiveAndTest : ¬ Obligations.LanesTrainAdaptReceiveAndTest := by
  unfold Obligations.LanesTrainAdaptReceiveAndTest
  intro h
  obtain ⟨owner, up, missed, one⟩ := syncState_up
  obtain ⟨-, -, -, -, receives, -⟩ := h syncState 40 ristlinkRecord syncState_inv owner (by decide)
  obtain ⟨fails, -⟩ := receives zeroLine _ rfl rfl
  obtain ⟨noSync, -⟩ := fails up
  obtain ⟨t, e, counted, -⟩ := noSync zeroLine_no_sync missed
  have ran : syncState.codewordIn 40 (zeroLine.map (·.val)) = t := Host.Outcome.next.inj e
  have asked : t.get (PORT_RX3.rl_sync_loss 40) = satAdd 16 1 1 := counted.trans (congrArg (satAdd 16 · 1) one)
  have three : t.get (PORT_RX3.rl_sync_loss 40) = 3 := ran ▸ syncState_sync_loss_three
  exact absurd (three.symm.trans asked) (by decide)

end Sys2Proof.Machine
end
